-- ==== Sys2Proof/Word.lean ====
section
/-! DEFINITION. The plain words of the package: bytes and the register widths. -/

namespace Sys2Proof

/-- The smallest addressable unit (R7). -/
abbrev Byte := BitVec 8

/-- A register of the register space (R466). -/
abbrev W64 := BitVec 64

/-- A free-running ring count (R16). -/
abbrev W32 := BitVec 32

/-- A descriptor, bits [2047:0] (R21). -/
abbrev Descriptor := BitVec 2048

end Sys2Proof
end

