-- ==== Sys2Proof/Syntax.lean ====
section
/-! DEFINITION. The commands the package takes, one constructor for each row of the operation and event table, and the
operand types they carry. An operand that names a unit is a `Fin` of the number of such units; an operand that carries what
the physical world did (a reading, a measured power, whether a code word could be corrected) is plain data. -/

namespace Sys2Proof

/-- Where a management request comes from (R447). -/
inductive Origin where
  | management | node | host
deriving DecidableEq, Repr

/-- What the symbol code says of one read of stored data (R241, R276). -/
inductive Ecc where
  | clean | corrected | uncorrectable
deriving DecidableEq, Repr

/-- Why a processor core's pair asks for a line (R234, R235, R238, R240, R261): a load or a store of a 64-byte sector, a fetch, the hints of Zicbop,
and `cbo.zero` of a sector. -/
inductive CoreReq where
  | load (sector : Fin 2)
  | store (sector : Fin 2)
  | fetch
  | hintRead (sector : Fin 2)
  | hintWrite (sector : Fin 2)
  | hintFetch
  | zero (sector : Fin 2)
deriving DecidableEq, Repr

/-- The cause of a cache's request (R237, R257): a demand access, a fill that is inserted as already old, or a processor core's access to a virtual
address (R267). -/
inductive ReqCause where
  | demand
  | old
  | core (k : Fin 96) (r : CoreReq) (va : BitVec 64)
deriving DecidableEq, Repr

/-- Who makes a request to a home: an agent, and the cause of its request. -/
structure Requester where
  agent : Fin 2048
  why : ReqCause
deriving DecidableEq, Repr

/-- Why a cache writes a line back (R240, R257): its eviction, or the block operations of Zicbom; `cbo.inval` is performed as a flush. -/
inductive WbReason where
  | evict | clean | flush
deriving DecidableEq, Repr

/-- The two presentation levels of a core (R371). -/
inductive IrqLevel where
  | s | m
deriving DecidableEq, Repr

/-- What wakes a sleeping core (R364). -/
inductive WakeCause where
  | presentation | timer | software | debug
deriving DecidableEq, Repr

/-- The timers of a core (R364, R380). -/
inductive CoreTimer where
  | mtimecmp | stimecmp | vstimecmp
deriving DecidableEq, Repr

/-- The events that detach the front-end host (R357). -/
inductive DetachCause where
  | dlDown | hotReset | functionReset | busMasterCleared
deriving DecidableEq, Repr

/-- The monitored reference clocks (R520, R521). -/
inductive RefClock where
  | link0 | link1 | pe0 | pe1 | ao25
deriving DecidableEq, Repr

/-- The dies whose coherence controllers send Heartbeats (R264): compute stacks and processor dies. -/
inductive DieName where
  | cs (n : Fin 8) | pd (m : Fin 2)
deriving DecidableEq, Repr

/-- A Heartbeat as a home receives it: the die and its live agents, or the die with every agent parked (R264, R365). -/
structure HeartbeatMsg where
  die : DieName
  live : List Nat
  parked : Bool
deriving DecidableEq, Repr

/-- What was measured of one signature over the ending layer: percent of its array time the array and the five levels
(base SRAM, DRAM, mesh, end links, hub links) were busy, and its array time per operation in ns (R83, R85). -/
structure SigMeasure where
  entry : Nat
  arrayPct : Nat
  levels : List Nat
  perOpNs : Nat
deriving DecidableEq, Repr

/-- What is measured at a latch point: array time since the last charge (R42), the busy fractions (R83), the power outside all
partitions over the last 1 ms, the predicted power of the partition at the 17 grid points from 400 MHz up (R397), and the
average input power since the previous Eve (R399). -/
structure LatchMeasure where
  arrayNs : Nat
  sigs : List SigMeasure
  othersW : Nat
  predictW : List Nat
  runAvgW : Nat
deriving DecidableEq, Repr

/-- The privilege modes of a processor core (R360). -/
inductive CoreMode where
  | m | hs | vs | u | vu
deriving DecidableEq, Repr

/-- An access of a core's own instructions to one of its timer, interrupt and counter registers, by CSR number: a read, or a write of a value (R362,
R364, R494). -/
structure CsrAccess where
  core : Fin 96
  csr : Nat
  mode : CoreMode
  write : Option (BitVec 64)
deriving DecidableEq, Repr

/-- What is measured at a tick boundary for the two processor dies: the power of every other domain and the predicted power at
the 25 grid points from 800 MHz up (R397), and for each partition what a latch point measures, where the tick is one (R456). `csrs` are the accesses
of cores to those registers since the last boundary, in order, and `hpm` what counter 3 + i of a core counted since then (R494). -/
structure TickMeasure where
  othersW : List Nat
  predictW : List (List Nat)
  parts : List LatchMeasure
  csrs : List CsrAccess
  hpm : List (Fin 96 × Fin 8 × Nat)
deriving DecidableEq, Repr

/-- One access of a processor core, or of another agent, which `other` then names, to the register space (R466). -/
structure RegAccess where
  other : Option (Fin 2048)
  isRead : Bool
  offset : Nat
  size : Nat
  value : BitVec 64
deriving DecidableEq, Repr

/-- What a thread unit measured of a tagged instruction (R497). -/
structure SampleMeasure where
  waitCycles : Nat
  latency : Nat
  servedBy : Fin 8
  tlbMiss : Bool
  faultStalled : Bool
deriving DecidableEq, Repr

/-- A partial write of one line: byte offsets below 128 with their bytes (R255). -/
structure PartialWrite where
  bytes : List (Nat × Byte)
deriving DecidableEq, Repr

/-- A line as its holder hands it over (R243, R253): the bytes it has written by then, and what the symbol code says of the block. -/
structure HeldLine where
  w : PartialWrite
  ecc : Ecc
deriving DecidableEq, Repr

/-- A line as its cache writes it back, with the reason (R240, R243, R257). -/
structure WriteBack where
  w : PartialWrite
  ecc : Ecc
  why : WbReason
deriving DecidableEq, Repr

/-- The atomic operations of format A and of the guest ports (R190, R381). -/
inductive AtomOp where
  | add | smin | umin | smax | umax | and | or | xor | exch | cas | fadd
deriving DecidableEq, Repr

/-- An atomic performed at the home: offset in the line, 4 or 8 bytes, the operation and its operands (R262). -/
structure AtomicReq where
  offset : Nat
  size : Nat
  op : AtomOp
  operand : BitVec 64
  compare : BitVec 64
deriving DecidableEq, Repr

/-- One lane's measured eyes (R281). -/
structure LaneEye where
  rdSteps : Nat
  wrSteps : Nat
  rdMv : Nat
  wrMv : Nat
deriving DecidableEq, Repr

/-- A received flit: its link header and its 512 bytes, whether its code could be decoded, and the symbols corrected on each lane (R307, R308,
R310). -/
structure Flit where
  seq : BitVec 12
  ack : BitVec 12
  nak : Bool
  creditVc : Fin 8
  credits : Fin 16
  crc : BitVec 32
  data : List Byte
  decoded : Bool
  corrected : List Nat
deriving DecidableEq, Repr

/-- A time flit: the sender's transmit timestamp, and when it last received one, none before the first (R339). -/
structure TimeFlit where
  sentAt : Nat
  lastRx : Option Nat
deriving DecidableEq, Repr

/-- A message of an IEEE 1588 master (R338), by sequence number, with its time in nanoseconds and its correction taken in: a one-step Sync carries its
origin time, a two-step one has it in the Follow_Up; a Delay_Resp carries when the request came. -/
inductive PtpMessage where
  | sync (seq : Nat) (origin : Option Nat)
  | followUp (seq origin : Nat)
  | delayResp (seq receivedAt : Nat)
deriving DecidableEq, Repr

/-- How a port's training ended: whether the rates agreed, the lanes that trained, and the identifier the partner
exchanged (R305, R502). -/
structure PortTraining where
  rateOk : Bool
  lanes : List Bool
  partnerId : BitVec 20
deriving DecidableEq, Repr

/-- A fabric packet: the header of R317 and its payload; `crcOk` is what the end-to-end check found (R318). -/
structure Packet where
  type : Nat
  vcLevel : Fin 4
  cls : Bool
  destId : BitVec 20
  srcId : BitVec 20
  destContext : Fin 4096
  srcContext : Fin 4096
  e2eSeq : BitVec 32
  addr : BitVec 64
  aux : BitVec 32
  payload : List Byte
  crcOk : Bool
deriving DecidableEq, Repr

/-- A request of a guest die or of a PE1 endpoint (R381, R386, R390). -/
inductive BusRequest where
  | read (addr : Nat) (len : Nat)
  | write (addr : Nat) (d : List Byte)
  | atomic (addr : Nat) (size : Nat) (op : AtomOp) (operand compare : BitVec 64)
  | malformed (addr : Nat)
deriving DecidableEq, Repr

/-- How one step of a guest's bring-up ended (R382). -/
structure BringupResult where
  ok : Bool
  barBase : Nat
  barBytes : Nat
  rootDigest : BitVec 384
  signed : Bool
  measurements : List Byte
deriving DecidableEq, Repr

/-- An access through a PE1 configuration window; `response` is what the port's hierarchy answers, none for Unsupported Request
or no completion (R481). -/
structure ConfigAcc where
  offset : Nat
  size : Nat
  isWrite : Bool
  value : BitVec 32
  response : Option (BitVec 32)
deriving DecidableEq, Repr

/-- The condition behind a trip: its cause code, the die or stack, and the reading (R404). -/
structure TripReading where
  cause : Fin 6
  die : Nat
  reading : Nat
deriving DecidableEq, Repr

/-- What used a unit's share of the input energy (R406): a context that used the unit, a context whose work a hub did, the idle and leakage of the stacks of
a partition, or what belongs to none. -/
inductive EnergyUse where
  | used (c : Fin 4096)
  | hubWork (c : Fin 4096)
  | idleOf (p : Fin 8)
  | package
deriving DecidableEq, Repr

/-- The averages of input power behind the cap check, in W (R401): over 10 ms, from the start of the first idle inserted under the present cap, and over
the last 1,000 ms. -/
structure CapAverages where
  last10ms : Nat
  sinceIdle : Nat
  last1000ms : Nat
deriving DecidableEq, Repr

/-- The input energy of one 10 µs interval in mJ, and each unit's share of it by its use (R406). -/
structure EnergyShares where
  totalMj : Nat
  shares : List (EnergyUse × Nat)
deriving DecidableEq, Repr

/-- The units that power gating names (R408). -/
inductive GateUnit where
  | tile (p : Fin 8)
  | threadUnit (u : Fin 512)
  | streamUnit (u : Fin 128)
  | stack (n : Fin 8)
  | sramWays (n : Fin 8)
  | dram (s : Fin 16)
  | collective
  | pcie (x : Fin 2)
  | guestSite (g : Fin 2)
  | linkPort (p : Fin 16)
deriving DecidableEq, Repr

/-- What the shadow millisecond of a window found: the comparison agreed, or it did not and the known-answer tests of the
shadowed tile and its checker passed or failed, and whether the recomputed rows agreed and whose first value differed (R413). -/
structure SentinelResult where
  match_ : Bool
  shadowPass : Bool
  checkerPass : Bool
  recomputeAgree : Bool
  shadowDiffered : Bool
  idle : Bool
deriving DecidableEq, Repr

/-- The units compared in lockstep (R411, R417). -/
inductive FaultUnit where
  | sequencer (n : Fin 8)
  | streamUnit (u : Fin 128)
  | home (n : Fin 8)
  | hubSwitch (h : Fin 2)
  | firewall (g : Fin 2)
  | irqSlice (m : Fin 2)
  | safetyMonitor
deriving DecidableEq, Repr

/-- What a diagnostic of R411 without an event row of its own detects, and lockstep pairs among them: a residue error with what its repeat found
(R415), a parity error in clean data (R242), a symbol-code error of an array that can hold dirty data (R241, R243) or of memory whose next access meets it
(R277), a CRC retry on a lane of a bridge or bond (by 256 × link and direction + lane), and paired temperature sensors that disagree. -/
inductive Detection where
  | lockstep (u : FaultUnit)
  | residueTile (n : Fin 8) (tile : Fin 9) (again : Option SentinelResult)
  | residueThreadUnit (u : Fin 512) (again : Bool)
  | residueFragment (u : Fin 512) (again : Bool)
  | residueStreamUnit (u : Fin 128)
  | residueCore (k : Fin 96) (again : Bool)
  | residueCollective (hub : Fin 2) (again : Bool)
  | parityWeight (n : Fin 8) (tile : Fin 9)
  | parityHamper (n : Fin 8) (ln : Nat)
  | parityCore (k : Fin 96) (fetch : Bool) (ln : Nat)
  | cacheBlock (a : Fin 2048) (ln : Nat) (uncorrectable : Bool)
  | memoryBlock (ln : Nat)
  | directoryRow (home : Fin 8) (row : Nat) (ln : Nat) (uncorrectable : Bool)
  | unitStore (g : Nat) (uncorrectable : Bool)
  | bridgeRetry (die : Fin 20) (lane : Nat)
  | sensors (die : Fin 36)
  | clock (die : Fin 36)
deriving DecidableEq, Repr

/-- Where background scrubbing reads a line (R421): in its row or way of stacked DRAM or near memory, in a cache, or in a row of the directory or tag
SRAM of a base die. -/
inductive ScrubPlace where
  | memory (row : Nat)
  | cache (a : Fin 2048)
  | directory (home : Fin 8) (row : Nat)
deriving DecidableEq, Repr

/-- A management message: the header of R449 and its data. -/
structure UleelMsg where
  version : BitVec 8
  op : BitVec 8
  transaction : BitVec 16
  index : BitVec 16
  sub : BitVec 8
  flags : BitVec 8
  offset : BitVec 32
  length : BitVec 16
  reserved : BitVec 16
  status : BitVec 32
  data : List Byte
deriving DecidableEq, Repr

/-- How power-up self-test ended: the units that failed (fence entries), the stacks that failed training entirely and the
margining results (R426, R499). -/
structure BootResult where
  failed : List (BitVec 64)
  deadStacks : List (Fin 16)
  eyes : List (Fin 16 × List LaneEye)
deriving DecidableEq, Repr

/-- What a host read names (R342, R343): a context's page of Window A or Window B, or BAR4. -/
inductive HostPage where
  | a (c : Fin 4096)
  | b (c : Fin 4096)
  | bar4
deriving DecidableEq, Repr

/-- What a PCI Express port trained to (R342, R388): generation and width, and behind a CXL root port the expander's capacity. -/
structure PcieLink where
  generation : Nat
  width : Nat
  capacityBytes : Nat
deriving DecidableEq, Repr

/-- What an inbound RDMA request asks (R477). -/
inductive RdmaRequest where
  | write (addr : Nat) (rkey : BitVec 32) (d : List Byte)
  | read (addr : Nat) (rkey : BitVec 32) (len : Nat)
  | send (d : List Byte)
deriving DecidableEq, Repr

/-- An inbound RDMA request with all its packets: the sequence number of the first, and whether one was ECN-marked (R306). -/
structure RdmaInbound where
  psn : BitVec 24
  marked : Bool
  req : RdmaRequest
deriving DecidableEq, Repr

/-- How a send-queue entry ends (R478), and the frames that act on what a port sends (R306): a congestion notification, and a priority paused or
released. -/
inductive RdmaResult where
  | ack
  | readData (d : List Byte)
  | remoteError
  | retryExceeded
  | congestion
  | pause (prio : Fin 8) (on : Bool)
deriving DecidableEq, Repr

/-- The commands, one constructor for each row of the operation and event table. -/
inductive Instr where
  /-- `MATMUL` (R64). Takes a MATMUL descriptor and computes D = epilogue(A·B) in the canonical reduction order. -/
  | matmul (p : Fin 8)
  /-- `BATCHED_MATMUL` (R71). Takes a BATCHED_MATMUL descriptor and runs BATCH strided products. -/
  | batchedMatmul (p : Fin 8)
  /-- `RAGGED_MATMUL` (R72). Takes a RAGGED_MATMUL descriptor and multiplies the unpadded row sequences of its sequence table. -/
  | raggedMatmul (p : Fin 8)
  /-- `ATTENTION` (R74). Takes an ATTENTION descriptor and computes fused attention per head and sequence. -/
  | attention (p : Fin 8)
  /-- `UPDATE` (R121). Takes an UPDATE descriptor and applies one SGD, AdamW or Lion step to master weights and state. -/
  | update (p : Fin 8)
  /-- `CONVERT` (R114). Takes a CONVERT descriptor and rounds each scaled source element once into the destination format. -/
  | convert (p : Fin 8)
  /-- `ELEMENTWISE` (R161). Takes an ELEMENTWISE descriptor and runs its lane program once per element of streamed tensors. -/
  | elementwise (p : Fin 8)
  /-- `KERNEL` (R159). Takes a KERNEL descriptor, checks its lane code and launches its blocks on thread units. -/
  | kernel (p : Fin 8)
  /-- `STREAM` (R206). Takes a STREAM descriptor and starts its instances on SU_12 to SU_15 once they are idle. -/
  | stream (p : Fin 8)
  /-- `COLLECTIVE` (R324). Takes a COLLECTIVE descriptor, arrives, and runs the exchange with its member table. -/
  | collective (p : Fin 8)
  /-- `COPY` (R24). Takes a COPY descriptor and copies bytes, or issues an egress batch when EGRESS is set. -/
  | copy (p : Fin 8)
  /-- `ZERO` (R24). Takes a ZERO descriptor and clears its range by zero-line allocation and read-modify-write. -/
  | zero (p : Fin 8)
  /-- `FENCE` (R26). Takes a FENCE descriptor, which completes when earlier writes are visible in the selected scopes. -/
  | fence (p : Fin 8)
  /-- `EVE` (R33). Takes an EVE descriptor and begins draining the partition. -/
  | eve (p : Fin 8)
  /-- `WAIT` (R27). Takes a WAIT descriptor and compares a counter, parking or idling when the condition fails. -/
  | wait (p : Fin 8)
  /-- `SIGNAL` (R25). Takes a SIGNAL descriptor and atomically updates a counter after earlier operations complete. -/
  | signal (p : Fin 8)
  /-- `TIMESTAMP` (R25). Takes a TIMESTAMP descriptor and records device time and its operation index. -/
  | timestamp (p : Fin 8)
  /-- `ALMANAC_SAVE` (R142). Takes an ALMANAC_SAVE descriptor and writes an Almanac image with header and digest. -/
  | almanacSave (p : Fin 8)
  /-- `ALMANAC_LOAD` (R143). Takes an ALMANAC_LOAD descriptor, checks the image and replaces the region's slots. -/
  | almanacLoad (p : Fin 8)
  /-- `OPERATION_COMPLETION` (R19). Ends an operation that took time and writes its completion record in the next slot. -/
  | operationCompletion (c : Fin 4096)
  /-- `PENDING_RECORD_WRITE` (R17). Writes a completion record that waited for a free slot in the completion ring. -/
  | pendingRecordWrite (c : Fin 4096)
  /-- `DOORBELL` (R469). A node doorbell write advances a context's queue producer count. -/
  | doorbell (c : Fin 4096) (producer : BitVec 32)
  /-- `WAIT_REEVALUATE` (R27). Re-evaluates a pending WAIT when its counter line is written, invalidated or enters L. -/
  | waitReevaluate (c : Fin 4096)
  /-- `WAIT_TIMEOUT` (R27). DEADLINE_US elapses and the WAIT completes with 0x0413. -/
  | waitTimeout (c : Fin 4096)
  /-- `EVE_LATCH_POINT` (R33). The drain ends and the partition performs the steps after the latch point. -/
  | eveLatchPoint (p : Fin 8) (m : LatchMeasure)
  /-- `DUTY_CYCLE_IDLE_END` (R399). The inserted idle ends and the Eve completion record is written. -/
  | dutyCycleIdleEnd (p : Fin 8) (idleW : Nat)
  /-- `RELEASE_POINT` (R527). A partition drained after a halt or kill applies latch-point steps and chooses again. -/
  | releasePoint (p : Fin 8) (m : LatchMeasure)
  /-- `IDLE_PARTITION_CHOOSE` (R42). An idle partition chooses a context that became RUNNABLE with work. -/
  | idlePartitionChoose (p : Fin 8)
  /-- `EVE_OVERDUE` (R37). The Eve interval passes 50 ms and the notice 0x0C01 is posted. -/
  | eveOverdue (p : Fin 8)
  /-- `TICK_BOUNDARY` (R38). Device time reaches a multiple of 2^20 ns and held non-partition settings take effect. -/
  | tickBoundary (m : TickMeasure)
  /-- `LAYOUT_CHANGE` (R57). A new partition layout takes effect once every touched partition has latched. -/
  | layoutChange
  /-- `CREATE` (R471). Context command that creates a context bound to a partition. -/
  | create (b : Fin 128) (k : Fin 8)
  /-- `START` (R471). Context command, held until a latch point, that makes a context RUNNABLE. -/
  | start (b : Fin 128)
  /-- `STOP` (R471). Context command that stops a context at a boundary position. -/
  | stop (b : Fin 128)
  /-- `RESUME` (R471). Context command that makes a halted context RUNNABLE. -/
  | resume (b : Fin 128)
  /-- `KILL` (R14). Context command that kills a context at once and abandons its work. -/
  | kill (b : Fin 128)
  /-- `DESTROY` (R471). Context command that frees a stopped, halted or killed context. -/
  | destroy (b : Fin 128)
  /-- `REBIND` (R471). Context command that binds a context to another partition. -/
  | rebind (b : Fin 128) (k : Fin 8)
  /-- `COMPL_CONSUMED_WRITE` (R472). Advances the completion consumer count, freeing ring slots. -/
  | complConsumedWrite (c : Fin 4096) (v : BitVec 32)
  /-- `POLICY_BLOCK_COMMIT` (R118). Commits the staged numeric policy block or refuses it. -/
  | policyBlockCommit (b : Fin 128) (w : BitVec 64)
  /-- `TRANSLATION_BLOCK_COMMIT` (R299). Commits the staged translation block or refuses it. -/
  | translationBlockCommit (b : Fin 128) (w : BitVec 64)
  /-- `HOST_BLOCK_COMMIT` (R344). Commits the staged host block or refuses it. -/
  | hostBlockCommit (b : Fin 128) (w : BitVec 64)
  /-- `TRANSLATION_INVALIDATE` (R474). A write of INVAL_PAGES submits a translation invalidation held for the latch point. -/
  | translationInvalidate (b : Fin 128) (pages : BitVec 32)
  /-- `REGISTER_WRITE` (R466). A write to a register without behaviour of its own, including refused and error accesses. -/
  | registerWrite (r : RegAccess)
  /-- `SHL` (R180). Shifts A left. -/
  | shl (g : Nat)
  /-- `SHR` (R180). Shifts A right with zeros in. -/
  | shr (g : Nat)
  /-- `SAR` (R180). Shifts A right with the sign in. -/
  | sar (g : Nat)
  /-- `ROTL` (R180). Rotates A left. -/
  | rotl (g : Nat)
  /-- `AND` (R180). Bitwise and of A and B. -/
  | and (g : Nat)
  /-- `OR` (R180). Bitwise or of A and B. -/
  | or (g : Nat)
  /-- `XOR` (R180). Bitwise exclusive-or of A and B. -/
  | xor (g : Nat)
  /-- `LOP3` (R180). Three-input logic by truth table. -/
  | lop3 (g : Nat)
  /-- `IADD` (R181). Integer addition with wrap or saturation. -/
  | iadd (g : Nat)
  /-- `ISUB` (R181). Integer subtraction. -/
  | isub (g : Nat)
  /-- `IMUL` (R181). Integer multiplication. -/
  | imul (g : Nat)
  /-- `IMULHI_S` (R181). Upper half of the signed product. -/
  | imulhiS (g : Nat)
  /-- `IMAD` (R181). Integer multiply-add. -/
  | imad (g : Nat)
  /-- `SMIN` (R181). Signed minimum. -/
  | smin (g : Nat)
  /-- `UMIN` (R181). Unsigned minimum. -/
  | umin (g : Nat)
  /-- `SMAX` (R181). Signed maximum. -/
  | smax (g : Nat)
  /-- `UMAX` (R181). Unsigned maximum. -/
  | umax (g : Nat)
  /-- `IABS` (R181). Integer absolute value. -/
  | iabs (g : Nat)
  /-- `IDOT8` (R181). Eight INT8 multiply-accumulates into two INT32 elements. -/
  | idot8 (g : Nat)
  /-- `IMULHI_U` (R181). Upper half of the unsigned product. -/
  | imulhiU (g : Nat)
  /-- `FADD` (R182). Floating-point addition rounded once. -/
  | fadd (g : Nat)
  /-- `FMUL` (R182). Floating-point multiplication. -/
  | fmul (g : Nat)
  /-- `FFMA` (R182). Fused multiply-add with one rounding. -/
  | ffma (g : Nat)
  /-- `FMIN` (R182). Floating-point minimum. -/
  | fmin (g : Nat)
  /-- `FMAX` (R182). Floating-point maximum. -/
  | fmax (g : Nat)
  /-- `RCP` (R183). Contract approximation of the reciprocal. -/
  | rcp (g : Nat)
  /-- `RSQRT` (R183). Contract approximation of the reciprocal square root. -/
  | rsqrt (g : Nat)
  /-- `EXP2` (R183). Contract approximation of 2^A. -/
  | exp2 (g : Nat)
  /-- `LOG2` (R183). Contract approximation of log2 A. -/
  | log2 (g : Nat)
  /-- `MOV` (R184). Moves B, an immediate or a scalar into D. -/
  | mov (g : Nat)
  /-- `SEL` (R184). Selects A or B per thread by a predicate. -/
  | sel (g : Nat)
  /-- `ICMP_EQ` (R184). Integer equality compare into a predicate. -/
  | icmpEq (g : Nat)
  /-- `ICMP_NE` (R184). Integer inequality compare. -/
  | icmpNe (g : Nat)
  /-- `ICMP_SLT` (R184). Signed less-than compare. -/
  | icmpSlt (g : Nat)
  /-- `ICMP_SLE` (R184). Signed less-or-equal compare. -/
  | icmpSle (g : Nat)
  /-- `ICMP_ULT` (R184). Unsigned less-than compare. -/
  | icmpUlt (g : Nat)
  /-- `ICMP_ULE` (R184). Unsigned less-or-equal compare. -/
  | icmpUle (g : Nat)
  /-- `FCMP_EQ` (R184). Floating-point equality compare. -/
  | fcmpEq (g : Nat)
  /-- `FCMP_NE` (R184). Floating-point inequality compare. -/
  | fcmpNe (g : Nat)
  /-- `FCMP_LT` (R184). Floating-point less-than compare. -/
  | fcmpLt (g : Nat)
  /-- `FCMP_LE` (R184). Floating-point less-or-equal compare. -/
  | fcmpLe (g : Nat)
  /-- `CVT` (R187). Converts between plain formats with one rounding. -/
  | cvt (g : Nat)
  /-- `CVTX` (R188). Converts value×2^e to or from block-scaled element encodings. -/
  | cvtx (g : Nat)
  /-- `SCLX` (R189). Computes the block scale exponent the device would write. -/
  | sclx (g : Nat)
  /-- `LD` (R191). Loads from global or local space. -/
  | ld (g : Nat)
  /-- `ST` (R192). Stores to global or local space in ascending thread order. -/
  | st (g : Nat)
  /-- `ZERO_LINE` (R193). Allocates each named line zeroed in Modified state. -/
  | zeroLine (g : Nat)
  /-- `PREFETCH` (R193). Fills a line into L1 or the stack cache without stalling or faulting. -/
  | prefetch (g : Nat)
  /-- `MFENCE` (R194). Stops issue until the covered threads' writes are visible. -/
  | mfence (g : Nat)
  /-- `ATOM_ADD` (R192). Atomic integer add. -/
  | atomAdd (g : Nat)
  /-- `ATOM_SMIN` (R192). Atomic signed minimum. -/
  | atomSmin (g : Nat)
  /-- `ATOM_UMIN` (R192). Atomic unsigned minimum. -/
  | atomUmin (g : Nat)
  /-- `ATOM_SMAX` (R192). Atomic signed maximum. -/
  | atomSmax (g : Nat)
  /-- `ATOM_UMAX` (R192). Atomic unsigned maximum. -/
  | atomUmax (g : Nat)
  /-- `ATOM_AND` (R192). Atomic and. -/
  | atomAnd (g : Nat)
  /-- `ATOM_OR` (R192). Atomic or. -/
  | atomOr (g : Nat)
  /-- `ATOM_XOR` (R192). Atomic exclusive-or. -/
  | atomXor (g : Nat)
  /-- `ATOM_EXCH` (R192). Atomic exchange. -/
  | atomExch (g : Nat)
  /-- `ATOM_CAS` (R192). Atomic compare-and-swap. -/
  | atomCas (g : Nat)
  /-- `ATOM_FADD` (R192). Atomic floating-point add. -/
  | atomFadd (g : Nat)
  /-- `BRA` (R164). Conditional branch with divergence and reconvergence stack. -/
  | bra (g : Nat)
  /-- `JMP` (R196). Unconditional jump. -/
  | jmp (g : Nat)
  /-- `EXIT` (R196). Exits the covered active threads. -/
  | exit (g : Nat)
  /-- `BAR` (R167). Arrives at the block barrier. -/
  | bar (g : Nat)
  /-- `NOP` (R196). Does nothing. -/
  | nop (g : Nat)
  /-- `SALU_ADD` (R197). Scalar add. -/
  | saluAdd (g : Nat)
  /-- `SALU_SUB` (R197). Scalar subtract. -/
  | saluSub (g : Nat)
  /-- `SALU_MUL` (R197). Scalar multiply, low 64 bits. -/
  | saluMul (g : Nat)
  /-- `SALU_AND` (R197). Scalar and. -/
  | saluAnd (g : Nat)
  /-- `SALU_OR` (R197). Scalar or. -/
  | saluOr (g : Nat)
  /-- `SALU_XOR` (R197). Scalar exclusive-or. -/
  | saluXor (g : Nat)
  /-- `SALU_SHL` (R197). Scalar shift left. -/
  | saluShl (g : Nat)
  /-- `SALU_SHR` (R197). Scalar logical shift right. -/
  | saluShr (g : Nat)
  /-- `SALU_SAR` (R197). Scalar arithmetic shift right. -/
  | saluSar (g : Nat)
  /-- `SALU_MOV` (R197). Scalar move. -/
  | saluMov (g : Nat)
  /-- `MOVP` (R197). Copies a predicate to a scalar register. -/
  | movp (g : Nat)
  /-- `PMOV` (R197). Copies a scalar register to a predicate. -/
  | pmov (g : Nat)
  /-- `READLANE` (R197). Reads one thread's vector register into a scalar. -/
  | readlane (g : Nat)
  /-- `SCMP` (R197). Scalar compare writing a whole predicate. -/
  | scmp (g : Nat)
  /-- `MMA` (R165). Group matrix multiply-accumulate on 16×16 fragments. -/
  | mma (g : Nat)
  /-- `BARRIER_TIMEOUT` (R169). A barrier generation's deadline expires and the group fault 0x0702 is raised. -/
  | barrierTimeout (blk : Nat)
  /-- `BLOCK_PLACE` (R155). Places a launch block on a thread unit when it has room, zeroing its local store. -/
  | blockPlace (c : Fin 4096) (u : Fin 512)
  /-- `SAMPLE_RECORD_WRITE` (R497). Writes a sample record when a tagged instruction completes. -/
  | sampleRecordWrite (u : Fin 512) (m : SampleMeasure)
  /-- `XFER` (R208). Stream instruction that issues one burst from source to target. -/
  | xfer (i : Nat)
  /-- `GATHER` (R208). Stream instruction that reads an index and issues one burst from base + index×2^SHIFT. -/
  | gather (i : Nat)
  /-- `LOOP` (R211). Stream instruction that opens a counted loop. -/
  | loop (i : Nat)
  /-- `ADD` (R207). Stream instruction adding an immediate to an address register. -/
  | add (i : Nat)
  /-- `MADD` (R207). Stream instruction adding counter×immediate. -/
  | madd (i : Nat)
  /-- `WRAP` (R207). Stream instruction wrapping an address modulo a length. -/
  | wrap (i : Nat)
  /-- `SYNC` (R207). Stream instruction holding bursts until earlier ones commit. -/
  | sync (i : Nat)
  /-- `BURST_COMMIT` (R214). A burst's source bytes have all arrived and it commits whole to its target. -/
  | burstCommit (i : Nat)
  /-- `STREAM_STALL` (R220). A burst's stall count reaches the soft deadline and the notice is posted. -/
  | streamStall (i : Nat) (n : Nat)
  /-- `STREAM_STARVED` (R220). A burst's stall count reaches the hard deadline; the operation stops or the hamper program is cancelled. -/
  | streamStarved (i : Nat) (n : Nat)
  /-- `READ_SHARED` (R257). Home handles a ReadShared request. -/
  | readShared (q : Requester) (ln : Nat) (e : Ecc)
  /-- `READ_EXCLUSIVE` (R257). Home handles a ReadExclusive request. -/
  | readExclusive (q : Requester) (ln : Nat) (e : Ecc)
  /-- `UPGRADE` (R257). Home handles an Upgrade request. -/
  | upgrade (a : Fin 2048) (ln : Nat) (e : Ecc)
  /-- `OWN_NO_DATA` (R257). Home grants a full-line write, clearing L. -/
  | ownNoData (q : Requester) (ln : Nat)
  /-- `READ_ONCE` (R262). Home serves a non-caching read. -/
  | readOnce (a : Fin 2048) (ln : Nat) (e : Ecc)
  /-- `WRITE_LINE` (R262). Home performs a non-caching full-line write. -/
  | writeLine (a : Fin 2048) (ln : Nat) (d : List Byte)
  /-- `WRITE_PARTIAL` (R262). Home merges and writes a non-caching partial write. -/
  | writePartial (a : Fin 2048) (ln : Nat) (w : PartialWrite) (e : Ecc)
  /-- `ATOMIC_AT_HOME` (R262). Home performs a non-caching atomic on the merged line. -/
  | atomicAtHome (a : Fin 2048) (ln : Nat) (w : AtomicReq) (e : Ecc)
  /-- `FWD_SHARED` (R257). A holder answers FwdShared with Data and moves to S or O. -/
  | fwdShared (a : Fin 2048) (ln : Nat) (h : HeldLine)
  /-- `FWD_OWN` (R257). A holder answers FwdOwn with Data and goes to I. -/
  | fwdOwn (a : Fin 2048) (ln : Nat) (h : HeldLine)
  /-- `FWD_ONCE` (R262). A holder answers FwdOnce with DataOnce and keeps its state. -/
  | fwdOnce (a : Fin 2048) (ln : Nat) (h : HeldLine)
  /-- `FWD_RECALL` (R252). The owner returns its data and goes to I. -/
  | fwdRecall (a : Fin 2048) (ln : Nat) (h : HeldLine)
  /-- `INVAL` (R251). An agent invalidates its copy and acknowledges. -/
  | inval (a : Fin 2048) (ln : Nat)
  /-- `DATA` (R257). A requester receives line data and counts expected InvalAcks. -/
  | data (a : Fin 2048) (ln : Nat)
  /-- `DATA_ONCE` (R262). A non-caching requester receives line data. -/
  | dataOnce (a : Fin 2048) (ln : Nat)
  /-- `ACK` (R257). A requester receives a grant without data. -/
  | ack (a : Fin 2048) (ln : Nat)
  /-- `INVAL_ACK` (R257). A requester receives an invalidation acknowledgement. -/
  | invalAck (a : Fin 2048) (ln : Nat)
  /-- `NOT_HELD` (R257). Home serves the request from memory after a forward found no copy. -/
  | notHeld (a : Fin 2048) (ln : Nat) (e : Ecc)
  /-- `WB_ACK` (R258). A writer receives WbAck and releases its writeback buffer and held forwards. -/
  | wbAck (a : Fin 2048) (ln : Nat)
  /-- `WB_DIRTY` (R258). Home writes memory for an evicted dirty line. -/
  | wbDirty (a : Fin 2048) (ln : Nat) (x : WriteBack)
  /-- `DIRTY_NOTICE` (R259). Home applies the notice of a first store to an E line. -/
  | dirtyNotice (a : Fin 2048) (ln : Nat) (w : PartialWrite)
  /-- `HEARTBEAT` (R264). Home receives a die's Heartbeat naming its live or parked agents. -/
  | heartbeat (h : HeartbeatMsg)
  /-- `HEARTBEAT_LOSS` (R264). No Heartbeat for 1 ms; the die's caching agents are declared dead. -/
  | heartbeatLoss (d : DieName)
  /-- `DECLARE` (R265). Home receives Declare and begins reclaiming a dead agent's lines. -/
  | declare (a : Fin 2048) (fatal : Bool)
  /-- `RECLAIM_SWEEP` (R265). A home's background sweep of a dead agent's entries ends. -/
  | reclaimSweep (home : Fin 8) (a : Fin 2048)
  /-- `RECLAIM_REPORT` (R266). Writes the reclaim report when every home has finished its sweep. -/
  | reclaimReport (a : Fin 2048)
  /-- `DRAM_TEMP_READING` (R275). Reads each DRAM stack's sensor every 100 µs and sets its step. -/
  | dramTempReading (t : List (Nat × Nat))
  /-- `STACK_TEMP_READING` (R402). Reads the paired base-die sensors every 10 µs and sets the throttle ceiling. -/
  | stackTempReading (t : List (Nat × Nat))
  /-- `PSEUDO_CHANNEL_COPY_END` (R279). Copying a failed pseudo-channel to PC_64 ends. -/
  | pseudoChannelCopyEnd (d : Fin 16) (bad : List Nat)
  /-- `DRAM_MARGIN_REQUEST` (R282). A write of DramMarginRequest starts margining of the named stacks. -/
  | dramMarginRequest (o : Origin) (v : BitVec 16)
  /-- `MARGINING_DONE` (R281). Margining ends, lanes below limit are replaced and results written. -/
  | marginingDone (r : List (Fin 16 × List LaneEye))
  /-- `SCRUB_READ` (R421). Background scrubbing reads a line or a row and corrects or reports it. -/
  | scrubRead (t : ScrubPlace) (ln : Nat) (e : Ecc)
  /-- `BUCKET_LEAK` (R422). A leak period passes and a bucket level falls by 1. -/
  | bucketLeak (k : Nat)
  /-- `FAULT_RETRY` (R295). Resume register write with retry: replays the joined accesses. -/
  | faultRetry (ix : BitVec 32)
  /-- `FAULT_DECLINE` (R295). Resume register write with decline: the joined accesses fail. -/
  | faultDecline (ix : BitVec 32)
  /-- `FAULT_RECORD_WRITE` (R296). Writes a waiting fault record once the fault queue can take it. -/
  | faultRecordWrite
  /-- `FLIT_RECEIVE` (R308). A port decodes and checks a flit, accepting it or requesting a resend. -/
  | flitReceive (port : Fin 16) (f : Flit)
  /-- `RETRY_TIMEOUT` (R308). ACK does not advance for 20 µs and the sender resends. -/
  | retryTimeout (port : Fin 16)
  /-- `PORT_DOWN` (R311). A port goes down at once and leaves every route mask. -/
  | portDown (port : Fin 16)
  /-- `PORT_TRAINING_DONE` (R305). A port's training ends and it returns to service at the next tick. -/
  | portTrainingDone (port : Fin 16) (r : PortTraining)
  /-- `PACKET_FORWARD` (R314). A hub routes a packet to a port or delivers it locally. -/
  | packetForward (port : Fin 17) (cls : Bool) (level : Fin 4)
  /-- `REMOTE_WRITE` (R319). Receives a TYPE 0x1 packet and commits the burst when all parts arrive. -/
  | remoteWrite (pk : Packet)
  /-- `DELIVERY_ACK` (R318). Receives an end-to-end acknowledgement. -/
  | deliveryAck (pk : Packet)
  /-- `COLLECTIVE_DATA` (R329). Receives collective data and merges its pace record. -/
  | collectiveData (pk : Packet)
  /-- `PACE_BEACON` (R330). Receives a pace beacon and replies if not yet arrived. -/
  | paceBeacon (pk : Packet)
  /-- `LOSS_NOTICE` (R331). Receives a loss notice and ends the matching collective. -/
  | lossNotice (pk : Packet)
  /-- `PARADE_REQUEST` (R335). Receives a chunk request and serves the chunk to a child. -/
  | paradeRequest (pk : Packet)
  /-- `PARADE_DATA` (R335). Receives a chunk, writes and hashes it, and verifies at the last. -/
  | paradeData (pk : Packet)
  /-- `E2E_RESEND_TIMEOUT` (R318). A packet is unacknowledged for 200 µs and is resent or the destination becomes unreachable. -/
  | e2eResendTimeout (dest : Nat) (seq : BitVec 32)
  /-- `BEACON_TIMER` (R330). Sends pace beacons every 1 ms while waiting at a collective. -/
  | beaconTimer (c : Fin 4096)
  /-- `PEER_TIMEOUT` (R331). No packet from a partner for PeerTimeoutUs; the collective ends with PEER_LOST. -/
  | peerTimeout (c : Fin 4096) (rank : Nat)
  /-- `PARADE_PARENT_TIMEOUT` (R336). No chunk for 10 ms; the member turns to its backup parent. -/
  | paradeParentTimeout
  /-- `TIME_FLIT` (R339). Receives a time flit and updates the offset estimate. -/
  | timeFlit (port : Fin 16) (t : TimeFlit)
  /-- `PTP_MESSAGE` (R338). Receives an IEEE 1588 message on the management port. -/
  | ptpMessage (m : PtpMessage)
  /-- `TIME_SOURCE_LOST` (R340). The time source is lost; time holds over and TimeLocked clears. -/
  | timeSourceLost
  /-- `INGRESS_QUEUE_WRITE` (R345). A host write to the queue aperture lands in an operation queue entry. -/
  | ingressQueueWrite (c : Fin 4096) (off : Nat) (d : List Byte)
  /-- `INGRESS_DATA_WRITE` (R345). A host write to the data aperture lands in the ingress data ring. -/
  | ingressDataWrite (c : Fin 4096) (off : Nat) (d : List Byte)
  /-- `WINDOW_A_READ` (R343). A read of Window A returns all ones and is counted. -/
  | windowARead (p : HostPage) (off : Nat) (n : Nat)
  /-- `HOST_DOORBELL` (R350). A host doorbell is checked against epoch and counts, accepted or refused. -/
  | hostDoorbell (c : Fin 4096) (off : Nat) (d : List Byte)
  /-- `EGRESS_ACK` (R354). The host acknowledges egress batches, freeing hold space. -/
  | egressAck (c : Fin 4096) (off : Nat) (d : List Byte)
  /-- `EGRESS_REGISTRATION` (R355). A COMMIT write applies the egress registration and rewrites unconfirmed batches. -/
  | egressRegistration (c : Fin 4096) (off : Nat) (d : List Byte)
  /-- `INGRESS_INCOMPLETE` (R352). A doorbell has waited 100 µs on missing slots and the notice is posted. -/
  | ingressIncomplete (c : Fin 4096)
  /-- `INGRESS_EXPIRED` (R352). INGRESS_DEADLINE_US passes; waiting doorbells are discarded and the context halts. -/
  | ingressExpired (c : Fin 4096)
  /-- `EGRESS_BATCH_ISSUE` (R353). An egress batch that waited for room is held and written to the host. -/
  | egressBatchIssue (c : Fin 4096)
  /-- `EGRESS_READ_TIMEOUT` (R357). The zero-length read of a FENCE gets no completion within 50 ms. -/
  | egressReadTimeout (c : Fin 4096)
  /-- `HOST_DETACH` (R357). A PE0 link or reset event detaches the host and marks batches unconfirmed. -/
  | hostDetach (cause : DetachCause)
  /-- `MSIX_COALESCE_TIMEOUT` (R356). COAL_US passes and the egress MSI-X message is sent. -/
  | msixCoalesceTimeout (v : Fin 2048)
  /-- `INTERRUPT_EVENT` (R370). An event is counted on an interrupt source and may make it pending. -/
  | interruptEvent (n : Fin 8192)
  /-- `COALESCE_TIMEOUT` (R370). COAL_US elapses since the first counted event and the source becomes pending. -/
  | coalesceTimeout (n : Fin 8192)
  /-- `REROUTE_TIMEOUT` (R372). REROUTE_US passes without a claim and the source is routed again. -/
  | rerouteTimeout (n : Fin 8192)
  /-- `CLAIM` (R374). A CLAIM read takes the highest presented source into service. -/
  | claim (k : Fin 96) (lv : IrqLevel)
  /-- `COMPLETE` (R375). A COMPLETE write ends a source's service. -/
  | complete (k : Fin 96) (lv : IrqLevel) (v : BitVec 64)
  /-- `SET_PEND` (R379). A SET_PEND write counts one event on a source. -/
  | setPend (die : Fin 2) (v : BitVec 64)
  /-- `MASK_WRITE` (R368). Masks or unmasks a source at once. -/
  | maskWrite (n : Fin 8192) (v : BitVec 64)
  /-- `THRESHOLD_WRITE` (R371). Changes a core's threshold at once and routing follows. -/
  | thresholdWrite (k : Fin 96) (lv : IrqLevel) (v : BitVec 64)
  /-- `WFI` (R364). A core enters its sleep depth, and a die may enter die off. -/
  | wfi (k : Fin 96)
  /-- `CORE_WAKE` (R364). A sleeping core wakes on a presentation, timer, software interrupt or debug request. -/
  | coreWake (k : Fin 96) (cause : WakeCause)
  /-- `TIMER_COMPARE_REACHED` (R364). Device time reaches MTIMECMP, stimecmp or vstimecmp. -/
  | timerCompareReached (k : Fin 96) (which : CoreTimer)
  /-- `GUEST_REQUEST` (R386). The firewall checks a guest request against windows and tokens and passes it. -/
  | guestRequest (s : Fin 2) (q : BusRequest)
  /-- `GUEST_BRINGUP_STEP` (R382). A guest training or attestation step ends and GuestState moves on or fails. -/
  | guestBringupStep (s : Fin 2) (r : BringupResult)
  /-- `GUEST_ADMIT` (R384). Admission: the held guest becomes active at the next tick. -/
  | guestAdmit (o : Origin) (s : Fin 2)
  /-- `GUEST_RESET` (R384). GuestControl reset: cuts the guest off, retrains and re-attests. -/
  | guestReset (o : Origin) (s : Fin 2)
  /-- `PE1_DMA_REQUEST` (R390). Checks an endpoint DMA request against the PE1 DMA windows. -/
  | pe1DmaRequest (port : Fin 2) (requester : BitVec 16) (q : BusRequest)
  /-- `PE1_MESSAGE_WRITE` (R390). A 4-byte write to the message address counts an interrupt event. -/
  | pe1MessageWrite (port : Fin 2) (d : List Byte)
  /-- `CXL_LINK_DROP` (R389). An expander drops off its link and its range becomes unbacked. -/
  | cxlLinkDrop (port : Fin 2)
  /-- `CONFIG_ACCESS` (R481). A PE1 configuration window access reaches the port's configuration space. -/
  | configAccess (port : Fin 2) (a : ConfigAcc)
  /-- `POWER_BRAKE` (R401). Input power exceeds its limit and every domain drops to its lowest point. -/
  | powerBrake (avg1ms : Nat) (capAvg : CapAverages)
  /-- `GRACE_END` (R398). 50 ms after a lowered cap, GRACE clears. -/
  | graceEnd
  /-- `HARDWARE_TRIP` (R405). A trip condition gates every domain, drives PWR_TRIP_N and enters FAULT. -/
  | hardwareTrip (t : TripReading)
  /-- `ENERGY_ATTRIBUTION` (R406). Every 10 µs divides measured input energy among contexts. -/
  | energyAttribution (e : EnergyShares)
  /-- `UNIT_POWER_GATE` (R408). An idle unit's timer expires and it is power-gated. -/
  | unitPowerGate (u : GateUnit)
  /-- `UNIT_WAKE` (R408). A power-gated unit's wake latency ends and its waiting request proceeds. -/
  | unitWake (u : GateUnit) (failed : List Nat)
  /-- `SENTINEL_WINDOW` (R89). An 8 ms window begins and the sentinel shadows a logical tile. -/
  | sentinelWindow (cs : Fin 8) (w : Nat) (r : SentinelResult)
  /-- `LOCKSTEP_MISMATCH` (R411, R420). Lockstep pairs, or diagnostics with no row of their own, detect failures in one fabric cycle, and their units are
  contained. -/
  | lockstepMismatch (ds : List Detection)
  /-- `TRANSACTION_WATCHDOG` (R411). A transaction stays outstanding for 10 ms. -/
  | transactionWatchdog (d : Fin 36)
  /-- `CLOCK_MONITOR_FAULT` (R521). A reference clock leaves its limit or fails to qualify in time. -/
  | clockMonitorFault (k : RefClock)
  /-- `REFCLOCK_QUALIFIED` (R520). A reference stays within limit for 1 ms and the hub may train on it. -/
  | refclockQualified (k : RefClock)
  /-- `COUNTER_WRAP` (R487). A counter passes 2^48 − 1, wraps and sets OVERFLOW. -/
  | counterWrap (blk : Fin 28) (i : Fin 8) (v : Nat)
  /-- `FETCH_RESPONSE` (R432). The ROM receives a FETCH answer and checks and accepts the image. -/
  | fetchResponse (m : UleelMsg)
  /-- `FETCH_TIMEOUT` (R433). A source gives no answer for 2 s and the ROM changes source. -/
  | fetchTimeout
  /-- `FETCH_RETRY` (R433). 1 s after a refusal the ROM fetches again. -/
  | fetchRetry
  /-- `FENCE_RECORD_FETCH` (R500). Receives the fence record and fences the units it names. -/
  | fenceRecordFetch (m : UleelMsg)
  /-- `BOOT_COMPLETE` (R498). Power-up ends and the device enters READY or DEGRADED. -/
  | bootComplete (r : BootResult)
  /-- `GET_VERSION` (R435). SPDM request for versions. -/
  | getVersion
  /-- `GET_CAPABILITIES` (R435). SPDM request for capabilities. -/
  | getCapabilities
  /-- `NEGOTIATE_ALGORITHMS` (R435). SPDM algorithm negotiation. -/
  | negotiateAlgorithms (offersExt : Bool)
  /-- `GET_DIGESTS` (R435). SPDM request for certificate digests. -/
  | getDigests
  /-- `GET_CERTIFICATE` (R435). SPDM request for the slot 0 chain. -/
  | getCertificate (slot : Fin 8) (off : Nat) (len : Nat)
  /-- `CHALLENGE` (R435). SPDM challenge answered with a signed response. -/
  | challenge (slot : Fin 8) (nonce : BitVec 256)
  /-- `GET_MEASUREMENTS` (R437). SPDM request answered with signed measurement blocks. -/
  | getMeasurements (ix : Nat) (signed : Bool) (nonce : BitVec 256)
  /-- `DEBUG_TOKEN` (R441). A write of DebugToken is verified and accepted or refused. -/
  | debugToken (o : Origin) (d : List Byte)
  /-- `OWNER_DEBUG_KEY_HASH` (R443). Programs the owner debug key hash once. -/
  | ownerDebugKeyHash (o : Origin) (d : List Byte)
  /-- `READ` (R450). Uleel READ of a whole entry value. -/
  | read (o : Origin) (m : UleelMsg)
  /-- `WRITE` (R450). Uleel WRITE of a whole entry value, checked in abort-code order. -/
  | write (o : Origin) (m : UleelMsg)
  /-- `READ_SEGMENT` (R450). Uleel read of up to 1,024 bytes of a large BLOB. -/
  | readSegment (o : Origin) (m : UleelMsg)
  /-- `WRITE_SEGMENT` (R450). Uleel segment write; the LAST segment commits the value. -/
  | writeSegment (o : Origin) (m : UleelMsg)
  /-- `SEGMENT_SESSION_TIMEOUT` (R450). No segment for 1 s and the session is discarded. -/
  | segmentSessionTimeout
  /-- `NOTIFY_ACK` (R460). A subscriber acknowledges a notification. -/
  | notifyAck (sub : Fin 4) (tr : BitVec 16)
  /-- `NOTIFY_RESEND` (R460). An unacknowledged notification is resent every 100 ms or dropped. -/
  | notifyResend (sub : Fin 4) (tr : BitVec 16)
  /-- `HOST_ATTACH` (R358). Command that raises the epoch, clears DETACHED and sends vector 0. -/
  | hostAttach (o : Origin)
  /-- `QUIESCE` (R505). Command that enters DRAINING and starts quiesce drains. -/
  | quiesce (o : Origin)
  /-- `QUIESCE_N` (R517). QUIESCE_N held low 10 µs acts as Quiesce. -/
  | quiesceN (low : Bool)
  /-- `QUIESCE_DRAIN` (R505). A partition finishes its quiesce drain and applies latch-point steps. -/
  | quiesceDrain (p : Fin 8) (m : LatchMeasure)
  /-- `QUIESCE_DEADLINE` (R506). QuiesceDeadlineMs passes and the running context is killed. -/
  | quiesceDeadline (p : Fin 8)
  /-- `ENTER_QUIESCED` (R506). After all drains and write-back, the device enters QUIESCED and writes its report. -/
  | enterQuiesced
  /-- `RESUME_DEVICE` (R458). Command Resume that leaves QUIESCED for READY or DEGRADED. -/
  | resumeDevice (o : Origin)
  /-- `STANDBY` (R458). Command that power-gates all but the always-on domain. -/
  | standby (o : Origin)
  /-- `POWER_UP` (R458). Command that leaves STANDBY for BOOTING. -/
  | powerUp (o : Origin)
  /-- `RESET` (R458). Command that restarts every domain but the always-on domain. -/
  | reset (o : Origin)
  /-- `VIN_PRESENT` (R498). VIN reaches 40 V and power-up begins. -/
  | vinPresent (straps : Fin 4)
  /-- `VIN_ABSENT` (R508). VIN falls away and the device goes to OFF. -/
  | vinAbsent
  /-- `PE0_PERST` (R519). PE0_PERST_N is asserted or released. -/
  | pe0Perst (asserted : Bool)
  /-- `PE1_PERST_RELEASE` (R519). 100 ms after valid reference and mode, PE1A or PE1B reset is released. -/
  | pe1PerstRelease (port : Fin 2)
  /-- `MAILBOX_GO` (R480). A GO write submits a node mailbox request. -/
  | mailboxGo (mb : Fin 16) (v : BitVec 64)
  /-- `QP_STATE_WRITE` (R477). Moves a queue pair through its legal states. -/
  | qpStateWrite (lb : Fin 64) (v : BitVec 64)
  /-- `SEND` (R478). Send-queue entry that sends a RoCE SEND. -/
  | send (port : Fin 16) (qp : Fin 1024)
  /-- `RDMA_WRITE` (R478). Send-queue entry that performs an RDMA WRITE. -/
  | rdmaWrite (port : Fin 16) (qp : Fin 1024)
  /-- `RDMA_READ` (R478). Send-queue entry that performs an RDMA READ. -/
  | rdmaRead (port : Fin 16) (qp : Fin 1024)
  /-- `INBOUND_RDMA` (R477). Checks an inbound RDMA request's R_Key and translates it. -/
  | inboundRdma (port : Fin 16) (qp : Fin 1024) (q : RdmaInbound)
  /-- `PARTNER_SIGNAL_RETURN` (R311). The partner's signal returns on a down link port, which starts its retraining. -/
  | partnerSignalReturn (port : Fin 16)
  /-- `HEARTBEAT_SEND` (R264). Every 100 µs each die's coherence controller sends every home a Heartbeat naming its live agents. -/
  | heartbeatSend (d : DieName)
  /-- `AO_REF_25M_PRESENT` (R521). AO_REF_25M becomes present after VIN, releasing the always-on domain from reset and starting R498's bound. -/
  | aoRef25mPresent
  /-- `DRAM_RETRAIN_DONE` (R464). A stack that retrains after a DramTimingSet change ends its retraining, and its waiting accesses proceed. -/
  | dramRetrainDone (d : Fin 16) (ok : Bool)
  /-- `PCIE_LINK_UP` (R519). PE0 or a PE1 port finishes training after a reset release, a mode change or a generation change. -/
  | pcieLinkUp (port : Fin 3) (r : PcieLink)
  /-- `MGMT_ADDRESS_LEASE` (R464). A DHCPv4 or SLAAC message configures the management address held in MgmtIpv4Address or MgmtIpv6Address. -/
  | mgmtAddressLease (v6 : Bool) (d : List Byte)
  /-- `ENTDAA` (R447). The I3C controller's ENTDAA assigns the device its dynamic address, shown in I3cDynamicAddress. -/
  | entdaa (addr : BitVec 7)
  /-- `MSIX_MASK_WRITE` (R356). A host write to the MSI-X table in BAR4 masks or unmasks a vector, and an unmask sends a held pending message. -/
  | msixMaskWrite (off : Fin 65536) (d : BitVec 32)
  /-- `RDMA_RESPONSE` (R478). A RoCE acknowledgement, read response or retry limit ends a send-queue entry and writes its completion entry. -/
  | rdmaResponse (port : Fin 16) (qp : Fin 1024) (r : RdmaResult)
deriving DecidableEq, Repr

end Sys2Proof
end

