-- ==== Sys2Proof/Decode.lean ====
section
/-! DEFINITION. The command that a word of the operation and event table spells. No row of the table has bits of its own: a
command names its unit and its data as operands, so no word spells one. -/

namespace Sys2Proof

/-- No row of the table gives bits, so no word spells a command. -/
def decodeTableWord (_nbits _w : Nat) : Option Instr := none

end Sys2Proof
end

