-- ==== Sys2Proof/Config.lean ====
section
/-! DEFINITION. What one part fixes and what the manual leaves open. Every constant here but the variant's units is opaque: it
has no body, so nothing can be proved of its value and a claim holds whatever it is. -/

namespace Sys2Proof.Config

/-- The bytes of the contract activation tables (R68, R528): function number, byte offset. The manual publishes the tables in
the dictionary and does not print them. -/
opaque activationTableByte : Nat → Nat → Byte

/-- The bytes of the contract approximation tables (R183): table 1 to 4, byte offset. Not printed in the manual. -/
opaque approxTableByte : Nat → Nat → Byte

/-- `RCP` on an FP32 encoding outside the special values of R183; only its bound is given. -/
opaque rcpValue : BitVec 32 → BitVec 32

/-- `RSQRT` outside the special values of R183. -/
opaque rsqrtValue : BitVec 32 → BitVec 32

/-- `EXP2` outside the special values of R183. -/
opaque exp2Value : BitVec 32 → BitVec 32

/-- `LOG2` outside the special values of R183. -/
opaque log2Value : BitVec 32 → BitVec 32

/-- The least voltage in µV that a part's test fuses record for a core rail at a clock in MHz (R394): 0 to 7 `VCD_n`, 8 and 9 `VPD_m`. -/
opaque vmin : Nat → Nat → Nat

/-- The CRC-32 of links and packets (R307, R317): no polynomial is given. -/
opaque crc32 : List Byte → BitVec 32

/-- The 16 check symbols of a flit's Reed–Solomon code (R307): no field polynomial and no roots are given. -/
opaque flitCheck : List Byte → BitVec 160

/-- The FINGERPRINT of the matched fields of a collective (R323); the function is not given. -/
opaque fingerprint : List Nat → BitVec 32

/-- The curves of the security root's signatures (R429): its own firmware, certificates and tokens, and those of guest dies. -/
inductive Curve where
  | brainpoolP384r1 | nistP384
deriving DecidableEq, Repr

/-- Whether an ECDSA signature, r and s of 48 bytes each, over a digest verifies on a curve under a key named by its certificate or hash (R429). -/
opaque ecdsaVerifies : Curve → BitVec 384 → BitVec 384 → BitVec 384 → BitVec 384 → Bool

/-- The fuses DEVICE_SEED, which nothing can read (R427). -/
opaque deviceSeed : BitVec 384

/-- The identity key that the security root derives from DEVICE_SEED (R429): how is not said. -/
opaque identityKey : BitVec 384 → BitVec 384

/-- Whether a signer certificate verifies under the Atvenil root key, and its serial number (R432). -/
opaque signerCertificate : List Byte → Option (BitVec 384 × Nat)

/-- r and s of the signature that a private key makes over a digest on a curve (R429, R437). -/
opaque ecdsaSign : Curve → BitVec 384 → BitVec 384 → BitVec 384 × BitVec 384

/-- Atvenil debug key hash of a KEY_ID, when it chains to the root (R441). -/
opaque debugKeyHash : Nat → BitVec 384

/-- The next debug nonce, from the entropy source (R441). -/
opaque nonceValue : Nat → BitVec 256

/-- The choice, among 36, of a character of the serial number in the subject of a device certificate (R429, R463). -/
opaque subjectChar : List Byte → Nat → Nat

/-- Atvenil's IANA enterprise number (R435, R447): not printed in the manual. -/
opaque enterpriseNumber : BitVec 32

/-- The fused MAC address (R464). -/
opaque macAddress : BitVec 48

/-- The Atvenil root certificate and the Ivvas product certificate, both in the ROM (R429). -/
opaque rootCertificate : List Byte
opaque productCertificate : List Byte

/-- The DER device certificate that is fused at test (R427, R429). -/
opaque deviceCertificate : List Byte

/-- The public key in a certificate (R440). -/
opaque publicKeyOf : List Byte → List Byte

/-- Digest of the boot ROM (R437). -/
opaque romDigest : BitVec 384

/-- The KEY_IDs revoked when the part was tested (R427). -/
opaque keyRevokedFused : BitVec 32

/-- A fresh value for a result the manual leaves open: the counter `State.freeIx` numbers its uses. -/
opaque freeWord : Nat → BitVec 64

/-- What a read of the PCIe range or of a guest window returns: the device behind it answers, and the manual does not say what
(R249, R383, R388). The counter numbers the reads. -/
opaque ioByte : Nat → Nat → Byte

/-- A byte of a PE1 root port's own configuration space, by what was written there (bytes by offset) and the offset: PCI Express defines its registers, the
manual does not (R481). -/
opaque rootPortByte : List (Nat × Byte) → Nat → Byte

/-- The directory set of a line, and how many entries a set has (R251 gives the total, not the sets). -/
opaque directorySet : Nat → Nat

/-- Entries in one directory set. -/
opaque directoryWays : Nat

/-- Whether a translation cache still holds, and uses, an old translation (R291), by the count of free values, the time, the context and the
translation. -/
opaque cacheHit : List Nat → Bool

/-- Into how many parts the default decomposition splits K (R83 to R86 do not say), by the numbers of the signature and the tiles. -/
opaque splitParts : List Nat → Nat

/-- M, N and K of the signature of an `ATTENTION` (R491), by HEADS, KV_HEADS and HEAD_DIM: its body has none. -/
opaque attentionSize : Nat → Nat → Nat → Nat × Nat × Nat

/-- The power budget of R397 when no partition has a RUNNABLE context, by the cap, the power of other domains and the stacks. -/
opaque idleBudget : Nat → Nat → Nat → Nat

/-- A register of an `ELEMENTWISE` group that R162 gives no value, by the descriptor, the group's first element and the register: s16 to s24 by their
numbers, and 64 for the first of the values of v0 where no input is placed there (R46: the same in every run). -/
opaque elemRegister : BitVec 2048 → Nat → Nat → BitVec 64

/-- What a tile's accumulators and combine registers hold between operations, by the count of operations that used it, the column, bank and row of
R62. -/
opaque tileWord : Nat → Nat → Nat → Nat → BitVec 32

/-- The last 16 input rows of a tile, 0 the latest, by the count of operations that used it (R415). -/
opaque tileRow : Nat → Fin 16 → List Byte

/-- A choice the manual leaves to the part, made on a number. -/
opaque freeNat : Nat → Nat

end Sys2Proof.Config
end

