-- ==== Sys2Proof/Machine/Table.lean ====
section
/-! DEFINITION. Sparse tables in one canonical form, and the byte order of R7. A table lists only the keys whose value differs
from what an unlisted key holds, in strictly rising order of key, so that equal tables are equal lists. Memory is such a table. -/

namespace Sys2Proof.Machine

/-- A sparse table: keys strictly rising, no entry equal to the default. -/
abbrev Tab (α : Type) := List (Nat × α)

variable {α : Type}

/-- What key `a` holds, `d` when the table does not list it. -/
def tabGet (d : α) : Tab α → Nat → α
  | [], _ => d
  | (k, v) :: r, a => if a = k then v else tabGet d r a

/-- The table without key `a`. -/
def tabErase (t : Tab α) (a : Nat) : Tab α := t.filter fun e => e.1 != a

/-- The table with `v` at key `a`, kept in canonical form. Reading the key gives `v` back whether or not the table was in that form. -/
def tabPut [DecidableEq α] (d : α) : Tab α → Nat → α → Tab α
  | [], a, v => if v = d then [] else [(a, v)]
  | (k, w) :: r, a, v =>
    if a < k then (if v = d then (k, w) :: tabErase r a else (a, v) :: (k, w) :: r)
    else if a = k then (if v = d then tabErase r a else (a, v) :: r)
    else (k, w) :: tabPut d r a v

/-- Every key of `t` lies above `lo`, keys rise strictly, and no entry equals the default. -/
def tabWfFrom [DecidableEq α] (d : α) (lo : Nat) : Tab α → Bool
  | [] => true
  | (k, v) :: r => decide (lo ≤ k) && decide (v ≠ d) && tabWfFrom d (k + 1) r

/-- The canonical form of a table. -/
def tabWf [DecidableEq α] (d : α) (t : Tab α) : Bool := tabWfFrom d 0 t

/-- Writes `bs` at keys `a`, `a + 1`, … -/
def tabPutList [DecidableEq α] (d : α) (t : Tab α) (a : Nat) : List α → Tab α
  | [] => t
  | b :: bs => tabPutList d (tabPut d t a b) (a + 1) bs

/-- The values at keys `a` to `a + n - 1`. -/
def tabGetList (d : α) (t : Tab α) (a : Nat) : Nat → List α
  | 0 => []
  | n + 1 => tabGet d t a :: tabGetList d t (a + 1) n

/-- Drops every key in `lo` to `hi - 1`. -/
def tabClear (t : Tab α) (lo hi : Nat) : Tab α := t.filter fun e => !(decide (lo ≤ e.1) && decide (e.1 < hi))

/-- The number that little-endian bytes hold (R7). -/
def leNat : List Byte → Nat
  | [] => 0
  | b :: bs => b.toNat + 256 * leNat bs

/-- `v` as `n` little-endian bytes (R7). -/
def leBytes (v : Nat) : Nat → List Byte
  | 0 => []
  | n + 1 => BitVec.ofNat 8 v :: leBytes (v / 256) n

/-- Bits `[lo + w - 1 : lo]` of a number. -/
def bitsOf (v lo w : Nat) : Nat := (v >>> lo) % 2 ^ w

/-- Bits `[lo + w - 1 : lo]` of `v` replaced by those of `x`. -/
def setBits (v lo w x : Nat) : Nat :=
  v - (bitsOf v lo w) * 2 ^ lo + (x % 2 ^ w) * 2 ^ lo

/-- Bit `i` of a number. -/
def bitAt (v i : Nat) : Bool := (v >>> i) % 2 == 1

/-- A Bool as a bit. -/
def b2n (b : Bool) : Nat := if b then 1 else 0

/-- Saturating addition of 1 below `2 ^ w`. -/
def satInc (w v : Nat) : Nat := min (2 ^ w - 1) (v + 1)

/-- `v` clipped at the largest `w`-bit number. -/
def satTo (w v : Nat) : Nat := min (2 ^ w - 1) v

/-- `a` rounded up to a multiple of `m`. -/
def roundUp (a m : Nat) : Nat := (a + m - 1) / m * m

/-- Replaces element `i` of a list. -/
def listSet (l : List α) (i : Nat) (v : α) : List α := l.set i v

/-- The element of a list at `i`, `d` beyond its end. -/
def listGet (d : α) (l : List α) (i : Nat) : α := l.getD i d

/-- The last `n` elements of a list: the newest of an output record. -/
def lastN (n : Nat) (l : List α) : List α := l.drop (l.length - n)

end Sys2Proof.Machine
end

