-- ==== Sys2Proof/Machine/State.lean ====
section
/-! DEFINITION. Everything the manual gives the package to hold, as plain data, the reasons a step can stop, and the package
right after reset. A record's docstring names the rules that give its fields. -/

namespace Sys2Proof.Machine

/-- Why the package stops with a fault: never. Every command the manual describes has an effect, be it the refusal, record or halt that the
manual gives it, so nobody raises one, and there is no such reason. -/
inductive Fault where
deriving DecidableEq, Repr

/-- Why a command has no meaning in this model. -/
inductive Refusal where
  /-- Raised by the dispatch for a command that has no meaning yet. Safe: nothing can be proved of it. -/
  | notModelled (mnemonic : String)
deriving DecidableEq, Repr

/-- The order codes (R1). -/
inductive Variant where
  | a1024g0 | a1024g2 | a768g0 | b1024
deriving DecidableEq, Repr

/-- The device states (R453). -/
inductive DevState where
  | off | standby | booting | ready | running | draining | quiesced | degraded | fault
deriving DecidableEq, Repr

/-- The context states of the operation contract. -/
inductive CtxState where
  | free | stopped | runnable | parked | halted | killed
deriving DecidableEq, Repr

/-- A held setting (R38): the last value accepted, the value in effect, and whether the former still waits for its boundary. -/
structure Held (α : Type) where
  acc : α
  eff : α
  waits : Bool
deriving DecidableEq, Repr

/-- A held setting that is in effect. -/
abbrev settled {α : Type} (v : α) : Held α := ⟨v, v, false⟩

/-- How an operation ended (R28, R30). -/
structure OpResult where
  status : Nat
  detail : Nat
  spread : Bool
  overflow : Bool
  slices : Nat
deriving DecidableEq, Repr

/-- The first NaN that trips the trap, and how many NaNs the operation wrote (R140). -/
structure TrapNote where
  cls : Nat
  output : Nat
  batch : Nat
  row : Nat
  col : Nat
  nans : Nat
deriving DecidableEq, Repr

/-- An Almanac event of an operation (R137). -/
structure AlmEvent where
  kind : Nat
  held : Bool
  value : Nat
  threshold : Nat
deriving DecidableEq, Repr

/-- What an operation that wrote its results does when it completes: the special values it wrote (R130), the amax it captured as slot
and FP32 (R132), the head of the history whose scale it used, as address and bytes (R133), what an `UPDATE` adds to its layer as held, SW, SDW (R125, R136), the
events of R135 and the trap (R139). -/
structure Aftermath where
  prop : Nat
  inv : Nat
  ovf : Nat
  infs : Nat
  amax : Option (Nat × W32)
  scale : Option (Nat × List Byte)
  gradNonfinite : Nat
  remReset : Nat
  update : Option (Bool × W64 × W64)
  ratioHigh : Bool
  events : List AlmEvent
  trap : Option TrapNote
deriving DecidableEq, Repr

/-- Where an operation that was taken stands until its record is written. -/
inductive FlightSt where
  /-- Its results are written; the record is due (R19). -/
  | done (r : OpResult)
  /-- Its results are written; at completion it acts on its layer and may trap (R130 to R139). -/
  | computed (r : OpResult) (a : Aftermath)
  /-- `SIGNAL`, `TIMESTAMP`, `FENCE`: acts when every earlier operation has completed (R25, R26). -/
  | atHead
  /-- Waits for the resolution of these fault records, then runs again (R295). -/
  | stalled (ixs : List Nat)
  /-- A `WAIT` whose condition does not hold, with its deadline in device time (R27). -/
  | waiting (deadline : Option Nat)
  /-- A `WAIT` whose evaluation waits for the resolution of these fault records, with its deadline (R27, R295). -/
  | waitStalled (ixs : List Nat) (deadline : Option Nat)
  /-- A `KERNEL` or `ELEMENTWISE` whose groups run, by launch number (R159). -/
  | launched (l : Nat)
  /-- A synchronous `STREAM` whose instances run (R206). -/
  | streaming
  /-- A `STREAM` that waits for idle stream units (R206). -/
  | streamWait
  /-- A `COLLECTIVE` that has arrived (R328). -/
  | collective
  /-- An egress `COPY`, by egress sequence (R353). -/
  | egress (seq : Nat)
  /-- An `EVE` before its layer is closed: when it was taken, and when it reached its latch point if the close stalls there (R33, R295). -/
  | eve (at_ : Nat) (latched : Option Nat)
  /-- An `EVE` past its latch point whose record is due after any inserted idle (R399). -/
  | eveRecord (r : OpResult)
  /-- Completed, its record stalled on this fault record (R295). -/
  | recordStalled (ix : Nat) (r : OpResult)
deriving DecidableEq, Repr

/-- An operation in flight (R20, R21). -/
structure Flight where
  opIndex : Nat
  desc : Descriptor
  st : FlightSt
deriving DecidableEq, Repr

/-- A completion record that consumes no descriptor and waits for a slot (R17, R352). -/
structure WaitingRecord where
  status : Nat
  detail : Nat
deriving DecidableEq, Repr

/-- The registers of a context register set (R470) with its three blocks (R117, R299, R344). -/
structure CtxRegs where
  prio : Held W64
  queueWord : W64
  complWord : W64
  groupFault : Held W64
  eventLog : Held W64
  sources : Held W64
  policy : Held (BitVec 512)
  policyRejected : Bool
  xlate : Held (BitVec 128)
  pagesPlaced : Nat
  hostBlk : Held (BitVec 256)
  invalVa : W64
  invalHeld : Option (Nat × Nat)
  invalDone : Bool
deriving DecidableEq, Repr

/-- The counts of a context (R16, R18, R20, R470). -/
structure CtxCounts where
  queueConsumed : W32
  queueProducer : W32
  complProduced : W32
  complConsumed : W32
  nextOp : Nat
  eveCount : W32
  noticeCount : W32
  groupFaults : W32
  trapCount : W32
  doorbellsIgnored : Nat
  writesRefused : Nat
  lastHalt : Nat
  lastHaltOp : Nat
  energyMj : Nat
  eveEnergyMj : Nat
  almEvents : Nat
  eveArrayNs : Nat
deriving DecidableEq, Repr

/-- What a layer has gathered so far (R130, R132). -/
structure LayerAcc where
  updateOps : Nat
  heldOps : Nat
  sumsqW : W64
  sumsqDw : W64
  nanPropagated : Nat
  nanInvalid : Nat
  nanOverflow : Nat
  infWritten : Nat
  gradNonfinite : Nat
  remReset : Nat
  ratioHigh : Bool
  amax : List (Option W32)
deriving DecidableEq, Repr

/-- The layer record of a layer in which nothing has happened. -/
def LayerAcc.empty : LayerAcc := ⟨0, 0, 0, 0, 0, 0, 0, 0, 0, 0, false, List.replicate 16 none⟩

/-- A host doorbell that was accepted and is not complete (R351). -/
structure Bell where
  queueTo : W32
  dataTo : W32
  since : Nat
deriving DecidableEq, Repr

/-- Where an egress batch stands (R353, R357). -/
inductive BatchSt where
  | waiting | issued | unconfirmed
deriving DecidableEq, Repr

/-- One egress batch (R353). -/
structure Batch where
  seq : Nat
  offset : Nat
  length : Nat
  opIndex : Nat
  src : Nat
  st : BatchSt
deriving DecidableEq, Repr

/-- The egress registration in effect (R348, R355). -/
structure EgressReg where
  dataBase : Nat
  recBase : Nat
  recLog2 : Nat
  vector : Nat
  coalCount : Nat
  coalUs : Nat
deriving DecidableEq, Repr

/-- The host's side of a context (R345 to R355). -/
structure HostSide where
  qWritten : Tab (BitVec 256)
  dWritten : Tab (BitVec 256)
  queueReady : W32
  dataReleased : W32
  accQueue : W32
  accData : W32
  bells : List Bell
  noticed : Bool
  egressWritten : Nat
  egressAcked : Nat
  epoch : BitVec 16
  reg : Option EgressReg
  regStage : BitVec 256
  batches : List Batch
  writesDiscarded : Nat
  doorbellsRefused : Nat
deriving DecidableEq, Repr

/-- A context (R11 to R20, R42, R471). `records` are the notices and event records posted for it that are not written yet: address,
bytes, and one more than the interrupt source to raise (R295); `lost` is the status and the fault record of one that could not be
written since the last operation was taken, and `declined` the accesses of the layer that closes which node software has declined, as access
class and page (R295). `waiting` are the records of R17 that wait, oldest first. -/
structure Ctx where
  st : CtxState
  part : Option Nat
  regs : CtxRegs
  cnt : CtxCounts
  flights : List Flight
  waiting : List WaitingRecord
  deficit : Int
  yielded : Bool
  atBoundary : Bool
  pendStart : Bool
  pendStop : Bool
  pendRebind : Option Nat
  layer : LayerAcc
  regionDue : Bool
  host : HostSide
  collSeq : Tab Nat
  arrivals : Tab Nat
  completions : Tab Nat
  idleNs : Nat
  idleAt : Tab Nat
  dumpLost : Bool
  records : List (Nat × List Byte × Nat)
  lost : Option (Nat × Nat)
  declined : List (Nat × Nat)
deriving DecidableEq, Repr

/-- The registers of a created context (R117, R299, R344, R470). -/
def CtxRegs.created : CtxRegs :=
  { prio := settled 0, queueWord := 0, complWord := 0, groupFault := settled 0, eventLog := settled 0, sources := settled 0,
    policy := settled (0xFFFFFFFF000000007F80000000000000000000000000000000000000000000000000002C#512), policyRejected := false,
    xlate := settled 0, pagesPlaced := 0,
    hostBlk := settled (0xC000000000000000000000000000000000000271000000700#256), invalVa := 0, invalHeld := none, invalDone := false }

/-- The counts of a created context. -/
def CtxCounts.zero : CtxCounts := ⟨0, 0, 0, 0, 0, 0, 0, 0, 0, 0, 0, 0, 0, 0, 0, 0, 0⟩

/-- The host's side of a created context (R348). -/
def HostSide.created : HostSide := ⟨[], [], 0, 0, 0, 0, [], false, 0, 0, 0, none, 0, [], 0, 0⟩

/-- A context that is not created. -/
def Ctx.free : Ctx :=
  { st := .free, part := none, regs := CtxRegs.created, cnt := CtxCounts.zero, flights := [], waiting := [], deficit := 0,
    yielded := false, atBoundary := true, pendStart := false, pendStop := false, pendRebind := none, layer := LayerAcc.empty,
    regionDue := false, host := HostSide.created, collSeq := [], arrivals := [], completions := [], idleNs := 0, idleAt := [], dumpLost := false, records := [], lost := none,
    declined := [] }

/-- The state of a partition's sequencer (R476). -/
inductive Phase where
  | idle | running | draining | idleInserted | layoutWait
deriving DecidableEq, Repr

/-- Why a partition drains (R33, R505, R527). -/
inductive DrainKind where
  | none | eve | release | quiesce
deriving DecidableEq, Repr

/-- One entry of a signature table with its decomposition (R83 to R86, R491). -/
structure SigEntry where
  opcode : Nat
  fmt : Nat
  m512 : Nat
  n512 : Nat
  k512 : Nat
  batch : Nat
  seqCount : Nat
  byRows : Bool
  splitK : Nat
  shortStrip : Bool
  staged : Bool
  tiles : Nat
  pinned : Bool
  ran : Bool
  arrayPct : Nat
  levels : List Nat
  perOpNs : Nat
  changed : Option Nat
  changedEve : Nat
  barred : List (Nat × Nat)
  stamp : Nat
  blocks : Nat
deriving DecidableEq, Repr

/-- One entry of a counting table (R302). -/
structure PageCount where
  ctx : Nat
  vpn : Nat
  count : Nat
  way : Nat
deriving DecidableEq, Repr

/-- A partition (R33, R37, R42, R57, R397, R399, R476). `latchCount` counts its latch points and `eves` its Eves (R85); `chosen` is the context chosen at the last latch point until it is seated, and `report`
the Eve report that waits for the choice. -/
structure PartSt where
  phase : Phase
  running : Option Nat
  drain : DrainKind
  drainFrom : Nat
  intervalFrom : Option Nat
  overdue : Nat
  turn : List (Option Nat)
  latchCount : Nat
  eves : Nat
  lastLatch : Nat
  reached : Bool
  capW : Nat
  quantumUs : Nat
  clockMHz : Nat
  braked : Bool
  duty : Bool
  capUnmet : Bool
  idleUntil : Nat
  idleAvgW : Option Nat
  eveDoneAt : Nat
  paceNum : Nat
  paceDen : Nat
  sigs : List SigEntry
  counts : List PageCount
  chosen : Option Nat
  report : Nat
deriving DecidableEq, Repr

/-- A partition as it stands after reset or after a layout change. -/
def PartSt.fresh : PartSt :=
  { phase := .idle, running := none, drain := .none, drainFrom := 0, intervalFrom := none, overdue := 0,
    turn := List.replicate 8 none, latchCount := 0, eves := 0, lastLatch := 0, reached := false, capW := 4400, quantumUs := 5000, clockMHz := 800,
    braked := false, duty := false, capUnmet := false, idleUntil := 0, idleAvgW := none, eveDoneAt := 0, paceNum := 1,
    paceDen := 1, sigs := [], counts := [], chosen := none, report := 0 }

/-- An entry of a reconvergence stack (R164): resume offset, mask, join. -/
structure Reconv where
  resume : Nat
  mask : W64
  join : Nat
deriving DecidableEq, Repr

/-- A group of 64 threads (R147 to R151, R164): register `r` of thread `t` is `v` at 64 r + t. -/
structure Group where
  blk : Nat
  num : Nat
  v : Tab W32
  sreg : Tab W64
  preg : Tab W64
  pc : Nat
  active : W64
  exited : W64
  join : Nat
  stack : List Reconv
  waiting : W64
  stalled : List Nat
  replay : Option W64
  elem : Option Nat
deriving DecidableEq, Repr

/-- A launch block with its barrier (R154, R155, R167, R168). -/
structure Block where
  launch : Nat
  num : Nat
  unit : Nat
  split : Nat
  store : Tab Byte
  groups : List Nat
  firstAt : Option Nat
  firstPc : Nat
  pausedAt : Option Nat
  pausedNs : Nat
deriving DecidableEq, Repr

/-- A `KERNEL` or `ELEMENTWISE` that runs (R159, R161). -/
structure Launch where
  ctx : Nat
  opIndex : Nat
  desc : Descriptor
  code : List W64
  nextBlock : Nat
  total : Nat
  isElem : Bool
  args : List W64
  outs : Tab W64
deriving DecidableEq, Repr

/-- A tagged instruction in flight (R496, R497). -/
structure Tagged where
  group : Nat
  num : Nat
  second : Bool
  ctx : Nat
  opIndex : Nat
  pc : Nat
  mask : W64
  va : Nat
deriving DecidableEq, Repr

/-- The sampling state of one thread unit (R496). -/
structure Sampler where
  lfsr : W32
  countdown : Nat
  tagged : Option Tagged
deriving DecidableEq, Repr

/-- The thread units and what runs on them; `splits` is the local-store split each unit last took (R152). -/
structure Threads where
  launches : Tab (Option Launch)
  blocks : Tab (Option Block)
  groups : Tab (Option Group)
  samplers : Tab (Option Sampler)
  splits : Tab Nat
  nextId : Nat
deriving DecidableEq, Repr

/-- A burst in flight (R212, R213, R219): `from_` is where its stall count starts, and `pausedAt` when a fault last stalled it. -/
structure Burst where
  num : Nat
  src : Nat
  dst : Nat
  len : Nat
  dstSlot : Nat
  from_ : Nat
  pausedAt : Nat
  stalled : List Nat
  noticed : Bool
  sent : Bool
deriving DecidableEq, Repr

/-- An open loop of a stream program (R211): counter, start, end, count. -/
structure LoopRec where
  ctr : Nat
  start : Nat
  stop : Nat
  count : Nat
deriving DecidableEq, Repr

/-- An instance of a stream program (R204, R211); `indexStall` is the fault record on which the index read of its `GATHER` waits (R217). -/
structure Instance where
  ctx : Nat
  opIndex : Nat
  unit : Nat
  hamper : Bool
  words : List W64
  pc : Nat
  loops : List LoopRec
  a : List W64
  init : List W64
  c : List W32
  eps : List W64
  bursts : List Burst
  indexStall : Option Nat
  syncing : Bool
  softUs : Nat
  hardInt : Nat
  hardExt : Nat
deriving DecidableEq, Repr

/-- A line placed in a hamper side (R223, R224). -/
structure HamperLine where
  stack : Nat
  side : Nat
  line : Nat
deriving DecidableEq, Repr

/-- The sequencer's stream programs of the operation that a context took last (R201, R219, R220): the operation, the device time of its taking, what its
output replaced (address and bytes, in the order written), and the bursts that met their soft deadline with the time their stall count last restarted. -/
structure SeqWork where
  op : Nat
  at_ : Nat
  old : List (Nat × List Byte)
  stalls : List (Nat × Nat)
deriving DecidableEq, Repr

/-- The streams and the hampers; `dropped` and `cancelled` are the counts of R220 and R227, and `work` is by context. -/
structure Streams where
  insts : Tab (Option Instance)
  nextId : Nat
  hamper : List HamperLine
  dropped : Nat
  cancelled : Nat
  standIn : Tab Nat
  work : Tab (Option SeqWork)
deriving DecidableEq, Repr

/-- The states of a copy in a caching agent (R253). -/
inductive CopySt where
  | m | o | e | s
deriving DecidableEq, Repr

/-- A copy of a line: state, data, replacement age and way (R237, R253). A `stale` one is a clean copy that its cache kept when it was disabled and
that the directory does not know (R245, R246). -/
structure Copy where
  st : CopySt
  data : List Byte
  age : Nat
  way : Nat
  stale : Bool
deriving DecidableEq, Repr

/-- The directory states (R253). -/
inductive DirSt where
  | i | s | e | m | o | l
deriving DecidableEq, Repr

/-- A directory entry (R251): the owner exactly, up to four sharers exactly, beyond four by groups of eight. -/
structure DirEntry where
  st : DirSt
  owner : Option Nat
  sharers : List Nat
  groups : List Nat
deriving DecidableEq, Repr

/-- A line no agent holds. -/
def DirEntry.none : DirEntry := ⟨.i, Option.none, [], []⟩

/-- The coherence messages that a home or a holder has sent and that wait to be received (R255). `noticeAck` is the WbAck of a DirtyNotice (R259). -/
inductive MsgKind where
  | fwdShared | fwdOwn | fwdOnce | fwdRecall | inval | data | dataOnce | ack | invalAck | wbAck | noticeAck
deriving DecidableEq, Repr

/-- A coherence message in flight: kind, the agent it travels to, the requester it serves, the line, its data, the state it
grants, and the cause of the request it serves. -/
structure CohMsg where
  kind : MsgKind
  dest : Nat
  requester : Nat
  line : Nat
  data : List Byte
  grant : CopySt
  why : ReqCause
deriving DecidableEq, Repr

/-- A line of a processor core's L1 cache (R234, R235): its replacement age and way, and which of its two sectors are valid. Its data are those of the
L2 that includes it. -/
structure L1Line where
  age : Nat
  way : Nat
  low : Bool
  high : Bool
deriving DecidableEq, Repr

/-- An agent declared dead (R264 to R266). -/
structure DeadAgent where
  agent : Nat
  fatal : Bool
  at_ : Nat
  swept : List Nat
  doneAt : Nat
  lost : Nat
  dropped : Nat
  reported : Bool
deriving DecidableEq, Repr

/-- Coherence (R248 to R268). Copies are keyed agent × 2^48 + line number, and lines of processor L1 caches (2 × core + 1) × 2^48 + line number for
data, 2 × core × 2^48 + line number for instructions. `notices` are the DirtyNotices without their WbAck, as agent and line (R259). `atHome` are the requests that wait at their homes and `inAgent` those that wait in their agents,
oldest first (R250, R256). -/
structure Coherence where
  dir : Tab DirEntry
  copies : Tab (Option Copy)
  l1 : Tab (Option L1Line)
  atHome : List Instr
  inAgent : List Instr
  msgs : List CohMsg
  wb : List (Nat × Nat × List Byte)
  heldFwds : List CohMsg
  owedAcks : List (Nat × Nat × Nat)
  notices : List (Nat × Nat)
  dead : List DeadAgent
  parked : List DieName
  beats : List (DieName × Nat)
  sent : List HeartbeatMsg
  recalls : Nat
deriving DecidableEq, Repr

/-- The stacked DRAM (R269 to R282, R479). Pseudo-channels are keyed 65 s + c; `repairDue` holds keys with rows, `softRows` those repaired softly since the last hard repair (R278), `copyDue` and `copying`
stacks with channels. -/
structure Dram where
  temps : List Nat
  steps : List Nat
  pcState : Tab Nat
  copying : List (Nat × Nat)
  copyDue : List (Nat × Nat)
  corrected : Tab Nat
  uncorrectable : Tab Nat
  pcRepairs : Tab Nat
  rowRepairs : List Nat
  softRows : List (Nat × Nat)
  repairDue : List (Nat × Nat)
  spare : List Nat
  results : Tab W64
  retraining : List Nat
  queues : Tab Nat
  placeTurn : Tab Nat
deriving DecidableEq, Repr

/-- A leaf that some translation cache of the package may hold (R289, R290): the context it is tagged with, the virtual range it covers, the physical
address of its start, the table level and the entry of its first page. -/
structure CachedLeaf where
  ctx : Nat
  lo : Nat
  len : Nat
  pa : Nat
  level : Nat
  entry : Nat
deriving DecidableEq, Repr

/-- A pointer entry of levels 0 to 2 that some die may hold (R289): the context, the level, the virtual range, and the table it leads to. -/
structure CachedPtr where
  ctx : Nat
  level : Nat
  lo : Nat
  len : Nat
  next : Nat
deriving DecidableEq, Repr

/-- The translation caches (R289 to R291): everything they may hold. Which of it they still hold is the part's. `mismatched` are the compute dies that have
walked a run that is not merged, with the leaf (R290). -/
structure Translations where
  leaves : List CachedLeaf
  ptrs : List CachedPtr
  mismatched : List (Nat × CachedLeaf)
deriving DecidableEq, Repr

/-- Who waits on a fault record (R294, R295). -/
inductive Waiter where
  | op (c : Nat) (opIndex : Nat)
  | record (c : Nat)
  | take (c : Nat)
  | eve (c : Nat)
  | notice (c : Nat)
  | group (g : Nat)
  | burst (i : Nat) (n : Nat)
  | remote (src num : Nat)
  | qp (key : Nat)
deriving DecidableEq, Repr

/-- A serviceable fault that waits for its resolution (R293, R294). -/
structure PendingFault where
  ix : Nat
  ctx : Nat
  kind : Nat
  access : Nat
  page : Nat
  waiters : List Waiter
deriving DecidableEq, Repr

/-- A frame pool or a release ring (R300, R475). -/
structure Ring where
  base : Nat
  log2 : Nat
  producer : W32
  consumer : W32
  unusable : Bool
deriving DecidableEq, Repr

/-- The fault queue, the pools and the release rings (R293 to R303, R475). -/
structure FaultQueue where
  ring : Ring
  nextIndex : Nat
  waiting : List (BitVec 512)
  pending : List PendingFault
  resumesIgnored : Nat
  accessErrors : Nat
  pools : List Ring
  releases : List Ring
deriving DecidableEq, Repr

/-- A link port (R304 to R311, R477). `congested` counts the congestion notifications of an Ethernet-mode port, and `paused` are its priorities that flow
control holds (R306). `retry` holds the data of the flits that are not acknowledged, oldest first, since `ackAt`; `queue` the packets that wait to leave;
`credits` and `owed` the flits that may leave and that are to be returned on each virtual channel, request levels first; `arriving` the bytes of the packet
that is arriving, and `input` the packets in the input buffers with their channels (R307, R308, R315). `timeTx` and `timeRx` are when the last time flit
left and when the last one came (R339). -/
structure LinkPort where
  state : Nat
  spareLane : Nat
  laneOk : List Bool
  expect : BitVec 12
  nak : Bool
  txNext : BitVec 12
  acked : BitVec 12
  resends : Nat
  flitsResent : Nat
  flitsFailed : Nat
  corrected : List Nat
  partnerId : Nat
  moveLane : Option Nat
  trained : Bool
  congested : Nat
  paused : List Nat
  retry : List (List Byte)
  ackAt : Nat
  queue : List Packet
  credits : List Nat
  owed : List Nat
  arriving : List Byte
  input : List (Nat × Packet)
  timeTx : Option Nat
  timeRx : Nat
deriving DecidableEq, Repr

/-- A packet that waits for its end-to-end acknowledgement (R318). -/
structure Unacked where
  dest : Nat
  seq : W32
  packet : Packet
  sentAt : Nat
  resends : Nat
deriving DecidableEq, Repr

/-- A remote burst at its receiver that is not committed yet, of `total` parts (R319); `seq` is the E2E_SEQ of the last that came. -/
structure RemoteBurst where
  src : Nat
  num : Nat
  ctx : Nat
  srcCtx : Nat
  total : Nat
  parts : List (Nat × Nat × List Byte)
  seq : W32
deriving DecidableEq, Repr

/-- A collective that its context has arrived at (R323, R328, R329): `own` is its contribution, `got` what came and `sent` what left, by rank and chunk,
`partners` the ranks it exchanges with, `heard` when each was heard, and `joined` those known to have arrived (R324, R330). -/
structure CollRun where
  opIndex : Nat
  comm : Nat
  seq : Nat
  members : List W64
  rank : Nat
  finger : W32
  own : List Byte
  got : Tab (List Byte)
  sent : List Nat
  partners : List Nat
  heard : Tab Nat
  joined : List Nat
  arrivedAt : Nat
  earliest : Nat
  latest : Nat
  straggler : Nat
  cause : Nat
  detail : Nat
  lost : Option Nat
deriving DecidableEq, Repr

/-- The parade (R334 to R336): `served` are the requests of children that wait, `pieces` the parts of the next chunk that have landed. -/
structure Parade where
  state : Nat
  chunks : Nat
  total : Nat
  failedOnce : Bool
  lastAt : Nat
  silent : Option Nat
  served : List (Nat × Nat)
  pieces : List Nat
deriving DecidableEq, Repr

/-- The IEEE 1588 slave clock (R338): the Sync message that waits for its Follow_Up or its delay exchange, by sequence number, when it came and when
its master sent it, once known; and when the Delay_Req left. -/
structure PtpSlave where
  seq : Nat
  syncRx : Nat
  origin : Option Nat
  asked : Option Nat
deriving DecidableEq, Repr

/-- The hubs: ports, routing, end-to-end delivery, collectives, the parade and device time's source (R304 to R340). `slew` is the offset that device time
still has to take in, `ended` when each cause of R328 last ended, and `own` are packets of the package to itself (R314). -/
structure Fabric where
  ports : List LinkPort
  table : Tab W64
  shift : Nat
  tx : Tab W32
  unacked : List Unacked
  seen : List (Nat × W32)
  remote : List RemoteBurst
  refused : Nat
  drops : Nat
  runs : Tab (Option CollRun)
  early : List Packet
  straggler : List (Nat × BitVec 256)
  parade : Parade
  timeLocked : Bool
  timeOffset : Int
  sourceLost : Bool
  slew : Int
  ptp : PtpSlave
  peers : Tab Nat
  ended : Tab Nat
  own : List Packet
deriving DecidableEq, Repr

/-- What of a queue pair waits for the resolution of a fault, and behind that (R293, R295): a send-queue entry of an OPCODE, an inbound request, read data
that land for an entry, and a completion entry as index, status, IS_RECV and bytes. -/
inductive QpWait where
  | wqe (op : Nat)
  | inbound (q : RdmaInbound)
  | landing (ix : Nat) (e : BitVec 512) (d : List Byte)
  | completion (ix status : Nat) (recv : Bool) (bytes : Nat)
deriving DecidableEq, Repr

/-- A queue pair of an Ethernet-mode port (R477, R478); `flying` are the send-queue entries that were issued and are not answered, by index, `sent` the
packets sent since RESET, `expect` the next sequence number from the peer once its first is known (R306), and `waiting` what waits for a fault. -/
structure QueuePair where
  word0 : W64
  word1 : W64
  sq : W64
  rq : W64
  cq : W64
  sqProducer : W32
  sqConsumer : W32
  flying : List (Nat × BitVec 512)
  sent : Nat
  expect : Option (BitVec 24)
  waiting : List QpWait
  rqProducer : W32
  rqConsumer : W32
  cqProducer : W32
  cqConsumer : W32
  peer : BitVec 256
  peerStage : BitVec 256
deriving DecidableEq, Repr

/-- An MSI-X vector: the counts of its coalescing, its mask and its pending bit, and its message (R342, R356). -/
structure Msix where
  masked : Bool
  pend : Bool
  batches : Nat
  since : Option Nat
  addr : W64
  data : W32
deriving DecidableEq, Repr

/-- PE0 (R342, R343, R356, R357); `width` and `generation` are those it last trained to. -/
structure HostPort where
  detached : Bool
  vectors : Tab Msix
  readsA : Nat
  discards : Nat
  perst : Bool
  linkUp : Bool
  fenceReads : List (Nat × Nat)
  width : Nat
  generation : Nat
deriving DecidableEq, Repr

/-- The state of an interrupt source (R370 to R378). -/
structure SrcState where
  count : Nat
  first : Option Nat
  mask : Bool
  service : Option (Nat × IrqLevel)
  shown : Option (Nat × IrqLevel)
  shownAt : Nat
  excluded : List Nat
  pend : Bool
deriving DecidableEq, Repr

/-- A source at reset (R378). -/
def SrcState.idle : SrcState := ⟨0, none, false, none, none, 0, [], false⟩

/-- One of the eight programmable counters of a core: `mhpmevent` as written and as it counts, and the count (R494). -/
structure Hpm where
  event : Held W64
  count : W64
deriving DecidableEq, Repr

/-- A core (R364, R380). `chosen` orders cores by when they were last chosen (R371). `cause` and `tval` are the last access fault that the package
answered it with, as exception cause and trap value, 0 before the first (R267); `lcofi` is the overflow interrupt of Sscofpmf, pending (R494). The
pending timer and controller interrupts follow from the compare registers and the sources presented (`State.mip`). -/
structure CoreSt where
  thrS : Nat
  thrM : Nat
  depth : Held Nat
  sleep : Nat
  mtimecmp : W64
  stimecmp : W64
  vstimecmp : W64
  msip : Bool
  mie : W64
  chosen : Nat
  cause : Nat
  tval : W64
  hpm : List Hpm
  mcounteren : W32
  hcounteren : W32
  scounteren : W32
  lcofi : Bool
  wokenAt : Option Nat
deriving DecidableEq, Repr

/-- A core at reset (R380). -/
def CoreSt.reset : CoreSt :=
  ⟨0, 0, settled 0, 0, 0xFFFFFFFFFFFFFFFF#64, 0xFFFFFFFFFFFFFFFF#64, 0xFFFFFFFFFFFFFFFF#64, false, 0, 0, 0, 0,
    List.replicate 8 ⟨settled 0, 0⟩, 0, 0, 0, false, none⟩

/-- Slice control (R379). -/
structure SliceCtl where
  control : Held W64
  reroutes : Nat
  ignored : Nat
  dieOff : Bool
deriving DecidableEq, Repr

/-- A held word of the interrupt controller: kind (0 source configuration, 1 affinity set), number, value, acceptance time. -/
structure HeldWord where
  kind : Nat
  n : Nat
  v : BitVec 128
  since : Nat
deriving DecidableEq, Repr

/-- The interrupt controller and the cores it presents to (R363 to R380). -/
structure Irq where
  cfg : Tab W64
  src : Tab SrcState
  aff : List (BitVec 128)
  held : List HeldWord
  slices : List SliceCtl
  cores : Tab CoreSt
  stamp : Nat
deriving DecidableEq, Repr

/-- A guest site (R382 to R387): `control` is the request that waits for the tick, `tokens` what the firewall's bucket held at `filledAt`. -/
structure GuestSt where
  state : Nat
  control : Nat
  barBase : Nat
  barBytes : Nat
  measurements : List Byte
  tokens : Nat
  filledAt : Nat
deriving DecidableEq, Repr

/-- PE1 (R388 to R390, R481). `config` is what was written to the root port's own configuration space. -/
structure Pe1Port where
  capacityGiB : Nat
  linkUp : Bool
  refusedDma : Nat
  perstReleased : Bool
  modeSince : Nat
  config : Tab Byte
deriving DecidableEq, Repr

/-- Power, heat and clocks (R391 to R409). Temperatures are in tenths of a degree. `idleClock` is the array clock of a stack while it is in no partition,
and `firstIdle` when the first idle under the present cap began (R401). -/
structure Power where
  graceUntil : Option Nat
  prevCap : Nat
  capTick : Nat
  brakedDies : List Bool
  procClock : List Nat
  steps : List Nat
  dieTemps : List Nat
  energyMj : Nat
  unattributedMj : Nat
  lastTrip : List Byte
  tripLow : Bool
  gated : List GateUnit
  idleClock : List Nat
  firstIdle : Option Nat
deriving DecidableEq, Repr

/-- The live units and spares behind the capability class record (R425), bucket levels and fences (R413 to R424). `used` is, for tile
16 n + t, the contexts that ran on it since its last check with their first such operation (R416), and `passes` how many operations have run on it: what its
accumulators and combine registers hold is `Config.tileWord` of that (R62). `spares` counts the spares used of a resource, by its bucket's key (R423), and
`sensors` the dies held at their lowest ceiling. `leakFrom` is when a bucket's leak period began (R422), and `shadowed` one more than the last window of a
die whose shadowing has ended (R89, R420). -/
structure Integrity where
  tiles : List (List Nat)
  spare : List Bool
  units : List Nat
  streams : List Nat
  ways : List Nat
  computeFenced : List Bool
  cores : List Nat
  portsFenced : Nat
  dramDegraded : Nat
  generation : Nat
  trayReplace : Bool
  fences : List W64
  levels : Tab Nat
  lasting : Tab Nat
  used : Tab (List (Nat × Nat))
  checkedAt : Tab Nat
  passes : Tab Nat
  spares : Tab Nat
  sensors : List Nat
  leakFrom : Tab Nat
  shadowed : Tab Nat
deriving DecidableEq, Repr

/-- An accepted image (R431, R432). -/
structure Image where
  svn : Nat
  floor : Nat
  revoke : BitVec 32
  digest : BitVec 384
deriving DecidableEq, Repr

/-- What the SPDM responder can do (R435). -/
structure SpdmCaps where
  certificates : Bool
  challenge : Bool
  signedMeasurements : Bool
  slots : List Nat
  keyExchange : Bool
  psk : Bool
  secured : Bool
  setCertificate : Bool
  mutualAuth : Bool
deriving DecidableEq, Repr

/-- The algorithms the responder selects (R435): the width of its base hash, and the extended asymmetric algorithm by registry, vendor and number. -/
structure SpdmAlgs where
  hashBits : Nat
  registry : Nat
  vendor : BitVec 32
  algorithm : Nat
deriving DecidableEq, Repr

/-- An SPDM response (R435 to R437): a measurement block is its index, its DMTF value type and its digest. -/
inductive SpdmResponse where
  | version (v : Nat)
  | capabilities (c : SpdmCaps)
  | algorithms (a : Option SpdmAlgs)
  | digests (d : BitVec 384)
  | certificate (d : List Byte) (left : Nat)
  | challengeAuth (sig : List Byte)
  | measurements (blocks : List (Nat × Nat × BitVec 384)) (sig : List Byte)
  | busy
  | invalid
deriving DecidableEq, Repr

/-- The security root (R427 to R443). -/
structure Security where
  keyRevoked : BitVec 32
  svn : List W64
  commitFrom : Option (List W64 × BitVec 32)
  verifyUntil : Nat
  ownerHash : BitVec 384
  ownerSet : Bool
  images : List (Option Image)
  done : Bool
  kind : Nat
  source : Nat
  lastSource : Nat
  fetches : Nat
  refusals : Nat
  bytes : List Byte
  waitUntil : Option Nat
  askedAt : Nat
  fenceAsked : Bool
  committed : Bool
  nonceIx : Nat
  scopes : BitVec 4
  scopesDue : BitVec 4
  tokensRefused : Nat
  signedSince : Bool
deriving DecidableEq, Repr

/-- An open segment session (R450). -/
structure Session where
  key : Nat
  origin : Origin
  transaction : BitVec 16
  bytes : List Byte
  since : Nat
deriving DecidableEq, Repr

/-- A notification that is not acknowledged (R460). -/
structure Notify where
  sub : Nat
  transaction : BitVec 16
  cls : Nat
  logIx : Nat
  data : List Byte
  resends : Nat
  since : Nat
deriving DecidableEq, Repr

/-- The dictionary and its protocol (R444 to R461). Entries are keyed 256 × INDEX + SUBINDEX; an entry that was never written
holds its default. -/
structure Dictionary where
  acc : Tab (List Byte)
  eff : Tab (List Byte)
  held : List (Nat × Nat)
  sessions : List Session
  notifySeq : Nat
  outstanding : List Notify
  unanswered : List (Nat × Nat)
  logCount : Nat
  log : Tab (BitVec 256)
deriving DecidableEq, Repr

/-- A node mailbox (R480). -/
structure Mailbox where
  request : Tab Byte
  response : List Byte
  goWord : W64
  busy : Bool
  done : Bool
  ignored : Nat
deriving DecidableEq, Repr

/-- A context bank (R467, R468, R470): its selection, its last result, and the staged words of the three blocks by offset. -/
structure CtxBank where
  sel : Nat
  op : Nat
  code : Nat
  ctx : Nat
  staged : List (Nat × W64)
deriving DecidableEq, Repr

/-- The banks and mailboxes of the register space (R465). -/
structure Banks where
  ctx : Tab CtxBank
  link : Tab W64
  dram : Tab W64
  mail : Tab (Option Mailbox)
  qps : Tab (Option QueuePair)
deriving DecidableEq, Repr

/-- A counter block (R483, R492). -/
structure CounterBlock where
  cnt : List Nat
  ovf : List Bool
  seq : W32
  selGen : W32
  seen : List Nat
  gatheredAt : Nat
deriving DecidableEq, Repr

/-- Counters and sampling (R482 to R497). -/
structure Counters where
  blocks : List CounterBlock
  produced : List W32
  skipped : List W32
deriving DecidableEq, Repr

/-- A RoCE packet that an Ethernet-mode port sends, of at most 4,096 bytes of payload (R306): part `part` of `parts` of a request of R478 by its OPCODE, or
of an answer to one: 0x10 acknowledged, 0x11 read data, 0x12 remote access error, 0x13 sequence error, or a congestion notification, 0x14. The numbers of the
answers are the model's own. -/
structure RoceMsg where
  port : Nat
  qp : Nat
  op : Nat
  psn : Nat
  part : Nat
  parts : Nat
  addr : Nat
  rkey : Nat
  len : Nat
  data : List Byte
deriving DecidableEq, Repr

/-- What left the package, newest first: posted writes to host memory, MSI-X messages, packets by port, responses, notifications, answers to guests and
endpoints, data read by cores and host, writes into the PCIe range and the guest windows, RoCE messages, the last SPDM response, the flits of each link port,
and the time flits and delay requests with their timestamps. The model's own record of its outputs. -/
structure Outbox where
  host : List (Nat × List Byte)
  msix : List (Nat × W64 × W32)
  packets : List (Nat × Packet)
  responses : List (Origin × UleelMsg)
  notifies : List (Nat × List Byte)
  ibis : Nat
  replies : List (Nat × Option (List Byte))
  reads : List (Nat × List Byte)
  io : List (Nat × List Byte)
  roce : List RoceMsg
  spdm : Option SpdmResponse
  flits : List (Nat × List Byte)
  timing : List (Nat × Nat × Nat)
deriving DecidableEq, Repr

/-- The device's own state (R453 to R458) and its lifecycle (R498 to R521). -/
structure Device where
  variant : Variant
  dramSets : List Nat
  state : DevState
  since : Nat
  requestedBy : Nat
  degradedLater : Bool
  resetAt : Nat
  vin : Bool
  aoUp : Bool
  straps : Nat
  quiesceAt : Nat
  quiesceKilled : Nat
  quiesceReport : BitVec 256
  qnLow : Bool
  alertLow : Bool
  clocks : List Bool
  routeCommitted : Bool
  layout : Nat
  layoutDue : Bool
  layoutSince : Nat
deriving DecidableEq, Repr

/-- What the gated domains last showed the dictionary (R455): the state from which it samples the entries of units that sleep. -/
structure Asleep where
  parts : List PartSt
  fabric : Fabric
  guests : List GuestSt
  pe1 : List Pe1Port
  graceUntil : Option Nat
  brakedDies : List Bool
  procClock : List Nat
  spare : List Nat
  ctrs : Counters
deriving DecidableEq, Repr

/-- The package. `mem` is what the homes hold, byte by byte, by physical address; an unlisted byte reads as zero (R499). -/
structure State where
  pending : List Instr
  now : Nat
  freeIx : Nat
  dev : Device
  mem : List Host.Cell
  bad : List Nat
  ctxs : Tab Ctx
  parts : List PartSt
  threads : Threads
  streams : Streams
  coh : Coherence
  dram : Dram
  tlb : Translations
  fq : FaultQueue
  fabric : Fabric
  host : HostPort
  irq : Irq
  guests : List GuestSt
  pe1 : List Pe1Port
  power : Power
  integ : Integrity
  sec : Security
  dict : Dictionary
  banks : Banks
  ctrs : Counters
  asleep : Option Asleep
  out : Outbox
deriving DecidableEq, Repr

/-- The byte an unlisted address of memory holds: at READY every backed line reads as zero (R499). -/
abbrev memDefault : Byte := 0

/-- Memory is in its canonical form. -/
abbrev memWf (m : List Host.Cell) : Bool := tabWf memDefault m

/-- A link port at reset (R304). -/
def LinkPort.reset : LinkPort :=
  { state := 0, spareLane := 0xFF, laneOk := List.replicate 5 false, expect := 0, nak := false, txNext := 0, acked := 0xFFF, resends := 0,
    flitsResent := 0, flitsFailed := 0, corrected := List.replicate 5 0, partnerId := 0xFFFFF, moveLane := none, trained := false, congested := 0,
    paused := [], retry := [], ackAt := 0, queue := [], credits := List.replicate 8 32, owed := List.replicate 8 0, arriving := [], input := [],
    timeTx := none, timeRx := 0 }

/-- A queue pair at reset (R477). -/
def QueuePair.reset : QueuePair := ⟨0, 0, 0, 0, 0, 0, 0, [], 0, none, [], 0, 0, 0, 0, 0, 0⟩

/-- A mailbox at reset (R480). -/
def Mailbox.reset : Mailbox := ⟨[], [], 0, false, false, 0⟩

/-- A context bank at reset (R470). -/
def CtxBank.reset : CtxBank := ⟨0, 0, 0, 0, []⟩

/-- An empty ring (R475). -/
def Ring.reset : Ring := ⟨0, 0, 0, 0, false⟩

/-- The affinity sets at reset (R369): set 0 names every core of PD_0, set 32 every present core of PD_1. -/
def affinityReset (pd1 : Bool) : List (BitVec 128) :=
  (List.range 64).map fun a =>
    if a = 0 then 0xFFFFFFFFFFFF#128 else if a = 32 && pd1 then 0xFFFFFFFFFFFF000000000000#128 else 0#128

/-- The contexts, partitions, threads and streams hold nothing; every register at its reset value. -/
def State.reset : State where
  pending := []
  now := 0
  freeIx := 0
  dev := { variant := .a1024g0, dramSets := List.replicate 16 3, state := .booting, since := 0, requestedBy := 0, degradedLater := false, resetAt := 0, vin := true,
           aoUp := true, straps := 0, quiesceAt := 0, quiesceKilled := 0, quiesceReport := 0, qnLow := false, alertLow := false,
           clocks := [false, false, false, false, true], routeCommitted := false, layout := 0, layoutDue := false, layoutSince := 0 }
  mem := []
  bad := []
  ctxs := []
  parts := List.replicate 8 PartSt.fresh
  threads := ⟨[], [], [], [], [], 0⟩
  streams := ⟨[], 0, [], 0, 0, [], []⟩
  coh := { dir := [], copies := [], l1 := [], atHome := [], inAgent := [], msgs := [], wb := [], heldFwds := [], owedAcks := [], notices := [], dead := [],
           parked := [], beats := [], sent := [], recalls := 0 }
  dram := { temps := List.replicate 16 0, steps := List.replicate 16 0, pcState := [], copying := [], copyDue := [], corrected := [],
            uncorrectable := [], pcRepairs := [], rowRepairs := List.replicate 16 0, softRows := [], repairDue := [],
            spare := List.replicate 16 0xFF, results := [], retraining := [], queues := [], placeTurn := [] }
  tlb := ⟨[], [], []⟩
  fq := { ring := ⟨0, 6, 0, 0, false⟩, nextIndex := 0, waiting := [], pending := [], resumesIgnored := 0, accessErrors := 0,
          pools := List.replicate 17 Ring.reset, releases := List.replicate 2 Ring.reset }
  fabric := { ports := List.replicate 16 LinkPort.reset, table := [], shift := 10, tx := [], unacked := [], seen := [], remote := [],
              refused := 0, drops := 0, runs := [], early := [], straggler := [], parade := ⟨0, 0, 0, false, 0, none, [], []⟩,
              timeLocked := false, timeOffset := 0, sourceLost := false, slew := 0, ptp := ⟨0, 0, none, none⟩, peers := [], ended := [], own := [] }
  host := ⟨true, [], 0, 0, false, false, [], 0, 0⟩
  irq := { cfg := [], src := [], aff := affinityReset true, held := [],
           slices := List.replicate 2 ⟨settled 20, 0, 0, false⟩, cores := [], stamp := 0 }
  guests := List.replicate 2 ⟨0, 0, 0, 0, [], 65536, 0⟩
  pe1 := List.replicate 2 ⟨0, false, 0, false, 0, []⟩
  power := { graceUntil := none, prevCap := 4400, capTick := 4400, brakedDies := List.replicate 2 false,
             procClock := List.replicate 2 3200, steps := List.replicate 8 0, dieTemps := List.replicate 20 0,
             energyMj := 0, unattributedMj := 0, lastTrip := List.replicate 32 0, tripLow := false, gated := [], idleClock := List.replicate 8 800, firstIdle := none }
  integ := { tiles := List.replicate 8 (List.range 8), spare := List.replicate 8 true, units := List.replicate 8 64,
             streams := List.replicate 8 16, ways := List.replicate 8 28, computeFenced := List.replicate 8 false,
             cores := [48, 48], portsFenced := 0, dramDegraded := 0, generation := 0, trayReplace := false, fences := [],
             levels := [], lasting := [], used := [], checkedAt := [], passes := [], spares := [], sensors := [], leakFrom := [], shadowed := [] }
  sec := { keyRevoked := 0, svn := List.replicate 8 0, commitFrom := none, verifyUntil := 0, ownerHash := 0, ownerSet := false, images := List.replicate 8 none,
           done := false, kind := 0, source := 1, lastSource := 1, fetches := 0, refusals := 0, bytes := [], waitUntil := none,
           askedAt := 0, fenceAsked := false, committed := false, nonceIx := 0, scopes := 0, scopesDue := 0, tokensRefused := 0,
           signedSince := false }
  dict := ⟨[], [], [], [], 0, [], [], 0, []⟩
  banks := ⟨[], [], [], [], []⟩
  ctrs := ⟨List.replicate 28 ⟨List.replicate 8 0, List.replicate 8 false, 0, 0, List.replicate 8 0, 0⟩, List.replicate 8 0, List.replicate 8 0⟩
  asleep := none
  out := ⟨[], [], [], [], [], 0, [], [], [], [], none, [], []⟩

end Sys2Proof.Machine
end

