-- ==== Sys2Proof/Machine/Ops.lean ====
section
/-! DEFINITION. The named operations over the state that every family shares: time, contexts, partitions, the answer a read
gives, free values, and what one order code has. -/

namespace Sys2Proof.Machine

/-- The outcome of one command. -/
abbrev Res := Host.Outcome State Fault Refusal

/-- Device time moves on to `t`, never back (R340). -/
def State.advance (s : State) (t : Nat) : State := { s with now := max s.now t }

/-- A unit is no longer power-gated (R408). -/
def State.ungate (s : State) (u : GateUnit) : State := { s with power := { s.power with gated := s.power.gated.filter fun x => x != u } }

/-- Context `c`. -/
def State.ctx (s : State) (c : Nat) : Ctx := tabGet Ctx.free s.ctxs c

/-- Replaces context `c`. -/
def State.setCtx (s : State) (c : Nat) (x : Ctx) : State := { s with ctxs := tabPut Ctx.free s.ctxs c x }

/-- Changes context `c`. -/
def State.updCtx (s : State) (c : Nat) (f : Ctx → Ctx) : State := s.setCtx c (f (s.ctx c))

/-- Partition P_k. -/
def State.part (s : State) (k : Nat) : PartSt := s.parts.getD k PartSt.fresh

/-- Replaces partition P_k. -/
def State.setPart (s : State) (k : Nat) (x : PartSt) : State := { s with parts := s.parts.set k x }

/-- Changes partition P_k. -/
def State.updPart (s : State) (k : Nat) (f : PartSt → PartSt) : State := s.setPart k (f (s.part k))

/-- The stacks in partition order (R55). -/
def partOrder : List Nat := [0, 1, 4, 5, 2, 3, 6, 7]

/-- The partition number a layout gives CS_n, 15 for none (R56). -/
def layoutOf (map n : Nat) : Nat := bitsOf map (4 * n) 4

/-- The stacks of P_k under a layout, in partition order. -/
def stacksIn (map k : Nat) : List Nat := partOrder.filter fun n => layoutOf map n == k

/-- The stacks of P_k in the present layout. -/
def State.stacks (s : State) (k : Nat) : List Nat := stacksIn s.dev.layout k

/-- P_k exists in the present layout. -/
def State.partExists (s : State) (k : Nat) : Bool := !(s.stacks k).isEmpty

/-- The partition of CS_n, when it belongs to one. -/
def State.partOfStack (s : State) (n : Nat) : Option Nat :=
  let k := layoutOf s.dev.layout n
  if k < 8 then some k else none

/-- The numbers of the partitions of the present layout. -/
def State.partNums (s : State) : List Nat := (List.range 8).filter fun k => s.partExists k

/-- The created contexts, in ascending number. -/
def State.ctxNums (s : State) : List Nat := s.ctxs.map Prod.fst

/-- A fresh free value: nothing constrains it (R47 and the open values of the assumption log). -/
def State.free (s : State) : Nat × State := ((Config.freeWord s.freeIx).toNat, { s with freeIx := s.freeIx + 1 })

/-- What a read answers: the offset or address it named, and the bytes. -/
def State.answer (s : State) (off : Nat) (d : List Byte) : State := { s with out := { s.out with reads := (off, d) :: s.out.reads } }

/-- A posted write or a message that leaves through PE0 (R353, R356), which wakes for it (R408). -/
def State.toHost (s : State) (addr : Nat) (d : List Byte) : State := { s.ungate (.pcie 0) with out := { s.out with host := (addr, d) :: s.out.host } }

/-- A packet handed to link port `port` (R314). -/
def State.toPort (s : State) (port : Nat) (pk : Packet) : State := { s with out := { s.out with packets := (port, pk) :: s.out.packets } }

/-- PD_1, PE1 and the guest sites are absent on IVS-B1024 (R1). -/
def hasPd1 (v : Variant) : Bool := v != .b1024

/-- The G2 order code carries two guest dies (R1, R463). -/
def hasGuests (v : Variant) : Bool := v == .a1024g2

/-- Backed GiB of each DRAM slot (R54). -/
def dramGiB (v : Variant) : Nat := if v == .a768g0 then 48 else 64

/-- Core `k` exists. -/
def corePresent (v : Variant) (k : Nat) : Bool := decide (k < 48) || (decide (k < 96) && hasPd1 v)

/-- The domains beside the always-on domain run: they are gated in OFF, in STANDBY and after a trip, and a package fault stops them (R405, R409, R417). -/
def State.powered (s : State) : Bool := !(s.dev.state == .off || s.dev.state == .standby || s.dev.state == .fault)

/-- What node software does through the register space acts while the hubs run (R409). -/
def State.whenPowered (s : State) (f : State → State) : Res := .next (if s.powered then f s else s)

/-- The device is in one of READY, RUNNING and DEGRADED. -/
def State.live (s : State) : Bool := s.dev.state == .ready || s.dev.state == .running || s.dev.state == .degraded

/-- A context that is RUNNABLE or PARKED. -/
def ctxActive (x : Ctx) : Bool := x.st == .runnable || x.st == .parked

/-- Some context is RUNNABLE or PARKED (R453, R454). -/
def State.anyActive (s : State) : Bool := s.ctxs.any fun e => ctxActive e.2

/-- The sequencer takes operations: not while QUIESCED, nor while DRAINING at an external request (R32), nor while SCAN or MEM_RAW is
open (R442). -/
def State.taking (s : State) : Bool := s.live && decide (s.sec.scopes.toNat < 4)

/-- Status codes of contexts as CTX_INFO.STATE shows them (R470). -/
def ctxStateCode : CtxState → Nat
  | .free => 0 | .stopped => 1 | .runnable => 2 | .parked => 3 | .halted => 4 | .killed => 5

/-- Adds `n` to a 32-bit free-running count (R16). -/
def w32Add (a : W32) (n : Nat) : W32 := a + BitVec.ofNat 32 n

/-- How far free-running count `a` is ahead of `b` (R16). -/
def w32Diff (a b : W32) : Nat := (a - b).toNat

/-- The sorted insertion of a number, without repeats. -/
def insNat (x : Nat) : List Nat → List Nat
  | [] => [x]
  | y :: r => if x < y then x :: y :: r else if x = y then y :: r else y :: insNat x r

/-- Inserts `x` before the first element that `lt` puts after it: a stable sort's step. -/
def insBy {α : Type} (lt : α → α → Bool) (x : α) : List α → List α
  | [] => [x]
  | y :: r => if lt x y then x :: y :: r else y :: insBy lt x r

/-- Sorts by `lt`, stably. -/
def sortBy {α : Type} (lt : α → α → Bool) (l : List α) : List α := l.foldl (fun acc x => insBy lt x acc) []

end Sys2Proof.Machine
end

