-- ==== Sys2Proof/Machine/Irq.lean ====
section
/-! DEFINITION. The interrupt controller (R366 to R380): sources, coalescing, routing and presentation, claim and completion. -/

namespace Sys2Proof.Machine

/-- A source's configuration word in effect; COAL_COUNT resets to 1 (R378). -/
def Irq.cfgOf (q : Irq) (n : Nat) : Nat := (tabGet 0x10000#64 q.cfg n).toNat

def cfgPrio (w : Nat) : Nat := bitsOf w 0 4
def cfgEnable (w : Nat) : Bool := bitAt w 4
def cfgLevel (w : Nat) : IrqLevel := if bitAt w 5 then .m else .s
def cfgAff (w : Nat) : Nat := bitsOf w 6 6
def cfgCount (w : Nat) : Nat := bitsOf w 16 16
def cfgUs (w : Nat) : Nat := bitsOf w 32 16

/-- A source's state. -/
def Irq.srcOf (q : Irq) (n : Nat) : SrcState := tabGet SrcState.idle q.src n

/-- Replaces a source's state. -/
def Irq.setSrc (q : Irq) (n : Nat) (x : SrcState) : Irq := { q with src := tabPut SrcState.idle q.src n x }

/-- A core's registers. -/
def Irq.coreOf (q : Irq) (k : Nat) : CoreSt := tabGet CoreSt.reset q.cores k

/-- Replaces a core's registers. -/
def Irq.setCore (q : Irq) (k : Nat) (x : CoreSt) : Irq := { q with cores := tabPut CoreSt.reset q.cores k x }

/-- The threshold of a core at a level. -/
def thrOf (x : CoreSt) : IrqLevel → Nat
  | .s => x.thrS
  | .m => x.thrM

/-- One more than the current priority of a core at a level, so that −1 is 0 (R371). -/
def Irq.curPrio (q : Irq) (k : Nat) (lv : IrqLevel) : Nat :=
  q.src.foldl (fun m e => if e.2.service == some (k, lv) then max m (cfgPrio (q.cfgOf e.1) + 1) else m) (thrOf (q.coreOf k) lv)

/-- The conditions of R371 on a source at a core. -/
def Irq.eligible (q : Irq) (n k : Nat) : Bool :=
  let w := q.cfgOf n
  let x := q.srcOf n
  ((q.aff.getD (cfgAff w) 0).getLsbD k) && decide (q.curPrio k (cfgLevel w) < cfgPrio w + 1) && !x.mask && x.service.isNone

/-- Whether coalescing makes the source pending (R370). -/
def coalesced (w : Nat) (x : SrcState) (now : Nat) : Bool :=
  cfgEnable w && (x.pend || decide (cfgCount w ≤ x.count) ||
    (decide (0 < x.count) && decide (0 < cfgUs w) &&
      match x.first with
      | some t => decide (t + 1000 * cfgUs w ≤ now)
      | none => false))

/-- The better of two cores to present to: lower current priority, then least recently chosen, then the lower number (R371). -/
def Irq.better (q : Irq) (lv : IrqLevel) (a b : Nat) : Bool :=
  let pa := q.curPrio a lv
  let pb := q.curPrio b lv
  decide (pa < pb) || (pa == pb && decide ((q.coreOf a).chosen < (q.coreOf b).chosen))

/-- The core that a source is presented to, among 96. -/
def Irq.choose (q : Irq) (n : Nat) : Option Nat :=
  let lv := cfgLevel (q.cfgOf n)
  let cand := (List.range 96).filter fun k => q.eligible n k && !((q.srcOf n).excluded.contains k)
  cand.foldl (fun best k =>
    match best with
    | none => some k
    | some b => if q.better lv k b then some k else some b) none

/-- A source is presented to a core: it was chosen last, and one that sleeps will wake (R371, R373). -/
def CoreSt.presented (c : CoreSt) (now stamp : Nat) : CoreSt :=
  { c with chosen := stamp, wokenAt := if c.sleep ≠ 0 ∧ c.wokenAt.isNone then some now else c.wokenAt }

/-- Presentation of one source: it leaves a core where it stopped being eligible and is routed again at once (R371, R372). -/
def Irq.route (q : Irq) (now n : Nat) : Irq :=
  let w := q.cfgOf n
  let x0 := q.srcOf n
  let x := { x0 with pend := coalesced w x0 now }
  let keeps := match x.shown with
    | some (k, lv) => x.pend && lv == cfgLevel w && q.eligible n k
    | none => false
  if keeps then q.setSrc n x
  else
    let q1 := q.setSrc n { x with shown := none }
    if x.pend && !x.mask && x.service.isNone then
      match q1.choose n with
      | some k =>
        let q2 := q1.setSrc n { x with shown := some (k, cfgLevel w), shownAt := now, excluded := [] }
        { q2.setCore k ((q2.coreOf k).presented now (q2.stamp + 1)) with stamp := q2.stamp + 1 }
      | none => q1
    else q1

/-- Every source is routed again, in ascending number. -/
def Irq.routeAll (q : Irq) (now : Nat) : Irq := (q.src.map Prod.fst).foldl (fun r n => r.route now n) q

/-- Counts one event on source `n` (R368, R370). A fixed source that R366 does not list receives none. -/
def Irq.event (q : Irq) (now n : Nat) : Irq :=
  let x := q.srcOf n
  if cfgEnable (q.cfgOf n) && decide (n ≤ 7961) then
    (q.setSrc n { x with count := min 65535 (x.count + 1), first := if x.first.isSome then x.first else some now }).route now n
  else q

/-- An event on a source of the package. -/
def State.raise (s : State) (n : Nat) : State := { s with irq := s.irq.event s.now n }

/-- The slice that presents a core's sources. -/
def sliceOfCore (k : Nat) : Nat := k / 48

/-- A slice's control. -/
def Irq.sliceOf (q : Irq) (m : Nat) : SliceCtl := q.slices.getD m ⟨settled 20, 0, 0, false⟩

/-- Replaces a slice's control. -/
def Irq.setSlice (q : Irq) (m : Nat) (x : SliceCtl) : Irq := { q with slices := q.slices.set m x }

/-- A write that is ignored and counted in WRITES_IGNORED, saturating (R369, R379). -/
def Irq.ignore (q : Irq) (m : Nat) : Irq := q.setSlice m { q.sliceOf m with ignored := satInc 16 (q.sliceOf m).ignored }

/-- The sources presented to a core at a level: priority and number. -/
def Irq.shownAtCore (q : Irq) (k : Nat) (lv : IrqLevel) : List (Nat × Nat) :=
  (q.src.filter fun e => e.2.shown == some (k, lv)).map fun e => (cfgPrio (q.cfgOf e.1), e.1)

/-- The source that a claim returns: the highest priority, the lowest number among equals (R374). -/
def claimPick (l : List (Nat × Nat)) : Option Nat :=
  (l.foldl (fun (best : Option (Nat × Nat)) e =>
    match best with
    | none => some e
    | some b => if b.1 < e.1 || (b.1 == e.1 && e.2 < b.2) then some e else some b) none).map Prod.snd

/-- The word a CLAIM read returns (R380). -/
def claimWord (n count : Nat) : Nat := n + count * 2 ^ 32 + 2 ^ 63

/-- `mip` of a core: MSIP follows its register (R380), STIP, VSTIP and MTIP stand while device time is at or above the compare register (R362, R364,
R380), SEIP and MEIP while a source is presented to the core at the level (R372), and LCOFIP is the overflow of a counter (R494). -/
def State.mip (s : State) (k : Nat) : Nat :=
  let c := s.irq.coreOf k
  b2n c.msip * 2 ^ 3 + b2n (decide (c.stimecmp.toNat ≤ s.now)) * 2 ^ 5 + b2n (decide (c.vstimecmp.toNat ≤ s.now)) * 2 ^ 6 +
    b2n (decide (c.mtimecmp.toNat ≤ s.now)) * 2 ^ 7 + b2n (!(s.irq.shownAtCore k .s).isEmpty) * 2 ^ 9 + b2n (!(s.irq.shownAtCore k .m).isEmpty) * 2 ^ 11 +
    b2n c.lcofi * 2 ^ 13

/-- The address of a core's CLAIM register at a level, as an offset in the register space (R377, R380, R465). -/
def claimOffset (k : Nat) (lv : IrqLevel) : Nat :=
  0x2100000 + 0x40000 * (k / 48) + 0x30000 + 128 * (k % 48) + (match lv with | .s => 0x08 | .m => 0x48)

/-- The controller after a claim of source `n` by core `k` at level `lv` (R374). -/
def Irq.claim (q : Irq) (now n k : Nat) (lv : IrqLevel) : Irq :=
  let x := q.srcOf n
  (q.setSrc n { x with count := 0, first := none, service := some (k, lv), shown := none, excluded := [], pend := false }).routeAll now

/-- `INTERRUPT_EVENT` (R370): an event is counted on source `n`. Fixed sources are numbered 7,936 and up (R366). -/
def execInterruptEvent (n : Fin 8192) (s : State) : Res := .next (s.raise n)

/-- `COALESCE_TIMEOUT` (R370): COAL_US has elapsed since the first event after the last claim. -/
def execCoalesceTimeout (n : Fin 8192) (s : State) : Res :=
  let w := s.irq.cfgOf n
  let x := s.irq.srcOf n
  match x.first with
  | some t =>
    if cfgEnable w && 0 < x.count && 0 < cfgUs w then
      let s1 := s.advance (t + 1000 * cfgUs w)
      .next { s1 with irq := s1.irq.route s1.now n }
    else .next s
  | none => .next s

/-- `REROUTE_TIMEOUT` (R372): REROUTE_US passes without a claim; the source is routed again with its core excluded. -/
def execRerouteTimeout (n : Fin 8192) (s : State) : Res :=
  let x := s.irq.srcOf n
  match x.shown with
  | some (k, _) =>
    let m := sliceOfCore k
    let sl := s.irq.sliceOf m
    let us := bitsOf sl.control.eff.toNat 0 16
    if us = 0 then .next s
    else
      let s1 := s.advance (x.shownAt + 1000 * us)
      let q1 := (s1.irq.setSrc n { x with shown := none, excluded := [k] }).setSlice m { sl with reroutes := satInc 16 sl.reroutes }
      .next { s1 with irq := q1.route s1.now n }
  | none => .next s

/-- A read of CLAIM (R374). -/
def State.claimRead (s : State) (k : Nat) (lv : IrqLevel) : State :=
  if corePresent s.dev.variant k then
    match claimPick (s.irq.shownAtCore k lv) with
    | some n =>
      (({ s with irq := s.irq.claim s.now n k lv }).answer (claimOffset k lv) (leBytes (claimWord n (s.irq.srcOf n).count) 8))
    | none => (s.answer (claimOffset k lv) (leBytes 0 8))
  else (s.answer (claimOffset k lv) (leBytes 0 8))

/-- `CLAIM` (R374): a read of a core's CLAIM register. -/
def execClaim (k : Fin 96) (lv : IrqLevel) (s : State) : Res := s.whenPowered fun t => t.claimRead k lv

/-- A write of COMPLETE (R375). -/
def State.completeWrite (s : State) (k : Nat) (lv : IrqLevel) (v : W64) : State :=
  if corePresent s.dev.variant k then
    let n := bitsOf v.toNat 0 13
    let x := s.irq.srcOf n
    if x.service == some (k, lv) then
      { s with irq := (s.irq.setSrc n { x with service := none }).routeAll s.now }
    else { s with irq := s.irq.ignore (sliceOfCore k) }
  else s

/-- `COMPLETE` (R375): ends a source's service on the core, or is ignored and counted. -/
def execComplete (k : Fin 96) (lv : IrqLevel) (v : BitVec 64) (s : State) : Res := s.whenPowered fun t => t.completeWrite k lv v

/-- A write of SET_PEND (R379). -/
def State.setPendWrite (s : State) (die : Nat) (v : W64) : State :=
  if die == 0 || hasPd1 s.dev.variant then (s.raise (bitsOf v.toNat 0 13)) else s

/-- `SET_PEND` (R379): counts one event on the named source, through either slice. -/
def execSetPend (die : Fin 2) (v : BitVec 64) (s : State) : Res := s.whenPowered fun t => t.setPendWrite die v

/-- A write of a source's MASK (R378). -/
def State.maskSource (s : State) (n : Nat) (v : W64) : State :=
  { s with irq := (s.irq.setSrc n { s.irq.srcOf n with mask := bitAt v.toNat 2 }).route s.now n }

/-- `MASK_WRITE` (R378): the MASK bit of a source's state word. -/
def execMaskWrite (n : Fin 8192) (v : BitVec 64) (s : State) : Res := s.whenPowered fun t => t.maskSource n v

/-- A write of a core's THRESHOLD (R371, R380). -/
def State.setThreshold (s : State) (k : Nat) (lv : IrqLevel) (v : W64) : State :=
  if corePresent s.dev.variant k then
    let t := bitsOf v.toNat 0 5
    if 16 < t then { s with irq := s.irq.ignore (sliceOfCore k) }
    else
      let c := s.irq.coreOf k
      let c1 := match lv with
        | .s => { c with thrS := t }
        | .m => { c with thrM := t }
      { s with irq := (s.irq.setCore k c1).routeAll s.now }
  else s

/-- `THRESHOLD_WRITE` (R371, R380): 0 to 16; a larger value is ignored and counted (R369). -/
def execThresholdWrite (k : Fin 96) (lv : IrqLevel) (v : BitVec 64) (s : State) : Res := s.whenPowered fun t => t.setThreshold k lv v

/-- A held configuration word accepted by a slice block (R369, R378): ranges are checked on the whole word. -/
def Irq.hold (q : Irq) (kind n : Nat) (v : BitVec 128) (now : Nat) : Irq :=
  { q with held := (q.held.filter fun h => !(h.kind == kind && h.n == n)) ++ [⟨kind, n, v, now⟩] }

/-- Applies one held word at a tick boundary (R368): 0 a source's configuration, 1 an affinity set, 2 a slice's control, 3 a
core's SLEEP_DEPTH. -/
def Irq.applyHeld (q : Irq) (h : HeldWord) : Irq :=
  if h.kind == 1 then { q with aff := q.aff.set h.n h.v }
  else if h.kind == 2 then q.setSlice h.n { q.sliceOf h.n with control := settled (h.v.setWidth 64) }
  else if h.kind == 3 then q.setCore h.n { q.coreOf h.n with depth := settled h.v.toNat }
  else
    let w := h.v.setWidth 64
    let q1 := { q with cfg := tabPut 0x10000#64 q.cfg h.n w }
    if cfgEnable w.toNat then q1
    else q1.setSrc h.n { q1.srcOf h.n with count := 0, first := none, shown := none, pend := false, excluded := [] }

/-- A held value accepted at `since` takes effect at the tick boundary `now`: the first at least 10 µs later (R38). -/
def tickDue (now since : Nat) : Bool := decide (since + 10000 ≤ now)

/-- The controller's held words take effect at a tick boundary (R38, R368). -/
def Irq.tick (q : Irq) (now : Nat) : Irq :=
  let due := q.held.filter fun h => tickDue now h.since
  (due.foldl Irq.applyHeld { q with held := q.held.filter fun h => !(tickDue now h.since) }).routeAll now

end Sys2Proof.Machine
end

