-- ==== Sys2Proof/Machine/Settings.lean ====
section
/-! DEFINITION. The entries of the dictionary (R444 to R446, R463, R464 and the tables of each chapter): what each is, what it holds
when nothing wrote it, which values it accepts, and at which boundary a written value takes effect. -/

namespace Sys2Proof.Machine

/-- Access codes (R9). -/
inductive Acc where
  | ro | rw | rwb | wo | rws
deriving DecidableEq, Repr

/-- Where an accepted value takes effect: at once, at a tick boundary, at the latch point of the partition its subindex names, at
the latch point of the partition of the stack its subindex names, at each domain's own boundary (R39), or at a guest's next
reset (R383). -/
inductive Dom where
  | now | tick | latch | stack | both | guest
deriving DecidableEq, Repr

/-- One run of entries: the subindices `lo` to `hi` of an index, of one size in bytes, with one default and one range. `vhi` of 0
leaves the value to its own rule. -/
structure Entry where
  ix : Nat
  lo : Nat
  hi : Nat
  size : Nat
  acc : Acc
  dflt : Nat
  vlo : Nat
  vhi : Nat
  dom : Dom
deriving DecidableEq, Repr

/-- A read-only run. -/
def entRo (ix lo hi size dflt : Nat) : Entry := ⟨ix, lo, hi, size, .ro, dflt, 0, 0, .now⟩

def entriesIdentity : List Entry :=
  [entRo 0x1000 1 1 7 0x6C69_6E65_7674_41, entRo 0x1000 2 2 5 0x73_6176_7649, entRo 0x1000 3 3 12 0, entRo 0x1000 4 4 12 0,
   entRo 0x1000 5 6 1 1, entRo 0x1010 1 1 8 0, entRo 0x1011 1 16 4 0]

def entriesPower : List Entry :=
  [entRo 0x2060 1 16 4 0, entRo 0x2061 1 16 1 0, entRo 0x2100 1 2 4 0, ⟨0x2100, 3, 3, 4, .rwb, 4400, 600, 4400, .both⟩,
   entRo 0x2100 4 4 4 0, entRo 0x2100 5 6 8 0, entRo 0x2110 1 8 2 800, entRo 0x2111 1 2 2 3200, entRo 0x2120 1 20 4 0,
   entRo 0x2121 1 8 1 0, entRo 0x2130 1 1 32 0]

def entriesPartition : List Entry :=
  [⟨0x3010, 1, 1, 4, .rwb, 0, 0, 0, .both⟩, ⟨0x3020, 1, 1, 4, .rwb, 5000, 100, 1000000, .both⟩,
   ⟨0x3030, 1, 8, 1, .rwb, 0, 0, 28, .latch⟩, ⟨0x3031, 1, 8, 1, .rwb, 1, 0, 28, .latch⟩,
   ⟨0x3040, 1, 8, 4, .rwb, 1000, 10, 4294967294, .latch⟩, ⟨0x3041, 1, 8, 4, .rwb, 1000000, 10, 4294967295, .latch⟩,
   ⟨0x3042, 1, 8, 4, .rwb, 0xFFFFFFFF, 10, 4294967295, .latch⟩, ⟨0x3050, 1, 8, 1, .rwb, 0, 0, 1, .latch⟩,
   ⟨0x3060, 1, 8, 2, .rwb, 64, 1, 65535, .latch⟩, ⟨0x3061, 1, 8, 2, .rwb, 256, 0, 4096, .latch⟩]

def entriesPorts : List Entry :=
  [⟨0x4010, 1, 16, 1, .rwb, 1, 0, 2, .tick⟩, ⟨0x4011, 1, 16, 1, .rwb, 2, 0, 2, .tick⟩, entRo 0x4012 1 16 1 0,
   entRo 0x4013 1 16 1 0xFF, ⟨0x4020, 1, 3, 1, .rwb, 7, 5, 7, .tick⟩, ⟨0x4030, 1, 16, 1, .rws, 1, 0, 1, .tick⟩,
   ⟨0x4100, 1, 1, 4, .rws, 0xFFFFF, 0, 0xFFFFF, .now⟩, ⟨0x4100, 2, 2, 1, .rw, 10, 5, 15, .now⟩,
   ⟨0x4100, 3, 3, 1, .rwb, 0, 0, 1, .tick⟩, ⟨0x4110, 1, 128, 4096, .rw, 0, 0, 0, .now⟩, entRo 0x4200 1 2 1 0,
   ⟨0x4201, 1, 2, 1, .rws, 0, 1, 2, .now⟩, ⟨0x4202, 1, 2, 1, .rwb, 5, 0, 5, .guest⟩,
   ⟨0x4203, 1, 2, 2, .rwb, 256, 1, 256, .tick⟩, entRo 0x4204 1 2 0 0, ⟨0x4205, 1, 2, 48, .rws, 0, 0, 0, .now⟩,
   entRo 0x4206 1 2 8 0, ⟨0x4210, 1, 16, 16, .rwb, 0, 0, 0, .tick⟩, ⟨0x4211, 1, 16, 16, .rwb, 0, 0, 0, .tick⟩,
   ⟨0x4300, 1, 1, 1, .rwb, 0, 0, 1, .tick⟩, ⟨0x4301, 1, 2, 1, .rwb, 0, 0, 2, .tick⟩, entRo 0x4302 1 2 4 0,
   ⟨0x4310, 1, 16, 16, .rwb, 0, 0, 0, .tick⟩, ⟨0x4311, 1, 16, 16, .rwb, 0, 0, 0, .tick⟩, entRo 0x4400 1 1 6 0,
   ⟨0x4400, 2, 2, 1, .rwb, 0, 0, 1, .tick⟩, ⟨0x4400, 3, 3, 4, .rwb, 0, 0, 0, .tick⟩, ⟨0x4400, 4, 4, 16, .rwb, 0, 0, 0, .tick⟩,
   ⟨0x4400, 5, 5, 2, .rwb, 42464, 1024, 65534, .tick⟩, entRo 0x4400 6 6 1 0, ⟨0x4410, 1, 4, 32, .rwb, 0, 0, 0, .tick⟩]

def entriesNumerics : List Entry := [entRo 0x5080 1 15 4160 0, entRo 0x5081 1 4 4096 0]

/-- The defaults of the twelve bucket classes: threshold and window in ms (R423). -/
def bucketDefaults : List (Nat × Nat) :=
  [(2, 86400000), (64, 3600000), (100, 1000), (16, 1000), (16, 3600000), (16, 3600000), (16, 3600000), (3, 86400000),
   (3, 86400000), (1, 1), (3, 86400000), (3, 3600000)]

def entriesBuckets : List Entry :=
  (List.range 12).flatMap fun i =>
    let d := bucketDefaults.getD i (1, 1)
    [⟨0x6101 + i, 1, 1, 4, .rwb, d.1, 1, 65535, .tick⟩, ⟨0x6101 + i, 2, 2, 4, .rwb, d.2, 1, 4294967295, .tick⟩,
     ⟨0x6101 + i, 3, 3, 1, .rwb, 2, 0, 2, .tick⟩, entRo (0x6101 + i) 4 4 4 0]

def entriesIntegrity : List Entry :=
  [⟨0x6010, 1, 1, 2, .rwb, 24, 1, 168, .tick⟩, ⟨0x6010, 2, 2, 2, .rwb, 60, 1, 1440, .tick⟩] ++ entriesBuckets ++
  [entRo 0x6200 1 1 64 0, entRo 0x6200 2 2 4 0, entRo 0x6200 3 3 1 0, entRo 0x6200 4 4 0 0]

def entriesSecurity : List Entry :=
  [entRo 0x7000 1 1 4 0, entRo 0x7001 1 8 1 0, entRo 0x7001 0x11 0x18 1 0, entRo 0x7002 1 1 4 0, entRo 0x7003 1 1 0 0,
   ⟨0x7010, 1, 1, 48, .rws, 0, 0, 0, .now⟩, entRo 0x7030 1 1 32 0, ⟨0x7030, 2, 2, 192, .wo, 0, 0, 0, .now⟩, entRo 0x7030 3 3 4 0,
   entRo 0x7030 4 4 1 0]

def entriesJob : List Entry :=
  [entRo 0x8000 1 1 1 0, entRo 0x8000 2 2 8 0, entRo 0x8000 3 3 1 0, ⟨0x8010, 1, 1, 1, .rwb, 1, 0, 2, .tick⟩,
   ⟨0x8010, 2, 2, 1, .rwb, 0, 0, 15, .tick⟩, entRo 0x8010 3 3 1 0, entRo 0x8010 4 4 4 0, entRo 0x8010 5 5 8 0,
   ⟨0x8020, 1, 1, 1, .rwb, 0, 0, 1, .tick⟩, ⟨0x8020, 2, 2, 1, .rwb, 75, 0, 100, .tick⟩, ⟨0x8020, 3, 3, 4, .rwb, 50, 1, 1000000, .tick⟩,
   ⟨0x8021, 1, 1, 4, .rwb, 500, 1, 4294967295, .tick⟩, entRo 0x8021 2 2 32 0, ⟨0x8022, 1, 1, 4, .rwb, 10000, 2000, 10000000, .tick⟩,
   ⟨0x8030, 1, 1, 128, .rwb, 0, 0, 0, .tick⟩, entRo 0x8030 2 2 4 0, entRo 0x8040 1 1 1 0, ⟨0x8040, 2, 6, 2, .rwb, 0xFFFF, 0, 0xFFFF, .tick⟩,
   entRo 0x8060 1 1 1 0, ⟨0x8061, 1, 16, 128, .rwb, 0, 0, 0, .tick⟩, ⟨0x8062, 1, 1, 4096, .rwb, 256 ^ 4096 - 1, 0, 0, .tick⟩,
   ⟨0x8063, 1, 1, 4, .rwb, 1000, 10, 600000, .tick⟩, entRo 0x8063 2 2 32 0, ⟨0x8100, 1, 6, 0, .wo, 0, 0, 0, .now⟩]

def entriesCounters : List Entry :=
  (List.range 28).flatMap fun b =>
    let dom := if 20 ≤ b then Dom.latch else Dom.tick
    [⟨0x9100 + b, 1, 8, 8, .rwb, 0, 0, 0, dom⟩, ⟨0x9100 + b, 9, 9, 2, .rwb, 0, 0, 0, dom⟩,
     ⟨0x9100 + b, 10, 10, 2, .rwb, 0, 0, 0, dom⟩, entRo (0x9100 + b) 11 11 128 0]

def entriesDiagnostics : List Entry :=
  [entRo 0x9000 1 1 4 0, entRo 0x9000 2 2 8192 0,
   ⟨0x9010, 1, 8, 1, .rwb, 1, 0, 1, .stack⟩, ⟨0x9010, 0x11, 0x18, 1, .rwb, 0, 0, 1, .stack⟩, entRo 0x9010 0x21 0x28 1 0,
   ⟨0x9011, 1, 8, 1, .rwb, 1, 0, 1, .stack⟩, ⟨0x9011, 0x11, 0x18, 1, .rwb, 0, 0, 1, .stack⟩, entRo 0x9011 0x21 0x28 1 0,
   ⟨0x9012, 1, 4, 1, .rwb, 1, 0, 1, .tick⟩, ⟨0x9012, 0x11, 0x14, 1, .rwb, 0, 0, 1, .tick⟩, entRo 0x9012 0x21 0x24 1 0,
   ⟨0x9040, 1, 1, 2, .rws, 0, 0, 0, .now⟩, entRo 0x9041 1 16 18200 0, entRo 0x9042 1 16 4 0, entRo 0x9043 1 16 1 0xFF] ++
  entriesCounters ++
  [⟨0x9150, 1, 1, 8, .rwb, 0, 0, 0, .tick⟩, ⟨0x9160, 1, 8, 32, .rwb, 0, 0, 0, .latch⟩, entRo 0x9161 1 8 4 0,
   ⟨0x9162, 1, 8, 4, .rw, 0, 0, 0, .now⟩, entRo 0x9163 1 8 4 0, entRo 0x9171 1 8 8192 0]

/-- Every entry of the dictionary but the subindices 0x00. -/
def entries : List Entry :=
  entriesIdentity ++ entriesPower ++ entriesPartition ++ entriesPorts ++ entriesNumerics ++ entriesIntegrity ++ entriesSecurity ++
  entriesJob ++ entriesDiagnostics

/-- The run that holds an entry. -/
def findEntry (ix sub : Nat) : Option Entry := entries.find? fun e => e.ix == ix && decide (e.lo ≤ sub) && decide (sub ≤ e.hi)

/-- The highest subindex of an index (R444), 0 when the index is unknown. -/
def highestSub (ix : Nat) : Nat := entries.foldl (fun m e => if e.ix = ix then max m e.hi else m) 0

/-- The key of an entry in the dictionary's tables. -/
def entryKey (ix sub : Nat) : Nat := 256 * ix + sub

/-- The default value of an entry. -/
def entryDefault (ix sub : Nat) : List Byte :=
  match findEntry ix sub with
  | some e => leBytes e.dflt e.size
  | none => []

/-- Whether DRAM_d supports a timing set: 0 HBM4, 1 HBM4E (R270, R463). -/
def State.dramSupports (s : State) (d set : Nat) : Bool := decide (set < 2) && bitAt (s.dev.dramSets.getD d 0) set

/-- The default of an entry of this part: the timing set of a stack is the highest it supports (R464). -/
def State.defaultBytes (s : State) (ix sub : Nat) : List Byte :=
  if ix = 0x4030 then [if s.dramSupports (sub - 1) 1 then 1 else 0] else entryDefault ix sub

/-- The last value accepted (R446). -/
def State.accBytes (s : State) (ix sub : Nat) : List Byte :=
  match tabGet [] s.dict.acc (entryKey ix sub) with
  | [] => s.defaultBytes ix sub
  | d => d

/-- The value in effect. -/
def State.effBytes (s : State) (ix sub : Nat) : List Byte :=
  match tabGet [] s.dict.eff (entryKey ix sub) with
  | [] => s.defaultBytes ix sub
  | d => d

/-- The last value accepted, as a number. -/
def State.accNat (s : State) (ix sub : Nat) : Nat := leNat (s.accBytes ix sub)

/-- The value in effect, as a number. -/
def State.effNat (s : State) (ix sub : Nat) : Nat := leNat (s.effBytes ix sub)

/-- Accepts a value that acts at once. -/
def State.putEntry (s : State) (ix sub : Nat) (d : List Byte) : State :=
  { s with dict := { s.dict with acc := tabPut [] s.dict.acc (entryKey ix sub) d, eff := tabPut [] s.dict.eff (entryKey ix sub) d } }

/-- Accepts a held value (R38): only the last one accepted before the boundary takes effect. -/
def State.holdEntry (s : State) (ix sub : Nat) (d : List Byte) : State :=
  let k := entryKey ix sub
  { s with dict := { s.dict with acc := tabPut [] s.dict.acc k d, held := (s.dict.held.filter fun h => h.1 != k) ++ [(k, s.now)] } }

/-- A held value takes effect. -/
def State.applyEntry (s : State) (k : Nat) : State :=
  { s with dict := { s.dict with eff := tabPut [] s.dict.eff k (s.accBytes (k / 256) (k % 256)),
                                 held := s.dict.held.filter fun h => h.1 != k } }

/-- A held value is discarded, and the last accepted value is again the one in effect (R58). -/
def State.dropEntry (s : State) (k : Nat) : State :=
  { s with dict := { s.dict with acc := tabPut [] s.dict.acc k (s.effBytes (k / 256) (k % 256)),
                                 held := s.dict.held.filter fun h => h.1 != k } }

/-- Whether a value waits for its boundary. -/
def State.isHeld (s : State) (ix sub : Nat) : Bool := s.dict.held.any fun h => h.1 == entryKey ix sub

/-- The partition whose latch point an entry waits for. -/
def State.latchPart (s : State) (ix sub : Nat) : Option Nat :=
  match findEntry ix sub with
  | some e =>
    match e.dom with
    | .latch => if ix = 0x9160 || ix < 0x9000 then some (sub - 1) else some (ix - 0x9100 - 20)
    | .stack => s.partOfStack ((sub - 1) % 16)
    | _ => none
  | none => none

/-- The held entries that take effect at the latch point of P_k. -/
def State.latchKeys (s : State) (k : Nat) : List Nat :=
  (s.dict.held.filter fun h => s.latchPart (h.1 / 256) (h.1 % 256) == some k).map Prod.fst

/-- The held entries that take effect at a tick boundary `now`, those of a stack in no partition among them (R244; DESIGN CHOICE, log 168). -/
def State.tickKeys (s : State) : List Nat :=
  (s.dict.held.filter fun h =>
    tickDue s.now h.2 &&
    match findEntry (h.1 / 256) (h.1 % 256) with
    | some e => e.dom == .tick || (e.dom == .both && e.ix != 0x3010) ||
        (e.dom == .stack && (s.partOfStack ((h.1 % 256 - 1) % 16)).isNone)
    | none => false).map Prod.fst

end Sys2Proof.Machine
end

