-- ==== Sys2Proof/Machine/Notices.lean ====
section
/-! DEFINITION. What the device tells its managers: notifications (R459, R460), the device event log (R461), and the changes of the
device's own state that both report (R453, R460, R461). -/

namespace Sys2Proof.Machine

/-- The bytes of a message (R449). -/
def msgBytes (m : UleelMsg) : List Byte :=
  leBytes (m.version.toNat + m.op.toNat * 2 ^ 8 + m.transaction.toNat * 2 ^ 16 + m.index.toNat * 2 ^ 32 + m.sub.toNat * 2 ^ 48 + m.flags.toNat * 2 ^ 56 +
    m.offset.toNat * 2 ^ 64 + m.length.toNat * 2 ^ 96 + m.reserved.toNat * 2 ^ 112 + m.status.toNat * 2 ^ 128) 20 ++ m.data

/-- The message types of Uleel and of SPDM over MCTP (R447). -/
abbrev mctpUleel : Nat := 0x7F
abbrev mctpSpdm : Nat := 0x05

/-- A Uleel message as a transport of R459 carries it (R447): over MCTP its type and Atvenil's enterprise number lead (their order is MCTP's, PRESUMED, log
192). -/
def framed (transport : Nat) (m : List Byte) : List Byte :=
  if transport = 3 ∨ transport = 4 then BitVec.ofNat 8 mctpUleel :: (leBytes Config.enterpriseNumber.toNat 4).reverse ++ m else m

/-- The 16-byte prefix of a notification (R460). -/
def notifyPrefix (cls seq now : Nat) : List Byte := leBytes (cls + seq % 2 ^ 32 * 2 ^ 32 + now % 2 ^ 64 * 2 ^ 64) 16

/-- One subscriber takes class `cls` (R459). -/
def State.subscribes (s : State) (i cls : Nat) : Bool :=
  let w := s.effNat 0x4410 (i + 1)
  decide (0 < bitsOf w 0 4) && bitAt w (160 + cls)

/-- A notification leaves for a subscriber; over I3C an in-band interrupt announces it (R447). -/
def State.emitNotify (s : State) (i : Nat) (m : List Byte) : State :=
  let i3c := bitsOf (s.effNat 0x4410 (i + 1)) 0 4 == 3 && s.effNat 0x4400 6 != 0
  { s with out := { s.out with notifies := (i, m) :: s.out.notifies, ibis := s.out.ibis + if i3c then 1 else 0 } }

/-- The NOTIFY message of a notification (R449, R460); its transaction is the low half of NOTIFY_SEQ (DESIGN CHOICE, log 20). -/
def notifyMsg (cls seq now : Nat) (d : List Byte) : UleelMsg :=
  let p := notifyPrefix cls seq now ++ d
  ⟨1, 5, BitVec.ofNat 16 seq, 0, 0, 0, 0, BitVec.ofNat 16 p.length, 0, 0, p⟩

/-- Sends one notification to one subscriber (R459, R460). -/
def State.notifyOne (s : State) (i cls logIx : Nat) (d : List Byte) : State :=
  let m := framed (bitsOf (s.effNat 0x4410 (i + 1)) 0 4) (msgBytes (notifyMsg cls s.dict.notifySeq s.now d))
  ({ s with
    dict := { s.dict with notifySeq := s.dict.notifySeq + 1,
                          outstanding := s.dict.outstanding ++ [(⟨i, BitVec.ofNat 16 s.dict.notifySeq, cls, logIx, m, 0, s.now⟩ : Notify)] } }).emitNotify i m

/-- Sends a notification of class `cls` to every subscriber of it but `skip` (R459, R460). -/
def State.notify (s : State) (cls logIx : Nat) (d : List Byte) (skip : Option Nat) : State :=
  (List.range 4).foldl (fun t i => if t.subscribes i cls && skip != some i then t.notifyOne i cls logIx d else t) s

/-- An event record (R461). -/
def eventRecord (code die detail now : Nat) : Nat := code + die * 2 ^ 16 + detail % 2 ^ 32 * 2 ^ 32 + now % 2 ^ 64 * 2 ^ 64

/-- Posts a record to the device event log: it overwrites the oldest, raises source 7,937 and sends class 0x07 (R461). -/
def State.postEvent (s : State) (code die detail : Nat) (skip : Option Nat) : State :=
  let r := eventRecord code die detail s.now
  let n := s.dict.logCount
  let s1 := { s with dict := { s.dict with log := tabPut 0#256 s.dict.log (n % 256) (BitVec.ofNat 256 r), logCount := n + 1 } }
  (s1.raise 7937).notify 7 n (leBytes r 32) skip

/-- The number `DeviceState` shows (R458). -/
def devStateCode : DevState → Nat
  | .off => 0 | .standby => 1 | .booting => 2 | .ready => 3 | .running => 4 | .draining => 5 | .quiesced => 6 | .degraded => 7
  | .fault => 8

/-- The device changes state: `StateSince`, notification class 0x01 and the record `STATE_CHANGED` (R458, R460, R461). An entry to READY or DEGRADED
asks for attestation again (R501). -/
def State.toDevState (s : State) (d : DevState) : State :=
  if s.dev.state == d then s
  else
    let w := devStateCode s.dev.state + devStateCode d * 256
    let s1 := { s with dev := { s.dev with state := d, since := s.now },
                       sec := { s.sec with signedSince := s.sec.signedSince && !(d == DevState.ready || d == DevState.degraded) } }
    (s1.notify 1 0 (leBytes w 2) none).postEvent 0x0C08 0xFF w none

/-- READY and RUNNING follow the contexts (R453). -/
def State.refreshRun (s : State) : State :=
  if s.dev.state == .ready && s.anyActive then s.toDevState .running
  else if s.dev.state == .running && !s.anyActive then s.toDevState .ready
  else s

/-- A counter block. -/
def State.ctrBlock (s : State) (b : Nat) : CounterBlock := s.ctrs.blocks.getD b ⟨List.replicate 8 0, List.replicate 8 false, 0, 0, List.replicate 8 0, 0⟩

/-- Replaces a counter block. -/
def State.setCtrBlock (s : State) (b : Nat) (x : CounterBlock) : State := { s with ctrs := { s.ctrs with blocks := s.ctrs.blocks.set b x } }

/-- `EVENT_SEL_i` of a block in effect (R485). -/
def State.eventSel (s : State) (b i : Nat) : Nat := s.effNat (0x9100 + b) (i + 1)

/-- A counter passes 2^48 − 1: it holds the remainder, OVERFLOW is set, and with OVF_IRQ and the block's source enabled the source counts an
event (R487). -/
def State.wrapCounter (s : State) (b i v : Nat) : State :=
  let x := s.ctrBlock b
  let s1 := s.setCtrBlock b { x with cnt := x.cnt.set i (v % 2 ^ 48), ovf := x.ovf.set i true }
  let src := s1.effNat (0x9100 + b) 10
  if bitAt (s1.eventSel b i) 23 && bitAt src 15 then s1.raise (bitsOf src 0 13) else s1

/-- Counter `i` of a block adds `n`. -/
def State.addCounter (s : State) (b i n : Nat) : State :=
  let x := s.ctrBlock b
  let v := x.cnt.getD i 0 + n
  if 2 ^ 48 ≤ v then s.wrapCounter b i v else s.setCtrBlock b { x with cnt := x.cnt.set i v }

/-- A selector counts an event of a unit and of a context (R485, R486). -/
def selTakes (v code unit : Nat) (ctx : Option Nat) : Bool :=
  bitAt v 22 && bitsOf v 0 12 == code && (bitsOf v 12 8 == 0xFF || bitsOf v 12 8 == unit) && (!bitAt v 36 || ctx == some (bitsOf v 24 12))

/-- CYCLE: fabric cycles since reset, at 1.6 GHz (R5, R483). -/
def State.cycle (s : State) : Nat := (s.now - s.dev.resetAt) * 8 / 5 % 2 ^ 64

/-- What a counter adds in a cycle in which its event has value `n` (R486): level the value; edge 1 where the cycle before had none, and cycles 1, once in each
cycle. `seen` is one more than the last cycle in which the event had a value. -/
def modeAdds (mode n cycle seen : Nat) : Nat :=
  if mode = 0 then n else if mode = 1 then (if seen = cycle ∨ seen = cycle + 1 then 0 else 1) else if seen = cycle + 1 then 0 else 1

/-- The event of counter `i` of a block had a value in this cycle. -/
def State.markSeen (s : State) (b i : Nat) : State := let x := s.ctrBlock b; s.setCtrBlock b { x with seen := x.seen.set i (s.cycle + 1) }

/-- An occurrence of an event in one fabric cycle, `n` instances of it (R486, R489). -/
def State.countEv (s : State) (b code unit : Nat) (ctx : Option Nat) (n : Nat) : State :=
  if s.dict.eff.isEmpty ∨ n = 0 then s
  else
    (List.range 8).foldl (fun (t : State) i =>
      let v := t.eventSel b i
      if selTakes v code unit ctx then (t.addCounter b i (modeAdds (bitsOf v 20 2) n t.cycle ((t.ctrBlock b).seen.getD i 0))).markSeen b i else t) s

/-- An event had the value 1 in every cycle of the last `ns` ns (R486, R489): level and cycles add the cycles, edge 1. -/
def State.countSpan (s : State) (b code unit : Nat) (ctx : Option Nat) (ns : Nat) : State :=
  if s.dict.eff.isEmpty then s
  else
    (List.range 8).foldl (fun (t : State) i =>
      let v := t.eventSel b i
      if selTakes v code unit ctx then (t.addCounter b i (if bitsOf v 20 2 = 1 then 1 else ns * 8 / 5)).markSeen b i else t) s

/-- A vector of PE0's MSI-X table. A vector that was never written is masked (the reset rule of PCI Express, PRESUMED, log 26). -/
def Msix.reset : Msix := ⟨true, false, 0, none, 0, 0⟩

/-- The state of an MSI-X vector. -/
def State.msix (s : State) (v : Nat) : Msix := tabGet Msix.reset s.host.vectors v

/-- Replaces the state of an MSI-X vector. -/
def State.setMsix (s : State) (v : Nat) (x : Msix) : State := { s with host := { s.host with vectors := tabPut Msix.reset s.host.vectors v x } }

/-- A vector's message leaves (R356). -/
def State.emitMsix (s : State) (v : Nat) : State := { s with out := { s.out with msix := (v, (s.msix v).addr, (s.msix v).data) :: s.out.msix } }

/-- Sends a vector's message; a masked one is held pending (R356). -/
def State.sendVector (s : State) (v : Nat) : State :=
  let x := s.msix v
  if x.masked then s.setMsix v { x with pend := true, batches := 0, since := none }
  else
    let s1 := s.setMsix v { x with batches := 0, since := none }
    s1.emitMsix v

end Sys2Proof.Machine
end

