-- ==== Sys2Proof/Machine/Memory.lean ====
section
/-! DEFINITION. Memory: the physical map and what of it is backed (R53, R54), the homes of lines (R249), the value a line has among its
copies (R253), and reads and writes made at the home (R262). -/

namespace Sys2Proof.Machine

/-- What a physical address names (R53). -/
inductive Region where
  | dram (s : Nat) | near (n : Nat) | cxl | pcie | guest (g : Nat) | regs | reserved
deriving DecidableEq, Repr

/-- The physical map (R53). -/
def regionOf (pa : Nat) : Region :=
  if pa < 0x10000000000 then .dram (pa / 2 ^ 36)
  else if 0x100000000000 ≤ pa ∧ pa < 0x100400000000 then .near ((pa - 0x100000000000) / 2 ^ 31)
  else if 0x200000000000 ≤ pa ∧ pa < 0x240000000000 then .cxl
  else if 0x300000000000 ≤ pa ∧ pa < 0x310000000000 then .pcie
  else if 0x380000000000 ≤ pa ∧ pa < 0x381000000000 then .guest 0
  else if 0x381000000000 ≤ pa ∧ pa < 0x382000000000 then .guest 1
  else if 0xF00000000000 ≤ pa ∧ pa < 0xF00400000000 then .regs
  else .reserved

/-- The base die that homes an address (R249). -/
def homeOf (pa : Nat) : Option Nat :=
  match regionOf pa with
  | .dram s => some (s / 2)
  | .near n => some n
  | .cxl => some (bitsOf pa 10 3)
  | _ => none

/-- The pseudo-channel of an address in its stack (R271). -/
def pcOf (pa : Nat) : Nat := (bitsOf pa 10 6) ^^^ (bitsOf pa 16 6)

/-- The state of pseudo-channel `c` of DRAM_s (R479); PC_64 is a spare until a copy to it begins. -/
def Dram.pc (d : Dram) (s c : Nat) : Nat :=
  let v := tabGet 0 d.pcState (65 * s + c)
  if c = 64 ∧ v = 0 then (if d.spare.getD s 255 = 255 then 4 else 5) else v

/-- Near memory ways in effect for CS_n (R229, R230). -/
def State.nearWays (s : State) (n : Nat) : Nat :=
  match s.partOfStack n with
  | some k => s.effNat 0x3030 (k + 1)
  | none => 0

/-- The mode in effect of PE1A or PE1B, 0 when the part has no PE1 (R388). -/
def State.pe1Mode (s : State) (port : Nat) : Nat := if hasPd1 s.dev.variant then s.effNat 0x4301 (port + 1) else 0

/-- A PE1 port's registers. -/
def State.pe1Port (s : State) (port : Nat) : Pe1Port := s.pe1.getD port ⟨0, false, 0, false, 0, []⟩

/-- Bytes at the base of the CXL range placed before a port's expander (R389). -/
def State.cxlBase (s : State) (port : Nat) : Nat := if port = 0 then 0 else (s.pe1Port 0).capacityGiB * 2 ^ 30

/-- The capacity of an expander that is mapped: nothing beyond 4 TiB in all (R389). -/
def State.cxlMapped (s : State) (port : Nat) : Nat := min (s.pe1Port port).capacityGiB (4096 - s.cxlBase port / 2 ^ 30)

/-- The port behind an offset of the CXL range, when one backs it (R389). -/
def State.cxlPort (s : State) (off : Nat) : Option Nat :=
  (List.range 2).find? fun p =>
    s.pe1Mode p == 1 && (s.pe1Port p).linkUp && decide (s.cxlBase p ≤ off) &&
      decide (off < s.cxlBase p + s.cxlMapped p * 2 ^ 30)

/-- A guest site. -/
def State.guest (s : State) (g : Nat) : GuestSt := s.guests.getD g ⟨1, 0, 0, 0, [], 65536, 0⟩

/-- Bytes of a guest window that are backed in state 5 (R383). -/
def guestBacked (g : GuestSt) : Nat := if g.state = 5 then min (2 ^ 36) (roundUp g.barBytes 65536) else 0

/-- An address is backed (R54, R280, R383, R389). The register space is unbacked to every agent but a processor core (R466).
The whole PCIe range counts as backed while a port in root-port mode is up, whatever BARs it has assigned (R390; DESIGN CHOICE, log 128). -/
def State.backed (s : State) (pa : Nat) : Bool :=
  match regionOf pa with
  | .dram d => decide (pa % 2 ^ 36 < dramGiB s.dev.variant * 2 ^ 30) && s.dram.pc d (pcOf pa) != 3
  | .near n => decide ((pa - 0x100000000000) % 2 ^ 31 < s.nearWays n * 2 ^ 26)
  | .cxl => (s.cxlPort (pa - 0x200000000000)).isSome
  | .pcie => (List.range 2).any fun p => s.pe1Mode p == 2 && (s.pe1Port p).linkUp
  | .guest g => decide (pa % 2 ^ 36 < guestBacked (s.guest g))
  | _ => false

/-- An address in a range that no cache holds and whose device answers for itself (R249). -/
def ioAddr (pa : Nat) : Bool :=
  match regionOf pa with
  | .pcie | .guest _ => true
  | _ => false

/-- An access wakes the gated unit that serves it, after which it goes on (R408): a DRAM stack, PE1 or a guest site. -/
def State.wakeFor (s : State) (pa : Nat) : State :=
  if s.power.gated.isEmpty then s
  else
    match regionOf pa with
    | .dram d => s.ungate (.dram (Fin.ofNat 16 d))
    | .pcie | .cxl => s.ungate (.pcie 1)
    | .guest g => s.ungate (.guestSite (Fin.ofNat 2 g))
    | _ => s

/-- The first unbacked address of a range that lies in one 64 KiB page: backing changes at granules of 1 KiB (R54, R280). -/
def State.firstUnbacked (s : State) (pa n : Nat) : Option Nat :=
  if s.dram.pcState.isEmpty then
    if !s.backed pa then some pa else if !s.backed (pa + (n - 1)) then some (pa + (n - 1)) else none
  else ((List.range ((pa + n - 1) / 1024 - pa / 1024 + 1)).map fun i => max pa ((pa / 1024 + i) * 1024)).find? fun a => !s.backed a

/-- The directory's record of a line. -/
def State.dirOf (s : State) (ln : Nat) : DirEntry := tabGet DirEntry.none s.coh.dir ln

/-- Replaces the directory's record of a line. -/
def State.setDir (s : State) (ln : Nat) (d : DirEntry) : State :=
  { s with coh := { s.coh with dir := tabPut DirEntry.none s.coh.dir ln d } }

/-- The key of an agent's copy of a line. -/
def copyKey (a ln : Nat) : Nat := a * 2 ^ 48 + ln

/-- An agent's copy of a line. -/
def State.copyOf (s : State) (a ln : Nat) : Option Copy := tabGet none s.coh.copies (copyKey a ln)

/-- The processor core whose L1 cache a key of `coh.l1` names (R234). -/
def l1Core (key : Nat) : Nat := key / 2 ^ 49

/-- The L2 that includes the L1 caches of a core (R234, R248). -/
def l2Of (core : Nat) : Nat := 1024 + 64 * (core / 48) + core % 48 / 2

/-- Replaces an agent's copy of a line. An L2 that loses a line takes it from the L1 caches it includes (R234). -/
def State.setCopy (s : State) (a ln : Nat) (c : Option Copy) : State :=
  { s with coh := { s.coh with
    copies := tabPut none s.coh.copies (copyKey a ln) c,
    l1 := if c.isNone && decide (1024 ≤ a) then s.coh.l1.filter fun e => !(l2Of (l1Core e.1) == a && e.1 % 2 ^ 48 == ln) else s.coh.l1 } }

/-- The line as memory holds it. -/
def State.memLine (s : State) (ln : Nat) : List Byte := tabGetList memDefault s.mem (ln * 128) 128

/-- Data on its way to agent `a` for line `ln`. -/
def State.dataTo (s : State) (a ln : Nat) : Option (List Byte) :=
  (s.coh.msgs.find? fun m => (m.kind == .data || m.kind == .ack) && m.dest == a && m.line == ln && !m.data.isEmpty).map CohMsg.data

/-- The agent that a forward for ownership by `a` was sent to, while it has not answered. -/
def State.fwdFrom (s : State) (a ln : Nat) : Option Nat :=
  ((s.coh.msgs ++ s.coh.heldFwds).find? fun m => m.kind == .fwdOwn && m.requester == a && m.line == ln).map CohMsg.dest

/-- The value of a line whose owner is `a`: its copy, its writeback buffer, the data on its way to it, or what the agent it was
forwarded from still holds. -/
def State.ownedLine (s : State) (ln : Nat) : Nat → Nat → List Byte
  | 0, _ => s.memLine ln
  | fuel + 1, a =>
    match s.copyOf a ln with
    | some c => if c.st == .s then (match s.dataTo a ln with | some d => d | none => c.data) else c.data
    | none =>
      match s.coh.wb.find? (fun e => e.1 == a && e.2.1 == ln) with
      | some e => e.2.2
      | none =>
        match s.dataTo a ln with
        | some d => d
        | none =>
          match s.fwdFrom a ln with
          | some p => s.ownedLine ln fuel p
          | none => s.memLine ln

/-- The value of a line in the coherent pool (R250, R253). Agent numbers have 12 bits, so no chain of forwards is longer. -/
def State.lineView (s : State) (ln : Nat) : List Byte :=
  match (s.dirOf ln).owner with
  | some a => s.ownedLine ln 4096 a
  | none => s.memLine ln

/-- The address at the device behind an I/O range: offset x of a guest's window is address BAR + x in guest g, written here above 2^64 times g + 1 (R383);
the PCIe range is the bus's own (R390). -/
def State.deviceAddr (s : State) (pa : Nat) : Nat :=
  match regionOf pa with
  | .guest g => (g + 1) * 2 ^ 64 + (s.guest g).barBase + pa % 2 ^ 36
  | _ => pa

/-- One byte of the pool. A device behind an I/O range answers what it answers. -/
def State.rdByte (s : State) (pa : Nat) : Byte :=
  if ioAddr pa then Config.ioByte s.freeIx (s.deviceAddr pa)
  else
    match (s.dirOf (pa / 128)).owner with
    | some _ => (s.lineView (pa / 128)).getD (pa % 128) 0
    | none => tabGet memDefault s.mem pa

/-- `n` bytes of the pool from `pa`. -/
def State.rdBytes (s : State) (pa : Nat) : Nat → List Byte
  | 0 => []
  | n + 1 => s.rdByte pa :: s.rdBytes (pa + 1) n

/-- `n` bytes as a little-endian number (R7). -/
def State.rdNat (s : State) (pa n : Nat) : Nat := leNat (s.rdBytes pa n)

/-- Memory as the homes hold it, with `d` from `pa`. -/
def State.memWrite (s : State) (pa : Nat) (d : List Byte) : State := { s with mem := tabPutList memDefault s.mem pa d }

/-- A copy that its disabled cache kept and the directory no longer knows (R245, R246). -/
def staleCopy (c : Option Copy) : Bool :=
  match c with
  | some x => x.stale
  | none => false

def isFwd (k : MsgKind) : Bool := k == .fwdShared || k == .fwdOwn || k == .fwdOnce || k == .fwdRecall

/-- What becomes of a message of a line that an access takes as a whole: the transaction it belongs to completes first (R250). The requester of a forward
gets the line as it is before the access; grants and DataOnce travel on, and what they bring is used once and not kept, for the Inval of the access
follows it; Invals, recalls and acknowledgements are handled. -/
def settleMsg (d : List Byte) (m : CohMsg) : List CohMsg :=
  match m.kind with
  | .data | .ack | .dataOnce => [m]
  | .fwdShared | .fwdOwn | .fwdOnce =>
    [⟨if m.kind = .fwdOnce then .dataOnce else .data, m.requester, m.requester, m.line, d, if m.kind = .fwdOwn then .m else .s, m.why⟩]
  | .fwdRecall | .inval | .invalAck | .wbAck | .noticeAck => []

/-- The same for a line whose data are lost (R265, R277): its forwards stay, and the home refuses those that they serve. -/
def loseMsg (d : List Byte) (m : CohMsg) : List CohMsg := if isFwd m.kind then [m] else settleMsg d m

/-- Every copy and buffer of a line goes, hamper copies among them, its value is in memory, its record is I (R226, R262), and each of its messages
becomes what `f` makes of it. An L1 line stays where its L2 is disabled and keeps the line (R245, R246). -/
def State.takeLineWith (s : State) (ln : Nat) (f : List Byte → CohMsg → List CohMsg) : State :=
  let d := (s.lineView ln).take 128
  let s1 := s.memWrite (ln * 128) d
  { s1 with
    coh := { s1.coh with
      dir := tabPut DirEntry.none s1.coh.dir ln DirEntry.none,
      copies := s1.coh.copies.filter fun e => e.1 % 2 ^ 48 != ln || staleCopy e.2,
      l1 := s1.coh.l1.filter fun e => e.1 % 2 ^ 48 != ln || staleCopy (s.copyOf (l2Of (l1Core e.1)) ln),
      msgs := (s1.coh.msgs ++ s1.coh.heldFwds.filter fun m => m.line == ln).flatMap fun m => if m.line = ln then f d m else [m],
      heldFwds := s1.coh.heldFwds.filter fun m => m.line != ln,
      owedAcks := s1.coh.owedAcks.filter fun e => e.2.1 != ln,
      notices := s1.coh.notices.filter fun e => e.2 != ln,
      wb := s1.coh.wb.filter fun e => e.2.1 != ln },
    streams := { s1.streams with hamper := s1.streams.hamper.filter fun h => h.line != ln } }

/-- An access takes a line as a whole, after the transaction under way on it (R250, R262). -/
def State.takeLine (s : State) (ln : Nat) : State := s.takeLineWith ln settleMsg

/-- The lines of a range that the directory records, in ascending order. -/
def State.dirIn (s : State) (l0 l1 : Nat) : List Nat :=
  (s.coh.dir.filter fun e => decide (l0 ≤ e.1) && decide (e.1 ≤ l1)).map Prod.fst

/-- The first line of a range in L (R253). -/
def State.lostIn (s : State) (l0 l1 : Nat) : Option Nat :=
  (s.coh.dir.find? fun e => decide (l0 ≤ e.1) && decide (e.1 ≤ l1) && e.2.st == .l).map Prod.fst

/-- The first line of a range whose stored data is uncorrectable and has no valid copy elsewhere. -/
def State.badIn (s : State) (l0 l1 : Nat) : Option Nat :=
  (s.bad.filter fun l => decide (l0 ≤ l) && decide (l ≤ l1) && (s.dirOf l).owner.isNone).foldl (fun m l =>
    match m with
    | none => some l
    | some x => some (min x l)) none

/-- A line enters L: every holder loses it (R265, R277). -/
def State.loseLine (s : State) (ln : Nat) : State :=
  let s1 := s.takeLineWith ln loseMsg
  { s1.setDir ln { st := .l, owner := none, sharers := [], groups := [] } with bad := s1.bad.filter (· != ln) }

/-- Hamper copies of the lines of a range are invalidated (R226). -/
def State.dropHamper (s : State) (l0 l1 : Nat) : State :=
  { s with streams := { s.streams with hamper := s.streams.hamper.filter fun h => !(decide (l0 ≤ h.line) && decide (h.line ≤ l1)) } }

/-- The whole lines inside a range, as the first and one past the last. -/
def wholeLines (pa n : Nat) : Nat × Nat := ((pa + 127) / 128, (pa + n) / 128)

/-- A write at the home of bytes that need no fault check (R250, R262): holders lose the lines; a line written whole leaves L
(R268) and is correctable again. -/
def State.wrBytes (s : State) (pa : Nat) (d : List Byte) : State :=
  if d.isEmpty then s
  else if ioAddr pa then { s with out := { s.out with io := (s.deviceAddr pa, d) :: s.out.io } }
  else
    let l0 := pa / 128
    let l1 := (pa + d.length - 1) / 128
    let w := wholeLines pa d.length
    let s1 := (s.dirIn l0 l1).foldl (fun t l =>
      if (t.dirOf l).st == .l && !(decide (w.1 ≤ l) && decide (l < w.2)) then t else t.takeLine l) s
    let s2 := if s1.bad.isEmpty then s1 else { s1 with bad := s1.bad.filter fun l => !(decide (w.1 ≤ l) && decide (l < w.2)) }
    (if s2.streams.hamper.isEmpty then s2 else s2.dropHamper l0 l1).memWrite pa d

/-- A write whose lines the homes check one by one: a line that is not backed takes nothing (R54). -/
def State.wrHome (s : State) (pa : Nat) (d : List Byte) : State :=
  (List.range ((pa + d.length + 127) / 128 - pa / 128)).foldl (fun (t : State) i =>
    let a := max pa (128 * (pa / 128 + i))
    let b := min (pa + d.length) (128 * (pa / 128 + i + 1))
    if t.backed a then t.wrBytes a ((d.drop (a - pa)).take (b - a)) else t) s

/-- Zeros written at the home over a range of whole lines (R24, R301). -/
def State.zeroLines (s : State) (l0 l1 : Nat) : State :=
  let s1 := ((s.dirIn l0 (l1 - 1)).foldl (fun t l => t.takeLine l) s).dropHamper l0 (l1 - 1)
  { s1 with mem := tabClear s1.mem (l0 * 128) (l1 * 128), bad := s1.bad.filter fun l => !(decide (l0 ≤ l) && decide (l < l1)) }

/-- A list of writes, in order. -/
def State.wrAll (s : State) (ws : List (Nat × List Byte)) : State := ws.foldl (fun t w => t.wrBytes w.1 w.2) s

end Sys2Proof.Machine
end

