-- ==== Sys2Proof/Machine/Buckets.lean ====
section
/-! DEFINITION. The capability class record and DEGRADED (R425), the leaky buckets (R422, R423), and the errors, repairs and fences of
stacked DRAM (R277 to R280). -/

namespace Sys2Proof.Machine

/-- The capability class record (R425). A compute die that is fenced whole has no live tile, unit or stream unit (DEDUCED, log 143). -/
def State.capRecord (s : State) : Nat :=
  let g := s.integ
  let per := fun (n : Nat) =>
    let live := (g.tiles.getD n []).length + b2n (g.spare.getD n false) * 2 ^ 4 + g.units.getD n 0 * 2 ^ 5 + g.streams.getD n 0 * 2 ^ 12
    (if g.computeFenced.getD n false then 2 ^ 31 else live) + g.ways.getD n 0 * 2 ^ 17
  (List.range 8).foldl (fun a n => a + per n * 2 ^ (32 * n)) 0 + g.cores.getD 0 0 * 2 ^ 256 +
    (if hasPd1 s.dev.variant then g.cores.getD 1 0 else 0) * 2 ^ 262 + g.portsFenced * 2 ^ 288 + g.dramDegraded * 2 ^ 304

/-- The record changed: CapabilityGeneration rises (R424). -/
def State.capChanged (s : State) : State := { s with integ := { s.integ with generation := (s.integ.generation + 1) % 2 ^ 32 } }

/-- A unit was fenced and no spare took its place (R425, R453): DRAINING and QUIESCED are entered again at once, and Resume then leads to
DEGRADED. -/
def State.degrade (s : State) : State :=
  let s1 := s.capChanged
  let s2 := ({ s1 with integ := { s1.integ with trayReplace := true } }.raise 7961).notify 4 0 (leBytes s1.capRecord 64) none
  let was := s2.dev.state
  match was with
  | .ready | .running => s2.toDevState .degraded
  | .draining | .quiesced =>
    let s3 := (s2.toDevState .degraded).toDevState was
    { s3 with dev := { s3.dev with degradedLater := true } }
  | _ => s2

/-- A fence entry names a unit (R500). -/
def fenceNames (e : W64) (die cls ix : Nat) : Bool :=
  bitsOf e.toNat 0 8 == die && bitsOf e.toNat 8 8 == cls && bitsOf e.toNat 16 16 == ix

/-- A unit is fenced. -/
def State.fenced (s : State) (die cls ix : Nat) : Bool := s.integ.fences.any fun e => fenceNames e die cls ix

/-- Adds an entry to FenceList (R424, R500). -/
def State.addFence (s : State) (die cls ix cause : Nat) : State :=
  if s.fenced die cls ix then s
  else { s with integ := { s.integ with fences := s.integ.fences ++ [BitVec.ofNat 64 (die + cls * 2 ^ 8 + ix % 2 ^ 16 * 2 ^ 16 + cause * 2 ^ 32)] } }

/-- The key of a bucket: class, die, index. -/
def bucketKey (cls die ix : Nat) : Nat := cls * 2 ^ 48 + die * 2 ^ 32 + ix

/-- A bucket's level (R422). -/
def State.bucketLevel (s : State) (cls die ix : Nat) : Nat := tabGet 0 s.integ.levels (bucketKey cls die ix)

/-- Sets a bucket's level. -/
def State.setLevel (s : State) (k v : Nat) : State := { s with integ := { s.integ with levels := tabPut 0 s.integ.levels k v } }

/-- A bucket's leak period begins (R422): with the event that raises its level from zero, and then one after the other (DESIGN CHOICE, log 179). -/
def State.startLeak (s : State) (k t : Nat) : State := { s with integ := { s.integ with leakFrom := tabPut 0 s.integ.leakFrom k t } }

/-- A leak period of a class in ns: WINDOW ÷ THRESHOLD, rounded up to whole milliseconds (R422). -/
def State.leakPeriod (s : State) (cls : Nat) : Nat :=
  let n := s.effNat (0x6100 + cls) 1
  (s.effNat (0x6100 + cls) 2 + n - 1) / n * 1000000

/-- The rows of a stack that have a bucket, at most 1,024 (R422): a new row takes the place of the one with the lowest level. -/
def State.rowRoom (s : State) (die ix : Nat) : State :=
  let rows := s.integ.levels.filter fun e => e.1 / 2 ^ 32 == 2 ^ 16 + die
  if rows.length < 1024 ∨ s.bucketLevel 1 die ix ≠ 0 then s
  else
    match rows.foldl (fun (m : Option (Nat × Nat)) e => match m with | none => some e | some x => if e.2 < x.2 then some e else some x) none with
    | some e => s.setLevel e.1 0
    | none => s

/-- One event of a bucket (R422): whether it declares a lasting fault. -/
def State.bucketEvent (s : State) (cls die ix : Nat) : State × Bool :=
  let s1 := if cls = 1 then s.rowRoom die ix else s
  let v := s1.bucketLevel cls die ix + 1
  if v < s1.effNat (0x6100 + cls) 1 then ((if v = 1 then s1.startLeak (bucketKey cls die ix) s1.now else s1).setLevel (bucketKey cls die ix) v, false)
  else
    let s2 := s1.setLevel (bucketKey cls die ix) 0
    ({ s2 with integ := { s2.integ with lasting := tabPut 0 s2.integ.lasting cls (tabGet 0 s2.integ.lasting cls + 1) } }, true)

/-- ACTION of a class in effect (R423). -/
def State.bucketAction (s : State) (cls : Nat) : Nat := s.effNat (0x6100 + cls) 3

/-- The notice of ACTION 1 (R423). -/
def State.bucketNotice (s : State) (cls die ix : Nat) : State := s.postEvent 0x0C07 die (cls + ix % 2 ^ 16 * 2 ^ 16) none

/-- The key of a pseudo-channel. -/
def pcKey (d c : Nat) : Nat := 65 * d + c

/-- Sets a pseudo-channel's state (R479). -/
def State.setPc (s : State) (d c v : Nat) : State := { s with dram := { s.dram with pcState := tabPut 0 s.dram.pcState (pcKey d c) v } }

/-- A line of pseudo-channel `c` of DRAM_d. -/
def lineOfPc (d c ln : Nat) : Bool :=
  match regionOf (ln * 128) with
  | .dram x => x == d && pcOf (ln * 128) == c
  | _ => false

/-- The pseudo-channel that stores a line of DRAM_d: PC_64 for the channel it has replaced (R279). While the copy to it runs, what an access finds is taken
to be the failed channel's (DEDUCED, log 177). -/
def State.storePc (s : State) (d ln : Nat) : Nat := if s.dram.pc d (pcOf (ln * 128)) = 2 then 64 else pcOf (ln * 128)

/-- Every record and copy of the lines that `p` selects goes, dirty data with it (R268, R280). -/
def State.discardLines (s : State) (p : Nat → Bool) : State :=
  { s with
    coh := { s.coh with
      dir := s.coh.dir.filter fun e => !p e.1,
      copies := s.coh.copies.filter fun e => !p (e.1 % 2 ^ 48),
      l1 := s.coh.l1.filter fun e => !p (e.1 % 2 ^ 48),
      notices := s.coh.notices.filter fun e => !p e.2,
      msgs := s.coh.msgs.filter fun m => !p m.line,
      heldFwds := s.coh.heldFwds.filter fun m => !p m.line,
      owedAcks := s.coh.owedAcks.filter fun e => !p e.2.1,
      wb := s.coh.wb.filter fun e => !p e.2.1 },
    bad := s.bad.filter fun l => !p l,
    streams := { s.streams with hamper := s.streams.hamper.filter fun h => !p h.line } }

/-- Whether the bank of a row still has a spare row: the manual does not say how many there are (R278; DESIGN CHOICE, log 52). -/
def spareRowLeft (d row used : Nat) : Bool := Config.freeNat (2 ^ 40 + d * 2 ^ 32 + row * 2 ^ 12 + used) % 2 == 0

/-- The spares of a resource, by its bucket's key, that are in use. -/
def State.sparesUsed (s : State) (k : Nat) : Nat := tabGet 0 s.integ.spares k

/-- One more spare of a resource is in use (R423, R425). -/
def State.useSpare (s : State) (k : Nat) : State :=
  { s with integ := { s.integ with spares := tabPut 0 s.integ.spares k (s.sparesUsed k + 1) } }

/-- An error of an event class is counted against its bucket: at a lasting fault ACTION is taken, which for 1 is the notice, and for 2 the notice and then
`f` (R422, R423). -/
def State.countError (s : State) (cls die ix : Nat) (f : State → State) : State :=
  let b := s.bucketEvent cls die ix
  if !b.2 then b.1
  else if s.bucketAction cls = 1 then b.1.bucketNotice cls die ix
  else if s.bucketAction cls = 2 then f (b.1.bucketNotice cls die ix)
  else b.1

/-- The number of a row of a pseudo-channel in its stack's buckets (DESIGN CHOICE, log 153). -/
def rowIx (c row : Nat) : Nat := c * 2 ^ 16 + row % 2 ^ 16

/-- The row of a line: the choice of bank and row is the part's (R271). -/
def rowOf (ln : Nat) : Nat := Config.freeNat (2 ^ 60 + ln) % 2 ^ 16

end Sys2Proof.Machine
end

