-- ==== Sys2Proof/Machine/Caches.lean ====
section
/-! DEFINITION. The caches of the package (R234 to R237): the agents that hold them (R248), their ways and sets in effect (R152, R234, R244), the
record of holders (R251), evictions and fills, and what the accesses of a thread unit, a stream unit or a sequencer leave in them (R193, R225, R236 to
R239, R246, R257, R261). An access acts as a whole: the messages behind it have all been handled when its command ends (log 10). -/

namespace Sys2Proof.Machine

/-- The AGENT_IDs of the package (R248). -/
def agentExists (v : Variant) (a : Nat) : Bool :=
  if a < 1024 then decide (a % 128 ≤ 65)
  else if a < 1152 then (decide ((a - 1024) % 64 < 24) || (a - 1024) % 64 == 32) && (decide (a < 1088) || hasPd1 v)
  else if a < 1154 then true
  else decide (1160 ≤ a) && decide (a < 1162) && hasGuests v

/-- Thread-unit L1s, stack caches, hampers, L2s and L3s cache (R248). -/
def agentCaching (a : Nat) : Bool := decide (a < 1152)

def isHamper (a : Nat) : Bool := decide (a < 1024) && a % 128 == 65
def isStackCache (a : Nat) : Bool := decide (a < 1024) && a % 128 == 64
def isUnit (a : Nat) : Bool := decide (a < 1024) && decide (a % 128 < 64)
def isCoreL2 (a : Nat) : Bool := decide (1024 ≤ a) && decide (a < 1152) && decide ((a - 1024) % 64 < 24)
def isNear (ln : Nat) : Bool :=
  match regionOf (ln * 128) with
  | .near _ => true
  | _ => false

/-- The AGENT_ID of HUB_0 (R248). -/
abbrev hub0Agent : Nat := 1152

/-- The stack cache of the die of an agent of a compute stack (R248). -/
def stackCacheOf (a : Nat) : Nat := a / 128 * 128 + 64

/-- The requester that stands for the home itself in a recall (R252). -/
abbrev homeAgent : Nat := 2048

def State.agentDead (s : State) (a : Nat) : Bool := s.coh.dead.any fun d => d.agent == a

/-- What the unit index of a fence entry of class 0x06 counts from, for the ways of an agent's cache: 16 u for a thread unit, 16 k for the L2 of a pair,
1,024 for an L3 (DESIGN CHOICE, log 140). -/
def wayBase (a : Nat) : Nat := if a < 1024 then 16 * (a % 128) else if (a - 1024) % 64 = 32 then 1024 else 16 * ((a - 1024) % 64)

/-- The die of a caching agent as reports name it (R418). -/
def dieOfAgent (a : Nat) : Nat := if a < 1024 then a / 128 else 18 + (a - 1024) / 64

/-- The ways of an L1, L2 or L3 that are fenced (R423). -/
def State.fencedWays (s : State) (a : Nat) : Nat :=
  s.integ.fences.countP fun e => bitsOf e.toNat 0 8 == dieOfAgent a && bitsOf e.toNat 8 8 == 6 && decide (wayBase a ≤ bitsOf e.toNat 16 16) &&
    decide (bitsOf e.toNat 16 16 < wayBase a + 16)

/-- Ways and sets of an agent's cache in effect (R234); a disabled cache has no way (R244, R245). A thread unit on which no block was placed yet has the
split 1, so 11 ways of L1: R152 gives it none (DESIGN CHOICE, log 134). -/
def State.geometry (s : State) (a : Nat) : Nat × Nat :=
  if a < 1024 then
    let n := a / 128
    if a % 128 < 64 then
      (if s.effNat 0x9011 (n + 1) = 1 then 12 - tabGet 1 s.threads.splits (64 * n + a % 128) - s.fencedWays a else 0, 256)
    else
      let h := match s.partOfStack n with
        | some k => s.effNat 0x3031 (k + 1)
        | none => 28
      (if s.effNat 0x9010 (n + 1) = 1 ∧ !s.power.gated.contains (.sramWays (Fin.ofNat 8 n)) then s.integ.ways.getD n 0 - s.nearWays n - h else 0, 524288)
  else
    let m := (a - 1024) / 64
    if (a - 1024) % 64 = 32 then (if s.effNat 0x9012 (2 * m + 2) = 1 then 12 - s.fencedWays a else 0, 65536)
    else (if s.effNat 0x9012 (2 * m + 1) = 1 then 16 - s.fencedWays a else 0, 1024)

/-- An agent's cache is enabled and may hold the line (R236, R245). The hamper's content is placed by its own rules. -/
def State.holds (s : State) (a ln : Nat) : Bool :=
  isHamper a || (decide (0 < (s.geometry a).1) && !(isStackCache a && isNear ln))

/-- A caching request of an agent for a line may reach the home (R236, R245, R248, R249, R264). -/
def State.mayCache (s : State) (a ln : Nat) : Bool := agentExists s.dev.variant a && agentCaching a && !s.agentDead a && s.holds a ln

/-- A non-caching request (R262): hubs, stack caches for near memory, a cache that is disabled (R245), and the L2 of a core whose page is non-cacheable
(R361). A guest's requests reach the home only
behind the firewall, as `GUEST_REQUEST` (R263). -/
def State.mayBypass (s : State) (a ln : Nat) : Bool :=
  agentExists s.dev.variant a && !s.agentDead a && decide (a < 1154) && (!agentCaching a || isCoreL2 a || !s.holds a ln)

/-- The home's transaction on a line has not ended: a forward or an invalidation is not answered (R250). -/
def State.lineBusy (s : State) (ln : Nat) : Bool :=
  (s.coh.msgs.any fun m => m.line == ln && (isFwd m.kind || m.kind == .inval)) || s.coh.heldFwds.any fun m => m.line == ln

/-- An agent's own grant for a line is not complete (R257). -/
def State.grantDue (s : State) (a ln : Nat) : Bool :=
  (s.coh.msgs.any fun m => m.line == ln && m.dest == a && (m.kind == .data || m.kind == .ack)) || s.coh.owedAcks.any fun e => e.1 == a && e.2.1 == ln

/-- An agent has the line in its writeback buffer (R258). -/
def State.wbOf (s : State) (a ln : Nat) : Option (List Byte) := (s.coh.wb.find? fun e => e.1 == a && e.2.1 == ln).map fun e => e.2.2

/-- A dirty line enters the writeback buffer (R258). -/
def State.toWb (s : State) (a ln : Nat) (d : List Byte) : State :=
  { s with coh := { s.coh with wb := (s.coh.wb.filter fun e => !(e.1 == a && e.2.1 == ln)) ++ [(a, ln, d)] } }

/-- Every agent recorded as a holder (R251), the hampers among them. -/
def DirEntry.holders (d : DirEntry) : List Nat :=
  (d.owner.toList ++ d.sharers ++ d.groups.flatMap fun g => (List.range 8).map fun i => 8 * g + i).eraseDups

/-- A sharer joins the record: four exactly, beyond four by groups of 8 (R251). -/
def DirEntry.addSharer (d : DirEntry) (a : Nat) : DirEntry :=
  if d.sharers.contains a || d.groups.contains (a / 8) then d
  else if !d.groups.isEmpty then { d with groups := d.groups ++ [a / 8] }
  else if d.sharers.length < 4 then { d with sharers := d.sharers ++ [a] }
  else { d with sharers := [], groups := ((d.sharers ++ [a]).map (· / 8)).eraseDups }

/-- The record of a line granted for writing (R253). -/
def ownedBy (a : Nat) : DirEntry := ⟨.m, some a, [], []⟩

/-- The victim of a set (R237): the line of age 3 in the lowest way, ages first raised when there is none. Answers what each age is raised
by, and the victim's way; a set is given as the ages and ways of its lines. -/
def victimOf (set : List (Nat × Nat)) : Nat × Nat :=
  let up := 3 - set.foldl (fun m e => max m e.1) 0
  (up, (set.filter fun e => e.1 + up == 3).foldl (fun m e => min m e.2) 1000)

/-- An agent's copies, with their lines. -/
def State.copiesOf (s : State) (a : Nat) : List (Nat × Copy) :=
  s.coh.copies.filterMap fun e => if e.1 / 2 ^ 48 = a then e.2.map fun c => (e.1 % 2 ^ 48, c) else none

/-- A copy leaves a cache: E and S silently, M and O into the writeback buffer (R257, R258). What a clean owner held is what memory holds. -/
def State.evict (s : State) (a ln : Nat) (c : Copy) : State :=
  if c.stale then s.setCopy a ln none
  else if c.st = .m ∨ c.st = .o then (s.setCopy a ln none).toWb a ln c.data
  else if (s.dirOf ln).owner = some a then (s.memWrite (ln * 128) (c.data.take 128)).setCopy a ln none
  else s.setCopy a ln none

/-- A line enters a cache at an age, the victim of its set leaving (R237). A cache without ways keeps nothing, and what a disabled cache kept stays as
it is (R245). -/
def State.fill (s : State) (a ln : Nat) (st : CopySt) (age : Nat) (d : List Byte) : State :=
  let g := s.geometry a
  if g.1 = 0 then (if st = .m then s.toWb a ln d else s)
  else
    match s.copyOf a ln with
    | some c => s.setCopy a ln (some { c with st := st, data := d, age := if c.stale then age else 0, stale := false })
    | none =>
      let set := (s.copiesOf a).filter fun e => e.1 % g.2 == ln % g.2
      match (List.range g.1).find? fun w => !(set.any fun e => e.2.way == w) with
      | some w => s.setCopy a ln (some ⟨st, d, age, w, false⟩)
      | none =>
        let v := victimOf (set.map fun e => (e.2.age, e.2.way))
        let s1 := set.foldl (fun (t : State) e =>
          if e.2.way = v.2 then t.evict a e.1 e.2 else t.setCopy a e.1 (some { e.2 with age := e.2.age + v.1 })) s
        s1.setCopy a ln (some ⟨st, d, age, v.2, false⟩)

/-- An agent gives up one line: dirty data goes to memory, and the home's record no longer names it (R153). Dirty data that a forward is on its way to
fetch wait for it in the writeback buffer (R258). -/
def State.giveUpLine (s : State) (a ln : Nat) : State :=
  match s.copyOf a ln with
  | none => s
  | some c =>
    let d := s.dirOf ln
    if d.owner = some a then
      ((s.memWrite (ln * 128) (s.lineView ln)).setCopy a ln none).setDir ln
        { d with owner := none, st := if d.sharers.isEmpty && d.groups.isEmpty then .i else .s }
    else s.evict a ln c

/-- An agent gives up the lines in its ways from `w` on (R153). -/
def State.giveUpWays (s : State) (a w : Nat) : State :=
  (((s.copiesOf a).filter fun e => decide (w ≤ e.2.way)).map Prod.fst).foldl (fun (t : State) ln => t.giveUpLine a ln) s

/-- The recorded lines of a directory set of a home. -/
def State.setLines (s : State) (home g : Nat) : List (Nat × DirEntry) :=
  s.coh.dir.filter fun e => Config.directorySet e.1 == g && homeOf (e.1 * 128) == some home

/-- Entries of one home's directory (R251). -/
abbrev directoryEntries : Nat := 26214400

/-- Counts what a reclaim dropped or lost of a dead agent (R266). -/
def State.countReclaim (s : State) (a lost dropped : Nat) : State :=
  { s with coh := { s.coh with dead := s.coh.dead.map fun d =>
    if d.agent = a then { d with lost := satTo 32 (d.lost + lost), dropped := satTo 32 (d.dropped + dropped) } else d } }

/-- A dead agent may hold the only current data of a line: a dirty copy, its writeback buffer, or a grant for writing on its way (R265). -/
def State.deadData (s : State) (a ln : Nat) : Bool :=
  (match s.copyOf a ln with
   | some c => (c.st == .m || c.st == .o) && !c.stale
   | none => false) ||
  (s.wbOf a ln).isSome || s.coh.msgs.any fun m => m.line == ln && m.dest == a && (m.kind == .data || m.kind == .ack) && m.grant == .m

/-- A line that a dead agent owns in M or O: it is in L from its first lookup on (R265). -/
def State.deadOwned (s : State) (ln : Nat) : Bool :=
  match (s.dirOf ln).owner with
  | some a => s.agentDead a && ((s.dirOf ln).st == .m || (s.dirOf ln).st == .o)
  | none => false

/-- The grants of a line on their way to a dead agent go (R264). -/
def State.dropDue (s : State) (a ln : Nat) : State :=
  { s with coh := { s.coh with msgs := s.coh.msgs.filter fun m => !(m.dest == a && m.line == ln && (m.kind == .data || m.kind == .ack)) } }

/-- A recalled line whose holders have all answered leaves the directory (R252); a line that its recall found lost stays in L (R268). -/
def State.endRecall (s : State) (ln : Nat) : State :=
  if ((s.coh.msgs ++ s.coh.heldFwds).any fun m => m.line == ln && m.requester == homeAgent) || (s.dirOf ln).st == .l then s
  else s.setDir ln DirEntry.none

/-- What a dead agent held of a line as the record names it goes: E to I, M or O to L, a sharer from the record (R265). -/
def State.reclaimRecord (s1 : State) (ln a : Nat) : State :=
  let s := s1.dropDue a ln
  let d := s.dirOf ln
  let s0 := s.setCopy a ln none
  if d.owner = some a then
    (if d.st = .e then (s0.setDir ln DirEntry.none).countReclaim a 0 1 else (s0.loseLine ln).countReclaim a 1 0)
  else if d.sharers.contains a then
    let left := d.sharers.filter fun x => x != a
    let d1 := if left.isEmpty && d.groups.isEmpty && d.st != .o then DirEntry.none else { d with sharers := left }
    (s0.setDir ln d1).countReclaim a 0 1
  else if d.groups.contains (a / 8) && (s.copyOf a ln).isSome then s0.countReclaim a 0 1
  else s

/-- The lookup of a line by an access applies the rules of R265 for every dead agent. A forward to a dead agent stays for the home to answer. -/
def State.reclaimAccess (s : State) (ln : Nat) : State :=
  s.coh.dead.foldl (fun (t : State) d =>
    if (t.coh.msgs.any fun m => m.line == ln && m.dest == d.agent && isFwd m.kind) && (t.dirOf ln).st != .l && t.deadData d.agent ln then
      (t.loseLine ln).countReclaim d.agent 1 0
    else t.reclaimRecord ln d.agent) s

/-- The lookups of an access to a range of lines (R265). -/
def State.reclaimIn (s : State) (l0 l1 : Nat) : State :=
  if s.coh.dead.isEmpty then s else (s.dirIn l0 l1).foldl (fun (t : State) ln => t.reclaimAccess ln) s

/-- Whether a new entry for a line has room in its set and its home (R251). -/
def State.dirRoom (s : State) (ln : Nat) : Bool :=
  let h := (homeOf (ln * 128)).getD 0
  let l := s.setLines h (Config.directorySet ln)
  (l.isEmpty || decide (l.length < Config.directoryWays)) &&
    decide ((s.coh.dir.filter fun e => homeOf (e.1 * 128) == some h).length < directoryEntries)

/-- A new entry of an access finds room, or the home recalls a line of its set for it (R251, R252): the owner's data are in memory, and every holder loses
the line. -/
def State.roomFor (s : State) (ln : Nat) : State :=
  if (s.dirOf ln).st != .i || s.dirRoom ln then s
  else
    let h := (homeOf (ln * 128)).getD 0
    match (s.setLines h (Config.directorySet ln)).find? fun e => e.2.st != .l && !s.lineBusy e.1 with
    | some e =>
      let s1 := s.takeLine e.1
      ({ s1 with coh := { s1.coh with recalls := s1.coh.recalls + 1 } }).countEv (8 + h) 0x104 0 none 1
    | none => s

/-- Nothing of a line is under way (R250, R257, R258): an access of an agent may act on it as a whole. -/
def State.settled (s : State) (a ln : Nat) : Bool := !s.lineBusy ln && !s.grantDue a ln && (s.wbOf a ln).isNone

/-- The hamper of CS_n holds a line in one of its sides (R225). -/
def State.inHamper (s : State) (n ln : Nat) : Bool := s.streams.hamper.any fun h => h.stack == n && h.line == ln

/-- An agent's enabled cache holds a line. -/
def State.present (s : State) (a ln : Nat) : Option Copy :=
  match s.copyOf a ln with
  | some c => if decide (c.way < (s.geometry a).1) && !(isStackCache a && isNear ln) then some c else none
  | none => none

/-- A hit sets the line's age to 0 (R237). -/
def State.hit (s : State) (a ln : Nat) : State :=
  match s.copyOf a ln with
  | some c => s.setCopy a ln (some { c with age := 0 })
  | none => s

/-- A ReadShared of an agent, handled whole (R252, R253, R257): the directory and the other holders after it, and the state granted; none when the home
cannot serve it now. `first` is the record of a first reader. -/
def State.shareDir (s0 : State) (a ln : Nat) (first : DirEntry) : Option (State × CopySt) :=
  let s := if s0.settled a ln && !s0.agentDead a then s0.roomFor ln else s0
  let d := s.dirOf ln
  if !(s.settled a ln && !s.agentDead a && (d.st != .i || s.dirRoom ln)) then none
  else
    match d.st, d.owner with
    | .i, none => some (s.setDir ln first, if first.owner.isSome then .e else .s)
    | .s, none => some (s.setDir ln (d.addSharer a), .s)
    | .e, some o =>
      if !s.settled o ln || s.agentDead o then none
      else
        match s.copyOf o ln with
        | none => some (s.setDir ln ⟨.s, none, [a], []⟩, .s)
        | some c =>
          if o = a ∨ c.stale ∨ c.st ≠ .e then none
          else some (((s.memWrite (ln * 128) ((s.lineView ln).take 128)).setDir ln ⟨.s, none, [o, a], []⟩).setCopy o ln (some { c with st := .s }), .s)
    | .m, some o | .o, some o =>
      match s.copyOf o ln with
      | some c =>
        if o = a ∨ c.stale ∨ c.st = .s ∨ !s.settled o ln ∨ s.agentDead o ∨ s.coh.notices.contains (o, ln) then none
        else some ((s.setDir ln ({ d with st := .o }.addSharer a)).setCopy o ln (some { c with st := .o }), .s)
      | none => none
    | _, _ => none

/-- A read miss that fills an agent's cache (R237, R257). -/
def State.shareLine (s : State) (a ln age : Nat) : State :=
  match s.shareDir a ln ⟨.e, some a, [], []⟩ with
  | some (s1, st) => s1.fill a ln st age ((s.lineView ln).take 128)
  | none => s

/-- A line enters the fill side of a stack's hamper, which the directory then records as a sharer (R224, R226); false where the home cannot serve it. -/
def State.shareHamper (s : State) (n side ln : Nat) : State × Bool :=
  match s.shareDir (128 * n + 65) ln ⟨.s, none, [128 * n + 65], []⟩ with
  | some (s1, _) => ({ s1 with streams := { s1.streams with hamper := s1.streams.hamper ++ [⟨n, side, ln⟩] } }, true)
  | none => (s, false)

/-- The caches in which a read of an agent looks, in the order of R236 before the home: its own, and for a thread unit the stack cache of its die. A read of
a stream unit, a tile feed or a sequencer is its stack cache's (R248). -/
def lookAgents (a : Nat) : List Nat := if isUnit a then [a, stackCacheOf a] else [a]

/-- The agent whose cache a miss of `a` fills: its own, the next level when its own is disabled (R239, R245), or none. -/
def State.filler (s : State) (a ln : Nat) : Option Nat := (lookAgents a).find? fun b => s.mayCache b ln

/-- Where a read of a line by an agent of a compute stack is served (R225, R236): by the cache named, by the hamper, or by the home. -/
inductive Served where
  | cache (a : Nat) (c : Copy)
  | hamper
  | home
deriving DecidableEq, Repr

/-- The first that holds the line serves it (R225, R236). -/
def State.servedBy (s : State) (a ln : Nat) : Served :=
  match s.present a ln with
  | some c => if isUnit a || !s.inHamper (a / 128) ln then .cache a c else .hamper
  | none =>
    if s.inHamper (a / 128) ln then .hamper
    else if isUnit a then
      match s.present (stackCacheOf a) ln with
      | some c => .cache (stackCacheOf a) c
      | none => .home
    else .home

/-- What a read of an agent of a compute stack leaves in the caches (R225, R236, R237): a hit counts, a line of the hamper is not moved, and a miss fills
the first enabled cache of its path at an age. What another cache of the path served fills nothing (DESIGN CHOICE, log 135). -/
def State.readLine (s : State) (a ln age : Nat) : State :=
  match s.servedBy a ln with
  | .cache b _ => s.hit b ln
  | .hamper => s
  | .home =>
    match s.filler a ln with
    | some b => s.shareLine b ln age
    | none => s

/-- What a write of an agent leaves (R192, R193, R239, R257, R261): after the write has acted at the home and every other copy is gone, the first enabled
cache of its path holds the line in M; a line it held stays in its way with age 0. -/
def State.ownLine (s0 : State) (a ln age : Nat) (was : Option Copy) : State :=
  let s := if s0.settled a ln && (s0.filler a ln).isSome then s0.roomFor ln else s0
  if (s.dirOf ln).st != .i || !s.settled a ln || !s.dirRoom ln then s
  else
    match s.filler a ln with
    | some b =>
      match was with
      | some c => (s.setDir ln (ownedBy b)).setCopy b ln (some { c with st := .m, data := s.memLine ln, age := 0, stale := false })
      | none => (s.setDir ln (ownedBy b)).fill b ln .m age (s.memLine ln)
    | none => s

/-- A prefetch of an agent brings a line into the first enabled cache of its path, whichever other cache holds it (R193, R237). -/
def State.bringLine (s : State) (a ln age : Nat) : State :=
  match s.filler a ln with
  | none => s
  | some b => if (s.present b ln).isSome then s.hit b ln else s.shareLine b ln age

/-- One byte as an agent of a compute stack reads it: a copy that its cache kept while it was disabled serves it once the cache is enabled again, and may
have grown stale (R245, R246). -/
def State.rdByteBy (s : State) (a pa : Nat) : Byte :=
  if ioAddr pa then s.rdByte pa
  else
    match s.servedBy a (pa / 128) with
    | .cache _ c => if c.stale then c.data.getD (pa % 128) 0 else s.rdByte pa
    | _ => s.rdByte pa

/-- `n` bytes as an agent reads them. -/
def State.rdBytesBy (s : State) (a pa : Nat) : Nat → List Byte
  | 0 => []
  | n + 1 => s.rdByteBy a pa :: s.rdBytesBy a (pa + 1) n

/-- The lines that `n` bytes from `pa` touch. -/
def linesOf (pa n : Nat) : List Nat := (List.range ((pa + n - 1) / 128 + 1 - pa / 128)).map fun i => pa / 128 + i

/-- What a read of `n` bytes by an agent leaves in the caches. I/O ranges are not cached (R249). -/
def State.readLines (s : State) (a pa n age : Nat) : State :=
  if n = 0 ∨ ioAddr pa then s else (linesOf pa n).foldl (fun (t : State) ln => t.readLine a ln age) s

/-- The copies of the lines of a range in the cache that a write of an agent fills, before the write takes them. -/
def State.heldBefore (s : State) (a : Nat) (ls : List Nat) : List (Nat × Option Copy) := ls.map fun ln => (ln, (s.filler a ln).bind fun b => s.present b ln)

/-- A write of bytes by an agent (R192, R250, R257): it acts at the home, and leaves the lines in M in the agent's cache. -/
def State.wrBytesBy (s : State) (a pa age : Nat) (d : List Byte) : State :=
  let s1 := s.wrBytes pa d
  if d.isEmpty ∨ ioAddr pa then s1 else (s.heldBefore a (linesOf pa d.length)).foldl (fun (t : State) e => t.ownLine a e.1 age e.2) s1

/-- Whole lines zeroed by an agent (R193, R239): every other copy ends, and the lines are Modified in the agent's cache; near memory and disabled caches
leave the zeros at the home. -/
def State.zeroLinesBy (s : State) (a l0 l1 age : Nat) : State :=
  (s.heldBefore a ((List.range (l1 - l0)).map fun i => l0 + i)).foldl (fun (t : State) e => t.ownLine a e.1 age e.2) (s.zeroLines l0 l1)

/-- Lines of a range that a read of an agent finds in no cache of its path, so that it reaches their home (R236, R302). -/
def State.missing (s : State) (a pa n : Nat) : Nat :=
  (linesOf pa n).countP fun ln => s.servedBy a ln == .home

end Sys2Proof.Machine
end

