-- ==== Sys2Proof/Machine/Paging.lean ====
section
/-! DEFINITION. Translation (R284 to R288), the fault queue (R293 to R298), and demand-zero pages (R300, R301). -/

namespace Sys2Proof.Machine

/-- Where an access was refused: the kind of R298, the table level (7: not a walk fault), and the addresses. -/
structure Hit where
  kind : Nat
  level : Nat
  va : Nat
  pa : Nat
deriving DecidableEq, Repr

/-- What a walk finds: a leaf (the physical address of the access, its rights as R, W, AT in bits 0 to 2, the level, the entry), an
invalid entry with DEMAND_ZERO, or a fault. -/
inductive WalkRes where
  | leaf (pa rights level entry : Nat)
  | demand (entryPa entry : Nat)
  | fail (kind level pa : Nat)
deriving DecidableEq, Repr

/-- What the entry of a level says: the walk ends, or goes on in the next table. -/
inductive WalkStep where
  | stop (r : WalkRes)
  | down (next : Nat)
deriving DecidableEq, Repr

/-- Bits of the virtual address that index a level, as shift and width (R285). -/
def levelShift (l : Nat) : Nat := if l = 0 then 43 else if l = 1 then 30 else if l = 2 then 21 else 16
def levelBits (l : Nat) : Nat := if l = 0 then 13 else if l = 1 then 13 else if l = 2 then 9 else 5

/-- The alignment of the table below a level (R285). -/
def nextAlign (l : Nat) : Nat := if l = 0 then 65536 else if l = 1 then 4096 else 256

/-- A malformed entry (R287). -/
def malformed (e l : Nat) : Bool :=
  if bitAt e 0 then
    if bitAt e 1 then
      l == 0 || bitsOf e 6 2 != 0 || bitsOf e 11 5 != 0 || bitsOf e 52 4 != 0 || decide (5 < bitsOf e 8 3) ||
        (l == 1 && bitsOf e 16 14 != 0) || (l == 2 && bitsOf e 16 5 != 0)
    else l == 3 || bitsOf e 2 6 != 0 || bitsOf e 52 12 != 0 || (bitsOf e 8 44 * 256) % nextAlign l != 0
  else l != 3 && bitAt e 1

/-- A table entry that cannot be read: unbacked, lost or uncorrectable (R293, R297). -/
def State.unreadable (s : State) (pa : Nat) : Option Nat :=
  if !s.backed pa then some 4
  else if (s.dirOf (pa / 128)).st == .l || s.deadOwned (pa / 128) then some 6
  else if (s.badIn (pa / 128) (pa / 128)).isSome then some 7
  else none

/-- What the entry at `ea` of a level says (R285 to R287, R293). -/
def State.walkStep (s : State) (va l ea : Nat) : WalkStep :=
  match s.unreadable ea with
  | some k => .stop (.fail k l ea)
  | none =>
    let e := s.rdNat ea 8
    if malformed e l then .stop (.fail 3 l 0)
    else if !bitAt e 0 then .stop (if l == 3 && bitAt e 1 then .demand ea e else .fail 1 l 0)
    else if bitAt e 1 then .stop (.leaf (bitsOf e 16 36 * 65536 + va % 2 ^ levelShift l) (bitsOf e 2 3) l e)
    else .down (bitsOf e 8 44 * 256)

/-- Whether an old translation of a context is still in the cache that is asked, and used (R291; free value, log 31). -/
def State.hits (s : State) (c : Nat) (k : List Nat) : Bool := Config.cacheHit (s.freeIx :: s.now :: c :: k)

/-- A cached pointer that a walk uses in place of the entry, which has become another (R289, R291). -/
def State.oldPtr (s : State) (c va l : Nat) (w : WalkStep) : Option Nat :=
  (s.tlb.ptrs.find? fun p =>
    p.ctx == c && p.level == l && decide (p.lo ≤ va) && decide (va < p.lo + p.len) && decide (w ≠ .down p.next) && s.hits c [l, p.lo, p.next]).map
      fun p => p.next

/-- The walk of R285 from a table at a level. -/
def State.walkFrom (s : State) (c va : Nat) : Nat → Nat → Nat → WalkRes
  | 0, l, _ => .fail 3 l 0
  | fuel + 1, l, t =>
    let w := s.walkStep va l (t + 8 * bitsOf va (levelShift l) (levelBits l))
    match s.oldPtr c va l w, w with
    | some n, _ => s.walkFrom c va fuel (l + 1) n
    | none, .stop r => r
    | none, .down n => s.walkFrom c va fuel (l + 1) n

/-- TABLE_ROOT in effect of a context (R299). -/
def State.rootOf (s : State) (c : Nat) : Nat := bitsOf (s.ctx c).regs.xlate.eff.toNat 0 52

/-- What the tables of a context say of an address (R284). -/
def State.walk (s : State) (c va : Nat) : WalkRes :=
  if 2 ^ 56 ≤ va then .fail 1 7 0 else s.walkFrom c va 4 0 (s.rootOf c)

/-- What a cached leaf says of an address it covers. -/
def CachedLeaf.says (e : CachedLeaf) (va : Nat) : WalkRes :=
  let sz := 2 ^ levelShift e.level
  let pa := e.pa + (va - e.lo)
  .leaf pa (bitsOf e.entry 2 3) e.level (setBits e.entry 16 36 (pa / sz * sz / 65536))

/-- A cached leaf covers an address of a context. -/
def CachedLeaf.covers (e : CachedLeaf) (c va : Nat) : Bool := e.ctx == c && decide (e.lo ≤ va) && decide (va < e.lo + e.len)

/-- The translation of a context's address (R284): what the tables say, or an old translation that a cache still holds (R291). -/
def State.look (s : State) (c va : Nat) : WalkRes :=
  let w := s.walk c va
  match s.tlb.leaves.find? fun e => e.covers c va && decide (e.says va ≠ w) && s.hits c [4, e.lo, e.pa, e.entry] with
  | some e => e.says va
  | none => w

/-- The physical address of a context's address, 0 where it has none. -/
def State.tr (s : State) (c va : Nat) : Nat :=
  match s.look c va with
  | .leaf pa _ _ _ => pa
  | _ => 0

/-- The leaf that a walk caches (R290): the whole run of a RUN_LOG2 above 0 when its entries are valid, alike but for the SOFTWARE field (R287) and
contiguous, and the run is aligned; else the page walked. -/
def State.cacheable (s : State) (c va l ea e : Nat) : CachedLeaf :=
  let sz := 2 ^ levelShift l
  let n := 2 ^ bitsOf e 8 3
  let i := va / sz % n
  let pa := bitsOf e 16 36 * 65536
  let pa0 := pa - i * sz
  let same := fun (j : Nat) => (s.unreadable (ea - 8 * i + 8 * j)).isNone && s.rdNat (ea - 8 * i + 8 * j) 8 % 2 ^ 56 == setBits e 16 36 ((pa0 + j * sz) / 65536) % 2 ^ 56
  if decide (1 < n) && decide (i * sz ≤ pa) && pa0 % (n * sz) == 0 && (List.range n).all same
  then ⟨c, va / (n * sz) * (n * sz), n * sz, pa0, l, setBits e 16 36 (pa0 / 65536)⟩
  else ⟨c, va / sz * sz, sz, pa, l, e⟩

/-- Adds an element to a list that does not have it. -/
def addNew {α : Type} [DecidableEq α] (l : List α) (x : α) : List α := if x ∈ l then l else l ++ [x]

/-- A walk that reached a leaf caches the pointers on its way and the leaf (R289, R290). -/
def State.cacheFrom (s : State) (c va : Nat) (x : Translations) : Nat → Nat → Nat → Translations
  | 0, _, _ => x
  | fuel + 1, l, t =>
    let ea := t + 8 * bitsOf va (levelShift l) (levelBits l)
    let sz := 2 ^ levelShift l
    let w := s.walkStep va l ea
    match s.oldPtr c va l w, w with
    | some n, _ => s.cacheFrom c va x fuel (l + 1) n
    | none, .down n => s.cacheFrom c va { x with ptrs := addNew x.ptrs ⟨c, l, va / sz * sz, sz, n⟩ } fuel (l + 1) n
    | none, .stop (.leaf _ _ l e) => { x with leaves := addNew x.leaves (s.cacheable c va l ea e) }
    | none, .stop _ => x

/-- A leaf whose run was not merged when it was cached (R290). -/
def CachedLeaf.unmerged (e : CachedLeaf) : Bool := decide (0 < bitsOf e.entry 8 3) && e.len == 2 ^ levelShift e.level

/-- Caches what the walk of an address found, unless a cache may hold it already. A run that is not merged is counted on each die whose agent walks it
(R290, R489). -/
def State.cacheWalk (s : State) (a c va : Nat) : State :=
  let s1 := if s.tlb.leaves.any fun e => e.covers c va && decide (e.says va = s.look c va) then s
    else { s with tlb := s.cacheFrom c va s.tlb 4 0 (s.rootOf c) }
  match s1.tlb.leaves.find? fun e => e.covers c va && e.unmerged && decide (e.says va = s1.look c va) with
  | some e =>
    if a < 1024 ∧ !s1.tlb.mismatched.contains (a / 128, e) then
      ({ s1 with tlb := { s1.tlb with mismatched := s1.tlb.mismatched ++ [(a / 128, e)] } }).countEv (a / 128) 0x025 0 (some c) 1
    else s1
  | none => s1

/-- An access whose cached translation lacks a right walks the tables, so raised rights need no invalidation (R291). -/
def State.dropWeak (s : State) (c va need : Nat) : State :=
  { s with tlb := { s.tlb with
                            leaves := s.tlb.leaves.filter fun e => !(e.covers c va && (bitsOf e.entry 2 3 &&& need) != need),
                            mismatched := s.tlb.mismatched.filter fun e => !(e.2.covers c va && (bitsOf e.2.entry 2 3 &&& need) != need) } }

/-- Removes every cached translation of a context that meets a range (R291, R303). -/
def State.uncache (s : State) (c lo hi : Nat) : State :=
  { s with tlb := { leaves := s.tlb.leaves.filter fun e => !(e.ctx == c && decide (e.lo < hi) && decide (lo < e.lo + e.len)),
                    ptrs := s.tlb.ptrs.filter fun e => !(e.ctx == c && decide (e.lo < hi) && decide (lo < e.lo + e.len)),
                    mismatched := s.tlb.mismatched.filter fun e => !(e.2.ctx == c && decide (e.2.lo < hi) && decide (lo < e.2.lo + e.2.len)) } }

/-- Somebody waits for the resolution of a fault (R295). -/
def State.waitsOn (s : State) (w : Waiter) : Bool := s.fq.pending.any fun p => p.waiters.contains w

/-- A record or a notice of a context waits for the resolution of a fault: later ones wait behind it (R295). -/
def State.recordsWait (s : State) (c : Nat) : Bool := s.waitsOn (.notice c) || s.waitsOn (.record c) || s.waitsOn (.eve c)

/-- What the caches hold may have changed before the next accesses (R291; log 31). -/
def State.newAccess (s : State) : State := { s with freeIx := s.freeIx + 1 }

/-- Access classes as fault records name them (R298). -/
abbrev accRead : Nat := 0
abbrev accWrite : Nat := 1
abbrev accAtomic : Nat := 2
abbrev accCode : Nat := 3
abbrev accFull : Nat := 4

/-- The rights an access needs, R, W, AT in bits 0 to 2 (R288). -/
def rightsFor (acc : Nat) : Nat := if acc = 1 ∨ acc = 4 then 2 else if acc = 2 then 7 else 1

/-- Rights held cover rights needed. -/
def rightsOk (held needed : Nat) : Bool := (held &&& needed) == needed

/-- The stacks that hold no page of a later placement: one with a fenced pseudo-channel (R280). -/
def State.stackClosed (s : State) (d : Nat) : Bool := (List.range 64).any fun c => s.dram.pc d c == 3

/-- `l` turned so that it begins at its first element not below `t`. -/
def turned (l : List Nat) (t : Nat) : List Nat := (l.filter fun x => decide (t ≤ x)) ++ l.filter fun x => decide (x < t)

/-- The stacks on which the next page of a partition may be placed, in the order they are tried (R272). -/
def State.placement (s : State) (k : Nat) : List Nat :=
  let t := tabGet 0 s.dram.placeTurn k
  let all := List.range 16
  let ord :=
    if s.effNat 0x3050 (k + 1) = 0 then
      let loc := all.filter fun d => (s.stacks k).contains (d / 2)
      turned loc t ++ all.filter fun d => !(loc.contains d)
    else turned all t
  ord.filter fun d => !s.stackClosed d

/-- A ring's number of entries (R475): a size of 0 holds nothing. -/
def Ring.cap (r : Ring) : Nat := if r.log2 = 0 then 0 else 2 ^ r.log2

/-- Entries waiting in a ring. -/
def Ring.used (r : Ring) : Nat := w32Diff r.producer r.consumer

/-- Frame pool `p` (R300). -/
def State.pool (s : State) (p : Nat) : Ring := s.fq.pools.getD p Ring.reset

/-- Replaces a frame pool. -/
def State.setPool (s : State) (p : Nat) (r : Ring) : State := { s with fq := { s.fq with pools := s.fq.pools.set p r } }

/-- The first frame a pool in `ps` yields, its pool, and the state with the pools that could not be read marked (R301). -/
def State.takeFrame (s : State) : List Nat → State × Option (Nat × Nat)
  | [] => (s, none)
  | p :: ps =>
    let r := s.pool p
    if r.cap = 0 ∨ r.used = 0 then s.takeFrame ps
    else
      let ea := r.base + 4 * (r.consumer.toNat % r.cap)
      match s.unreadable ea with
      | some _ =>
        if r.unusable then s.takeFrame ps
        else ((s.setPool p { r with unusable := true }).postEvent 0x0C0A 0xFF (1 + p) none).takeFrame ps
      | none => (s.setPool p { r with consumer := r.consumer + 1 }, some (s.rdNat ea 4 * 65536, p))

/-- DRAM_PAGE_QUOTA in effect. -/
def State.quotaOf (s : State) (c : Nat) : Nat := bitsOf (s.ctx c).regs.xlate.eff.toNat 64 32

/-- A page placed by the device counts in DRAM_PAGES_PLACED and moves the placement on (R272, R299). -/
def State.notePlaced (s : State) (c k d : Nat) : State :=
  let s1 := s.updCtx c fun x => { x with regs := { x.regs with pagesPlaced := x.regs.pagesPlaced + 1 } }
  { s1 with dram := { s1.dram with placeTurn := tabPut 0 s1.dram.placeTurn k (d + 1) } }

/-- The partition whose policy places a context's pages. -/
def State.partOfCtx (s : State) (c : Nat) : Nat := ((s.ctx c).part).getD 0

/-- The demand-zero allocation of R301: the leaf's physical page, or none when no frame can be had. -/
def State.allocZero (s : State) (c entryPa e : Nat) : State × Option Nat :=
  if s.quotaOf c ≤ (s.ctx c).regs.pagesPlaced then (s, none)
  else
    let k := s.partOfCtx c
    match s.takeFrame (s.placement k) with
    | (s1, none) => (s1.raise 7939, none)
    | (s1, some (frame, p)) =>
      let s2 := s1.zeroLines (frame / 128) (frame / 128 + 512)
      let s3 := s2.wrBytes entryPa (leBytes (3 + bitsOf e 2 4 * 4 + frame) 8)
      (s3.notePlaced c k p, some frame)

/-- A context's page is counted for promotion (R302). -/
def State.counted (s : State) (c va : Nat) : Bool :=
  match s.walk c va with
  | .leaf pa _ l e =>
    l == 3 && bitAt e 5 && bitsOf e 8 3 == 0 && regionOf pa == .cxl && bitAt (s.ctx c).regs.xlate.eff.toNat 63 &&
      !(s.ctxs.any fun x => x.1 != c && bitsOf x.2.regs.xlate.eff.toNat 0 52 == s.rootOf c)
  | _ => false

/-- The entry of a set that a new page replaces: the lowest count, and the lowest way among equals (R302). -/
def lowestCount (l : List PageCount) : Option PageCount :=
  l.foldl (fun m x =>
    match m with
    | none => some x
    | some y => if x.count < y.count ∨ x.count = y.count ∧ x.way < y.way then some x else some y) none

/-- `n` accesses to a counted page reach their homes, in the partition's table of 16,384 entries, 8-way (R302). -/
def notePage (t : List PageCount) (c vpn n : Nat) : List PageCount :=
  if n = 0 then t
  else if t.any fun x => x.ctx == c && x.vpn == vpn then
    t.map fun x => if x.ctx = c ∧ x.vpn = vpn then { x with count := satTo 16 (x.count + n) } else x
  else
    let set := t.filter fun x => x.vpn % 2048 == vpn % 2048
    match (List.range 8).find? fun w => !(set.any fun x => x.way == w) with
    | some w => t ++ [⟨c, vpn, satTo 16 n, w⟩]
    | none =>
      match lowestCount set with
      | some y => t.erase y ++ [⟨c, vpn, satTo 16 n, y.way⟩]
      | none => t

/-- Counts the accesses of an agent for a context to `n` bytes of a page: those that no cache on their way serves (R302). -/
def State.countPage (s : State) (a c va pa n : Nat) : State :=
  if s.counted c va then s.updPart (s.partOfCtx c) fun p => { p with counts := notePage p.counts c (va / 65536) (s.missing a pa n) } else s

/-- Counts a request of a cache of a compute stack at the home of a line of the CXL range: the page is the one whose cached translation the request
came by (R302). -/
def State.countLine (s : State) (a ln : Nat) : State :=
  if 1024 ≤ a ∨ regionOf (ln * 128) ≠ .cxl then s
  else
    match s.tlb.leaves.find? fun e => decide (e.pa ≤ ln * 128) && decide (ln * 128 < e.pa + e.len) && s.counted e.ctx (e.lo + (ln * 128 - e.pa)) with
    | some e =>
      s.updPart (s.partOfCtx e.ctx) fun p => { p with counts := notePage p.counts e.ctx ((e.lo + (ln * 128 - e.pa)) / 65536) 1 }
    | none => s

/-- The lines of a write that it covers only in part: at most its first and its last. -/
def partialLines (pa n : Nat) : List Nat :=
  let l0 := pa / 128
  let l1 := (pa + n - 1) / 128
  let w := wholeLines pa n
  ((if l0 = l1 then [l0] else [l0, l1]) : List Nat).filter fun l => !(decide (w.1 ≤ l) && decide (l < w.2))

/-- The lowest line that refuses an access, and whether it is lost (R267) or its data uncorrectable (R277). A line that a write covers
whole refuses nothing (R268; DEDUCED for every write of an operation, log 35). -/
def State.refusedLine (s : State) (acc pa n : Nat) : Option (Nat × Bool) :=
  if acc = accFull ∨ ioAddr pa then none
  else if acc = accWrite then
    ((partialLines pa n).find? fun l => (s.dirOf l).st == .l || (s.badIn l l).isSome).map fun l => (l, (s.dirOf l).st == .l)
  else
    match s.lostIn (pa / 128) ((pa + n - 1) / 128), s.badIn (pa / 128) ((pa + n - 1) / 128) with
    | some l, some b => if l < b then some (l, true) else some (b, false)
    | some l, none => some (l, true)
    | none, some b => some (b, false)
    | none, none => none

/-- The checks of an access to `n` bytes at a translated address, after its rights: backing, lost lines, uncorrectable data (R54, R267, R277), after
a gated unit that serves it has woken (R408) and the lines of dead agents are reclaimed (R265). A full-line write reads nothing. The record names the line's address (R267). -/
def State.checkPa (s : State) (acc va pa n : Nat) : State × Option Hit :=
  match s.firstUnbacked pa n with
  | some a => (s, some ⟨4, 7, va + (a - pa), a⟩)
  | none =>
    let s1 := if ioAddr pa then s.wakeFor pa else (s.wakeFor pa).reclaimIn (pa / 128) ((pa + n - 1) / 128)
    match s1.refusedLine acc pa n with
    | some (l, lost) => (if lost then s1 else s1.loseLine l, some ⟨if lost then 6 else 7, 7, va + (l * 128 - pa), l * 128⟩)
    | none => (s1, none)

/-- The age at which an access of an agent fills a line (R237): a thread unit's demand misses at 1, every fill of a feed, a stream unit or a sequencer
at 3. R237 names no age for a sequencer's accesses outside its stream programs (DESIGN CHOICE, log 136). -/
def fillAge (a : Nat) : Nat := if isUnit a then 1 else 3

/-- The end of an access of an agent to a page whose translation gives it the rights: an access that memory refuses leaves no cached translation of
the page (R289), any other is counted and cached, and a read leaves its lines in the caches of its path (R236, R237). -/
def State.reach (s : State) (a c acc va pa n : Nat) (count : Bool) : State × Option Hit :=
  match s.checkPa acc va pa n with
  | (s1, some h) => (s1.uncache c va (va + 1), some h)
  | (s1, none) =>
    let s2 := if count then (s1.cacheWalk a c va).countPage a c va pa n else s1.cacheWalk a c va
    (if acc = accRead ∨ acc = accCode then s2.readLines a pa n (fillAge a) else s2, none)

/-- An access of an agent for a context to `n` bytes of one 64 KiB page: its translation, a demand-zero allocation, its rights and the checks on
the memory it reaches. -/
def State.prepPage (s : State) (a c acc va n : Nat) : State × Option Hit :=
  let s0 := s.dropWeak c va (rightsFor acc)
  match s0.look c va with
  | .fail k l pa => (s0, some ⟨k, l, va, pa⟩)
  | .leaf pa r l _ => if rightsOk r (rightsFor acc) then s0.reach a c acc va pa n true else (s0.uncache c va (va + 1), some ⟨2, l, va, pa⟩)
  | .demand ea e =>
    match s0.allocZero c ea e with
    | (s1, none) => (s1, some ⟨5, 3, va, 0⟩)
    | (s1, some f) =>
      if rightsOk (bitsOf e 2 3) (rightsFor acc) then s1.reach a c acc va (f + va % 65536) n false
      else (s1, some ⟨2, 3, va, f + va % 65536⟩)

/-- The pages of a range, one after another; the first refusal ends it. -/
def State.prepFrom (s : State) (a c acc : Nat) : Nat → Nat → Nat → State × Option Hit
  | 0, _, _ => (s, none)
  | fuel + 1, va, n =>
    if n = 0 then (s, none)
    else
      let m := min n (65536 - va % 65536)
      match s.prepPage a c acc va m with
      | (s1, some h) => (s1, some h)
      | (s1, none) => s1.prepFrom a c acc fuel (va + m) (n - m)

/-- An access of an agent for a context to `n` bytes from `va`. -/
def State.prepAt (s : State) (a c acc va n : Nat) : State × Option Hit := s.prepFrom a c acc (n / 65536 + 2) va n

/-- Several accesses of an agent in order: class, address, bytes. The first refusal ends them. -/
def State.prepAllAt (s : State) (a c : Nat) : List (Nat × Nat × Nat) → State × Option (Nat × Hit)
  | [] => (s, none)
  | (acc, va, n) :: r =>
    match s.prepAt a c acc va n with
    | (s1, some h) => (s1, some (acc, h))
    | (s1, none) => s1.prepAllAt a c r

/-- The AGENT_ID of a partition's sequencer: the stack cache of its first stack (R248). -/
def State.seqAgent (s : State) (c : Nat) : Nat :=
  match s.stacks (s.partOfCtx c) with
  | n :: _ => 128 * n + 64
  | [] => 64

/-- An access of a context's sequencer. -/
def State.prep (s : State) (c acc va n : Nat) : State × Option Hit := s.prepAt (s.seqAgent c) c acc va n

/-- The agent of the tile feed or stream unit that reads an input of an operation: one of the stacks of its partition, whose own hamper and stack cache it
looks in (R225, R236). Which stack feeds which input the manual does not say (free value, log 184). -/
def State.feedAgent (s : State) (c : Nat) : Nat × State :=
  match s.stacks (s.partOfCtx c) with
  | [] => (64, s)
  | [n] => (128 * n + 64, s)
  | st => (128 * st.getD ((s.free).1 % st.length) 0 + 64, (s.free).2)

/-- Several accesses of an operation in order: reads by its feeds, the others by its sequencer. The first refusal ends them. -/
def State.prepAll (s : State) (c : Nat) : List (Nat × Nat × Nat) → State × Option (Nat × Hit)
  | [] => (s, none)
  | (acc, va, n) :: r =>
    let a := if acc = accRead then s.feedAgent c else (s.seqAgent c, s)
    match a.2.prepAt a.1 c acc va n with
    | (s1, some h) => (s1, some (acc, h))
    | (s1, none) => s1.prepAll c r

/-- Bytes of a context's memory as an agent reads them; the access was prepared. -/
def State.rdVAt (s : State) (a c va : Nat) : Nat → List Byte
  | 0 => []
  | n + 1 =>
    if va / 65536 = (va + n) / 65536 then s.rdBytesBy a (s.tr c va) (n + 1)
    else s.rdByteBy a (s.tr c va) :: s.rdVAt a c (va + 1) n

/-- Bytes of a context's memory as its sequencer reads them. -/
def State.rdV (s : State) (c va n : Nat) : List Byte := s.rdVAt (s.seqAgent c) c va n

/-- A little-endian number in a context's memory. -/
def State.rdVNat (s : State) (c va n : Nat) : Nat := leNat (s.rdV c va n)

/-- A prepared write of an agent for a context, page by page. -/
def State.wrVFrom (s : State) (a c : Nat) : Nat → Nat → List Byte → State
  | 0, _, _ => s
  | fuel + 1, va, d =>
    if d.isEmpty then s
    else
      let m := 65536 - va % 65536
      (s.wrBytesBy a (s.tr c va) (fillAge a) (d.take m)).wrVFrom a c fuel (va + m) (d.drop m)

/-- A prepared write of an agent for a context. -/
def State.wrVAt (s : State) (a c va : Nat) (d : List Byte) : State := s.wrVFrom a c (d.length / 65536 + 2) va d

/-- A prepared write of a context's sequencer. -/
def State.wrV (s : State) (c va : Nat) (d : List Byte) : State := s.wrVAt (s.seqAgent c) c va d

/-- Zeros written by an agent to prepared whole lines of a context, page by page (R24, R193, R239). -/
def State.zeroVFrom (s : State) (a c age : Nat) : Nat → Nat → Nat → State
  | 0, _, _ => s
  | fuel + 1, va, n =>
    if n = 0 then s
    else
      let m := min n (65536 - va % 65536)
      let pa := s.tr c va
      (if ioAddr pa then s.wrBytes pa (List.replicate m 0) else s.zeroLinesBy a (pa / 128) ((pa + m) / 128) age).zeroVFrom a c age fuel (va + m) (n - m)

/-- What `n` bytes of a context's memory hold, by the page: physical address and bytes. What a device behind an I/O range holds cannot be given back. -/
def State.oldBytes (s : State) (c : Nat) : Nat → Nat → Nat → List (Nat × List Byte)
  | 0, _, _ => []
  | fuel + 1, va, n =>
    if n = 0 then []
    else
      let m := min n (65536 - va % 65536)
      let pa := s.tr c va
      (if ioAddr pa then [] else [(pa, s.rdBytes pa m)]) ++ s.oldBytes c fuel (va + m) (n - m)

/-- What an output of a context's operation is about to replace is kept until the operation completes (R220). -/
def State.noteOld (s : State) (c va n : Nat) : State :=
  match tabGet none s.streams.work c with
  | some w => { s with streams := { s.streams with work := tabPut none s.streams.work c (some { w with old := w.old ++ s.oldBytes c (n / 65536 + 2) va n }) } }
  | none => s

/-- A prepared output of an operation, written by bursts of its sequencer's program (R201, R220). -/
def State.outV (s : State) (c va : Nat) (d : List Byte) : State := (s.noteOld c va d.length).wrV c va d

/-- Prepared outputs in order. -/
def State.wrVAll (s : State) (c : Nat) (ws : List (Nat × List Byte)) : State := ws.foldl (fun t w => t.outV c w.1 w.2) s

/-- Outputs of which the first `keep` bytes are committed, and the rest gives back what it replaced. -/
def uncommitted (keep : Nat) : List (Nat × List Byte) → List (Nat × List Byte)
  | [] => []
  | (pa, d) :: r => if d.length ≤ keep then uncommitted (keep - d.length) r else (pa + keep, d.drop keep) :: r

/-- The bursts of an operation's output that are not committed are discarded whole: their targets hold what they held (R220). -/
def State.discardOutput (s : State) (w : SeqWork) (keep : Nat) : State := ((uncommitted keep w.old).reverse).foldl (fun (t : State) e => t.wrBytes e.1 e.2) s

/-- A fault record (R298). -/
def faultRecord (kind acc : Nat) (svc : Bool) (level agent ctx opIx va pa ix now : Nat) : BitVec 512 :=
  BitVec.ofNat 512 (kind + acc * 2 ^ 8 + b2n svc * 2 ^ 11 + level * 2 ^ 12 + agent * 2 ^ 16 + ctx * 2 ^ 28 + opIx % 2 ^ 64 * 2 ^ 64 +
    va % 2 ^ 64 * 2 ^ 128 + pa % 2 ^ 52 * 2 ^ 192 + ix % 2 ^ 32 * 2 ^ 256 + now % 2 ^ 64 * 2 ^ 320)

/-- Writes what the fault queue can take of the records that wait, in INDEX order (R296, R298). -/
def State.drainFq (s : State) : List (BitVec 512) → State
  | [] => { s with fq := { s.fq with waiting := [] } }
  | r :: rest =>
    let q := s.fq.ring
    if q.base = 0 ∨ q.cap ≤ q.used then { s with fq := { s.fq with waiting := r :: rest } }
    else
      let ea := q.base + 64 * (q.producer.toNat % q.cap)
      match s.unreadable ea with
      | some _ =>
        let s1 := { s with fq := { s.fq with waiting := r :: rest, ring := { q with unusable := true } } }
        if q.unusable then s1 else s1.postEvent 0x0C0A 0xFF 0 none
      | none =>
        let s1 := s.wrBytes ea (leBytes r.toNat 64)
        let s2 := { s1 with fq := { s1.fq with ring := { q with producer := q.producer + 1 } } }
        (s2.raise 7936).drainFq rest

/-- Tries the records that wait again (R296). -/
def State.tryFq (s : State) : State := s.drainFq s.fq.waiting

/-- Puts a record on the fault queue, or makes it wait (R296, R297). -/
def State.postFq (s : State) (r : BitVec 512) : State := s.drainFq (s.fq.waiting ++ [r])

/-- The next INDEX of the fault queue. -/
def State.takeIndex (s : State) : Nat × State := (s.fq.nextIndex, { s with fq := { s.fq with nextIndex := (s.fq.nextIndex + 1) % 2 ^ 32 } })

/-- An integrity report (R418), but for its INDEX. -/
def integrityWord (diag cls die ix reaction : Nat) (transient spare degraded : Bool) (since now ctxs gen : Nat) : Nat :=
  0x30 + diag * 2 ^ 8 + cls * 2 ^ 16 + die * 2 ^ 24 + ix % 2 ^ 16 * 2 ^ 32 + reaction * 2 ^ 48 + b2n transient * 2 ^ 50 + b2n spare * 2 ^ 51 +
    b2n degraded * 2 ^ 52 + since % 2 ^ 64 * 2 ^ 64 + now % 2 ^ 64 * 2 ^ 128 + ctxs * 2 ^ 192 + gen % 2 ^ 32 * 2 ^ 224

/-- A record that takes the next INDEX and goes to the fault queue; answers the record as written. -/
def State.postIndexed (s : State) (w : Nat) : State × Nat :=
  let i := s.takeIndex
  let r := w + i.1 * 2 ^ 256
  (i.2.postFq (BitVec.ofNat 512 r), r)

/-- Pseudo-channel `c` is fenced at once, as channel `unit` has failed with no spare left (R280): its granules are unbacked, and the fencing is reported (R417,
R418); no diagnostic of R411 covers margining, whose report has DIAG 0 (DESIGN CHOICE, log 161). -/
def State.fencePc (s : State) (d c unit cause : Nat) : State :=
  if s.dram.pc d c = 3 then s
  else
    let s1 := ((s.discardLines (lineOfPc d c)).setPc d c 3).addFence (20 + d) 0x02 unit cause
    let s2 := { s1 with integ := { s1.integ with dramDegraded := s1.integ.dramDegraded ||| 2 ^ d } }.degrade
    let r := s2.postIndexed (integrityWord (if cause = 0x03 then 0x04 else 0) 0x02 (20 + d) unit 2 false false true s.now s.now 0 s2.integ.generation)
    r.1.notify 3 0 (leBytes r.2 64) none

/-- A pseudo-channel fails (R279, R280): it is copied to PC_64 from the next tick, or fenced when the spare is in use. A channel that PC_64 has
replaced is out of use. PC_64 itself fails with the channel it stands for, or before it stands for any; a channel whose copy to it is due then has no spare
left. A second channel that fails before the tick at which the first one's copy starts is fenced at once (DESIGN CHOICE, log 170). -/
def State.failPc (s : State) (d c cause : Nat) : State :=
  let e := s.dram.spare.getD d 255
  if c = 64 then
    (if s.dram.pc d 64 = 3 then s
     else if e = 255 then
       let s1 := s.setPc d 64 3
       (s.dram.copyDue.filter fun x => x.1 == d).foldl (fun (t : State) x => t.fencePc d x.2 x.2 cause)
         { s1 with dram := { s1.dram with copyDue := s.dram.copyDue.filter fun x => x.1 != d } }
     else
       let s1 := (s.fencePc d e 64 cause).setPc d 64 3
       { s1 with dram := { s1.dram with copying := s1.dram.copying.filter fun x => x.1 != d } })
  else if s.dram.pc d c = 3 ∨ s.dram.pc d c = 2 ∨ s.dram.pc d c = 1 ∨ s.dram.copyDue.contains (d, c) then s
  else if e = 255 ∧ s.dram.pc d 64 ≠ 3 ∧ !(s.dram.copyDue.any fun x => x.1 == d) then
    { s with dram := { s.dram with copyDue := s.dram.copyDue ++ [(d, c)] } }
  else s.fencePc d c c cause

/-- A row of a pseudo-channel fails: a spare row of its bank takes its place at the next tick, and without one the pseudo-channel fails (R278). -/
def State.failRow (s : State) (d c row cause : Nat) : State :=
  if spareRowLeft d row (s.dram.rowRepairs.getD d 0) then { s with dram := { s.dram with repairDue := s.dram.repairDue ++ [(pcKey d c, row)] } }
  else s.failPc d c cause

/-- An error in a row of a pseudo-channel counts against the buckets of both (R277, R422, R423). -/
def State.countDramError (s : State) (d c row : Nat) : State :=
  (s.countError 1 (20 + d) (rowIx c row) fun t => t.failRow d c row 0x03).countError 2 (20 + d) c fun t => t.failPc d c 0x03

/-- A corrected error in a row of a pseudo-channel (R277, R479, R489). -/
def State.noteCorrected (s : State) (d c row : Nat) : State :=
  let s0 := { s with dram := { s.dram with corrected := tabPut 0 s.dram.corrected (pcKey d c) (satInc 32 (tabGet 0 s.dram.corrected (pcKey d c))) } }
  (s0.countEv (8 + d / 2) 0x109 0 none 1).countDramError d c row

/-- An uncorrectable error of a pseudo-channel is counted (R277, R479). -/
def State.noteUncorrectable (s : State) (d c row : Nat) : State :=
  ({ s with dram := { s.dram with uncorrectable := tabPut 0 s.dram.uncorrectable (pcKey d c) (satInc 32 (tabGet 0 s.dram.uncorrectable (pcKey d c))) } }).countDramError
    d c row

/-- The report of uncorrectable data that an access or a scrub found in a line (R417 class 1, R418, R421): its pseudo-channel in stacked
DRAM, its way in near memory. -/
def State.lineReport (s : State) (ln reaction : Nat) : State :=
  let pa := ln * 128
  let u := match regionOf pa with
    | .dram d => (0x02, 20 + d, s.storePc d ln)
    | .near n => (0x05, 8 + n, (pa - 0x100000000000) % 2 ^ 31 / 2 ^ 26)
    | _ => (0x00, 8 + bitsOf pa 10 3, 0)
  let s1 := match regionOf pa with
    | .dram d => s.noteUncorrectable d (s.storePc d ln) (rowOf ln)
    | _ => s
  let r := s1.postIndexed (integrityWord 0x04 u.1 u.2.1 u.2.2 reaction false false false s.now s.now 0 s.integ.generation)
  r.1.notify 3 0 (leBytes r.2 64) none

/-- A pending record that an access of a context joins (R294). -/
def State.joins (s : State) (c kind acc va : Nat) : Option PendingFault :=
  s.fq.pending.find? fun p => p.ctx == c && p.kind == kind && p.access == acc && p.page == va / 65536

/-- A refused access of a kind that is not serviceable: its record holds nothing back (R297). Answers the record's INDEX. -/
def State.hardFault (s : State) (c agent opIx acc : Nat) (h : Hit) : Nat × State :=
  let i := s.takeIndex
  (i.1, i.2.postFq (faultRecord h.kind acc false h.level agent c opIx h.va h.pa i.1 i.2.now))

/-- A refused access of a context. A serviceable one joins the pending record of its page or opens one, with its waiter (R293,
R294); any other writes its record and holds nothing back (R297). Answers the record's INDEX. -/
def State.faultAt (s : State) (c agent opIx acc : Nat) (h : Hit) (w : Waiter) : Nat × State :=
  if h.kind ≤ 5 then
    match s.joins c h.kind acc h.va with
    | some p =>
      (p.ix, { s with fq := { s.fq with pending := s.fq.pending.map fun x =>
        if x.ix = p.ix then { x with waiters := if x.waiters.contains w then x.waiters else x.waiters ++ [w] } else x } })
    | none =>
      let i := s.takeIndex
      let s1 := { i.2 with fq := { i.2.fq with pending := i.2.fq.pending ++ [(⟨i.1, c, h.kind, acc, h.va / 65536, [w]⟩ : PendingFault)] } }
      (i.1, s1.postFq (faultRecord h.kind acc true h.level agent c opIx h.va h.pa i.1 s1.now))
  else
    (if h.kind = 7 then s.lineReport (h.pa / 128) 1 else s).hardFault c agent opIx acc h

/-- The status that a record's kind ends an operation with (R295, R297). -/
def statusOfKind (k : Nat) : Nat := if k = 6 then 0x0202 else if k = 7 then 0x0203 else 0x0201

end Sys2Proof.Machine
end

