-- ==== Sys2Proof/Machine/Operands.lean ====
section
/-! DEFINITION. The operand forms: fields of a descriptor with the checks of its header and body (R21, R22), and fields of the 16-byte
words of lane programs and stream programs. -/

namespace Sys2Proof.Machine

/-- Bits `[hi:lo]` of a descriptor (R21). -/
def fld (d : Descriptor) (lo hi : Nat) : Nat := bitsOf d.toNat lo (hi + 1 - lo)

/-- One bit of a descriptor. -/
def flag (d : Descriptor) (i : Nat) : Bool := bitAt d.toNat i

def dOpcode (d : Descriptor) : Nat := fld d 0 7
def dVersion (d : Descriptor) : Nat := fld d 8 15
def dIrq (d : Descriptor) : Bool := flag d 16
def dSilent (d : Descriptor) : Bool := flag d 17
def dPin (d : Descriptor) : Bool := flag d 18
def dHaltOnFlag (d : Descriptor) : Bool := flag d 19
def dTag (d : Descriptor) : Nat := fld d 64 127

/-- The legal opcodes (R22). -/
def legalOpcodes : List Nat :=
  [0x01, 0x02, 0x03, 0x04, 0x08, 0x09, 0x0A, 0x0B, 0x0C, 0x10, 0x18, 0x19, 0x20, 0x21, 0x22, 0x23, 0x24, 0x28, 0x29]

/-- The bits that a list of fields, as low and high positions, covers. -/
def fieldMask (fs : List (Nat × Nat)) : Nat := fs.foldl (fun m f => m ||| ((2 ^ (f.2 + 1 - f.1) - 1) * 2 ^ f.1)) 0

/-- The lowest set bit of a number below 2^2048. -/
def lowestBit (v : Nat) : Option Nat := if v = 0 then none else (List.range 2048).find? fun i => bitAt v i

/-- The first nonzero reserved bit of a descriptor whose body has the fields `fs` (R22, R30). -/
def firstReserved (d : Descriptor) (fs : List (Nat × Nat)) : Option Nat :=
  let known := fieldMask ((0, 19) :: (64, 127) :: fs)
  lowestBit (d.toNat - (d.toNat &&& known))

/-- A check that failed: its status and its DETAIL. -/
abbrev Reject := Option (Nat × Nat)

/-- Of several BAD_FIELD checks the one with the lowest DETAIL is reported (R22). -/
def badField (checks : List (Bool × Nat)) : Reject :=
  (checks.foldl (fun (m : Option Nat) c =>
    if c.1 then some (match m with | none => c.2 | some x => min x c.2) else m) none).map fun x => (0x0104, x)

/-- Two formats that must agree and do not (R22, R30). -/
def mismatch (a b : Nat) : Reject := if a = b then none else some (0x0105, a % 256 + b % 256 * 256)

/-- The first of two checks that fails. -/
def Reject.orElse (a b : Reject) : Reject :=
  match a with
  | some x => some x
  | none => b

/-- The checks of the header and the reserved bits (R22). -/
def headerCheck (d : Descriptor) (fs : List (Nat × Nat)) : Reject :=
  if dVersion d ≠ 1 then some (0x0101, dVersion d)
  else if !legalOpcodes.contains (dOpcode d) then some (0x0102, dOpcode d)
  else (firstReserved d fs).map fun i => (0x0103, i)

/-- An address field that breaks its alignment or has bits [63:56] set (R22, R23), as a check on the field at `lo`. -/
def badAddr (d : Descriptor) (lo align : Nat) : Bool × Nat :=
  let a := fld d lo (lo + 63)
  (decide (2 ^ 56 ≤ a) || a % align != 0, lo)

/-- Two byte ranges share a byte. -/
def overlaps (a n b m : Nat) : Bool := decide (0 < n) && decide (0 < m) && decide (a < b + m) && decide (b < a + n)

end Sys2Proof.Machine
end

