-- ==== Sys2Proof/Machine/Contract.lean ====
section
/-! DEFINITION. The operation contract: taking operations (R13 to R22), completion records (R17 to R19, R28 to R30), notices (R31,
R473), halting, and the choice of the next context (R42, R527). -/

namespace Sys2Proof.Machine

def qAddr (x : Ctx) : Nat := bitsOf x.regs.queueWord.toNat 0 56
def qLog2 (x : Ctx) : Nat := bitsOf x.regs.queueWord.toNat 56 5
def cAddr (x : Ctx) : Nat := bitsOf x.regs.complWord.toNat 0 56
def cLog2 (x : Ctx) : Nat := bitsOf x.regs.complWord.toNat 56 5

/-- HOST_GRANT is in effect (R12, R344). -/
def granted (x : Ctx) : Bool := bitAt x.regs.hostBlk.eff.toNat 0

/-- Priority class in effect (R470). -/
def ctxClass (x : Ctx) : Nat := bitsOf x.regs.prio.eff.toNat 0 3

/-- HALT_ON_REJECT in effect (R13). -/
def haltOnReject (x : Ctx) : Bool := bitAt x.regs.prio.eff.toNat 3

/-- The count up to which the sequencer may take entries: QUEUE_READY for a granted context (R349). -/
def queueLimit (x : Ctx) : W32 := if granted x then x.host.queueReady else x.cnt.queueProducer

/-- The context's queue holds an operation. -/
def hasWork (x : Ctx) : Bool := decide (0 < w32Diff (queueLimit x) x.cnt.queueConsumed)

/-- Records written and not consumed, plus reservations (R18). -/
def complUsed (x : Ctx) : Nat := w32Diff x.cnt.complProduced x.cnt.complConsumed + x.flights.length

/-- The completion ring has space for one more record (R18). -/
def complSpace (x : Ctx) : Bool := decide (complUsed x < 2 ^ cLog2 x)

/-- An ending without flags. -/
def endWith (status detail : Nat) : OpResult := ⟨status, detail, false, false, 0⟩

/-- A result of 0x0000 `OK` or, with a flag, 0x0001 `OK_FLAGGED` with the saturating count of flagged elements (R29, R30). -/
def flagged (spread overflow : Bool) (count slices : Nat) : OpResult :=
  if spread || overflow then ⟨1, satTo 32 count, spread, overflow, slices⟩ else ⟨0, 0, false, false, slices⟩

/-- Whether a completion halts its context (R13). -/
def halts (x : Ctx) (d : Descriptor) (status : Nat) : Bool :=
  if status = 0 ∨ status = 0x0411 then false
  else if status = 1 then dHaltOnFlag d
  else if status = 0x0410 then haltOnReject x
  else true

/-- The partition that a context holds. -/
def State.holdsPart (s : State) (c : Nat) : Option Nat := (List.range 8).find? fun k => (s.part k).running == some c

/-- The context's `EVE` is in its drain or past its latch point. -/
def inEve (x : Ctx) : Bool := x.flights.any fun f => match f.st with | .eve _ _ | .eveRecord _ => true | _ => false

/-- A partition whose context gave it up begins the drain of a release point (R527). An Eve that has begun completes first (R295). -/
def State.beginRelease (s : State) (c : Nat) : State :=
  match if inEve (s.ctx c) then none else s.holdsPart c with
  | some k => s.updPart k fun p => { p with phase := .draining, drain := .release, drainFrom := s.now, intervalFrom := none }
  | none => s

/-- A context halts with a status (R13): it keeps its queue and gives up the partition it holds (R527). A
granted context's halt sends vector 0 (R356). -/
def State.halt (s : State) (c status opIx : Nat) : State :=
  let x := s.ctx c
  if x.st == .killed then s
  else if x.st == .halted then s.setCtx c { x with cnt := { x.cnt with lastHalt := status, lastHaltOp := opIx } }
  else
    let s1 := s.setCtx c { x with st := .halted, deficit := 0, pendStart := false,
                                  cnt := { x.cnt with lastHalt := status, lastHaltOp := opIx } }
    let s2 := (s1.beginRelease c).refreshRun
    if granted x then s2.sendVector 0 else s2

/-- The number of the operation a context runs, or would take next. -/
def runningOp (x : Ctx) : Nat :=
  match x.flights with
  | f :: _ => f.opIndex
  | [] => x.cnt.nextOp

/-- The marks of a posted dump and of the group fault record that follows it, in the place of the source to raise (R172, R173). -/
abbrev dumpMark : Nat := 2 ^ 14
abbrev groupMark : Nat := 2 ^ 14 + 1

/-- The bytes of a posted record as they are written: a group fault record has DUMPED, its bit 1536, clear when its dump was lost (R172). -/
def recordBytes (x : Ctx) (d : List Byte) (src : Nat) : List Byte := if src = groupMark ∧ x.dumpLost then d.set 192 0 else d

/-- A posted record is lost (R295); a lost dump shows in the group fault record behind it (R172). -/
def State.lostRecord (s : State) (c src : Nat) : State := if src = dumpMark then s.updCtx c fun x => { x with dumpLost := true } else s

/-- Writes the records posted for a context in their order; a serviceable fault stalls them unless it was declined, any other loses the record
and halts the context (R295). -/
def State.drainRecords (s : State) (c : Nat) : List (Nat × List Byte × Nat) → State
  | [] => s.updCtx c fun x => { x with records := [] }
  | (va, d, src) :: rest =>
    match s.prep c accWrite va d.length with
    | (s1, none) =>
      let s2 := s1.wrV c va (recordBytes (s1.ctx c) d src)
      (if src = 0 ∨ dumpMark ≤ src then s2 else s2.raise (src - 1)).drainRecords c rest
    | (s1, some h) =>
      let op := runningOp (s1.ctx c)
      if h.kind ≤ 5 ∧ (s1.ctx c).declined.contains (accWrite, h.va / 65536) then (s1.lostRecord c src).drainRecords c rest
      else
      let f := s1.faultAt c (s1.seqAgent c) op accWrite h (.notice c)
      if h.kind ≤ 5 then f.2.updCtx c fun x => { x with records := (va, d, src) :: rest }
      else
        (((f.2.lostRecord c src).updCtx c fun x => { x with lost := some (statusOfKind h.kind, f.1) }).halt c (statusOfKind h.kind) op).drainRecords c rest

/-- Posts a record for a context, behind those that wait and behind one that is stalled (R295). -/
def State.postRecord (s : State) (c va : Nat) (d : List Byte) (src : Nat) : State :=
  let l := (s.ctx c).records ++ [(va, d, src)]
  if s.recordsWait c then s.updCtx c fun x => { x with records := l } else s.drainRecords c l

/-- One more than NOTICE_SOURCE in effect when NOTICE_EN is set, else 0 (R470). -/
def noticeSrc (x : Ctx) : Nat := if bitAt x.regs.sources.eff.toNat 31 then bitsOf x.regs.sources.eff.toNat 16 13 + 1 else 0

/-- One more than COMPLETION_SOURCE in effect when COMPLETION_EN is set, else 0 (R470). -/
def completionSrc (x : Ctx) : Nat := if bitAt x.regs.sources.eff.toNat 15 then bitsOf x.regs.sources.eff.toNat 0 13 + 1 else 0

/-- A notice of a context (R31, R473): the count advances and the source is raised even without a log. -/
def State.postNotice (s : State) (c code detail : Nat) : State :=
  let x := s.ctx c
  let n := x.cnt.noticeCount
  let s1 := s.setCtx c { x with cnt := { x.cnt with noticeCount := n + 1 } }
  let base := x.regs.eventLog.eff.toNat
  if base = 0 then (if noticeSrc x = 0 then s1 else s1.raise (noticeSrc x - 1))
  else
    s1.postRecord c (base + 32 * (n.toNat % 64))
      (leBytes (code + detail % 2 ^ 32 * 2 ^ 32 + runningOp x % 2 ^ 64 * 2 ^ 64 + s.now % 2 ^ 64 * 2 ^ 128) 32) (noticeSrc x)

/-- A completion record without its PHASE (R28). -/
def recordWord (opIx tag status opcode : Nat) (r : OpResult) (eve : Nat) : Nat :=
  opIx % 2 ^ 64 + tag * 2 ^ 64 + status * 2 ^ 128 + opcode * 2 ^ 144 + b2n r.spread * 2 ^ 153 + b2n r.overflow * 2 ^ 154 +
    r.slices % 256 * 2 ^ 160 + eve % 2 ^ 32 * 2 ^ 192 + r.detail % 2 ^ 32 * 2 ^ 224

/-- PHASE: the inverse of bit j of the producer count (R19). -/
def phaseBit (x : Ctx) : Nat := if bitAt x.cnt.complProduced.toNat (cLog2 x) then 0 else 1

/-- The slot that the next record takes (R19). -/
def recordSlot (x : Ctx) : Nat := cAddr x + 32 * (x.cnt.complProduced.toNat % 2 ^ cLog2 x)

/-- Writes one completion record in the slot at the producer count, which then advances (R19); or answers why it cannot. -/
def State.writeRecord (s : State) (c word : Nat) : State × Option Hit :=
  let x := s.ctx c
  match s.prep c accWrite (recordSlot x) 32 with
  | (s1, some h) => (s1, some h)
  | (s1, none) =>
    let s2 := s1.wrV c (recordSlot x) (leBytes (word + phaseBit x * 2 ^ 152) 32)
    (s2.updCtx c fun y => { y with cnt := { y.cnt with complProduced := y.cnt.complProduced + 1 } }, none)

/-- An operation leaves the context's flights. -/
def State.dropFlight (s : State) (c opIx : Nat) : State :=
  s.updCtx c fun x => { x with flights := x.flights.filter fun f => f.opIndex != opIx }

/-- Changes where an operation in flight stands. -/
def State.setFlight (s : State) (c opIx : Nat) (st : FlightSt) : State :=
  s.updCtx c fun x => { x with flights := x.flights.map fun f => if f.opIndex = opIx then { f with st := st } else f }

/-- The Eves completed before an operation (R28): an Eve past its latch point, abandoned or not, has counted itself. -/
def evesBefore (x : Ctx) (d : Descriptor) (status : Nat) : Nat :=
  if dOpcode d = 0x21 ∧ x.atBoundary ∧ ¬(status = 0x0101 ∨ status = 0x0103 ∨ status = 0x0104 ∨ status = 0x0410) then
    (x.cnt.eveCount - 1).toNat
  else x.cnt.eveCount.toNat

/-- What follows a completion (R13): the context goes on, or halts. -/
def State.afterCompletion (s : State) (c : Nat) (f : Flight) (status : Nat) : State :=
  if halts (s.ctx c) f.desc status then s.halt c status f.opIndex else s

/-- Completes an operation (R19): no record for a SILENT `OK`; else the record, its interrupt, and the context afterwards. A record that
cannot be written stalls, or is lost and halts the context (R295). -/
def State.finish (s : State) (c : Nat) (f : Flight) (r : OpResult) : State :=
  let x := s.ctx c
  if dSilent f.desc && r.status == 0 then s.dropFlight c f.opIndex
  else
    match s.writeRecord c (recordWord f.opIndex (dTag f.desc) r.status (dOpcode f.desc) r (evesBefore x f.desc r.status)) with
    | (s1, none) =>
      let s2 := s1.dropFlight c f.opIndex
      let s3 := if dIrq f.desc && completionSrc x != 0 then s2.raise (completionSrc x - 1) else s2
      s3.afterCompletion c f r.status
    | (s1, some h) =>
      let e := s1.faultAt c (s1.seqAgent c) f.opIndex accWrite h (.record c)
      if h.kind ≤ 5 then e.2.setFlight c f.opIndex (.recordStalled e.1 r)
      else (e.2.dropFlight c f.opIndex).halt c (statusOfKind h.kind) f.opIndex

/-- Writes the records that consume no descriptor, oldest first, while nothing is in flight, no record is stalled and a slot is free; the rest
wait (R17, R295). -/
def State.writeEach (s : State) (c : Nat) : List WaitingRecord → State
  | [] => s.updCtx c fun y => { y with waiting := [] }
  | w :: rest =>
    let x := s.ctx c
    if x.flights.isEmpty && complSpace x && x.records.isEmpty && !s.recordsWait c then
      match s.writeRecord c (recordWord x.cnt.nextOp 0 w.status 0 (endWith w.status w.detail) x.cnt.eveCount.toNat) with
      | (s1, none) => s1.writeEach c rest
      | (s1, some h) =>
        let e := s1.faultAt c (s1.seqAgent c) x.cnt.nextOp accWrite h (.record c)
        if h.kind ≤ 5 then e.2.updCtx c fun y => { y with waiting := w :: rest }
        else (e.2.halt c (statusOfKind h.kind) x.cnt.nextOp).writeEach c rest
    else s.updCtx c fun y => { y with waiting := w :: rest }

/-- Writes what it can of the records of a context that wait (R17). -/
def State.writeWaiting (s : State) (c : Nat) : State := s.writeEach c (s.ctx c).waiting

/-- A halt that writes a record of its own, consuming no descriptor (R17, R352). -/
def State.haltRecord (s : State) (c status detail : Nat) : State :=
  let s1 := s.halt c status (s.ctx c).cnt.nextOp
  ((s1.updCtx c fun x => { x with waiting := x.waiting ++ [⟨status, detail⟩] }).writeWaiting c)

/-- An operation that was refused or has ended, as where its flight stands. -/
def ended (s : State) (r : OpResult) : State × FlightSt := (s, .done r)

/-- An operation refused by a check (R22, R32). -/
def rejected (s : State) (x : Nat × Nat) : State × FlightSt := (s, .done (endWith x.1 x.2))

/-- An operation for which an agent met a refused access: stalled on its record, or ended with it (R22, R295, R297). -/
def State.opFaultBy (s : State) (agent c opIx acc : Nat) (h : Hit) : State × FlightSt :=
  let e := s.faultAt c agent opIx acc h (.op c opIx)
  if h.kind ≤ 5 then (e.2, .stalled [e.1]) else (e.2, .done (endWith (statusOfKind h.kind) e.1))

/-- The same for an access of the partition's sequencer. -/
def State.opFault (s : State) (c opIx acc : Nat) (h : Hit) : State × FlightSt := s.opFaultBy (s.seqAgent c) c opIx acc h

/-- How one operation runs: the state, its context, its index and its descriptor. -/
abbrev RunOp := State → Nat → Nat → Descriptor → State × FlightSt

/-- A descriptor whose version or opcode is refused before anything else is looked at (R22). -/
def alien (d : Descriptor) : Bool := dVersion d != 1 || !legalOpcodes.contains (dOpcode d)

/-- The descriptor at the context's consumer count. -/
def State.fetchOp (s : State) (c : Nat) : State × Except Hit Descriptor :=
  let x := s.ctx c
  let va := qAddr x + 256 * (x.cnt.queueConsumed.toNat % 2 ^ qLog2 x)
  match s.prep c accCode va 256 with
  | (s1, some h) => (s1, .error h)
  | (s1, none) => (s1, .ok (BitVec.ofNat 2048 (s1.rdVNat c va 256)))

/-- A partition has its sequencer: the compute die of its first stack is not fenced (R417). -/
def State.seqLive (s : State) (k : Nat) : Bool :=
  match s.stacks k with
  | n :: _ => !(s.integ.computeFenced.getD n false)
  | [] => false

/-- The partition's context may take its next operation (R18, R22, R32): it holds the partition, is RUNNABLE, has work, has a slot
for the record, and its earlier operations have completed. -/
def State.mayTake (s : State) (k : Nat) : Option Nat :=
  let p := s.part k
  match p.running with
  | some c =>
    let x := s.ctx c
    if s.taking && s.seqLive k && p.phase == .running && x.st == .runnable && hasWork x && x.flights.isEmpty && x.records.isEmpty &&
        !x.regionDue && x.waiting.isEmpty && !s.waitsOn (.take c) && complSpace x then some c else none
  | none => none

/-- The sequencer's programs of the operation that a context takes begin (R201, R219). -/
def State.beginWork (s : State) (c : Nat) : State :=
  { s with streams := { s.streams with work := tabPut none s.streams.work c (some ⟨(s.ctx c).cnt.nextOp, s.now, [], []⟩) } }

/-- An operation is consumed (R16, R20): the counts advance and it is in flight. -/
def State.consume (s : State) (c : Nat) (d : Descriptor) : State :=
  (s.newAccess.beginWork c).updCtx c fun x => { x with
    cnt := { x.cnt with queueConsumed := x.cnt.queueConsumed + 1, nextOp := x.cnt.nextOp + 1 },
    flights := x.flights ++ [⟨x.cnt.nextOp, d, .atHead⟩], lost := none }

/-- The context's boundary position after it consumed an operation (R27): only an Eve that reaches its latch point makes one, and an
Eve that was refused leaves it as it was. -/
def boundaryAfter (x : Ctx) (d : Descriptor) : Bool := dOpcode d == 0x21 && x.atBoundary

/-- The boundary position of a context whose operation was taken, or run again after a fault: while it stalls the position stays (R27, R295). -/
def State.noteBoundary (s : State) (c : Nat) (d : Descriptor) (st : FlightSt) : State :=
  match st with
  | .stalled _ | .waitStalled _ _ => s
  | .eve _ _ => s.updCtx c fun y => { y with atBoundary := false }
  | _ => s.updCtx c fun y => { y with atBoundary := boundaryAfter y d }

/-- A unit that an operation needs is power-gated, and the operation waits for its wake (R82, R408): the tiles for array operations, the collective
engine for `COLLECTIVE`. -/
def State.opAsleep (s : State) (k op : Nat) : Bool :=
  (decide (op ≤ 4) && s.power.gated.contains (.tile (Fin.ofNat 8 k))) || (op == 0x10 && s.power.gated.contains .collective)

/-- Takes the next operation of the partition's context when its opcode is `op` (or is refused whatever takes it), and runs it. A read
of the queue that faults stalls the taking (R295). -/
def State.takeOp (s : State) (k op : Nat) (run : RunOp) : State :=
  match s.mayTake k with
  | none => s
  | some c =>
    match s.fetchOp c with
    | (s1, .error h) =>
      let x := s.ctx c
      let e := s1.faultAt c (s1.seqAgent c) x.cnt.nextOp accCode h (.take c)
      if h.kind ≤ 5 then e.2 else e.2.halt c (statusOfKind h.kind) x.cnt.nextOp
    | (s1, .ok d) =>
      if s.opAsleep k (dOpcode d) then s
      else if alien d || dOpcode d == op then
        let ix := (s1.ctx c).cnt.nextOp
        let r := run (s1.consume c d) c ix d
        (r.1.setFlight c ix r.2).noteBoundary c d r.2
      else s

/-- The contexts of a class that are RUNNABLE and bound to P_k, in ascending number (R42). -/
def State.drrRing (s : State) (k cls : Nat) : List Nat :=
  (s.ctxs.filter fun e => e.2.st == .runnable && e.2.part == some k && ctxClass e.2 == cls).map Prod.fst

/-- The highest class of P_k with a RUNNABLE context that has work (R42). -/
def State.topClass (s : State) (k : Nat) : Option Nat :=
  ([7, 6, 5, 4, 3, 2, 1, 0] : List Nat).find? fun cls => (s.drrRing k cls).any fun c => hasWork (s.ctx c)

/-- The ring as the turn pointer goes over it: from the context after `c`, and `c` last (R42). -/
def ringAfter (ring : List Nat) (c : Nat) : List Nat := (ring.filter fun x => decide (c < x)) ++ ring.filter fun x => decide (x ≤ c)

/-- The pointer passes contexts with empty queues, whose deficits become zero, and stops at one with work (R42). -/
def State.passEmpty (s : State) : List Nat → State × Option Nat
  | [] => (s, none)
  | c :: r => if hasWork (s.ctx c) then (s, some c) else (s.updCtx c fun x => { x with deficit := 0 }).passEmpty r

/-- Deficit round-robin within a class (R42): the context under the pointer keeps the partition, or the pointer moves on and the context
it reaches is raised by the quantum, to at most twice the quantum. A pointer that leaves its own context because that context's queue is empty has
not passed it: the context keeps its deficit until the pointer next meets it with an empty queue (DESIGN CHOICE, log 127). -/
def State.drr (s : State) (k cls : Nat) : State × Option Nat :=
  let ring := s.drrRing k cls
  let p := s.part k
  let q : Int := p.quantumUs * 1000
  let keep := match p.turn.getD cls none with
    | some c => ring.contains c && decide (0 < (s.ctx c).deficit) && hasWork (s.ctx c) && !(s.ctx c).yielded
    | none => false
  if keep then (s, p.turn.getD cls none)
  else
    let ord := match p.turn.getD cls none with
      | some c => ringAfter ring c
      | none => ring
    match s.passEmpty ord with
    | (s1, some c) =>
      let s2 := s1.updCtx c fun x => { x with deficit := min (2 * q) (x.deficit + q) }
      (s2.updPart k fun y => { y with turn := y.turn.set cls (some c) }, some c)
    | (s1, none) => (s1, none)

/-- The choice of the next context of P_k (R42). -/
def State.choose (s : State) (k : Nat) : State × Option Nat :=
  match s.topClass k with
  | some cls => s.drr k cls
  | none => (s, none)

/-- A context takes the partition, and its Eve interval starts (R37); with none the partition idles. -/
def State.seat (s : State) (k : Nat) (c : Option Nat) : State :=
  match c with
  | some n =>
    (s.updPart k fun p => { p with phase := .running, running := some n, drain := .none, intervalFrom := some s.now, overdue := 0 }).updCtx n
      fun x => { x with yielded := false }
  | none => s.updPart k fun p => { p with phase := .idle, running := none, drain := .none, intervalFrom := none, overdue := 0 }

/-- Array time since the last charge is taken from the deficit (R42). -/
def State.charge (s : State) (c ns : Nat) : State := s.updCtx c fun x => { x with deficit := x.deficit - (ns : Int) }

/-- `IDLE_PARTITION_CHOOSE` (R42): an idle partition chooses among the RUNNABLE contexts with work; no latch point is run. -/
def execIdlePartitionChoose (p : Fin 8) (s : State) : Res :=
  if s.partExists p && s.seqLive p && (s.part p).phase == .idle && s.taking then
    let r := s.choose p
    .next (match r.2 with
      | some c => r.1.seat p (some c)
      | none => s)
  else .next s

/-- `EVE_OVERDUE` (R37): the Eve interval passes its next 50 ms without an `EVE` taken. -/
def execEveOverdue (p : Fin 8) (s : State) : Res :=
  let k := s.part p
  match k.running, k.intervalFrom with
  | some c, some t =>
    if k.phase == .running && s.live then
      let s1 := s.advance (t + 50000000 * (k.overdue + 1))
      .next ((s1.updPart p fun y => { y with overdue := y.overdue + 1 }).postNotice c 0x0C01 0)
    else .next s
  | _, _ => .next s

/-- `PENDING_RECORD_WRITE` (R17): a record that waited for a slot is written. -/
def execPendingRecordWrite (c : Fin 4096) (s : State) : Res := .next (s.writeWaiting c)

/-- A doorbell's new producer count is refused when it moves backwards or holds more than the ring does (R17). -/
def bellBad (x : Ctx) (v : W32) : Bool :=
  decide (w32Diff v x.cnt.queueConsumed < w32Diff x.cnt.queueProducer x.cnt.queueConsumed) ||
    decide (2 ^ qLog2 x < w32Diff v x.cnt.queueConsumed)

/-- A write of PRODUCER in a doorbell page (R12, R16, R17, R469). -/
def State.ringBell (s : State) (c : Nat) (producer : W32) : State :=
  let x := s.ctx c
  if x.st == .free then { s with fq := { s.fq with accessErrors := satInc 32 s.fq.accessErrors } }
  else if granted x || x.st == .killed || (x.st == .stopped && qLog2 x == 0) then
    (s.updCtx c fun y => { y with cnt := { y.cnt with doorbellsIgnored := satInc 16 y.cnt.doorbellsIgnored } })
  else if bellBad x producer then (s.haltRecord c 0x0106 producer.toNat)
  else (s.updCtx c fun y => { y with cnt := { y.cnt with queueProducer := producer } })

/-- `DOORBELL` (R469, R12, R16, R17). -/
def execDoorbell (c : Fin 4096) (producer : BitVec 32) (s : State) : Res := s.whenPowered fun t => t.ringBell c producer

/-- A write of COMPL_CONSUMED (R18, R472). -/
def State.freeRecords (s : State) (c : Nat) (v : W32) : State :=
  let x := s.ctx c
  if x.st == .free then s
  else if w32Diff x.cnt.complProduced x.cnt.complConsumed < w32Diff v x.cnt.complConsumed then
    (s.updCtx c fun y => { y with cnt := { y.cnt with writesRefused := satInc 16 y.cnt.writesRefused } })
  else ((s.updCtx c fun y => { y with cnt := { y.cnt with complConsumed := v } }).writeWaiting c)

/-- `COMPL_CONSUMED_WRITE` (R18, R472): frees records; a count that moves backwards or past COMPL_PRODUCED is refused and counted. A
record that waited for a slot is written. -/
def execComplConsumedWrite (c : Fin 4096) (v : BitVec 32) (s : State) : Res := s.whenPowered fun t => t.freeRecords c v

end Sys2Proof.Machine
end

