-- ==== Sys2Proof/Machine/Numerics.lean ====
section
/-! DEFINITION. Numbers and formats (R91 to R107): exact dyadic values, the encodings of every format, the one rounding, and the scale
choices of the block-scaled formats. -/

namespace Sys2Proof.Machine

/-- A value: NaN, an infinity, or (−1)^neg × m × 2^e with the sign of a zero kept. -/
inductive Num where
  | nan
  | inf (neg : Bool)
  | fin (neg : Bool) (m : Nat) (e : Int)
deriving DecidableEq, Repr

/-- Positive zero. -/
abbrev Num.zero : Num := .fin false 0 0

/-- One. -/
abbrev Num.one : Num := .fin false 1 0

def Num.isNan : Num → Bool
  | .nan => true
  | _ => false

def Num.isInf : Num → Bool
  | .inf _ => true
  | _ => false

def Num.isFin : Num → Bool
  | .fin _ _ _ => true
  | _ => false

def Num.isZero : Num → Bool
  | .fin _ m _ => m == 0
  | _ => false

/-- The sign. -/
def Num.sign : Num → Bool
  | .nan => false
  | .inf n => n
  | .fin n _ _ => n

/-- The magnitude. -/
def Num.abs : Num → Num
  | .nan => .nan
  | .inf _ => .inf false
  | .fin _ m e => .fin false m e

/-- The value with its sign changed. -/
def Num.negate : Num → Num
  | .nan => .nan
  | .inf n => .inf (!n)
  | .fin n m e => .fin (!n) m e

/-- m × 2^e with a sign, as an integer at exponent `b` not above `e`. -/
def atExp (neg : Bool) (m : Nat) (e b : Int) : Int :=
  let v : Int := m * 2 ^ (e - b).toNat
  if neg then -v else v

/-- An integer at an exponent; a zero takes the given sign. -/
def ofInt (v : Int) (e : Int) (zeroNeg : Bool) : Num := .fin (if v = 0 then zeroNeg else decide (v < 0)) v.natAbs e

/-- The exact sum (R102, R105). -/
def Num.add : Num → Num → Num
  | .nan, _ => .nan
  | _, .nan => .nan
  | .inf a, .inf b => if a = b then .inf a else .nan
  | .inf a, .fin _ _ _ => .inf a
  | .fin _ _ _, .inf b => .inf b
  | .fin a m e, .fin b n f => ofInt (atExp a m e (min e f) + atExp b n f (min e f)) (min e f) (a && b)

/-- The exact product (R102, R106). -/
def Num.mul : Num → Num → Num
  | .nan, _ => .nan
  | _, .nan => .nan
  | .inf a, .inf b => .inf (a != b)
  | .inf a, .fin b n _ => if n = 0 then .nan else .inf (a != b)
  | .fin a m _, .inf b => if m = 0 then .nan else .inf (a != b)
  | .fin a m e, .fin b n f => .fin (a != b) (m * n) (e + f)

/-- The exact difference. -/
def Num.sub (a b : Num) : Num := a.add b.negate

/-- a < b among values that are not NaN; −0 and +0 are equal. -/
def Num.lt : Num → Num → Bool
  | .nan, _ => false
  | _, .nan => false
  | .inf a, .inf b => a && !b
  | .inf a, .fin _ _ _ => a
  | .fin _ _ _, .inf b => !b
  | .fin a m e, .fin b n f => decide (atExp a m e (min e f) < atExp b n f (min e f))

/-- a = b as values; NaN equals nothing. -/
def Num.eq (a b : Num) : Bool := !a.isNan && !b.isNan && !a.lt b && !b.lt a

/-- Minimum: the other operand when one is NaN, −0 below +0 (R106). -/
def Num.min (a b : Num) : Num :=
  if a.isNan then b else if b.isNan then a else if a.lt b then a else if b.lt a then b else if a.sign then a else b

/-- Maximum (R106). -/
def Num.max (a b : Num) : Num :=
  if a.isNan then b else if b.isNan then a else if a.lt b then b else if b.lt a then a else if a.sign then b else a

/-- m ÷ 2^k to the nearest integer, ties to even (R101). -/
def rne (m k : Nat) : Nat :=
  if k = 0 then m
  else
    let q := m >>> k
    let r := m - q * 2 ^ k
    let h := 2 ^ (k - 1)
    if h < r ∨ (r = h ∧ q % 2 = 1) then q + 1 else q

/-- m × 2^e to the nearest integer, ties to even. -/
def rneExp (m : Nat) (e : Int) : Nat := if 0 ≤ e then m * 2 ^ e.toNat else rne m (-e).toNat

/-- Position of the highest set bit; 0 for 0. -/
def log2n (m : Nat) : Nat := Nat.log2 m

/-- The floating-point layouts (R95): exponent bits, significand bits, bias. -/
def fltLayout (c : Nat) : Nat × Nat × Nat :=
  if c = 0x10 then (2, 1, 1) else if c = 0x11 then (2, 3, 1) else if c = 0x12 then (3, 2, 3) else if c = 0x13 then (4, 3, 7)
  else if c = 0x14 then (5, 2, 15) else if c = 0x18 then (8, 7, 127) else if c = 0x19 then (5, 10, 15)
  else if c = 0x1A then (8, 23, 127) else (11, 52, 1023)

/-- The plain formats that have infinities (R95). -/
def hasInf (c : Nat) : Bool := decide (0x14 ≤ c) && decide (c ≤ 0x1B)

/-- The canonical NaN of a plain floating-point format (R105). -/
def canonNan (c : Nat) : Nat :=
  if c = 0x10 then 0x8 else if c = 0x11 ∨ c = 0x12 then 0x20 else if c = 0x13 then 0x7F else if c = 0x14 then 0x7E
  else if c = 0x18 then 0x7FC0 else if c = 0x19 then 0x7E00 else if c = 0x1A then 0x7FC00000 else 0x7FF8000000000000

/-- The largest finite encoding without its sign (R95). -/
def maxCode (c : Nat) : Nat :=
  let l := fltLayout c
  if hasInf c then (2 ^ l.1 - 1) * 2 ^ l.2.1 - 1 else if c = 0x13 then 0x7E else 2 ^ (l.1 + l.2.1) - 1

/-- The value of a floating-point encoding; `mx`: as an element of an MX block, where the negative-zero encoding is −0 (R95 to
R97). -/
def decodeFlt (c : Nat) (mx : Bool) (b : Nat) : Num :=
  let l := fltLayout c
  let neg := bitAt b (l.1 + l.2.1)
  let e := bitsOf b l.2.1 l.1
  let f := bitsOf b 0 l.2.1
  if !mx && decide (c < 0x13) && neg && e == 0 && f == 0 then .nan
  else if c = 0x13 ∧ e = 15 ∧ f = 7 then .nan
  else if hasInf c ∧ e = 2 ^ l.1 - 1 then (if f = 0 then .inf neg else .nan)
  else if e = 0 then .fin neg f (1 - (l.2.2 : Int) - l.2.1)
  else .fin neg (2 ^ l.2.1 + f) ((e : Int) - l.2.2 - l.2.1)

/-- m × 2^e reaches 464, the overflow threshold that R95 gives FP8 E4M3: the tie between its largest finite value and the next step
is an overflow although the largest finite significand is even. -/
def overE4M3 (m : Nat) (e : Int) : Bool := if 0 ≤ e then decide (464 ≤ m * 2 ^ e.toNat) else decide (464 * 2 ^ (-e).toNat ≤ m)

/-- The encoding without sign that a magnitude rounds to, as if the format had no largest value; at or beyond the overflow threshold
it lies above the largest finite encoding (R95, R101, R102). -/
def roundCode (c m : Nat) (e : Int) : Nat :=
  if m = 0 then 0
  else if c = 0x13 ∧ overE4M3 m e then 0x7F
  else
    let l := fltLayout c
    let q0 : Int := 1 - (l.2.2 : Int) - l.2.1
    let q := max q0 (e + (log2n m : Int) - l.2.1)
    ((q - q0).toNat) * 2 ^ l.2.1 + rneExp m (e - q)

/-- The sign bit of a format, in place. -/
def signBit (c : Nat) (neg : Bool) : Nat :=
  let l := fltLayout c
  if neg then 2 ^ (l.1 + l.2.1) else 0

/-- A value rounded once into a plain floating-point format (R101 to R105), and whether it is an overflow element by itself: a finite
value beyond the threshold, or an infinity that the format cannot hold. -/
def encodeFlt (c : Nat) (v : Num) : Nat × Bool :=
  match v with
  | .nan => (canonNan c, false)
  | .inf n => if hasInf c then (signBit c n + maxCode c + 1, false) else (canonNan c, true)
  | .fin n m e =>
    let r := roundCode c m e
    if r ≤ maxCode c then (if r = 0 ∧ c < 0x13 then (0, false) else (signBit c n + r, false))
    else if hasInf c then (signBit c n + maxCode c + 1, true) else (canonNan c, true)

/-- A value rounded once to a plain floating-point format, as a value. -/
def roundTo (c : Nat) (v : Num) : Num := decodeFlt c false (encodeFlt c v).1

/-- FP32. -/
abbrev cFp32 : Nat := 0x1A
/-- FP64. -/
abbrev cFp64 : Nat := 0x1B
/-- BF16. -/
abbrev cBf16 : Nat := 0x18

/-- The value of an FP32 encoding. -/
def fp32 (b : Nat) : Num := decodeFlt cFp32 false b

/-- A value rounded to FP32 and encoded. -/
def toFp32 (v : Num) : Nat := (encodeFlt cFp32 v).1

/-- The signed value of a `w`-bit two's complement number (R94). -/
def signedOf (w b : Nat) : Int := if b < 2 ^ (w - 1) then b else (b : Int) - 2 ^ w

/-- The nearest integer to a finite value, ties to even. -/
def roundInt (neg : Bool) (m : Nat) (e : Int) : Int :=
  let v : Int := rneExp m e
  if neg then -v else v

/-- A value converted to a `w`-bit integer format (R104), and whether it is an overflow element. -/
def encodeInt (w : Nat) (v : Num) : Nat × Bool :=
  let hi : Int := 2 ^ (w - 1) - 1
  let lo : Int := -(2 ^ (w - 1) : Int)
  let put := fun (x : Int) => (x % 2 ^ w).toNat
  match v with
  | .nan => (0, true)
  | .inf n => (put (if n then lo else hi), true)
  | .fin n m e =>
    let x := roundInt n m e
    if x < lo then (put lo, true) else if hi < x then (put hi, true) else (put x, false)

/-- Bits of one element (R91). -/
def fmtBits (c : Nat) : Nat :=
  if c = 0x01 ∨ c = 0x30 then 2 else if c = 0x31 then 3 else if c = 0x02 ∨ c = 0x10 ∨ c = 0x20 ∨ c = 0x32 then 4
  else if c = 0x11 ∨ c = 0x12 ∨ c = 0x21 ∨ c = 0x22 then 6
  else if c = 0x03 ∨ c = 0x13 ∨ c = 0x14 ∨ c = 0x23 ∨ c = 0x24 ∨ c = 0x25 then 8
  else if c = 0x18 ∨ c = 0x19 then 16 else if c = 0x04 ∨ c = 0x1A then 32 else 64

/-- The legal format codes (R91). -/
def fmtLegal (c : Nat) : Bool :=
  ([0x01, 0x02, 0x03, 0x04, 0x10, 0x11, 0x12, 0x13, 0x14, 0x18, 0x19, 0x1A, 0x1B, 0x20, 0x21, 0x22, 0x23, 0x24, 0x25, 0x30, 0x31, 0x32]
    : List Nat).contains c

/-- The formats legal as product operands (R91). -/
def fmtOperand (c : Nat) : Bool := fmtLegal c && c != 0x04

def fmtInt (c : Nat) : Bool := decide (0x01 ≤ c) && decide (c ≤ 0x04)
def fmtMx (c : Nat) : Bool := decide (0x20 ≤ c) && decide (c ≤ 0x25)
def fmtTs (c : Nat) : Bool := decide (0x30 ≤ c) && decide (c ≤ 0x32)
def fmtBlock (c : Nat) : Bool := fmtMx c || fmtTs c

/-- The element format of an MX format; MXINT8 is 0x03 (R97). -/
def mxElem (c : Nat) : Nat := if c = 0x25 then 0x03 else c - 0x10

/-- The largest magnitude of a TS format (R98). -/
def tsMax (c : Nat) : Nat := if c = 0x30 then 1 else if c = 0x31 then 3 else 7

/-- Elements that share one scale entry: 32 in MX, 256 in TS. -/
def blockLen (c : Nat) : Nat := if fmtMx c then 32 else if fmtTs c then 256 else 1

/-- Bytes of one scale entry (R93). -/
def scaleBytes (c : Nat) : Nat := if fmtMx c then 1 else if fmtTs c then 16 else 0

/-- A value times 2^x. -/
def Num.scale (v : Num) (x : Int) : Num :=
  match v with
  | .fin n m e => .fin n m (e + x)
  | w => w

/-- The value of an element of an MX block with scale byte `sc` (R97). -/
def decodeMx (c sc b : Nat) : Num :=
  if sc = 0xFF then .nan
  else if c = 0x25 then
    let v := signedOf 8 b
    ofInt v ((sc : Int) - 127 - 6) false
  else (decodeFlt (mxElem c) true b).scale ((sc : Int) - 127)

/-- The value of element `i` of a TS superblock with the 16-byte scale record `rec` (R98). -/
def decodeTs (c rec i b : Nat) : Num :=
  let w := fmtBits c
  let sc := bitsOf rec 64 8
  let neg := bitAt b (w - 1)
  let m := bitsOf b 0 (w - 1)
  if sc = 0xFF ∨ (neg ∧ m = 0) then .nan else .fin neg m ((sc : Int) - 127 - bitsOf rec (4 * (i / 16)) 4)

/-- The value of a plain element. -/
def decodePlain (c b : Nat) : Num := if fmtInt c then ofInt (signedOf (fmtBits c) b) 0 false else decodeFlt c false b

/-- Classes of a written NaN (R107). -/
inductive NanCls where
  | none | propagated | invalid | overflow
deriving DecidableEq, Repr

/-- A value to be written with what it depends on: whether an input was NaN, and whether every input was finite (R103, R107). -/
structure Elem where
  v : Num
  anyNan : Bool
  allFin : Bool
deriving DecidableEq, Repr

/-- A written element: its bits, whether it is an overflow element (R103, R104), the class of a written NaN, and whether it is a
written infinity. -/
structure Written where
  bits : Nat
  ovf : Bool
  cls : NanCls
  infinite : Bool
deriving DecidableEq, Repr

/-- The class of a NaN that the arithmetic gave (R107). -/
def nanClass (x : Elem) : NanCls := if x.anyNan then .propagated else .invalid

/-- Writes an element in a plain format (R103 to R107). -/
def writePlain (c : Nat) (x : Elem) : Written :=
  if fmtInt c then
    let r := encodeInt (fmtBits c) x.v
    ⟨r.1, r.2, .none, false⟩
  else
    let r := encodeFlt c x.v
    match x.v with
    | .nan => ⟨r.1, false, nanClass x, false⟩
    | .inf _ => if hasInf c then ⟨r.1, x.allFin, .none, true⟩ else ⟨r.1, true, .overflow, false⟩
    | .fin _ _ _ => if r.2 then ⟨r.1, true, if hasInf c then .none else .overflow, hasInf c⟩ else ⟨r.1, false, .none, false⟩

/-- The larger of two finite magnitudes; other values are left out. -/
def maxMag (a : Num) (v : Num) : Num :=
  match v with
  | .fin _ m e => if a.lt (.fin false m e) then .fin false m e else a
  | _ => a

/-- The largest finite magnitude of a list, zero for none. -/
def amaxOf (l : List Num) : Num := l.foldl maxMag Num.zero

/-- An MX element of a value already divided by 2^X, with its sign; the flag says that it does not fit. -/
def mxCode (c : Nat) (v : Num) : Nat × Bool :=
  match v with
  | .fin n m e =>
    if c = 0x25 then
      let q := rneExp m (e + 6)
      (if n then (2 ^ 8 - q) % 2 ^ 8 else q, decide (127 < q))
    else
      let r := roundCode (mxElem c) m e
      (signBit (mxElem c) n + r, decide (maxCode (mxElem c) < r))
  | _ => (0, true)

/-- The exponent of the largest finite element (R95, R97). -/
def mxEmax (c : Nat) : Int :=
  if c = 0x20 then 2 else if c = 0x21 then 2 else if c = 0x22 then 4 else if c = 0x23 then 8 else if c = 0x24 then 15 else 0

/-- The smallest X in −127 to 127 at which the largest magnitude fits (R99). -/
def mxScale (c : Nat) (a : Num) : Option Int :=
  match a with
  | .fin _ m e =>
    if m = 0 then some (-127)
    else
      let x0 : Int := max (-127) (e + (log2n m : Int) - mxEmax c - 1)
      ([x0, x0 + 1, x0 + 2] : List Int).find? fun x => decide (x ≤ 127) && !(mxCode c (a.scale (-x))).2
  | _ => none

/-- Writes one MX block: its scale byte and its elements (R99). An element that is NaN is of the propagated class by R99's own words,
whatever gave it (DEDUCED, log 34). -/
def writeMx (c : Nat) (l : List Elem) : Nat × List Written :=
  let bad := l.any fun x => !x.v.isFin
  let hasNan := l.any fun x => x.v.isNan
  match (if bad then none else mxScale c (amaxOf (l.map Elem.v))) with
  | some x => ((x + 127).toNat, l.map fun y => ⟨(mxCode c (y.v.scale (-x))).1, false, .none, false⟩)
  | none =>
    (0xFF, l.map fun y =>
      match y.v with
      | .nan => ⟨0, false, .propagated, false⟩
      | .inf _ => ⟨0, true, .overflow, false⟩
      | .fin _ _ _ => if hasNan then ⟨0, false, .propagated, false⟩ else ⟨0, true, .overflow, false⟩)

/-- round(v ÷ 2^x) of a finite magnitude. -/
def roundAt (v : Num) (x : Int) : Nat :=
  match v with
  | .fin _ m e => rneExp m (e - x)
  | _ => 0

/-- The smallest E in −127 to 127 with round(a ÷ 2^E) ≤ m_max (R100). -/
def tsScale (c : Nat) (a : Num) : Option Int :=
  match a with
  | .fin _ m e =>
    if m = 0 then some (-127)
    else
      let x0 : Int := max (-127) (e + (log2n m : Int) - 4)
      ((List.range 8).map fun (i : Nat) => x0 + (i : Int)).find? fun x => decide (x ≤ 127) && decide (roundAt a x ≤ tsMax c)
  | _ => none

/-- The largest n in 0 to 15 with round(a_k ÷ 2^(E − n)) ≤ m_max (R100). -/
def tsSub (c : Nat) (ak : Num) (e : Int) : Nat :=
  ((List.range 16).reverse.find? fun (n : Nat) => decide (roundAt ak (e - (n : Int)) ≤ tsMax c)).getD 0

/-- Blocks of 16 of a superblock. -/
def chunks16 (l : List Elem) : List (List Elem) := (List.range ((l.length + 15) / 16)).map fun k => (l.drop (16 * k)).take 16

/-- Writes one TS superblock: its scale record and its elements (R100). Where no finite value is in it, or in a block, its largest magnitude is taken
as zero (DESIGN CHOICE, log 147). -/
def writeTs (c : Nat) (l : List Elem) : Nat × List Written :=
  let nanBits := 2 ^ (fmtBits c - 1)
  match tsScale c (amaxOf (l.map Elem.v)) with
  | some e =>
    let subs := (chunks16 l).map fun b => tsSub c (amaxOf (b.map Elem.v)) e
    let all := subs ++ List.replicate (16 - subs.length) 15
    (((List.range 16).foldl (fun r k => r + all.getD k 15 * 2 ^ (4 * k)) 0) + (e + 127).toNat * 2 ^ 64,
      (List.range l.length).map fun i =>
        let y := l.getD i ⟨Num.zero, false, true⟩
        match y.v with
        | .nan => ⟨nanBits, false, .propagated, false⟩
        | .inf _ => ⟨nanBits, true, .overflow, false⟩
        | .fin n _ _ =>
          let m := roundAt y.v.abs (e - (all.getD (i / 16) 0 : Nat))
          ⟨(if n && m != 0 then nanBits else 0) + m, false, .none, false⟩)
  | none =>
    (0xFF * 2 ^ 64, l.map fun y =>
      match y.v with
      | .nan => ⟨nanBits, false, .propagated, false⟩
      | _ => ⟨nanBits, true, .overflow, false⟩)

/-- Writes one block of any format: its scale entry and its elements. -/
def writeBlock (c : Nat) (l : List Elem) : Nat × List Written :=
  if fmtMx c then writeMx c l else if fmtTs c then writeTs c l else (0, l.map (writePlain c))

/-- The quotient of two finite values with at least `p` bits and a sticky bit, so that one later rounding is right. -/
def Num.div (p : Nat) : Num → Num → Num
  | .nan, _ => .nan
  | _, .nan => .nan
  | .inf _, .inf _ => .nan
  | .inf a, .fin b _ _ => .inf (a != b)
  | .fin a _ _, .inf b => .fin (a != b) 0 0
  | .fin a m e, .fin b n f =>
    if n = 0 then (if m = 0 then .nan else .inf (a != b))
    else
      let k := p + log2n n + 2
      let x := m * 2 ^ k
      .fin (a != b) (2 * (x / n) + (if x % n = 0 then 0 else 1)) (e - f - k - 1)

/-- The integer square root, from the high bit down. -/
def isqrt (n : Nat) : Nat :=
  (List.range (log2n n / 2 + 1)).reverse.foldl (fun r i => if (r + 2 ^ i) * (r + 2 ^ i) ≤ n then r + 2 ^ i else r) 0

/-- The square root of a value with at least `p` bits and a sticky bit. -/
def Num.sqrt (p : Nat) : Num → Num
  | .nan => .nan
  | .inf a => if a then .nan else .inf false
  | .fin a m e =>
    if m = 0 then .fin a 0 0
    else if a then .nan
    else
      let k0 := 2 * p + 2
      let k := if (e - k0) % 2 = 0 then k0 else k0 + 1
      let x := m * 2 ^ k
      let r := isqrt x
      .fin false (2 * r + (if r * r = x then 0 else 1)) ((e - k) / 2 - 1)

/-- The exact sum of many values (R109): NaN for a NaN or for infinities of both signs. -/
def sumExact (l : List Num) : Num :=
  if l.any Num.isNan then .nan
  else if l.any (fun v => v == .inf true) && l.any (fun v => v == .inf false) then .nan
  else if l.any (fun v => v == .inf true) then .inf true
  else if l.any (fun v => v == .inf false) then .inf false
  else
    let b := l.foldl (fun (b : Int) v => match v with | .fin _ _ e => min b e | _ => b) 0
    ofInt (l.foldl (fun (a : Int) v => match v with | .fin n m e => a + atExp n m e b | _ => a) 0) b (!l.isEmpty && l.all Num.sign)

end Sys2Proof.Machine
end

