-- ==== Sys2Proof/Machine/Functions.lean ====
section
/-! DEFINITION. The contract functions: the approximations of R183, the contract exponential and logarithm of R74, and the activation
functions of R68 and R528. The tables themselves are not printed in the manual and stay open values. -/

namespace Sys2Proof.Machine

/-- The greatest integer not above a finite value; 0 for the others. -/
def Num.floorInt : Num → Int
  | .fin n m e =>
    if 0 ≤ e then atExp n m e 0
    else
      let d : Int := 2 ^ (-e).toNat
      (if n then -(m : Int) else (m : Int)) / d
  | _ => 0

/-- An integer as a value. -/
def ofIntVal (v : Int) : Num := ofInt v 0 false

/-- A value rounded once to FP32. -/
def rnd32 (v : Num) : Num := roundTo cFp32 v

/-- a × b + c rounded once to FP32. -/
def fma32 (a b c : Num) : Num := rnd32 ((a.mul b).add c)

/-- The exponent of the highest bit of a nonzero value. -/
def Num.expo : Num → Int
  | .fin _ m e => log2n m + e
  | _ => 0

/-- `n` ulp in FP32 at a true result (R183): a subnormal one has an ulp of 2^-149. -/
def ulpsAt (t : Num) (n : Nat) : Num := .fin false n (max (if t.isZero then -126 else t.expo) (-126) - 23)

/-- `v` lies within `b` of `t`. -/
def within (v t b : Num) : Bool := v.isFin && !b.lt (v.sub t).abs

/-- An approximation keeps its bound (R183): the open value where `ok` says it does, else the true result `t` rounded. -/
def keptIf (open_ : BitVec 32) (ok : Num → Bool) (t : Num) : Nat :=
  if (fp32 open_.toNat).isFin && ok (fp32 open_.toNat) then open_.toNat else toFp32 t

/-- Fixed-point numbers count units of 2^-512: one, ln 2, the square root of 2π and that of 2/π. -/
def fixOne : Nat := 2 ^ 512
def fixLnTwo : Nat := 0xb17217f7d1cf79abc9e3b39803f2f6af40f343267298b62d8a0d175b8baafa2be7b876206debac98559552fb4afa1b10ed2eae35c138214427573b291169b825
def fixRootTwoPi : Nat := 0x281b263fec4e0b2caf9483f5ce459dc5f19f3ea6416000b50dc2f412ddeeb948b5068337b65698726847d560b8818fb98307f0f37d42a17c1c2b86baec9ffa598
def fixRootTwoOverPi : Nat := 0xcc42299ea1b284687e59e2805d5c717fa7053e60a24e0db1808e369004c73a5d3bf158aa88fa7b6e47eba75766e9d11bd6284ef2e17c2a264f1d32688be119ff

/-- e^y for y below 1, by its series. -/
def fixExpSeries (y : Nat) : Nat := ((List.range 110).foldl (fun (s : Nat × Nat) i => (s.1 + s.2, s.2 * y / fixOne / (i + 1))) (0, fixOne)).1

/-- e^y and e^-y. -/
def fixExp (y : Nat) : Nat := fixExpSeries (y % fixLnTwo) * 2 ^ (y / fixLnTwo)
def fixExpNeg (y : Nat) : Nat := fixOne * fixOne / fixExp y

/-- ln(1 + u) for u from 0 to 1: twice the inverse hyperbolic tangent of u / (2 + u), by its series. -/
def fixLn1p (u : Nat) : Nat :=
  let r := u * fixOne / (2 * fixOne + u)
  2 * ((List.range 170).foldl (fun (s : Nat × Nat) i => (s.1 + s.2 / (2 * i + 1), s.2 * r / fixOne * r / fixOne)) (0, r)).1

/-- Φ(y) − 1/2: φ(y) times the sum of y^(2i+1) / (2i+1)!!. -/
def fixGauss (y : Nat) : Nat :=
  let q := y * y / fixOne
  ((List.range 1000).foldl (fun (s : Nat × Nat) i => (s.1 + s.2, s.2 * q / fixOne / (2 * i + 3))) (0, y)).1 * fixOne * fixOne /
    (fixRootTwoPi * fixExp (q / 2))

/-- A magnitude, at most `cap`, in fixed point, and back. At the caps the true functions have come within 2^-290 of their limits, far below
every ulp. -/
def fixAbs (x : Num) (cap : Nat) : Nat := min (cap * fixOne) (x.abs.scale 512).floorInt.toNat
def fixNum (n : Nat) : Num := .fin false n (-512)

/-- 1 ÷ (1 + e^-y), for the sign of `y` given. -/
def fixSigmoid (neg : Bool) (y : Nat) : Nat :=
  let v := fixExpNeg y
  if neg then v * fixOne / (fixOne + v) else fixOne * fixOne / (fixOne + v)

/-- 2^A to about 500 bits; below −400 any value far below the least subnormal stands for it. -/
def exp2Val : Num → Num
  | .fin n m e =>
    if (Num.fin n m e).lt (.fin true 400 0) then .fin false 1 (-400)
    else if (Num.fin false 400 0).lt (.fin n m e) then .fin false 1 400
    else
      let x := (Num.fin n m (e + 512)).floorInt
      .fin false (fixExpSeries ((x % 2 ^ 512).toNat * fixLnTwo / fixOne)) (x / 2 ^ 512 - 512)
  | _ => Num.zero

/-- log2 of m · 2^e to 160 bits of fraction, one bit a squaring. -/
def log2Val (m : Nat) (e : Int) : Num :=
  let k := log2n m
  let r := (List.range 160).foldl (fun (s : Nat × Nat) _ =>
    let x := s.1 * s.1 / 2 ^ 200
    if 2 ^ 201 ≤ x then (x / 2, 2 * s.2 + 1) else (x, 2 * s.2)) (m * 2 ^ 200 / 2 ^ k, 0)
  ofInt ((k + e) * 2 ^ 160 + r.2) (-160) false

/-- `RCP` of an FP32 encoding (R183): within 1 ulp. -/
def laneRcp (b : Nat) : Nat :=
  match fp32 b with
  | .nan => canonNan cFp32
  | .inf n => signBit cFp32 n
  | .fin n m e =>
    let t := Num.div 60 Num.one (.fin n m e)
    if m = 0 then (encodeFlt cFp32 (.inf n)).1
    else if (encodeFlt cFp32 t).2 then (encodeFlt cFp32 (.inf n)).1
    else keptIf (Config.rcpValue (BitVec.ofNat 32 b)) (fun v => within (v.mul (.fin n m e)) Num.one ((ulpsAt t 1).mul (.fin false m e))) t

/-- `lo` ≤ 1/√a ≤ `hi`, decided exactly. -/
def betweenRoot (lo hi a : Num) : Bool :=
  (!Num.zero.lt lo || !Num.one.lt ((lo.mul lo).mul a)) && Num.zero.lt hi && !((hi.mul hi).mul a).lt Num.one

/-- `RSQRT` of an FP32 encoding (R183): within 2 ulp. -/
def laneRsqrt (b : Nat) : Nat :=
  match fp32 b with
  | .nan => canonNan cFp32
  | .inf n => if n then canonNan cFp32 else 0
  | .fin n m e =>
    let t := Num.div 60 Num.one (Num.sqrt 60 (.fin n m e))
    if m = 0 then (encodeFlt cFp32 (.inf n)).1 else if n then canonNan cFp32
    else keptIf (Config.rsqrtValue (BitVec.ofNat 32 b)) (fun v => betweenRoot (v.sub (ulpsAt t 2)) (v.add (ulpsAt t 2)) (.fin n m e)) t

/-- `EXP2` of an FP32 encoding (R183): within 2 ulp. -/
def laneExp2 (b : Nat) : Nat :=
  match fp32 b with
  | .nan => canonNan cFp32
  | .inf n => if n then 0 else (encodeFlt cFp32 (.inf false)).1
  | .fin n m e =>
    let t := exp2Val (.fin n m e)
    if (Num.fin n m e).lt (.fin false 128 0) then keptIf (Config.exp2Value (BitVec.ofNat 32 b)) (fun v => within v t (ulpsAt t 2)) t
    else (encodeFlt cFp32 (.inf false)).1

/-- `LOG2` of an FP32 encoding (R183): within 2^-22 for A in 0.5 to 2, within 2 ulp elsewhere. -/
def laneLog2 (b : Nat) : Nat :=
  match fp32 b with
  | .nan => canonNan cFp32
  | .inf n => if n then canonNan cFp32 else (encodeFlt cFp32 (.inf false)).1
  | .fin n m e =>
    let t := log2Val m e
    let near := !(Num.fin n m e).lt (.fin false 1 (-1)) && !(Num.fin false 2 0).lt (.fin n m e)
    if m = 0 then (encodeFlt cFp32 (.inf true)).1
    else if n then canonNan cFp32
    else if b = 0x3F800000 then 0
    else keptIf (Config.log2Value (BitVec.ofNat 32 b)) (fun v => within v t (if near then .fin false 1 (-22) else ulpsAt t 2)) t

/-- The contract exponential (R74): EXP2(rne_fp32(y × L_E)). -/
def expC (y : Num) : Num := fp32 (laneExp2 (toFp32 (y.mul (fp32 0x3FB8AA3B))))

/-- The contract logarithm (R74): rne_fp32(LOG2(y) × L_2). -/
def lnC (y : Num) : Num := rnd32 ((fp32 (laneLog2 (toFp32 y))).mul (fp32 0x3F317218))

/-- `n` bytes of an activation table as the manual leaves them open, as a number. -/
def actOpen (fn off n : Nat) : Nat := leNat ((List.range n).map fun i => Config.activationTableByte fn (off + i))

/-- The 64-byte head of an activation table (R528): LO, HI, MODE, BELOW, ABOVE, C_BELOW and C_ABOVE are open, BELOW and ABOVE between their two
values; INV_STEP is 256 ÷ (HI − LO), or zero when MODE is 1; the reserved bits are zero. -/
def actHeadNat (fn : Nat) : Nat :=
  let o := actOpen fn 0 64
  let mode := bitsOf o 96 1
  let inv := if mode = 1 then 0 else toFp32 (Num.div 60 (.fin false 256 0) ((fp32 (bitsOf o 32 32)).sub (fp32 (bitsOf o 0 32))))
  bitsOf o 0 64 + inv * 2 ^ 64 + mode * 2 ^ 96 + bitsOf o 97 1 * 2 ^ 97 + bitsOf o 100 1 * 2 ^ 100 + bitsOf o 128 64 * 2 ^ 128

/-- The functions that have no table (R68). -/
def actComputed (fn : Nat) : Bool := ([1, 2, 10, 11, 12, 13] : List Nat).contains fn

/-- A byte of the dictionary's activation tables (R68, R528). -/
def activationByte (fn off : Nat) : Byte :=
  if actComputed fn then 0 else if off < 64 then BitVec.ofNat 8 (bitsOf (actHeadNat fn) (8 * off) 8) else Config.activationTableByte fn off

/-- Bits `[hi:lo]` of the head of an activation table. -/
def actHead (fn lo hi : Nat) : Nat := bitsOf (actHeadNat fn) lo (hi + 1 - lo)

/-- The limit of an activation function at an infinity (R106), for the functions that have one of their own. -/
def actLimit (fn : Nat) (neg : Bool) : Num :=
  if neg then
    (if fn = 7 ∨ fn = 9 then .fin true 1 0 else Num.zero)
  else if fn = 6 ∨ fn = 7 ∨ fn = 12 then Num.one
  else .inf false

/-- A table function of a finite FP32 value, as its table gives it (R528). -/
def actTable (fn : Nat) (x : Num) : Num :=
  let lo := fp32 (actHead fn 0 31)
  let hi := fp32 (actHead fn 32 63)
  if x.lt lo then (if actHead fn 97 99 = 1 then x else fp32 (actHead fn 128 159))
  else if !x.lt hi then (if actHead fn 100 102 = 1 then x else fp32 (actHead fn 160 191))
  else
    let n : Int := if actHead fn 96 96 = 0 then 0 else x.floorInt
    let t := if actHead fn 96 96 = 0 then (x.sub lo).mul (fp32 (actHead fn 64 95)) else (x.sub (ofIntVal n)).scale 8
    let i := min 255 t.floorInt.toNat
    let u := rnd32 (t.sub (ofIntVal i))
    let c := fun (k : Nat) => fp32 (actOpen fn (64 + 16 * i + 4 * k) 4)
    let p := fma32 (fma32 (fma32 (c 3) u (c 2)) u (c 1)) u (c 0)
    if actHead fn 96 96 = 0 then p else rnd32 (p.scale n)

/-- The table functions of R68 as they are defined, to about 500 bits. -/
def actTrue (fn : Nat) (x : Num) : Num :=
  let neg := x.lt Num.zero
  let y := fixAbs x 300
  let v := fixExpNeg y
  let signed := fun (n : Nat) => if neg then (fixNum n).negate else fixNum n
  if fn = 3 then x.mul (fixNum (if neg then fixOne / 2 - fixGauss (fixAbs x 20) else fixOne / 2 + fixGauss (fixAbs x 20)))
  else if fn = 4 then
    let a := fixAbs x 20
    x.mul (fixNum (fixSigmoid neg (min (300 * fixOne) (2 * fixRootTwoOverPi * (a + 44715 * (a * a / fixOne * a / fixOne) / 1000000) / fixOne))))
  else if fn = 5 then x.mul (fixNum (fixSigmoid neg y))
  else if fn = 6 then fixNum (fixSigmoid neg y)
  else if fn = 7 then
    let w := fixExpNeg (fixAbs (x.scale 1) 300)
    signed ((fixOne - w) * fixOne / (fixOne + w))
  else if fn = 8 then (x.max Num.zero).add (fixNum (fixLn1p v))
  else if fn = 9 then (if neg then (fixNum (fixOne - v)).negate else x)
  else if fn = 14 then
    let w := v * v / fixOne
    x.mul (fixNum (if neg then (w + 2 * v) * fixOne / (w + 2 * v + 2 * fixOne) else (fixOne + 2 * v) * fixOne / (fixOne + 2 * v + 2 * w)))
  else exp2Val x

/-- A table function: each result lies within 2 ulp of the function (R68). The tables are open, so a value of theirs outside the bound gives way to
the function rounded. -/
def actFunction (fn : Nat) (x : Num) : Num :=
  if within (actTable fn x) (actTrue fn x) (ulpsAt (actTrue fn x) 2) then actTable fn x else rnd32 (actTrue fn x)

/-- The hard sigmoid (R68). -/
def hardSigmoid (x : Num) : Num :=
  ((rnd32 ((rnd32 (Num.div 30 x (.fin false 6 0))).add (.fin false 1 (-1)))).max Num.zero).min Num.one

/-- An activation function with its parameter (R68, R106). -/
def activation (fn : Nat) (param x : Num) : Num :=
  match x with
  | .nan => .nan
  | .inf n =>
    if fn = 0 then x
    else if fn = 2 then (if n then (if param.isZero then Num.zero else rnd32 (x.mul param)) else x)
    else if fn = 11 then (if param.isZero then Num.zero else (x.max param.abs.negate).min param.abs)
    else actLimit fn n
  | .fin _ _ _ =>
    if fn = 0 then x
    else if fn = 1 then x.max Num.zero
    else if fn = 2 then (if x.lt Num.zero then rnd32 (x.mul param) else x)
    else if fn = 10 then rnd32 ((x.max Num.zero).mul (x.max Num.zero))
    else if fn = 11 then (x.max param.abs.negate).min param.abs
    else if fn = 12 then hardSigmoid x
    else if fn = 13 then rnd32 (x.mul (hardSigmoid x))
    else actFunction fn x

end Sys2Proof.Machine
end

