-- ==== Sys2Proof/Machine/Tensor.lean ====
section
/-! DEFINITION. Stored tensors (R92, R93): which bytes a rectangle of elements and its block scales occupy, the values they hold, and the
bytes that a written matrix becomes. -/

namespace Sys2Proof.Machine

/-- A stored matrix: rows `ld` bytes apart, `cols` elements to a row, block scales at `scale` that run down columns when `down`, and
restart every `head` elements along a row. -/
structure Mat where
  addr : Nat
  ld : Nat
  fmt : Nat
  scale : Nat
  down : Bool
  cols : Nat
  head : Nat
deriving DecidableEq, Repr

/-- Bytes of a stored row (R92). -/
def rowBytes (fmt cols : Nat) : Nat := (fmtBits fmt * cols + 7) / 8

/-- Elements of a list `n` at a time. -/
def chunks {α : Type} (n : Nat) (l : List α) : List (List α) := (List.range ((l.length + n - 1) / n)).map fun k => (l.drop (n * k)).take n

/-- Scale entries of one head of a row. -/
def Mat.perHead (m : Mat) : Nat := (m.head + blockLen m.fmt - 1) / blockLen m.fmt

/-- The scale entry of a column, blocks along rows (R93). -/
def Mat.entry (m : Mat) (c : Nat) : Nat := c / m.head * m.perHead + c % m.head / blockLen m.fmt

/-- Entries in one scale row. -/
def Mat.entries (m : Mat) : Nat := if m.down then m.cols else (m.cols + m.head - 1) / m.head * m.perHead

/-- Bytes between scale rows: the entries rounded up to a multiple of 64 (R93). -/
def Mat.pitch (m : Mat) : Nat := roundUp (m.entries * scaleBytes m.fmt) 64

/-- Scale rows of a matrix of `rows` rows. -/
def Mat.scaleRows (m : Mat) (rows : Nat) : Nat := if m.down then (rows + blockLen m.fmt - 1) / blockLen m.fmt else rows

/-- The bytes of `nc` elements from column `c0` of row `r`. -/
def Mat.rowAt (m : Mat) (r c0 nc : Nat) : Nat × Nat :=
  let b := fmtBits m.fmt * c0 / 8
  (m.addr + r * m.ld + b, (fmtBits m.fmt * (c0 + nc) + 7) / 8 - b)

/-- The scale bytes that elements of row `r` need. -/
def Mat.scaleAt (m : Mat) (r c0 nc : Nat) : Nat × Nat :=
  let sb := scaleBytes m.fmt
  if m.down then (m.scale + r / blockLen m.fmt * m.pitch + c0 * sb, nc * sb)
  else (m.scale + r * m.pitch + m.entry c0 * sb, (m.entry (c0 + nc - 1) + 1 - m.entry c0) * sb)

/-- The bytes that a rectangle of elements reads, its scales included (R93). -/
def Mat.reads (m : Mat) (r0 nr c0 nc : Nat) : List (Nat × Nat) :=
  if nr = 0 ∨ nc = 0 then []
  else
    ((List.range nr).map fun i => m.rowAt (r0 + i) c0 nc) ++
      (if !fmtBlock m.fmt then []
       else if m.down then
         (List.range ((r0 + nr - 1) / blockLen m.fmt + 1 - r0 / blockLen m.fmt)).map fun b =>
           m.scaleAt ((r0 / blockLen m.fmt + b) * blockLen m.fmt) c0 nc
       else (List.range nr).map fun i => m.scaleAt (r0 + i) c0 nc)

/-- The same bytes as reads to prepare. -/
def Mat.readExtents (m : Mat) (r0 nr c0 nc : Nat) : List (Nat × Nat × Nat) := (m.reads r0 nr c0 nc).map fun e => (accRead, e.1, e.2)

/-- The bytes that writing the rows `r0` to `r0 + nr - 1` whole takes. -/
def Mat.writeExtents (m : Mat) (r0 nr : Nat) : List (Nat × Nat × Nat) :=
  ((List.range nr).map fun i => (accWrite, m.addr + (r0 + i) * m.ld, rowBytes m.fmt m.cols)) ++
    (if fmtBlock m.fmt then
       (List.range (m.scaleRows nr)).map fun b =>
         (accWrite, m.scale + ((if m.down then 0 else r0) + b) * m.pitch, m.entries * scaleBytes m.fmt)
     else [])

/-- The extent of a whole matrix of `rows` rows, and that of its scale array, as address and length (R70). -/
def Mat.whole (m : Mat) (rows : Nat) : List (Nat × Nat) :=
  (m.addr, (rows - 1) * m.ld + rowBytes m.fmt m.cols) ::
    (if fmtBlock m.fmt then [(m.scale, (m.scaleRows rows - 1) * m.pitch + m.entries * scaleBytes m.fmt)] else [])

/-- The value of element (r, c) from its bits and its scale record. -/
def Mat.value (m : Mat) (r c rec bits : Nat) : Num :=
  if fmtMx m.fmt then decodeMx m.fmt (rec % 256) bits
  else if fmtTs m.fmt then decodeTs m.fmt rec (if m.down then r % 256 else c % m.head % 256) bits
  else decodePlain m.fmt bits

/-- The values of part of a row; its bytes were prepared. -/
def State.readRow (s : State) (ctx : Nat) (m : Mat) (r c0 nc : Nat) : List Num :=
  let e := m.rowAt r c0 nc
  let n := s.rdVNat ctx e.1 e.2
  let w := fmtBits m.fmt
  let off := w * c0 % 8
  let sc := m.scaleAt r c0 nc
  let sn := if fmtBlock m.fmt then s.rdVNat ctx sc.1 sc.2 else 0
  let sb := scaleBytes m.fmt
  (List.range nc).map fun j =>
    let k := if m.down then j else m.entry (c0 + j) - m.entry c0
    m.value r (c0 + j) (bitsOf sn (8 * sb * k) (8 * sb)) (bitsOf n (off + w * j) w)

/-- The values of a rectangle. -/
def State.readRect (s : State) (ctx : Nat) (m : Mat) (r0 nr c0 nc : Nat) : List (List Num) :=
  (List.range nr).map fun i => s.readRow ctx m (r0 + i) c0 nc

/-- The raw bits of part of a row, for a plain format. -/
def State.rawRow (s : State) (ctx : Nat) (m : Mat) (r c0 nc : Nat) : List Nat :=
  let e := m.rowAt r c0 nc
  let n := s.rdVNat ctx e.1 e.2
  let w := fmtBits m.fmt
  (List.range nc).map fun j => bitsOf n (w * c0 % 8 + w * j) w

/-- Columns as rows. -/
def transpose {α : Type} (d : α) (cols : Nat) (l : List (List α)) : List (List α) :=
  (List.range cols).map fun j => l.map fun r => r.getD j d

/-- An element that no input gave. -/
def Elem.zero : Elem := ⟨Num.zero, false, true⟩

/-- A written zero. -/
def Written.zero : Written := ⟨0, false, .none, false⟩

/-- The bytes of a row of written elements; the rest of its last byte is zero (R92). -/
def packRow (fmt : Nat) (l : List Written) : List Byte :=
  leBytes (l.foldr (fun w acc => w.bits + acc * 2 ^ fmtBits fmt) 0) (rowBytes fmt l.length)

/-- One row written with blocks along it: its scale bytes and its elements. -/
def Mat.writeAlong (m : Mat) (row : List Elem) : List Byte × List Written :=
  if fmtBlock m.fmt then
    let rs := ((chunks m.head row).flatMap fun h => chunks (blockLen m.fmt) h).map (writeBlock m.fmt)
    (rs.flatMap fun r => leBytes r.1 (scaleBytes m.fmt), rs.flatMap Prod.snd)
  else ([], row.map (writePlain m.fmt))

/-- The values that a written block holds. -/
def blockValues (fmt : Nat) (b : List Elem) : List Num :=
  let w := writeBlock fmt b
  (List.range b.length).map fun i =>
    let bits := (w.2.getD i Written.zero).bits
    if fmtMx fmt then decodeMx fmt w.1 bits else if fmtTs fmt then decodeTs fmt w.1 i bits else decodePlain fmt bits

/-- A block of rows written with blocks down its columns: its scale bytes and its rows of elements. -/
def Mat.writeDown (m : Mat) (rows : List (List Elem)) : List Byte × List (List Written) :=
  let rs := (transpose Elem.zero m.cols rows).map (writeBlock m.fmt)
  (rs.flatMap fun r => leBytes r.1 (scaleBytes m.fmt), transpose Written.zero rows.length (rs.map Prod.snd))

/-- Whole rows from `r0` written: the bytes they become, in the order of `writeExtents`, and the elements written. -/
def Mat.writeRows (m : Mat) (r0 : Nat) (rows : List (List Elem)) : List (Nat × List Byte) × List (List Written) :=
  if fmtBlock m.fmt && m.down then
    let bs := (chunks (blockLen m.fmt) rows).map m.writeDown
    let ws := bs.flatMap Prod.snd
    (((List.range ws.length).map fun i => (m.addr + (r0 + i) * m.ld, packRow m.fmt (ws.getD i []))) ++
      ((List.range bs.length).map fun b => (m.scale + b * m.pitch, (bs.getD b ([], [])).1)), ws)
  else
    let rs := rows.map m.writeAlong
    (((List.range rs.length).map fun i => (m.addr + (r0 + i) * m.ld, packRow m.fmt ((rs.getD i ([], [])).2))) ++
      (if fmtBlock m.fmt then (List.range rs.length).map fun i => (m.scale + (r0 + i) * m.pitch, (rs.getD i ([], [])).1) else []),
      rs.map Prod.snd)

/-- The values of the elements that `writeRows` writes. -/
def Mat.writtenValues (m : Mat) (rows : List (List Elem)) : List (List Num) :=
  if !fmtBlock m.fmt then rows.map fun r => r.map fun e => decodePlain m.fmt (writePlain m.fmt e).bits
  else if m.down then
    (chunks (blockLen m.fmt) rows).flatMap fun b => transpose Num.zero b.length ((transpose Elem.zero m.cols b).map (blockValues m.fmt))
  else rows.map fun r => (chunks m.head r).flatMap fun h => (chunks (blockLen m.fmt) h).flatMap (blockValues m.fmt)

/-- A matrix with blocks along its rows, not restarting. -/
def matRows (addr ld fmt scale cols : Nat) : Mat := ⟨addr, ld, fmt, scale, false, cols, cols⟩

/-- A matrix with blocks along its rows or down its columns. -/
def matOf (addr ld fmt scale : Nat) (down : Bool) (cols : Nat) : Mat := ⟨addr, ld, fmt, scale, down, cols, cols⟩

/-- A scale address is zero exactly when the format is not block-scaled (R69, R115), as a check on the field at `lo`; a code that names no format
is refused by itself. -/
def badScale (d : Descriptor) (lo fmt : Nat) : Bool × Nat := (fmtLegal fmt && (fld d lo (lo + 63) != 0) != fmtBlock fmt, lo)

/-- Two lists of extents share a byte. -/
def meet (a b : List (Nat × Nat)) : Bool := a.any fun x => b.any fun y => overlaps x.1 x.2 y.1 y.2

end Sys2Proof.Machine
end

