-- ==== Sys2Proof/Machine/Flags.lean ====
section
/-! DEFINITION. What written elements add to a completion: the OVERFLOW bit and the flagged count (R103, R104, R116), the special values
of the layer record (R130), and the first NaN that trips the trap (R107, R139, R140). -/

namespace Sys2Proof.Machine

/-- A written NaN: its place in the order (OUTPUT, BATCH, ROW, COL) and its class. -/
structure NanAt where
  output : Nat
  batch : Nat
  row : Nat
  col : Nat
  cls : NanCls
deriving DecidableEq, Repr

/-- What the elements an operation wrote add up to. -/
structure Tally where
  flagged : Nat
  overflow : Bool
  spread : Bool
  infs : Nat
  nans : List NanAt
deriving DecidableEq, Repr

/-- Nothing written. -/
def Tally.empty : Tally := ⟨0, false, false, 0, []⟩

/-- Two parts of one operation. -/
def Tally.join (a b : Tally) : Tally := ⟨a.flagged + b.flagged, a.overflow || b.overflow, a.spread || b.spread, a.infs + b.infs, a.nans ++ b.nans⟩

/-- One written element at its place; `spread`: its row or column exceeded the exponent spread (R78). -/
def tallyElem (output batch row col : Nat) (w : Written) (spread : Bool) : Tally :=
  { flagged := b2n (w.ovf || spread), overflow := w.ovf, spread := spread, infs := b2n w.infinite,
    nans := if w.cls = .none then [] else [⟨output, batch, row, col, w.cls⟩] }

/-- The rows of one output, from row `r0`, none of them past the exponent spread. -/
def tallyRows (output batch r0 : Nat) (rows : List (List Written)) : Tally :=
  (List.range rows.length).foldl (fun t i =>
    let row := rows.getD i []
    (List.range row.length).foldl (fun u j => u.join (tallyElem output batch (r0 + i) j (row.getD j Written.zero) false)) t) Tally.empty

/-- How many NaNs of a class were written. -/
def Tally.count (t : Tally) (c : NanCls) : Nat := t.nans.countP fun n => n.cls == c

/-- The special-value count of R130. -/
def Tally.specials (t : Tally) : Nat := t.nans.length + t.infs

/-- CLASS of a trap record (R140). -/
def classCode : NanCls → Nat
  | .none => 0 | .propagated => 0 | .invalid => 1 | .overflow => 2

/-- The order of R140. -/
def NanAt.before (a b : NanAt) : Bool :=
  decide (a.output < b.output) ||
    (a.output == b.output && (decide (a.batch < b.batch) ||
      (a.batch == b.batch && (decide (a.row < b.row) || (a.row == b.row && decide (a.col < b.col))))))

/-- The lowest NaN of the classes that `enabled` selects (R139, R140). -/
def Tally.firstTrap (t : Tally) (enabled : NanCls → Bool) : Option NanAt :=
  t.nans.foldl (fun m n =>
    if !enabled n.cls then m
    else
      match m with
      | none => some n
      | some x => if n.before x then some n else some x) none

/-- The result of an operation that wrote its elements (R29, R116). -/
def Tally.result (t : Tally) (slices : Nat) : OpResult := Sys2Proof.Machine.flagged t.spread t.overflow t.flagged slices

end Sys2Proof.Machine
end

