-- ==== Sys2Proof/Machine/Almanac.lean ====
section
/-! DEFINITION. The numeric policy (R117, R118) and the Almanac: layers and slots (R129, R130), tensor histories and output scales (R131
to R134), thresholds and events (R135, R137), and the first-NaN trap (R138 to R140). -/

namespace Sys2Proof.Machine

/-- Bits `[hi:lo]` of the numeric policy in effect (R117). -/
def pol (x : Ctx) (lo hi : Nat) : Nat := bitsOf x.regs.policy.eff.toNat lo (hi + 1 - lo)

def polPeriod (x : Ctx) : Nat := pol x 8 18
def polAddr (x : Ctx) : Nat := pol x 64 127

/-- The layer slot of the context's next operation (R129). -/
def layerSlot (x : Ctx) : Nat := x.cnt.eveCount.toNat % polPeriod x

/-- Bytes of the Almanac region (R129). -/
def regionBytes (p : Nat) : Nat := 4096 + 8192 * p

/-- Address of a slot. -/
def slotAddr (x : Ctx) (slot : Nat) : Nat := polAddr x + 4096 + 8192 * slot

/-- Address of a tensor history (R129). -/
def histAddr (x : Ctx) (slot t : Nat) : Nat := slotAddr x slot + 512 + 320 * t

/-- The largest finite value of a destination format (R94, R95). -/
def maxFinite (c : Nat) : Num :=
  if fmtInt c then .fin false (2 ^ (fmtBits c - 1) - 1) 0 else decodeFlt c false (maxCode c)

/-- The largest E in −127 to 127 with A × 2^E ≤ F × 2^−margin; −127 when none, 0 for A = 0 or a block-scaled format (R133). -/
def scaleExp (a : Num) (dfmt margin : Nat) : Int :=
  if fmtBlock dfmt || a.isZero then 0
  else
    let bound := (maxFinite dfmt).scale (-(margin : Int))
    match (List.range 255).find? fun (i : Nat) => !bound.lt (a.scale (127 - (i : Int))) with
    | some i => 127 - (i : Int)
    | none => -127

/-- The history bytes an operation with D_SCALE_HIST reads, as an extent to prepare. -/
def histExtents (x : Ctx) (useHist : Bool) (t : Nat) : List (Nat × Nat × Nat) :=
  if useHist && polPeriod x != 0 then [(accRead, histAddr x (layerSlot x) t, 320), (accWrite, histAddr x (layerSlot x) t, 8)] else []

/-- The largest of 64 FP32 entries of a history. -/
def histMax (h : Nat) : Num :=
  (List.range 64).foldl (fun (a : Num) i => a.max (fp32 (bitsOf h (512 + 32 * i) 32))) Num.zero

/-- E of the output scale of an operation of context `c` for tracked tensor `t` (R133, R134); `own` is the fallback amax. -/
def State.outScale (s : State) (c t dfmt : Nat) (own : Num) : Int :=
  let x := s.ctx c
  if polPeriod x = 0 then scaleExp own dfmt (pol x 5 7)
  else
    let h := s.rdVNat c (histAddr x (layerSlot x) t) 320
    scaleExp (if bitsOf h 0 7 = 64 then histMax h else own) dfmt (pol x 5 7)

/-- The head of the history after the operation (R133): SCALE_VALID, SCALE_EXP and INV_SCALE. -/
def State.scaleHead (s : State) (c t : Nat) (e : Int) : Option (Nat × List Byte) :=
  let x := s.ctx c
  if polPeriod x = 0 then none
  else
    let a := histAddr x (layerSlot x) t
    let h := s.rdVNat c a 8
    let v := setBits (setBits (setBits h 14 1 1) 16 8 (e + 127).toNat) 32 32 (toFp32 (.fin false 1 (-e)))
    some (a, leBytes v 8)

/-- The history that G_HIST_SLOT and G_HIST_TENSOR name exists (R122). -/
def histExists (x : Ctx) (slot : Nat) : Bool := decide (slot < polPeriod x)

/-- inv_h of R122, from the prepared head of the named history. -/
def State.invScale (s : State) (c slot t : Nat) : Num :=
  let x := s.ctx c
  if histExists x slot then
    let h := s.rdVNat c (histAddr x slot t) 8
    if bitAt h 14 then fp32 (bitsOf h 32 32) else Num.one
  else Num.one

/-- The classes that trip the trap: bits [2] to [4] (R117). -/
def trapEnabled (x : Ctx) (k : NanCls) : Bool :=
  match k with
  | .none => false
  | .propagated => bitAt (pol x 2 4) 0
  | .invalid => bitAt (pol x 2 4) 1
  | .overflow => bitAt (pol x 2 4) 2

/-- The trap that a tally trips while TRAP_ARMED is 1 (R139, R140). -/
def trapOf (x : Ctx) (t : Tally) : Option TrapNote :=
  if pol x 1 1 = 1 then
    (t.firstTrap (trapEnabled x)).map fun n => ⟨classCode n.cls, n.output, n.batch, n.row, n.col, t.nans.length⟩
  else none

/-- Nothing to do at completion. -/
def Aftermath.none : Aftermath := ⟨0, 0, 0, 0, Option.none, Option.none, 0, 0, Option.none, false, [], Option.none⟩

/-- What the written elements of an observed operation do at its completion (R130, R138, R139). -/
def afterTally (x : Ctx) (t : Tally) : Aftermath :=
  { Aftermath.none with prop := t.count .propagated, inv := t.count .invalid, ovf := t.count .overflow, infs := t.infs, trap := trapOf x t }

/-- The larger of a layer's amax and a captured one (R132). -/
def raiseAmax (old : Option W32) (v : W32) : Option W32 :=
  match old with
  | none => some v
  | some o => if (fp32 o.toNat).lt (fp32 v.toNat) then some v else some o

/-- FP64 addition of two encodings. -/
def addFp64 (a b : W64) : W64 := BitVec.ofNat 64 (encodeFlt cFp64 ((decodeFlt cFp64 false a.toNat).add (decodeFlt cFp64 false b.toNat))).1

/-- A layer takes in what an operation did (R130, R132); counts saturate. -/
def LayerAcc.take (l : LayerAcc) (a : Aftermath) : LayerAcc :=
  { l with
    updateOps := if a.update.isSome then satInc 16 l.updateOps else l.updateOps,
    heldOps := (match a.update with
      | some (true, _, _) => satInc 16 l.heldOps
      | _ => l.heldOps),
    sumsqW := (match a.update with
      | some (false, w, _) => addFp64 l.sumsqW w
      | _ => l.sumsqW),
    sumsqDw := (match a.update with
      | some (false, _, d) => addFp64 l.sumsqDw d
      | _ => l.sumsqDw),
    nanPropagated := satTo 32 (l.nanPropagated + a.prop), nanInvalid := satTo 32 (l.nanInvalid + a.inv),
    nanOverflow := satTo 32 (l.nanOverflow + a.ovf), infWritten := satTo 32 (l.infWritten + a.infs),
    gradNonfinite := satTo 32 (l.gradNonfinite + a.gradNonfinite), remReset := satTo 32 (l.remReset + a.remReset),
    ratioHigh := l.ratioHigh || a.ratioHigh,
    amax := (match a.amax with
      | some (t, v) => l.amax.set t (raiseAmax (l.amax.getD t none) v)
      | none => l.amax) }

/-- Writes an Almanac event record and advances EVENT_COUNT, then raises the notice source (R135, R137). -/
def State.almEvent (s : State) (c opIx eve : Nat) (e : AlmEvent) : State :=
  let x := s.ctx c
  let n := x.cnt.almEvents
  let r := opIx % 2 ^ 64 + eve % 2 ^ 32 * 2 ^ 64 + e.kind * 2 ^ 96 + b2n e.held * 2 ^ 104 + e.value % 2 ^ 32 * 2 ^ 128 +
    e.threshold % 2 ^ 32 * 2 ^ 160 + s.now % 2 ^ 64 * 2 ^ 192
  let s1 := s.setCtx c { x with cnt := { x.cnt with almEvents := n + 1 } }
  (s1.postRecord c (polAddr x + 64 + 32 * (n % 64)) (leBytes r 32) 0).postRecord c (polAddr x) (leBytes (n + 1) 4) (noticeSrc x)

/-- The NaN trap record (R140). -/
def trapRecord (s : State) (c : Nat) (f : Flight) (r : OpResult) (t : TrapNote) : Nat :=
  f.opIndex % 2 ^ 64 + c * 2 ^ 64 + s.effNat 0x4100 1 % 2 ^ 20 * 2 ^ 80 + dOpcode f.desc * 2 ^ 104 + t.cls * 2 ^ 112 + t.output * 2 ^ 116 +
    (s.ctx c).cnt.eveCount.toNat * 2 ^ 128 + t.batch % 2 ^ 32 * 2 ^ 160 + t.row % 2 ^ 32 * 2 ^ 192 + t.col % 2 ^ 32 * 2 ^ 224 +
    satTo 32 t.nans * 2 ^ 256 + b2n r.overflow * 2 ^ 288 + b2n r.spread * 2 ^ 289 + s.now % 2 ^ 64 * 2 ^ 320 + dTag f.desc * 2 ^ 384

/-- TRAP_ARMED is cleared; a held re-arm stays held (R139). -/
def disarm (p : Held (BitVec 512)) : Held (BitVec 512) :=
  let off := fun (v : BitVec 512) => BitVec.ofNat 512 (setBits v.toNat 1 1 0)
  { p with eff := off p.eff, acc := if p.waits then p.acc else off p.acc }

/-- The trap is taken (R139): the record, the index as DETAIL, and TRAP_COUNT. -/
def State.takeTrap (s : State) (c : Nat) (f : Flight) (r : OpResult) (t : TrapNote) : State × OpResult :=
  let x := s.ctx c
  let i := x.cnt.trapCount
  let s1 := s.setCtx c { x with cnt := { x.cnt with trapCount := i + 1 }, regs := { x.regs with policy := disarm x.regs.policy } }
  let ring := pol x 128 191
  let s2 := if ring = 0 then s1 else s1.postRecord c (ring + 128 * (i.toNat % 16)) (leBytes (trapRecord s c f r t) 128) 0
  (s2, { r with status := 0x0301, detail := i.toNat })

/-- An operation that wrote its results completes: its layer, its history, its events and its trap (R130 to R139). -/
def State.settle (s : State) (c : Nat) (f : Flight) (r : OpResult) (a : Aftermath) : State × OpResult :=
  let x := s.ctx c
  let s1 := if polPeriod x = 0 then s
    else
      let s2 := s.setCtx c { x with layer := x.layer.take a }
      let s3 := match a.scale with
        | some (va, d) => s2.postRecord c va d 0
        | none => s2
      a.events.foldl (fun t e => t.almEvent c f.opIndex x.cnt.eveCount.toNat e) s3
  match a.trap with
  | some t => s1.takeTrap c f r t
  | none => (s1, r)

/-- The ratio of R125, as an FP32 encoding. -/
def ratioOf (sw sdw : W64) : Nat :=
  let w := decodeFlt cFp64 false sw.toNat
  let d := decodeFlt cFp64 false sdw.toNat
  if d.isZero then 0
  else if w.isZero then 0x7F800000
  else toFp32 (roundTo cFp64 (Num.sqrt 60 (roundTo cFp64 (Num.div 60 d w))))

/-- The layer record (R130). -/
def layerRecord (l : LayerAcc) (eveCount : Nat) (low special : Bool) : Nat :=
  eveCount % 2 ^ 32 + l.updateOps * 2 ^ 32 + l.heldOps * 2 ^ 48 + l.sumsqW.toNat * 2 ^ 64 + l.sumsqDw.toNat * 2 ^ 128 +
    ratioOf l.sumsqW l.sumsqDw * 2 ^ 192 + l.nanPropagated * 2 ^ 224 + l.nanInvalid * 2 ^ 256 + l.nanOverflow * 2 ^ 288 +
    l.infWritten * 2 ^ 320 + l.gradNonfinite * 2 ^ 352 + l.remReset * 2 ^ 384 + b2n l.ratioHigh * 2 ^ 416 + b2n low * 2 ^ 417 +
    b2n special * 2 ^ 418

/-- Pushes a captured amax to its history (R132), whose head a prepared read gave as `h`. -/
def histPush (h v : Nat) : List (Nat × List Byte) :=
  let head := bitsOf h 8 6
  let h1 := setBits (setBits (setBits h 0 7 (min 64 (bitsOf h 0 7 + 1))) 8 6 (head + 1)) 64 32 v
  [(0, leBytes h1 12), (64 + 4 * head, leBytes v 4)]

/-- The pushes of a layer that closes, tensor by tensor. A history that cannot be read loses its push (R295). -/
def State.pushHistories (s : State) (c slot : Nat) : State :=
  let x := s.ctx c
  (List.range 16).foldl (fun t i =>
    match x.layer.amax.getD i none with
    | none => t
    | some v =>
      let a := histAddr x slot i
      match t.prep c accRead a 12 with
      | (t1, none) => (histPush (t1.rdVNat c a 12) v.toNat).foldl (fun u w => u.postRecord c (a + w.1) w.2 0) t1
      | (t1, some h) =>
        if h.kind ≤ 5 ∧ (t1.ctx c).declined.contains (accRead, h.va / 65536) then t1
        else
          let f := t1.faultAt c (t1.seqAgent c) (runningOp (t1.ctx c)) accRead h (.eve c)
          (f.2.updCtx c fun y => { y with lost := some (statusOfKind h.kind, f.1) }).halt c (statusOfKind h.kind) (runningOp (t1.ctx c))) s

/-- The accesses that closing the layer makes: the histories it pushes and the record of its slot (R129 to R132). -/
def closeExtents (x : Ctx) : List (Nat × Nat × Nat) :=
  if polPeriod x = 0 then []
  else
    ((List.range 16).flatMap fun i =>
      if (x.layer.amax.getD i none).isSome then
        [(accRead, histAddr x (layerSlot x) i, 12), (accWrite, histAddr x (layerSlot x) i, 320)] else []) ++
      [(accWrite, slotAddr x (layerSlot x), 512), (accWrite, polAddr x, 4096)]

/-- Closes the Almanac layer at the latch point of an `EVE` (R130, R132, R135): the pushes, the record of the slot, the events, and the
next layer begins empty. -/
def State.closeLayer (s : State) (c opIx : Nat) : State :=
  let x := s.ctx c
  if polPeriod x = 0 then s.setCtx c { x with layer := LayerAcc.empty }
  else
    let l := x.layer
    let ratio := ratioOf l.sumsqW l.sumsqDw
    let low := decide (0 < l.updateOps) && (fp32 ratio).lt (fp32 (pol x 224 255))
    let count := l.nanPropagated + l.nanInvalid + l.nanOverflow + l.infWritten
    let special := decide (pol x 256 287 < count)
    let s1 := s.pushHistories c (layerSlot x)
    let s2 := s1.postRecord c (slotAddr x (layerSlot x)) (leBytes (layerRecord l (x.cnt.eveCount.toNat + 1) low special) 512) 0
    let s3 := if low && pol x 21 21 == 1 then s2.almEvent c opIx x.cnt.eveCount.toNat ⟨2, false, ratio, pol x 224 255⟩ else s2
    let s4 := if special && pol x 22 22 == 1 then s3.almEvent c opIx x.cnt.eveCount.toNat ⟨3, false, satTo 32 count, pol x 256 287⟩ else s3
    s4.updCtx c fun y => { y with layer := LayerAcc.empty, declined := [] }

/-- Zeroes a new Almanac region (R129); a fault stalls the step (R295). -/
def State.clearRegion (s : State) (c : Nat) : State :=
  let x := s.ctx c
  if !x.regionDue then s
  else if polPeriod x = 0 then s.setCtx c { x with regionDue := false }
  else
    let n := regionBytes (polPeriod x)
    match s.prep c accFull (polAddr x) n with
    | (s1, none) =>
      let pages := List.range (n / 4096)
      let s2 := pages.foldl (fun (t : State) i =>
        let pa := t.tr c (polAddr x + 4096 * i)
        if ioAddr pa then t.wrBytes pa (List.replicate 4096 0) else t.zeroLines (pa / 128) (pa / 128 + 32)) s1
      s2.updCtx c fun y => { y with regionDue := false, cnt := { y.cnt with almEvents := 0 } }
    | (s1, some h) =>
      let op := runningOp (s1.ctx c)
      let f := s1.faultAt c (s1.seqAgent c) op accFull h (.eve c)
      if h.kind ≤ 5 then f.2
      else (f.2.updCtx c fun y => { y with regionDue := false, lost := some (statusOfKind h.kind, f.1) }).halt c (statusOfKind h.kind) op

end Sys2Proof.Machine
end

