-- ==== Sys2Proof/Machine/Signatures.lean ====
section
/-! DEFINITION. Decompositions of array operations (R83 to R88, R491): the signature table of a partition, its default decomposition, and
its adaptation at a latch point. A decomposition never changes a result (R46). -/

namespace Sys2Proof.Machine

/-- Tiles that a partition presently has (R90, R424). -/
def State.tilesOf (s : State) (k : Nat) : Nat :=
  (s.stacks k).foldl (fun a n => if s.integ.computeFenced.getD n false then a else a + (s.integ.tiles.getD n []).length) 0

/-- What names a signature: opcode, formats, M, N and K rounded up to 512, BATCH, SEQ_COUNT. -/
structure SigKey where
  opcode : Nat
  fmt : Nat
  m : Nat
  n : Nat
  k : Nat
  batch : Nat
  seqCount : Nat
deriving DecidableEq, Repr

/-- An entry's name. -/
def SigEntry.key (e : SigEntry) : SigKey := ⟨e.opcode, e.fmt, e.m512, e.n512, e.k512, e.batch, e.seqCount⟩

/-- The default decomposition: column bands, and a split of K only when the output blocks of the operation that asked for it are fewer than the tiles; into
how many parts the manual does not say (free value, log 36). -/
def sigDefault (q : SigKey) (blocks tiles stamp : Nat) (pinned : Bool) : SigEntry :=
  { opcode := q.opcode, fmt := q.fmt, m512 := q.m, n512 := q.n, k512 := q.k, batch := q.batch, seqCount := q.seqCount, byRows := false,
    splitK := if blocks < tiles then max 1 (Config.splitParts [q.opcode, q.fmt, q.m, q.n, q.k, q.batch, q.seqCount, tiles]) else 1, shortStrip := false, staged := false, tiles := tiles,
    pinned := pinned, ran := true, arrayPct := 0, levels := [0, 0, 0, 0, 0], perOpNs := 0, changed := none, changedEve := 0, barred := [],
    stamp := stamp, blocks := blocks }

/-- The signature's entry, when the table holds one. -/
def findSig (l : List SigEntry) (q : SigKey) : Option SigEntry := l.find? fun e => decide (e.key = q)

/-- State condition 3 fails: a pinned decomposition needs more tiles than the partition has (R86). -/
def State.pinFails (s : State) (c : Nat) (d : Descriptor) (q : SigKey) : Bool :=
  let k := s.partOfCtx c
  dPin d && (match findSig (s.part k).sigs q with
    | some e => decide (s.tilesOf k < e.tiles)
    | none => false)

/-- The least recently used entry. -/
def oldestSig (l : List SigEntry) : Option SigEntry :=
  l.foldl (fun m e =>
    match m with
    | none => some e
    | some x => if e.stamp < x.stamp then some e else some x) none

/-- The tiles of a partition note that a context runs passes on them (R416), which change what their accumulators and combine registers hold (R62). -/
def State.markTiles (s : State) (c k : Nat) : State :=
  let op := (s.ctx c).cnt.nextOp - 1
  let tiles := (s.stacks k).flatMap fun n => (s.integ.tiles.getD n []).map fun t => 16 * n + t
  { s with integ := { s.integ with
    used := tiles.foldl (fun u t =>
      let l := tabGet [] u t
      if l.any fun e => e.1 == c then u else tabPut [] u t (l ++ [(c, op)])) s.integ.used,
    passes := tiles.foldl (fun u t => tabPut 0 u t (tabGet 0 u t + 1)) s.integ.passes } }

/-- A word of a tile's accumulators, by column, bank and row: 8 banks of 64 rows in each of 512 columns (R62). -/
def State.accumulator (s : State) (tile column bank row : Nat) : BitVec 32 := Config.tileWord (tabGet 0 s.integ.passes tile) column bank row

/-- Row `i` of the last 16 input rows that a tile keeps, `i` = 0 the latest (R415): what the passes fed it is the part's. -/
def State.inputRow (s : State) (tile : Nat) (i : Fin 16) : List Byte := Config.tileRow (tabGet 0 s.integ.passes tile) i

/-- The combine register of a column and row: the eight banks joined, 256 bits (R62). -/
def State.combineRegister (s : State) (tile column row : Nat) : BitVec 256 :=
  BitVec.ofNat 256 ((List.range 8).foldl (fun a b => a + (s.accumulator tile column b row).toNat * 2 ^ (32 * b)) 0)

/-- An array operation of a signature runs (R86): its decomposition is found, or the default created in the place of the least recently
used of 256; an unpinned operation makes the signature adaptable, and one that does not fit takes the default. -/
def State.useSig (s : State) (c : Nat) (d : Descriptor) (q : SigKey) (blocks : Nat) : State :=
  let k := s.partOfCtx c
  let p := s.part k
  let t := s.tilesOf k
  let stamp := p.sigs.foldl (fun m e => max m (e.stamp + 1)) 0
  match findSig p.sigs q with
  | some e =>
    let e1 := if !dPin d && decide (t < e.tiles) then sigDefault q blocks t stamp false
      else { e with ran := true, pinned := dPin d, stamp := stamp }
    (s.markTiles c k).setPart k { p with sigs := p.sigs.map fun x => if x.key = q then e1 else x }
  | none =>
    let base := if p.sigs.length < 256 then p.sigs else
      match oldestSig p.sigs with
      | some o => p.sigs.erase o
      | none => p.sigs
    (s.markTiles c k).setPart k { p with sigs := base ++ [sigDefault q blocks t stamp (dPin d)] }

/-- The level that alone is saturated, 90 % or more, with its neighbours idle, 50 % or less (R83, R84). -/
def soleLevel (l : List Nat) : Option Nat :=
  let sat := (List.range 5).filter fun i => decide (90 ≤ l.getD i 0)
  match sat with
  | [i] => if (i = 0 ∨ l.getD (i - 1) 0 ≤ 50) ∧ (i = 4 ∨ l.getD (i + 1) 0 ≤ 50) then some i else none
  | _ => none

/-- The change R84 makes for a saturated level: strip height one way or back, the band axis that has the larger operand reused, panels staged. Row bands
reuse A (M × K) and column bands B (K × N) (DEDUCED, log 141). -/
def applyChange (e : SigEntry) (lv : Nat) : SigEntry :=
  if lv = 0 then { e with shortStrip := !e.shortStrip } else if lv = 1 then { e with byRows := if e.m512 = e.n512 then e.byRows else decide (e.n512 < e.m512) }
  else if lv = 2 then { e with staged := true } else e

/-- A change is taken back (R85). -/
def revertChange (e : SigEntry) (lv : Nat) : SigEntry :=
  if lv = 0 then { e with shortStrip := !e.shortStrip } else if lv = 1 then { e with byRows := !e.byRows } else if lv = 2 then { e with staged := false } else e

/-- A further change of a signature (R84, R85): none for a signature that keeps the array busy, for a level that has none, without the stack-cache space
that staging needs, while the change is barred, or where there is nothing to change. -/
def changeSig (room : Bool) (eve : Nat) (m : SigMeasure) (e : SigEntry) : SigEntry × Bool :=
  if 90 ≤ m.arrayPct then (e, false)
  else
    match soleLevel m.levels with
    | some lv =>
      if lv < 3 ∧ (lv ≠ 2 ∨ room) ∧ !(e.barred.any fun b => b.1 == lv && decide (eve < b.2)) ∧ applyChange e lv ≠ e then
        ({ applyChange e lv with changed := some lv, changedEve := eve }, true)
      else (e, false)
    | none => (e, false)

/-- The adaptation of one signature at the latch point of an Eve, by its number (R84 to R86): a pinned signature keeps its decomposition; a change that
did not pay is reverted and barred for 64 Eves, which is the one change of that latch point (DEDUCED, log 142); else at most one change is made. Answers the
entry and whether it changed. -/
def adaptSig (room : Bool) (eve : Nat) (ms : List SigMeasure) (ix : Nat) (e : SigEntry) : SigEntry × Bool :=
  match ms.find? fun m => m.entry == ix with
  | none => ({ e with ran := false }, false)
  | some m =>
    let now := { e with ran := false, arrayPct := m.arrayPct, levels := m.levels, perOpNs := m.perOpNs }
    if !e.ran then (e, false)
    else if e.pinned then ({ now with perOpNs := if e.changed.isSome then e.perOpNs else m.perOpNs }, false)
    else
      match e.changed with
      | some lv =>
        if m.perOpNs * 100 ≤ e.perOpNs * 98 then changeSig room eve m { now with changed := none }
        else ({ revertChange now lv with changed := none, barred := (e.barred.filter fun b => b.1 != lv) ++ [(lv, eve + 64)] }, true)
      | none => changeSig room eve m now

/-- The adaptation of every signature of a partition (R84); staging needs stack-cache space, which the part decides (log 36). -/
def State.adapt (s : State) (k : Nat) (ms : List SigMeasure) : State × Bool :=
  let p := s.part k
  let room := Config.freeNat s.freeIx % 2 == 0
  let r := (List.range p.sigs.length).map fun i => (p.sigs[i]?).map (adaptSig room p.eves ms i)
  let es := r.filterMap fun x => x
  let s1 := s.setPart k { p with sigs := es.map Prod.fst }
  ({ s1 with freeIx := s1.freeIx + 1 }, es.any Prod.snd)

end Sys2Proof.Machine
end

