-- ==== Sys2Proof/Machine/Slices.lean ====
section
/-! DEFINITION. Products of the slice class (R75 to R80): widths, slice counts, the represented values, and the correctly rounded and the
faithful result. -/

namespace Sys2Proof.Machine

/-- A row of A or a column of B cut into slices: e_max + 1, the represented integers, their signs, whether it holds a NaN or an infinity, and
whether its width exceeds 8 × s_max. -/
structure SliceVec where
  alpha : Option Int
  xs : List Int
  neg : List Bool
  special : Bool
  wide : Bool
deriving DecidableEq, Repr

/-- The binary exponents of the finite nonzero elements (R75). -/
def expsOf (l : List Num) : List Int :=
  l.filterMap fun v =>
    match v with
    | .fin _ m e => if m = 0 then none else some (e + (log2n m : Int))
    | _ => none

/-- e_max of a list of exponents. -/
def maxInt (l : List Int) : Option Int := l.foldl (fun m x => some (match m with | none => x | some y => max x y)) none

/-- e_min. -/
def minInt (l : List Int) : Option Int := l.foldl (fun m x => some (match m with | none => x | some y => min x y)) none

/-- Significand bits p of the slice formats. -/
def slicePrec (c : Nat) : Nat := if c = cFp32 then 24 else 53

/-- s_max. -/
def sliceMax (c : Nat) : Nat := if c = cFp32 then 6 else 12

/-- The width of a row or column (R75). -/
def widthOf (c : Nat) (l : List Num) : Nat :=
  match maxInt (expsOf l), minInt (expsOf l) with
  | some a, some b => (a - b).toNat + slicePrec c
  | _, _ => 0

/-- The slice count of an operand (R75). -/
def sliceCount (c : Nat) (vs : List (List Num)) : Nat :=
  min (sliceMax c) (max ((slicePrec c + 7) / 8) ((vs.foldl (fun m v => max m (widthOf c v)) 0 + 7) / 8))

/-- A row or column represented with `s` slices relative to 2^(e_max + 1) (R75, R78); NaN and infinities are sliced as zero (R79). -/
def sliceVec (c s : Nat) (l : List Num) : SliceVec :=
  let alpha := (maxInt (expsOf l)).map fun x => x + 1
  { alpha := alpha,
    xs := (match alpha with
      | none => l.map fun _ => (0 : Int)
      | some a => l.map fun v =>
        match v with
        | .fin n m e => roundInt n m (e - a + 8 * s)
        | _ => (0 : Int)),
    neg := l.map Num.sign,
    special := l.any fun v => !v.isFin, wide := decide (8 * sliceMax c < widthOf c l) }

/-- Σ x × y. -/
def dotInt (a b : List Int) : Int := (List.zipWith (· * ·) a b).foldl (· + ·) 0

/-- Slice `p`, 1 the most significant, of a magnitude of `s` slices. -/
def sliceAt (s p x : Nat) : Nat := bitsOf x (8 * (s - p)) 8

/-- The slice pairs of the faithful mode: p ≤ s_A, q ≤ s_B, p + q ≤ max s_A s_B + 1 (R77). -/
def faithfulPairs (sa sb : Nat) : List (Nat × Nat) :=
  (List.range sa).flatMap fun p => ((List.range sb).filter fun q => decide (p + q + 2 ≤ max sa sb + 1)).map fun q => (p + 1, q + 1)

/-- SLICE_COUNT (R76, R77). -/
def slicesReported (faithful : Bool) (sa sb : Nat) : Nat := if faithful then (faithfulPairs sa sb).length else sa * sb

/-- The computed pairs of one term. -/
def partialTerm (sa sb : Nat) (x y : Int) : Int :=
  let t : Nat := (faithfulPairs sa sb).foldl (fun a pq =>
    a + sliceAt sa pq.1 x.natAbs * sliceAt sb pq.2 y.natAbs * 2 ^ (8 * (sa - pq.1) + 8 * (sb - pq.2))) 0
  if decide (x < 0) != decide (y < 0) then -(t : Int) else t

/-- The largest encoding without sign whose value is at most m × 2^e. -/
def codeFloor (c m : Nat) (e : Int) : Nat :=
  if m = 0 then 0
  else
    let l := fltLayout c
    let q0 : Int := 1 - (l.2.2 : Int) - l.2.1
    let q := max q0 (e + (log2n m : Int) - l.2.1)
    (q - q0).toNat * 2 ^ l.2.1 + (if 0 ≤ e - q then m * 2 ^ (e - q).toNat else m / 2 ^ (q - e).toNat)

/-- m × 2^e is the value of an encoding. -/
def codeExact (c m : Nat) (e : Int) : Bool :=
  let l := fltLayout c
  let q0 : Int := 1 - (l.2.2 : Int) - l.2.1
  let q := max q0 (e + (log2n m : Int) - l.2.1)
  m == 0 || decide (0 ≤ e - q) || m % 2 ^ (q - e).toNat == 0

/-- The signed encoding of the largest finite value at most v × 2^e. -/
def floorIdx (c : Nat) (v : Int) (e : Int) : Int :=
  if 0 ≤ v then codeFloor c v.natAbs e else -((codeFloor c v.natAbs e + (if codeExact c v.natAbs e then 0 else 1) : Nat) : Int)

/-- The signed encoding of the smallest finite value at least v × 2^e. -/
def ceilIdx (c : Nat) (v : Int) (e : Int) : Int := -(floorIdx c (-v) e)

/-- The value of a signed encoding; a zero takes the given sign. -/
def idxVal (c : Nat) (k : Int) (zeroNeg : Bool) : Num :=
  if k = 0 then .fin zeroNeg 0 0 else if k < 0 then (decodeFlt c false k.natAbs).negate else decodeFlt c false k.natAbs

/-- Every term of represented values is −0 (R78, R102): a value that rounds to zero at the last slice keeps its sign. -/
def termsNegZero (a b : SliceVec) : Bool :=
  !a.xs.isEmpty && (List.zipWith (fun (p q : Int × Bool) => (p.1 == 0 || q.1 == 0) && p.2 != q.2) (a.xs.zip a.neg) (b.xs.zip b.neg)).all id

/-- The result of one output element of a slice product (R76 to R79, R109). -/
def sliceElem (c : Nat) (faithful : Bool) (sa sb : Nat) (a b : SliceVec) (terms : List Num) : Num :=
  if a.special || b.special then sumExact terms
  else
    match a.alpha, b.alpha with
    | some al, some be =>
      let e := al + be - 8 * sa - 8 * sb
      let zeroNeg := termsNegZero a b
      let exact := dotInt a.xs b.xs
      let rounded := fun (v : Int) => if v = 0 then Num.fin zeroNeg 0 0 else roundTo c (ofInt v e false)
      if !faithful then rounded exact
      else
        let s := max sa sb
        let part := (List.zipWith (partialTerm sa sb) a.xs b.xs).foldl (· + ·) 0
        let ee := al + be - 8 * s + 1
        let q := min e ee
        let p := part * 2 ^ (e - q).toNat
        let err : Int := ((s - 1) * a.xs.length : Nat) * 2 ^ (ee - q).toNat
        let top : Int := maxCode c
        let lo := max (ceilIdx c (p - err) q) (-top)
        let hi := min (floorIdx c (p + err) q) top
        if hi < lo then rounded part
        else if lo = hi then idxVal c lo (if part = 0 then zeroNeg else decide (part < 0))
        else rounded exact
    | _, _ => sumExact terms

end Sys2Proof.Machine
end

