-- ==== Sys2Proof/Machine/Products.lean ====
section
/-! DEFINITION. `MATMUL`, `BATCHED_MATMUL` and `RAGGED_MATMUL` (R64 to R72, R108 to R112): their checks, the canonical reduction order,
the epilogue, and what they write. -/

namespace Sys2Proof.Machine

def isSlice (c : Nat) : Bool := c == cFp32 || c == cFp64

/-- The K-block of a format's class (R60). -/
def kBlock (c : Nat) : Nat := if ([0x01, 0x02, 0x10, 0x20, 0x30, 0x31, 0x32] : List Nat).contains c then 512 else 128

/-- A dimension outside 1 to 2^31. -/
def badDim (d : Descriptor) (lo : Nat) : Bool × Nat := (fld d lo (lo + 31) == 0 || decide (2 ^ 31 < fld d lo (lo + 31)), lo)

/-- A 48-bit stride that is not a multiple of 64. -/
def badLd (d : Descriptor) (lo : Nat) : Bool × Nat := (fld d lo (lo + 47) % 64 != 0, lo)

/-- A 64-bit stride that is not a multiple of 64. -/
def badStride (d : Descriptor) (lo : Nat) : Bool × Nat := (fld d lo (lo + 63) % 64 != 0, lo)

def prodBase : List (Nat × Nat) :=
  [(128, 191), (192, 255), (256, 319), (320, 383), (384, 447), (448, 511), (512, 575), (576, 639), (640, 703), (704, 735), (736, 767),
   (768, 799), (800, 847), (848, 895), (896, 943), (944, 991), (992, 999), (1000, 1007), (1008, 1015), (1016, 1023), (1024, 1031),
   (1032, 1036), (1040, 1047), (1056, 1087), (1088, 1119)]

/-- The fields of a product body (R69). -/
def prodFields (op : Nat) : List (Nat × Nat) :=
  if op = 2 then prodBase ++ [(1152, 1183), (1184, 1247), (1248, 1311), (1312, 1375), (1376, 1439), (1440, 1503), (1504, 1567), (1568, 1631)]
  else if op = 3 then prodBase ++ [(1248, 1311), (1504, 1567), (1632, 1695), (1696, 1708), (1709, 1709)]
  else prodBase

def pM (d : Descriptor) : Nat := fld d 704 735
def pN (d : Descriptor) : Nat := fld d 736 767
def pK (d : Descriptor) : Nat := fld d 768 799
def pAFmt (d : Descriptor) : Nat := fld d 992 999
def pBFmt (d : Descriptor) : Nat := fld d 1000 1007
def pDFmt (d : Descriptor) : Nat := fld d 1008 1015
def pResid (d : Descriptor) : Nat := fld d 384 447
def pBias (d : Descriptor) : Nat := fld d 320 383
def pColscale (d : Descriptor) : Nat := fld d 448 511

/-- Matrix `b` of A as stored (R69, R71, R93). -/
def pA (d : Descriptor) (b : Nat) : Mat :=
  let st := if dOpcode d = 2 then b else 0
  matOf (fld d 128 191 + st * fld d 1184 1247) (fld d 800 847) (pAFmt d) (fld d 512 575 + st * fld d 1440 1503) (flag d 1032)
    (if flag d 1032 then pM d else pK d)

/-- Matrix `b` of B as stored. -/
def pB (d : Descriptor) (b : Nat) : Mat :=
  let st := if dOpcode d = 2 ∨ (dOpcode d = 3 ∧ flag d 1709) then b else 0
  matOf (fld d 192 255 + st * fld d 1248 1311) (fld d 848 895) (pBFmt d) (fld d 576 639 + st * fld d 1504 1567) (!flag d 1033)
    (if flag d 1033 then pK d else pN d)

/-- Matrix `b` of D. -/
def pD (d : Descriptor) (b : Nat) : Mat :=
  let st := if dOpcode d = 2 then b else 0
  matRows (fld d 256 319 + st * fld d 1312 1375) (fld d 896 943) (pDFmt d) (fld d 640 703 + st * fld d 1568 1631) (pN d)

/-- Matrix `b` of the residual. -/
def pR (d : Descriptor) (b : Nat) : Mat :=
  let st := if dOpcode d = 2 then b else 0
  matRows (pResid d + st * fld d 1376 1439) (fld d 944 991) (fld d 1016 1023) 0 (pN d)

/-- A row of `n` values stored by itself. -/
def vecMat (addr fmt n : Nat) : Mat := matRows addr 0 fmt 0 n

def pBiasMat (d : Descriptor) : Mat := vecMat (pBias d) (fld d 1024 1031) (pN d)
def pColMat (d : Descriptor) : Mat := vecMat (pColscale d) (if pAFmt d = cFp64 then cFp64 else cFp32) (pN d)

def pARows (d : Descriptor) : Nat := if flag d 1032 then pK d else pM d
def pBRows (d : Descriptor) : Nat := if flag d 1033 then pN d else pK d

/-- How many matrices a product has of A and D, and of B. -/
def pBatch (d : Descriptor) : Nat := if dOpcode d = 2 then fld d 1152 1183 else 1
def pBCount (d : Descriptor) : Nat := if dOpcode d = 3 ∧ flag d 1709 then fld d 1696 1708 else pBatch d

/-- D may coincide with the residual (R70); of a batch, every pair coincides only when the batch strides are equal too (DESIGN CHOICE,
log 130). -/
def residInPlace (d : Descriptor) : Bool :=
  pResid d == fld d 256 319 && fld d 944 991 == fld d 896 943 && fld d 1016 1023 == pDFmt d &&
    (decide (pBatch d ≤ 1) || fld d 1376 1439 == fld d 1312 1375)

/-- A dimension field is in range. -/
def dimOk (d : Descriptor) (lo : Nat) : Bool := !(badDim d lo).1

/-- BATCH is in range, or the operation has none. -/
def batchOk (d : Descriptor) : Bool := dOpcode d != 2 || (fld d 1152 1183 != 0 && decide (fld d 1152 1183 ≤ 65535))

/-- SEQ_COUNT is in range. -/
def seqCountOk (d : Descriptor) : Bool := fld d 1696 1708 != 0 && decide (fld d 1696 1708 ≤ 4096)

/-- The extents of D and its scales (R70): one for each matrix of a batch, the gaps between its rows included and those between matrices left out
(DESIGN CHOICE, log 131). -/
def pOuts (d : Descriptor) : List (Nat × Nat) := (List.range (pBatch d)).flatMap fun b => (pD d b).whole (pM d)

/-- The extents of every input but the residual (R70), of those whose own format, dimensions and counts are in range: a check is judged when the fields it
reads itself are (R22). -/
def pIns (d : Descriptor) : List (Nat × Nat) :=
  (if fmtLegal (pAFmt d) && dimOk d 704 && dimOk d 768 then (List.range (pBatch d)).flatMap fun b => (pA d b).whole (pARows d) else []) ++
    (if fmtLegal (pBFmt d) && dimOk d 736 && dimOk d 768 && (dOpcode d != 3 || !flag d 1709 || seqCountOk d) then
       (List.range (pBCount d)).flatMap fun b => (pB d b).whole (pBRows d)
     else []) ++
    (if pBias d ≠ 0 ∧ fmtLegal (fld d 1024 1031) ∧ dimOk d 736 then (pBiasMat d).whole 1 else []) ++
    (if pColscale d ≠ 0 ∧ fmtLegal (pAFmt d) ∧ dimOk d 736 then (pColMat d).whole 1 else []) ++
    (if dOpcode d = 3 ∧ seqCountOk d then [(fld d 1632 1695, 8 * fld d 1696 1708)] else [])

def pResidExt (d : Descriptor) : List (Nat × Nat) :=
  if pResid d = 0 then [] else (List.range (pBatch d)).flatMap fun b => (pR d b).whole (pM d)

/-- The checks of one field (R70, R91, R112). R91 exempts no format field, so RESID_FMT and BIAS_FMT hold a legal code also where
their address is zero (DEDUCED, log 129). -/
def prodFieldChecks (d : Descriptor) : List (Bool × Nat) :=
  let op := dOpcode d
  let resid := pResid d != 0
  let bias := pBias d != 0
  let i32 := pDFmt d == 0x04
  [badDim d 704, badDim d 736, badDim d 768, (!fmtOperand (pAFmt d), 992), (!fmtOperand (pBFmt d), 1000), (!fmtLegal (pDFmt d), 1008),
   (!fmtLegal (fld d 1016 1023), 1016), (!fmtLegal (fld d 1024 1031), 1024),
   (resid && fmtBlock (fld d 1016 1023), 384), (bias && fmtBlock (fld d 1024 1031), 320),
   badAddr d 128 64, badAddr d 192 64, badAddr d 256 64, badAddr d 320 64, badAddr d 384 64, badAddr d 448 64, badAddr d 512 64,
   badAddr d 576 64, badAddr d 640 64, badLd d 800, badLd d 848, badLd d 896, badLd d 944,
   badScale d 512 (pAFmt d), badScale d 576 (pBFmt d), badScale d 640 (pDFmt d),
   ((flag d 1034 && !isSlice (pAFmt d)) || (fld d 1040 1043 != 0 && isSlice (pAFmt d)) || (pDFmt d == cFp64 && pAFmt d != cFp64) ||
     (i32 && !fmtInt (pAFmt d)), 992),
   (i32 && (fld d 1056 1087 != 0x3F800000 || fld d 1040 1043 != 0 || flag d 1035 || flag d 1036), 1008),
   (i32 && pColscale d != 0, 448), (i32 && bias, 320), (i32 && resid, 384)] ++
  (if op = 2 then
     [(fld d 1152 1183 == 0 || decide (65535 < fld d 1152 1183), 1152), badStride d 1184, badStride d 1248, badStride d 1312, badStride d 1376,
      badStride d 1440, badStride d 1504, badStride d 1568]
   else []) ++
  (if op = 3 then
     [(fld d 1696 1708 == 0 || decide (4096 < fld d 1696 1708), 1696), badStride d 1248, badStride d 1504, badAddr d 1632 64]
   else [])

/-- A stride is shorter than `n` elements of a format; a code that names no format gives no row to be shorter than. -/
def shortRow (ld fmt n : Nat) : Bool := fmtLegal fmt && decide (ld < rowBytes fmt n)

/-- The fields from which the extents of D follow are in range (R70). -/
def prodExtentsKnown (d : Descriptor) : Bool := fmtLegal (pDFmt d) && dimOk d 704 && dimOk d 736 && batchOk d

/-- The checks that read several fields: strides shorter than a row, and overlaps (R70, R71). Each is judged when the fields it reads itself are
in range (R22). The overlap of D with the inputs is one check, and so is that with the residual (log 41). -/
def prodRelationChecks (d : Descriptor) : List (Bool × Nat) :=
  [(shortRow (fld d 800 847) (pAFmt d) (pA d 0).cols, if flag d 1032 then 704 else 768),
   (shortRow (fld d 848 895) (pBFmt d) (pB d 0).cols, if flag d 1033 then 768 else 736),
   (shortRow (fld d 896 943) (pDFmt d) (pN d), 736),
   (pResid d != 0 && shortRow (fld d 944 991) (fld d 1016 1023) (pN d), 736),
   (dOpcode d == 2 && decide (fld d 1312 1375 < pM d * fld d 896 943), 704),
   (prodExtentsKnown d && meet (pOuts d) (pIns d), 128),
   (prodExtentsKnown d && fmtLegal (fld d 1016 1023) && !residInPlace d && meet (pOuts d) (pResidExt d), 256)]

/-- BAD_FIELD of a product, but for its sequence table. -/
def prodBadField (d : Descriptor) : Reject := badField (prodFieldChecks d ++ prodRelationChecks d)

/-- One product of an operation: its BATCH in trap records, its matrices, and its rows of A and D. -/
structure Job where
  key : Nat
  b : Nat
  row0 : Nat
  rows : Nat
deriving DecidableEq, Repr

/-- Entry `i` of a sequence table of 8-byte entries: OFFSET and LENGTH (R72). -/
def State.seqEntries (s : State) (c va n : Nat) : List (Nat × Nat) :=
  (List.range n).map fun i => (s.rdVNat c (va + 8 * i) 4, s.rdVNat c (va + 8 * i + 4) 4)

/-- Ranges in ascending order of OFFSET that share no row and end within `m` (R72); the last OFFSET was `lo` and the rows before `top` may be
taken. An empty range has no row to share. -/
def rangesFrom (m : Nat) : Nat → Nat → List (Nat × Nat) → Bool
  | _, _, [] => true
  | lo, top, (o, n) :: r => decide (lo ≤ o) && (n == 0 || decide (top ≤ o)) && decide (o + n ≤ m) && rangesFrom m o (max top (o + n)) r

def rangesOk (m : Nat) (l : List (Nat × Nat)) : Bool := rangesFrom m 0 0 l

/-- The products of an operation (R71, R72). -/
def State.prodJobs (s : State) (c : Nat) (d : Descriptor) : List Job :=
  if dOpcode d = 3 then
    let es := s.seqEntries c (fld d 1632 1695) (fld d 1696 1708)
    ((List.range es.length).map fun i => (⟨i, i, (es.getD i (0, 0)).1, (es.getD i (0, 0)).2⟩ : Job)).filter fun j => j.rows != 0
  else (List.range (pBatch d)).map fun b => ⟨b, b, 0, pM d⟩

/-- The memory one product reads and writes. -/
def jobExtents (d : Descriptor) (j : Job) : List (Nat × Nat × Nat) :=
  (if flag d 1032 then (pA d j.b).readExtents 0 (pK d) j.row0 j.rows else (pA d j.b).readExtents j.row0 j.rows 0 (pK d)) ++
    (pB d j.b).readExtents 0 (pBRows d) 0 (pB d j.b).cols ++
    (if pResid d = 0 then [] else (pR d j.b).readExtents j.row0 j.rows 0 (pN d)) ++ (pD d j.b).writeExtents j.row0 j.rows

/-- The memory an operation reads and writes. -/
def prodExtents (x : Ctx) (d : Descriptor) (js : List Job) : List (Nat × Nat × Nat) :=
  histExtents x (flag d 1036) (fld d 1044 1047) ++ (if pBias d = 0 then [] else (pBiasMat d).readExtents 0 1 0 (pN d)) ++
    (if pColscale d = 0 then [] else (pColMat d).readExtents 0 1 0 (pN d)) ++ js.flatMap (jobExtents d)

/-- The rows of A of a product. -/
def State.jobA (s : State) (c : Nat) (d : Descriptor) (j : Job) : List (List Num) :=
  if flag d 1032 then transpose Num.zero j.rows (s.readRect c (pA d j.b) 0 (pK d) j.row0 j.rows)
  else s.readRect c (pA d j.b) j.row0 j.rows 0 (pK d)

/-- The columns of B of a product. -/
def State.jobB (s : State) (c : Nat) (d : Descriptor) (j : Job) : List (List Num) :=
  if flag d 1033 then s.readRect c (pB d j.b) 0 (pN d) 0 (pK d)
  else transpose Num.zero (pN d) (s.readRect c (pB d j.b) 0 (pK d) 0 (pN d))

/-- One K-block: the exact sum of its terms, rounded once to FP32 (R64, R109). -/
def blockSum (terms : List Num) : Num := rnd32 (sumExact terms)

/-- Running additions in ascending block order (R64). -/
def runBlocks (parts : List Num) : Num :=
  match parts with
  | [] => Num.zero
  | p :: r => r.foldl (fun a b => rnd32 (a.add b)) p

/-- The canonical dot product (R64). -/
def dotCanon (kb : Nat) (a b : List Num) : Num := runBlocks ((chunks kb (List.zipWith Num.mul a b)).map blockSum)

/-- An exact value that is an integer. -/
def intOf : Num → Int
  | .fin n m e => atExp n m e 0
  | _ => 0

/-- Saturating INT32 accumulation of exact block sums (R65, R111): the value, and whether an addition left the range. -/
def dotInt32 (kb : Nat) (a b : List Num) : Int × Bool :=
  match (chunks kb (List.zipWith Num.mul a b)).map fun t => intOf (sumExact t) with
  | [] => (0, false)
  | p :: r => r.foldl (fun (acc : Int × Bool) x =>
      let v := acc.1 + x
      if v < -(2 ^ 31 : Int) then (-(2 ^ 31 : Int), true) else if (2 ^ 31 - 1 : Int) < v then ((2 ^ 31 - 1 : Int), true) else (v, acc.2)) (p, false)

/-- The operands of the epilogue for one element. -/
structure EpiIn where
  alpha : Num
  colscale : Option Num
  bias : Option Num
  resid : Option Num
  fn : Nat
  param : Num

/-- The epilogue's stages SCALE to RESIDUAL (R67), in the working precision `wp`. -/
def epilogue (wp : Nat) (x : Num) (p : EpiIn) : Num :=
  let x1 := roundTo wp (x.mul p.alpha)
  let x2 := match p.colscale with
    | some v => roundTo wp (x1.mul v)
    | none => x1
  let x3 := match p.bias with
    | some v => roundTo wp (x2.add (roundTo wp v))
    | none => x2
  let x4 := if p.fn = 0 then x3 else activation p.fn p.param x3
  match p.resid with
  | some v => roundTo wp (x4.add (roundTo wp v))
  | none => x4

/-- The inputs of the epilogue that an element depends on. -/
def EpiIn.inputs (p : EpiIn) : List Num :=
  [p.alpha] ++ p.colscale.toList ++ p.bias.toList ++ p.resid.toList ++ (if p.fn = 2 ∨ p.fn = 11 then [p.param] else [])

/-- An output element before CONVERT: its value with what it depends on, whether INT32 accumulation saturated, and whether its row or
column exceeds the exponent spread. -/
structure OutElem where
  e : Elem
  sat : Bool
  spread : Bool

/-- An operand vector with what the rules ask of it. -/
structure OpVec where
  l : List Num
  anyNan : Bool
  allFin : Bool
  sv : SliceVec

/-- An operand vector; slices are formed for the slice class only. -/
def opVec (fmt slices : Nat) (l : List Num) : OpVec :=
  ⟨l, l.any Num.isNan, l.all Num.isFin, if isSlice fmt then sliceVec fmt slices l else ⟨none, [], [], false, false⟩⟩

/-- One output element of a product (R64, R65, R76 to R79), through the epilogue. -/
def prodElem (d : Descriptor) (sa sb : Nat) (a b : OpVec) (p : EpiIn) : OutElem :=
  let f := pAFmt d
  if pDFmt d = 0x04 then
    let r := dotInt32 (kBlock f) a.l b.l
    ⟨⟨ofInt r.1 0 false, false, true⟩, r.2, false⟩
  else
    let x := if isSlice f then sliceElem f (!flag d 1034) sa sb a.sv b.sv (List.zipWith Num.mul a.l b.l) else dotCanon (kBlock f) a.l b.l
    let ins := p.inputs
    ⟨⟨epilogue (if isSlice f then f else cFp32) x p, a.anyNan || b.anyNan || ins.any Num.isNan, a.allFin && b.allFin && ins.all Num.isFin⟩,
      false, isSlice f && (a.sv.wide || b.sv.wide)⟩

/-- One row of an operand's values, when the operation has it. -/
def State.optRow (s : State) (c : Nat) (m : Mat) (has : Bool) : Option (List Num) := if has then some (s.readRow c m 0 0 m.cols) else none

/-- Element `j` of an optional row. -/
def optAt (l : Option (List Num)) (j : Nat) : Option Num := l.map fun r => r.getD j Num.zero

/-- The output elements of one product, with `sa` and `sb` slices. -/
def State.jobOut (s : State) (c : Nat) (d : Descriptor) (j : Job) (sa sb : Nat) : List (List OutElem) :=
  let as := (s.jobA c d j).map (opVec (pAFmt d) sa)
  let bs := (s.jobB c d j).map (opVec (pAFmt d) sb)
  let cs := s.optRow c (pColMat d) (pColscale d != 0)
  let bi := s.optRow c (pBiasMat d) (pBias d != 0)
  (List.range as.length).map fun i =>
    let rr := if pResid d = 0 then none else some (s.readRow c (pR d j.b) (j.row0 + i) 0 (pN d))
    (List.range bs.length).map fun n =>
      prodElem d sa sb (as.getD i ⟨[], false, true, ⟨none, [], [], false, false⟩⟩) (bs.getD n ⟨[], false, true, ⟨none, [], [], false, false⟩⟩)
        { alpha := fp32 (fld d 1056 1087), colscale := optAt cs n, bias := optAt bi n, resid := optAt rr n, fn := fld d 1040 1043,
          param := fp32 (fld d 1088 1119) }

/-- The slice counts of a product (R75). Each product of a batch, and each sequence with its own B, has its own; sequences that share
one B are one product of all their rows (R71, R72; DEDUCED, log 37). -/
def State.jobSlices (s : State) (c : Nat) (d : Descriptor) (js : List Job) (j : Job) : Nat × Nat :=
  if isSlice (pAFmt d) then
    let rows := if dOpcode d = 3 ∧ !flag d 1709 then js.flatMap (s.jobA c d) else s.jobA c d j
    (sliceCount (pAFmt d) rows, sliceCount (pAFmt d) (s.jobB c d j))
  else (0, 0)

/-- CONVERT: the element times the output scale (R67). -/
def OutElem.scaled (o : OutElem) (e : Int) : Elem := { o.e with v := o.e.v.scale e }

/-- The written elements of one product, with the flags that INT32 saturation and the exponent spread add. -/
def jobTally (j : Job) (outs : List (List OutElem)) (ws : List (List Written)) : Tally :=
  (List.range ws.length).foldl (fun t i =>
    let wr := ws.getD i []
    let er := outs.getD i []
    (List.range wr.length).foldl (fun u n =>
      let o := er.getD n ⟨Elem.zero, false, false⟩
      let w := wr.getD n Written.zero
      u.join (tallyElem 0 j.key (j.row0 + i) n { w with ovf := w.ovf || o.sat } o.spread)) t) Tally.empty

/-- Computes and writes the products of a valid operation (R67: AMAX, then CONVERT). The amax, and with it the output scale it gives, is of the
whole operation (DESIGN CHOICE, log 132). -/
def State.prodWrite (s : State) (c : Nat) (d : Descriptor) (js : List Job) : State × FlightSt :=
  let x := s.ctx c
  let t := fld d 1044 1047
  let sl := js.map fun j => (j, s.jobSlices c d js j)
  let outs := sl.map fun q => (q.1, s.jobOut c d q.1 q.2.1 q.2.2)
  let own := amaxOf (outs.flatMap fun o => o.2.flatMap fun r => r.map fun y => y.e.v)
  let e := if flag d 1036 then s.outScale c t (pDFmt d) own else 0
  let wr := outs.map fun o => (o.1, o.2, (pD d o.1.b).writeRows o.1.row0 (o.2.map fun r => r.map fun y => y.scaled e))
  let tally := wr.foldl (fun a w => a.join (jobTally w.1 w.2.1 w.2.2.2)) Tally.empty
  let slices := sl.foldl (fun m q => max m (if isSlice (pAFmt d) then slicesReported (!flag d 1034) q.2.1 q.2.2 else 0)) 0
  let after := { afterTally x tally with
    amax := if flag d 1035 then some (t, BitVec.ofNat 32 (toFp32 own)) else none,
    scale := if flag d 1036 then s.scaleHead c t e else none }
  (wr.foldl (fun u w => u.wrVAll c w.2.2.1) s, .computed (tally.result slices) after)

/-- The signature of a product (R83): its formats are those of its operands and its output (DESIGN CHOICE, log 133). -/
def prodSig (d : Descriptor) : SigKey :=
  ⟨dOpcode d, pAFmt d + 256 * pDFmt d, roundUp (pM d) 512, roundUp (pN d) 512, roundUp (pK d) 512, if dOpcode d = 2 then pBatch d else 0,
    if dOpcode d = 3 then fld d 1696 1708 else 0⟩

/-- The output blocks of a product (R62, R86): 512 columns and 512 rows, or 64 rows in the slice class, of each matrix of a batch and each sequence; sequences
that share one B are one product of all their rows (R72). -/
def prodBlocks (d : Descriptor) (js : List Job) : Nat :=
  let rb := if isSlice (pAFmt d) then 64 else 512
  let cols := (pN d + 511) / 512
  if dOpcode d = 3 ∧ !flag d 1709 then ((js.map Job.rows).sum + rb - 1) / rb * cols
  else (js.map fun j => (j.rows + rb - 1) / rb * cols).sum

/-- The checks after those of the sequence table, and the product itself. -/
def State.prodRun (s : State) (c ix : Nat) (d : Descriptor) : State × FlightSt :=
  match (mismatch (pAFmt d) (pBFmt d)).orElse (if s.pinFails c d (prodSig d) then some (0x0410, 3) else none) with
  | some r => rejected s r
  | none =>
    let js := s.prodJobs c d
    match s.prepAll c (prodExtents (s.ctx c) d js) with
    | (s1, some (acc, h)) => s1.opFault c ix acc h
    | (s1, none) => (s1.useSig c d (prodSig d) (prodBlocks d js)).prodWrite c d js

/-- A product operation taken (R22, R70 to R72). -/
def runProduct : RunOp := fun s c ix d =>
  match (headerCheck d (prodFields (dOpcode d))).orElse (prodBadField d) with
  | some r => rejected s r
  | none =>
    if dOpcode d = 3 then
      match s.prep c accRead (fld d 1632 1695) (8 * fld d 1696 1708) with
      | (s1, some h) => s1.opFault c ix accRead h
      | (s1, none) =>
        if rangesOk (pM d) (s1.seqEntries c (fld d 1632 1695) (fld d 1696 1708)) then s1.prodRun c ix d else rejected s1 (0x0104, 1632)
    else s.prodRun c ix d

/-- `MATMUL` taken. -/
def execMatmul (p : Fin 8) (s : State) : Res := .next (s.takeOp p 0x01 runProduct)

/-- `BATCHED_MATMUL` taken. -/
def execBatchedMatmul (p : Fin 8) (s : State) : Res := .next (s.takeOp p 0x02 runProduct)

/-- `RAGGED_MATMUL` taken. -/
def execRaggedMatmul (p : Fin 8) (s : State) : Res := .next (s.takeOp p 0x03 runProduct)

end Sys2Proof.Machine
end

