-- ==== Sys2Proof/Machine/Attention.lean ====
section
/-! DEFINITION. `ATTENTION` (R73, R74): its checks, the two products with the contract exponential between them, and what it writes. -/

namespace Sys2Proof.Machine

def attnFields : List (Nat × Nat) :=
  [(128, 191), (192, 255), (256, 319), (320, 383), (384, 447), (448, 511), (512, 575), (576, 639), (640, 703), (704, 767), (768, 780),
   (784, 791), (792, 799), (800, 807), (808, 815), (816, 817), (832, 847), (848, 863), (864, 879), (896, 943), (944, 991), (992, 1039),
   (1040, 1087), (1088, 1119)]

def tHeads (d : Descriptor) : Nat := fld d 832 847
def tKvHeads (d : Descriptor) : Nat := fld d 848 863
def tDim (d : Descriptor) : Nat := fld d 864 879
def tQFmt (d : Descriptor) : Nat := fld d 784 791
def tVFmt (d : Descriptor) : Nat := fld d 800 807
def tMode (d : Descriptor) : Nat := fld d 816 817
def tLse (d : Descriptor) : Nat := fld d 448 511

/-- Queries, keys, values and output as stored (R73, R93). -/
def tQ (d : Descriptor) : Mat := ⟨fld d 128 191, fld d 896 943, tQFmt d, fld d 512 575, false, tHeads d * tDim d, tDim d⟩
def tK (d : Descriptor) : Mat := ⟨fld d 192 255, fld d 944 991, tQFmt d, fld d 576 639, false, tKvHeads d * tDim d, tDim d⟩
def tV (d : Descriptor) : Mat := matOf (fld d 256 319) (fld d 992 1039) (tVFmt d) (fld d 640 703) true (tKvHeads d * tDim d)
def tO (d : Descriptor) : Mat := matRows (fld d 320 383) (fld d 1040 1087) (fld d 808 815) 0 (tHeads d * tDim d)

/-- An address field with bits [63:56] set (R23). -/
def highAddr (d : Descriptor) (lo : Nat) : Bool × Nat := (decide (2 ^ 56 ≤ fld d lo (lo + 63)), lo)

/-- BAD_FIELD of an `ATTENTION`, but for its sequence table (R73, R91). The body has no scale address for O, so a block-scaled O_FMT
is refused (DEDUCED, log 40). R73 asks 64-byte alignment of SEQ_TABLE_ADDR alone (DESIGN CHOICE, log 146). -/
def attnBadField (d : Descriptor) : Reject :=
  badField
    [highAddr d 128, highAddr d 192, highAddr d 256, highAddr d 320, highAddr d 384, highAddr d 448, highAddr d 512, highAddr d 576,
     highAddr d 640, badAddr d 704 64, (fld d 768 780 == 0 || decide (4096 < fld d 768 780), 768), (!fmtOperand (tQFmt d), 784),
     (!fmtOperand (fld d 792 799), 792), (!fmtOperand (tVFmt d), 800), (!fmtLegal (fld d 808 815) || fmtBlock (fld d 808 815), 808),
     (tMode d == 3, 816), (tHeads d == 0 || decide (4096 < tHeads d), 832), (tKvHeads d == 0, 848),
     (tKvHeads d != 0 && (decide (tHeads d < tKvHeads d) || tHeads d % tKvHeads d != 0), 832),
     (tDim d == 0 || decide (1024 < tDim d), 864)]

/-- An entry of the sequence table, with the bit of the mask where its own begins (R73). -/
structure AttnSeq where
  key : Nat
  qOff : Nat
  qLen : Nat
  kOff : Nat
  kLen : Nat
  maskBit : Nat
deriving DecidableEq, Repr

/-- The sequence table, 16 bytes an entry. -/
def State.attnSeqs (s : State) (c : Nat) (d : Descriptor) : List AttnSeq :=
  let f := fun (i k : Nat) => s.rdVNat c (fld d 704 767 + 16 * i + 4 * k) 4
  ((List.range (fld d 768 780)).foldl (fun (a : List AttnSeq × Nat) i =>
    (a.1 ++ [(⟨i, f i 0, f i 1, f i 2, f i 3, a.2⟩ : AttnSeq)], a.2 + f i 1 * f i 3)) ([], 0)).1

/-- The mask bytes of a sequence. -/
def maskExtent (d : Descriptor) (q : AttnSeq) : Nat × Nat :=
  let b := q.maskBit / 8
  (fld d 384 447 + b, (q.maskBit + q.qLen * q.kLen + 7) / 8 - b)

/-- The memory a sequence reads and writes. The place of a query row's LSE is not stated: row by row, heads in order (DESIGN CHOICE,
log 39). -/
def attnExtents (d : Descriptor) (q : AttnSeq) : List (Nat × Nat × Nat) :=
  if q.qLen = 0 then []
  else
    (tQ d).readExtents q.qOff q.qLen 0 (tQ d).cols ++ (tK d).readExtents q.kOff q.kLen 0 (tK d).cols ++
      (tV d).readExtents q.kOff q.kLen 0 (tV d).cols ++
      (if tMode d = 2 ∧ q.kLen ≠ 0 then [(accRead, (maskExtent d q).1, (maskExtent d q).2)] else []) ++
      (tO d).writeExtents q.qOff q.qLen ++
      (if tLse d = 0 then [] else [(accWrite, tLse d + 4 * (q.qOff * tHeads d), 4 * (q.qLen * tHeads d))])

/-- Query row `r` of a sequence attends to key position `k` (R73). -/
def attends (d : Descriptor) (q : AttnSeq) (mask r k : Nat) : Bool :=
  if tMode d = 0 then true
  else if tMode d = 1 then decide (k + q.qLen ≤ r + q.kLen)
  else bitAt mask (q.maskBit % 8 + r * q.kLen + k)

/-- The K-block of a dot product over HEAD_DIM: that of the class; the slice class has none, and is exact over the whole reduction
(R60, R64; DEDUCED, log 38). -/
def headBlock (c len : Nat) : Nat := if isSlice c then max 1 len else kBlock c

/-- Probabilities converted to V_FMT, block scales from block maxima (R74). -/
def convertProbs (fmt : Nat) (l : List Num) : List Num :=
  let bl := blockLen fmt
  (chunks bl (l.map fun v => (⟨v, v.isNan, v.isFin⟩ : Elem))).flatMap (blockValues fmt)

/-- The blocks of 128 key positions of which some position is attended, in ascending order (R74). -/
def liveBlocks (att : List Bool) : List Nat :=
  (List.range ((att.length + 127) / 128)).filter fun b => ((att.drop (128 * b)).take 128).any id

/-- The terms of block `b`. -/
def blockTerms (b : Nat) (l : List Num) : List Num := (l.drop (128 * b)).take 128

/-- The output of one query row and head: its HEAD_DIM elements and its LSE (R74). `keys` and `vals` are the sequence's rows for the
head's key and value head. -/
def attnRow (d : Descriptor) (q : List Num) (keys vals : List (List Num)) (att : List Bool) : List Elem × Elem :=
  let scale := fp32 (fld d 1088 1119)
  let on := fun (k : Nat) => att.getD k false
  if !att.any id then (List.replicate (tDim d) Elem.zero, ⟨.inf true, false, false⟩)
  else
    let sc := keys.map fun key => rnd32 (scale.mul (dotCanon (headBlock (tQFmt d) (tDim d)) q key))
    let attended := (List.range sc.length).filter on
    let m := attended.foldl (fun (a : Num) k => a.max (sc.getD k .nan)) .nan
    let e := (List.range sc.length).map fun k => if on k then expC (rnd32 ((sc.getD k .nan).sub m)) else Num.zero
    let bs := liveBlocks att
    let l := runBlocks (bs.map fun b => blockSum (blockTerms b e))
    let p := convertProbs (tVFmt d) e
    let qNan := q.any Num.isNan || scale.isNan || attended.any fun k => (keys.getD k []).any Num.isNan
    let qFin := q.all Num.isFin && scale.isFin && attended.all fun k => (keys.getD k []).all Num.isFin
    let o := (List.range (tDim d)).map fun j =>
      let col := vals.map fun v => v.getD j Num.zero
      let used := bs.flatMap fun b => blockTerms b col
      let dot := runBlocks (bs.map fun b => blockSum (List.zipWith Num.mul (blockTerms b p) (blockTerms b col)))
      (⟨rnd32 (Num.div 60 dot l), qNan || used.any Num.isNan, qFin && used.all Num.isFin⟩ : Elem)
    (o, ⟨rnd32 (m.add (lnC l)), qNan, qFin⟩)

/-- One head's columns of a row. -/
def headOf (dim h : Nat) (row : List Num) : List Num := (row.drop (dim * h)).take dim

/-- The rows of one sequence: output elements and the LSE of each head with whether the head attended to anything. -/
def State.attnSeqOut (s : State) (c : Nat) (d : Descriptor) (q : AttnSeq) : List (List Elem × List (Elem × Bool)) :=
  let dim := tDim d
  let ks := s.readRect c (tK d) q.kOff q.kLen 0 (tK d).cols
  let vs := s.readRect c (tV d) q.kOff q.kLen 0 (tV d).cols
  let mask := if tMode d = 2 then s.rdVNat c (maskExtent d q).1 (maskExtent d q).2 else 0
  (List.range q.qLen).map fun r =>
    let qr := s.readRow c (tQ d) (q.qOff + r) 0 (tQ d).cols
    let att := (List.range q.kLen).map fun k => attends d q mask r k
    let hs := (List.range (tHeads d)).map fun h =>
      let kh := h / (tHeads d / tKvHeads d)
      attnRow d (headOf dim h qr) (ks.map (headOf dim kh)) (vs.map (headOf dim kh)) att
    (hs.flatMap Prod.fst, hs.map fun x => (x.2, att.any id))

/-- The tally of the LSE of one row (R138): an LSE of a head that attended to nothing is not counted. -/
def lseTally (key row : Nat) (l : List (Elem × Bool)) : Tally :=
  (List.range l.length).foldl (fun t h =>
    let y := l.getD h (Elem.zero, false)
    if y.2 then t.join (tallyElem 5 key row h (writePlain cFp32 y.1) false) else t) Tally.empty

/-- Computes and writes a valid `ATTENTION`. -/
def State.attnWrite (s : State) (c : Nat) (d : Descriptor) (qs : List AttnSeq) : State × FlightSt :=
  let outs := (qs.filter fun q => q.qLen != 0).map fun q => (q, s.attnSeqOut c d q)
  let wr := outs.map fun o => (o.1, o.2, (tO d).writeRows o.1.qOff (o.2.map Prod.fst))
  let tally := wr.foldl (fun t w =>
    let t1 := t.join (tallyRows 0 w.1.key w.1.qOff w.2.2.2)
    if tLse d = 0 then t1
    else (List.range w.2.1.length).foldl (fun u i => u.join (lseTally w.1.key (w.1.qOff + i) (w.2.1.getD i ([], [])).2)) t1) Tally.empty
  let s1 := wr.foldl (fun u w =>
    let u1 := u.wrVAll c w.2.2.1
    if tLse d = 0 then u1
    else u1.outV c (tLse d + 4 * (w.1.qOff * tHeads d)) (w.2.1.flatMap fun r => r.2.flatMap fun y => leBytes (toFp32 y.1.v) 4)) s
  (s1, .computed (tally.result 0) (afterTally (s.ctx c) tally))

/-- The signature of an `ATTENTION`: it has no M, N or K of its own (free values, log 36). -/
def attnSig (d : Descriptor) : SigKey :=
  let z := Config.attentionSize (tHeads d) (tKvHeads d) (tDim d)
  ⟨4, tQFmt d + 256 * tVFmt d, roundUp z.1 512, roundUp z.2.1 512, roundUp z.2.2 512, 0, fld d 768 780⟩

/-- The output blocks behind its default decomposition, of the same free sizes (log 36). -/
def attnBlocks (d : Descriptor) : Nat := max 1 (((attnSig d).m / 512) * ((attnSig d).n / 512))

/-- `ATTENTION` (R22, R73, R74). -/
def runAttention : RunOp := fun s c ix d =>
  match (headerCheck d attnFields).orElse (attnBadField d) with
  | some r => rejected s r
  | none =>
    match s.prep c accRead (fld d 704 767) (16 * fld d 768 780) with
    | (s1, some h) => s1.opFault c ix accRead h
    | (s1, none) =>
      let qs := s1.attnSeqs c d
      if !rangesOk (2 ^ 33) (qs.map fun q => (q.qOff, q.qLen)) then rejected s1 (0x0104, 704)
      else
        match (mismatch (tQFmt d) (fld d 792 799)).orElse (if s1.pinFails c d (attnSig d) then some (0x0410, 3) else none) with
        | some r => rejected s1 r
        | none =>
          match s1.prepAll c (qs.flatMap (attnExtents d)) with
          | (s2, some (acc, h)) => s2.opFault c ix acc h
          | (s2, none) => (s2.useSig c d (attnSig d) (attnBlocks d)).attnWrite c d qs

/-- `ATTENTION` taken. -/
def execAttention (p : Fin 8) (s : State) : Res := .next (s.takeOp p 0x04 runAttention)

end Sys2Proof.Machine
end

