-- ==== Sys2Proof/Machine/Plain.lean ====
section
/-! DEFINITION. The plain operations (R23 to R27): `COPY`, `ZERO`, `FENCE`, `EVE`, `WAIT`, `SIGNAL` and `TIMESTAMP`. -/

namespace Sys2Proof.Machine

/-- LENGTH of a plain operation lies outside 1 to 2^40 (R23). -/
def badLength (d : Descriptor) (lo : Nat) : Bool × Nat :=
  let n := fld d lo (lo + 63)
  (n == 0 || decide (2 ^ 40 < n), lo)

/-- The parts of a range that `ZERO` clears: the partial line at its start, its whole lines, the partial line at its end (R24). -/
def zeroParts (va n : Nat) : List (Nat × Nat × Nat) :=
  let a := roundUp va 128
  let b := (va + n) / 128 * 128
  if a < b then
    (if va < a then [(accWrite, va, a - va)] else []) ++ [(accFull, a, b - a)] ++
      (if b < va + n then [(accWrite, b, va + n - b)] else [])
  else [(accWrite, va, n)]

/-- Clears one part; whole lines are allocated in the stack cache of the stack that issues the operation (R239). -/
def State.zeroPart (s : State) (c : Nat) (p : Nat × Nat × Nat) : State :=
  let s := s.noteOld c p.2.1 p.2.2
  if p.1 = accFull then s.zeroVFrom (s.seqAgent c) c 3 (p.2.2 / 65536 + 2) p.2.1 p.2.2 else s.wrV c p.2.1 (List.replicate p.2.2 0)

def zeroFields : List (Nat × Nat) := [(128, 191), (192, 255)]

/-- `ZERO` (R24). -/
def runZero : RunOp := fun s c ix d =>
  match (headerCheck d zeroFields).orElse (badField [badAddr d 128 1, badLength d 192]) with
  | some r => rejected s r
  | none =>
    let parts := zeroParts (fld d 128 191) (fld d 192 255)
    match s.prepAll c parts with
    | (s1, some (acc, h)) => s1.opFault c ix acc h
    | (s1, none) => ended (parts.foldl (fun t p => t.zeroPart c p) s1) (endWith 0 0)

/-- State condition 5 of R32, as R353 states it. -/
def egressReady (s : State) (x : Ctx) : Bool := !s.host.detached && x.host.reg.isSome

def holdAddr (x : Ctx) : Nat := bitsOf x.regs.hostBlk.eff.toNat 128 64
def holdLog2 (x : Ctx) : Nat := bitsOf x.regs.hostBlk.eff.toNat 192 6

def copyFields : List (Nat × Nat) := [(128, 191), (192, 255), (256, 319), (320, 320)]

/-- The checks of `COPY` (R23, R353): with EGRESS the destination is an offset that must stay in the hold area. -/
def copyCheck (s : State) (c : Nat) (d : Descriptor) : Reject :=
  let x := s.ctx c
  let out := flag d 320
  let leaves := decide (2 ^ holdLog2 x < fld d 192 255 + fld d 256 319)
  ((headerCheck d copyFields).orElse
    (badField [badAddr d 128 1, (if out then (leaves, 192) else badAddr d 192 1), badLength d 256])).orElse
    (if out && !egressReady s x then some (0x0410, 5) else none)

/-- `COPY` (R24, R353): the whole source is read before any destination byte is written; an egress batch waits to be issued. -/
def runCopy : RunOp := fun s c ix d =>
  match copyCheck s c d with
  | some r => rejected s r
  | none =>
    let src := fld d 128 191
    let dst := fld d 192 255
    let n := fld d 256 319
    if flag d 320 then
      let x := s.ctx c
      let seq := x.host.egressWritten + x.host.batches.countP (fun b => b.st == .waiting) + 1
      (s.updCtx c fun y => { y with host := { y.host with batches := y.host.batches ++ [⟨seq, dst, n, ix, src, .waiting⟩] } }, .egress seq)
    else
      match s.prepAll c [(accRead, src, n), (accWrite, dst, n)] with
      | (s1, some (acc, h)) => s1.opFault c ix acc h
      | (s1, none) => ended (s1.outV c dst (s1.rdV c src n)) (endWith 0 0)

/-- `FENCE` (R26): acts when every earlier operation has completed; SCOPE_EGRESS sends a zero-length read behind the writes. -/
def runFence : RunOp := fun s c _ d =>
  match headerCheck d [(128, 128), (129, 129), (130, 130), (131, 131)] with
  | some r => rejected s r
  | none =>
    let s1 := if flag d 130 && !s.host.detached then { s with host := { s.host with fenceReads := s.host.fenceReads ++ [(c, s.now)] } } else s
    (s1, .atHead)

/-- `EVE` (R33): the partition takes no further operation, and its drain begins. -/
def runEve : RunOp := fun s c _ d =>
  match (headerCheck d [(128, 191), (192, 192)]).orElse (badField [badAddr d 128 64]) with
  | some r => rejected s r
  | none =>
    let s1 := match s.holdsPart c with
      | some k => s.updPart k fun p => { p with phase := .draining, drain := .eve, drainFrom := s.now, intervalFrom := none }
      | none => s
    (s1.updCtx c fun x => { x with yielded := flag d 192 }, .eve s.now none)

/-- The condition of a `WAIT` (R23): at least, equal, or not equal. -/
def waitHolds (cmp v w : Nat) : Bool := if cmp = 0 then decide (w ≤ v) else if cmp = 1 then v == w else v != w

/-- One evaluation of a `WAIT` (R27): a refused read, or whether the condition holds. -/
def State.evalWait (s : State) (c : Nat) (d : Descriptor) : State × Except Hit Bool :=
  let va := fld d 128 191
  match s.prep c accRead va 8 with
  | (s1, some h) => (s1, .error h)
  | (s1, none) => (s1, .ok (waitHolds (fld d 256 257) (s1.rdVNat c va 8) (fld d 192 255)))

/-- A context parks (R27): it gives its partition to the scheduler. A context that is not RUNNABLE stays as it is, and the drain of the release point at
which it gave its partition up goes on (R13, R14, R527). -/
def State.park (s : State) (c : Nat) : State :=
  if (s.ctx c).st == .runnable then
    let s1 := s.updCtx c fun x => { x with st := .parked, deficit := 0 }
    match s.holdsPart c with
    | some k => s1.seat k none
    | none => s1
  else s

/-- A context that was parked is RUNNABLE again, with deficit zero (R27, R42). -/
def State.unpark (s : State) (c : Nat) : State := s.updCtx c fun x => if x.st == .parked then { x with st := .runnable, deficit := 0 } else x

/-- An evaluation of a `WAIT` with its deadline, and what follows it (R27): a read that faults stalls it and leaves the deadline. -/
def State.tryWait (s : State) (c ix : Nat) (d : Descriptor) (deadline : Option Nat) : State × FlightSt :=
  match s.evalWait c d with
  | (s1, .error h) =>
    match s1.opFault c ix accRead h with
    | (s2, .stalled ixs) => (s2, .waitStalled ixs deadline)
    | r => r
  | (s1, .ok true) => ended (s1.unpark c) (endWith 0 0)
  | (s1, .ok false) => (if (s1.ctx c).atBoundary then s1.park c else s1, .waiting deadline)

/-- `WAIT` (R27). -/
def runWait : RunOp := fun s c ix d =>
  match (headerCheck d [(128, 191), (192, 255), (256, 257), (288, 319)]).orElse
      (badField [badAddr d 128 8, (fld d 256 257 == 3, 256)]) with
  | some r => rejected s r
  | none =>
    let us := fld d 288 319
    s.tryWait c ix d (if us = 0 then none else some (s.now + 1000 * us))

/-- `SIGNAL` (R25): its update is made when it stands first. -/
def runSignal : RunOp := fun s _ _ d =>
  match (headerCheck d [(128, 191), (192, 255), (256, 257), (258, 258), (272, 284)]).orElse
      (badField [badAddr d 128 8, (fld d 256 257 == 3, 256)]) with
  | some r => rejected s r
  | none => (s, .atHead)

/-- `TIMESTAMP` (R25): device time is recorded when it stands first. -/
def runTimestamp : RunOp := fun s _ _ d =>
  match (headerCheck d [(128, 191)]).orElse (badField [badAddr d 128 16]) with
  | some r => rejected s r
  | none => (s, .atHead)

/-- The counter's new value (R23): add, set, unsigned maximum. -/
def signalNew (mode old v : Nat) : Nat := if mode = 0 then (old + v) % 2 ^ 64 else if mode = 1 then v else max old v

/-- The update of a `SIGNAL`, atomic, with its interrupt (R23, R25). -/
def State.actSignal (s : State) (c ix : Nat) (d : Descriptor) : State × FlightSt :=
  let va := fld d 128 191
  match s.prep c accAtomic va 8 with
  | (s1, some h) => s1.opFault c ix accAtomic h
  | (s1, none) =>
    let s2 := s1.wrV c va (leBytes (signalNew (fld d 256 257) (s1.rdVNat c va 8) (fld d 192 255)) 8)
    ended (if flag d 258 then s2.raise (fld d 272 284) else s2) (endWith 0 0)

/-- The record of a `TIMESTAMP` (R23, R25). -/
def State.actTimestamp (s : State) (c ix : Nat) (d : Descriptor) : State × FlightSt :=
  let va := fld d 128 191
  match s.prep c accWrite va 16 with
  | (s1, some h) => s1.opFault c ix accWrite h
  | (s1, none) => ended (s1.wrV c va (leBytes (s.now % 2 ^ 64 + ix % 2 ^ 64 * 2 ^ 64) 16)) (endWith 0 0)

/-- The selected scopes of a `FENCE` hold nothing outstanding (R26): fabric writes are acknowledged; the egress has left PE0 and the
zero-length read has completed with this command, or the host is detached and its batches are marked unconfirmed. -/
def State.fenceDone (s : State) (c : Nat) (d : Descriptor) : Bool :=
  (!flag d 131 || !(s.fabric.unacked.any fun u => u.packet.type == 1 && u.packet.srcContext.val == c)) &&
  (!flag d 130 || (s.ctx c).host.batches.all fun b => b.st != .waiting)

/-- What the oldest operation in flight does when it acts only at the head (R25, R26). -/
def State.actAtHead (s : State) (c : Nat) (f : Flight) : State × FlightSt :=
  if dOpcode f.desc = 0x23 then s.actSignal c f.opIndex f.desc
  else if dOpcode f.desc = 0x24 then s.actTimestamp c f.opIndex f.desc
  else if s.fenceDone c f.desc then
    ({ s with host := { s.host with fenceReads := s.host.fenceReads.filter fun e => e.1 != c } }, .done (endWith 0 0))
  else (s, .atHead)

/-- `COPY` taken. -/
def execCopy (p : Fin 8) (s : State) : Res := .next (s.takeOp p 0x18 runCopy)

/-- `ZERO` taken. -/
def execZero (p : Fin 8) (s : State) : Res := .next (s.takeOp p 0x19 runZero)

/-- `FENCE` taken. -/
def execFence (p : Fin 8) (s : State) : Res := .next (s.takeOp p 0x20 runFence)

/-- `EVE` taken. -/
def execEve (p : Fin 8) (s : State) : Res := .next (s.takeOp p 0x21 runEve)

/-- `WAIT` taken. -/
def execWait (p : Fin 8) (s : State) : Res := .next (s.takeOp p 0x22 runWait)

/-- `SIGNAL` taken. -/
def execSignal (p : Fin 8) (s : State) : Res := .next (s.takeOp p 0x23 runSignal)

/-- `TIMESTAMP` taken. -/
def execTimestamp (p : Fin 8) (s : State) : Res := .next (s.takeOp p 0x24 runTimestamp)

/-- The oldest operation of a context, when it is a `WAIT` whose condition did not hold or whose evaluation stalls. -/
def waitingFlight (x : Ctx) : Option (Flight × Option Nat) :=
  match x.flights with
  | f :: _ =>
    match f.st with
    | .waiting dl | .waitStalled _ dl => some (f, dl)
    | _ => none
  | [] => none

/-- The oldest operation of a context is a `WAIT` whose last evaluation stalls on a fault (R295). -/
def waitStalls (x : Ctx) : Bool :=
  match x.flights with
  | f :: _ => (match f.st with
    | .waitStalled _ _ => true
    | _ => false)
  | [] => false

/-- The pending `WAIT` of a context is evaluated (R27). -/
def State.reevaluate (s : State) (c : Nat) : State :=
  match waitingFlight (s.ctx c) with
  | none => s
  | some (f, dl) =>
    let r := s.tryWait c f.opIndex f.desc dl
    r.1.setFlight c f.opIndex r.2

/-- `WAIT_REEVALUATE` (R27): an evaluation that stalls is made again when its fault is resolved, and not before (R295). -/
def execWaitReevaluate (c : Fin 4096) (s : State) : Res := .next (if waitStalls (s.ctx c) then s else s.reevaluate c)

/-- `WAIT_TIMEOUT` (R27): DEADLINE_US elapses first. -/
def execWaitTimeout (c : Fin 4096) (s : State) : Res :=
  match waitingFlight (s.ctx c) with
  | some (f, some t) => .next ((s.advance t).setFlight c f.opIndex (.done (endWith 0x0413 0)))
  | _ => .next s

end Sys2Proof.Machine
end

