-- ==== Sys2Proof/Machine/Host.lean ====
section
/-! DEFINITION. The front-end host port (R342 to R359): the ingress windows, doorbells, egress batches, MSI-X, detach and attach. -/

namespace Sys2Proof.Machine

def ingressLog2 (x : Ctx) : Nat := bitsOf x.regs.hostBlk.eff.toNat 8 5
def ingressDeadlineUs (x : Ctx) : Nat := bitsOf x.regs.hostBlk.eff.toNat 32 32
def ingressAddr (x : Ctx) : Nat := bitsOf x.regs.hostBlk.eff.toNat 64 64

/-- Changes the host's side of a context. -/
def State.updHost (s : State) (c : Nat) (f : HostSide → HostSide) : State := s.updCtx c fun x => { x with host := f x.host }

/-- A write from the host that is discarded and counted: in the context's page and in the port's counter (R343, R346, R348). Every request through PE0 wakes
it (R408). -/
def State.discardWrite (s : State) (c : Nat) : State :=
  let s1 := ({ s.ungate (.pcie 0) with host := { s.host with discards := s.host.discards + 1 } }).countEv 16 0x208 0 (some c) 1
  if granted (s.ctx c) then s1.updHost c fun h => { h with writesDiscarded := satInc 32 h.writesDiscarded } else s1

/-- A doorbell that is discarded and counted (R349). -/
def State.refuseBell (s : State) (c : Nat) : State :=
  let s1 := ({ s.ungate (.pcie 0) with host := { s.host with discards := s.host.discards + 1 } }).countEv 16 0x208 0 (some c) 1
  s1.updHost c fun h => { h with doorbellsRefused := satInc 32 h.doorbellsRefused }

/-- The count a slot of an aperture names: the one in a window of 128 counts from `base` (R345). -/
def slotCount (base : W32) (i : Nat) : W32 := base + BitVec.ofNat 32 ((i + 128 - base.toNat % 128) % 128)

/-- Every byte of a slot has been written (R346). -/
def arrived (t : Tab (BitVec 256)) (n : W32) : Bool := tabGet 0#256 t n.toNat == BitVec.allOnes 256

/-- The bits of bytes `lo` to `lo + n - 1` of a slot. -/
def byteMask (lo n : Nat) : BitVec 256 := BitVec.ofNat 256 ((2 ^ n - 1) * 2 ^ lo)

/-- The line parts of a range of at most one slot: class, address, bytes. A whole line is a WriteLine (R347). -/
def lineParts : Nat → Nat → Nat → List (Nat × Nat × Nat)
  | 0, _, _ => []
  | fuel + 1, va, n =>
    if n = 0 then []
    else
      let m := min n (128 - va % 128)
      ((if m = 128 then accFull else accWrite), va, m) :: lineParts fuel (va + m) (n - m)

/-- The checks of the parts of an ingress write, each within one page (R347). -/
def State.ingressOk (s : State) (c : Nat) : List (Nat × Nat × Nat) → State × Option Hit
  | [] => (s, none)
  | (acc, va, n) :: r =>
    match s.prepPage hub0Agent c acc va n with
    | (s1, some h) => (s1, some h)
    | (s1, none) => s1.ingressOk c r

/-- One ingress write within a slot. -/
def State.ingressPart (s : State) (c : Nat) (queue : Bool) (n : W32) (va lo : Nat) (d : List Byte) : State :=
  match s.ingressOk c (lineParts 4 va d.length) with
  | (s1, some h) =>
    let s2 := s1.discardWrite c
    if h.kind = 6 ∨ h.kind = 7 then (s2.faultAt c hub0Agent (s2.ctx c).cnt.nextOp accWrite h (.op c 0)).2 else s2
  | (s1, none) =>
    (s1.wrVAt hub0Agent c va d).updHost c fun h =>
      if queue then { h with qWritten := tabPut 0#256 h.qWritten n.toNat (tabGet 0#256 h.qWritten n.toNat ||| byteMask lo d.length) }
      else { h with dWritten := tabPut 0#256 h.dWritten n.toNat (tabGet 0#256 h.dWritten n.toNat ||| byteMask lo d.length) }

/-- DATA_RELEASED advances across covered slots that have arrived (R351). -/
def releaseData (h : HostSide) : Nat → HostSide
  | 0 => h
  | fuel + 1 =>
    if 0 < w32Diff h.accData h.dataReleased ∧ arrived h.dWritten h.dataReleased then
      releaseData { h with dWritten := tabPut 0#256 h.dWritten h.dataReleased.toNat 0#256, dataReleased := h.dataReleased + 1 } fuel
    else h

/-- The queue slots from `a` that have not arrived, among `n` counts. -/
def missingFrom (t : Tab (BitVec 256)) (a : W32) (n : Nat) : Option W32 :=
  ((List.range n).map fun i => a + BitVec.ofNat 32 i).find? fun m => !arrived t m

/-- QUEUE_READY advances across complete doorbells in their order of acceptance (R351). -/
def readyQueue (h : HostSide) : List Bell → HostSide
  | [] => { h with bells := [] }
  | b :: r =>
    let n := w32Diff b.queueTo h.queueReady
    let dataDone := decide (w32Diff h.accData h.dataReleased ≤ w32Diff h.accData b.dataTo)
    if dataDone && (missingFrom h.qWritten h.queueReady n).isNone then readyQueue { h with queueReady := b.queueTo } r
    else { h with bells := b :: r }

/-- Arrival bits of queue slots that were consumed are cleared (R346), and the two counts advance (R351). -/
def advanceIngress (consumed : W32) (h : HostSide) : HostSide :=
  let h0 := { h with qWritten := h.qWritten.filter fun e => decide (w32Diff (BitVec.ofNat 32 e.1) consumed < 256) }
  let h1 := releaseData h0 256
  let h2 := readyQueue h1 h1.bells
  if h2.bells.isEmpty then { h2 with noticed := false } else h2

/-- The counts of a context's ingress advance, after a write that woke PE0 (R408). -/
def State.advanceHost (s : State) (c : Nat) : State := (s.ungate (.pcie 0)).updCtx c fun x => { x with host := advanceIngress x.cnt.queueConsumed x.host }

/-- The ingress write of one aperture, split at slots (R345, R346). A covered slot refuses a write once it has arrived: a doorbell may
come before the slots it covers, and waits for them (R351, R352; DEDUCED, log 78). -/
def State.ingressWrite (s : State) (c : Nat) (queue : Bool) : Nat → Nat → List Byte → State
  | 0, _, _ => s
  | fuel + 1, off, d =>
    if d.isEmpty then s
    else
      let m := 256 - off % 256
      let part := d.take m
      let x := s.ctx c
      let base := if queue then x.cnt.queueConsumed else x.host.dataReleased
      let acc := if queue then x.host.accQueue else x.host.accData
      let n := slotCount base (off / 256)
      let va := if queue then qAddr x + 256 * (n.toNat % 2 ^ qLog2 x) else ingressAddr x + 256 * (n.toNat % 2 ^ ingressLog2 x)
      let here := arrived (if queue then x.host.qWritten else x.host.dWritten) n
      let s1 := if here && decide (w32Diff n base < w32Diff acc base) then s.discardWrite c else s.ingressPart c queue n (va + off % 256) (off % 256) part
      s1.ingressWrite c queue fuel (off + m) (d.drop m)

/-- Whether the host may write the pages of a context (R343, R357). -/
def State.hostMay (s : State) (c : Nat) : Bool := granted (s.ctx c) && (s.ctx c).st != .free && !s.host.detached

/-- `INGRESS_QUEUE_WRITE` (R345): a write to the queue aperture of a context's window. -/
def execIngressQueueWrite (c : Fin 4096) (off : Nat) (d : List Byte) (s : State) : Res :=
  if s.hostMay c && decide (off + d.length ≤ 0x8000) then .next ((s.ingressWrite c true 129 off d).advanceHost c) else .next (s.discardWrite c)

/-- `INGRESS_DATA_WRITE` (R345): a write to the data aperture, at offsets from its start. -/
def execIngressDataWrite (c : Fin 4096) (off : Nat) (d : List Byte) (s : State) : Res :=
  if s.hostMay c && decide (off + d.length ≤ 0x8000) then .next ((s.ingressWrite c false 129 off d).advanceHost c) else .next (s.discardWrite c)

/-- The first covered slot that has not arrived, queue slots first, as FIRST_MISSING shows it (R348, R352). -/
def firstMissing (h : HostSide) : Nat :=
  match missingFrom h.qWritten h.queueReady (w32Diff h.accQueue h.queueReady) with
  | some n => n.toNat % 2 ^ 31
  | none =>
    match missingFrom h.dWritten h.dataReleased (w32Diff h.accData h.dataReleased) with
    | some n => n.toNat % 2 ^ 31 + 2 ^ 31
    | none => 0

/-- The doorbell and status page of a context as a number: what may only be written reads zero (R348). -/
def State.statusPage (s : State) (c : Nat) : Nat :=
  let x := s.ctx c
  let h := x.host
  x.cnt.queueConsumed.toNat * 2 ^ 2048 + h.queueReady.toNat * 2 ^ 2080 + h.dataReleased.toNat * 2 ^ 2112 + h.egressWritten % 2 ^ 64 * 2 ^ 2144 +
    h.egressAcked % 2 ^ 64 * 2 ^ 2208 + h.epoch.toNat * 2 ^ 2272 + ctxStateCode x.st * 2 ^ 2288 + b2n s.host.detached * 2 ^ 2291 +
    b2n (!h.bells.isEmpty) * 2 ^ 2292 + b2n h.reg.isSome * 2 ^ 2293 + firstMissing h * 2 ^ 2304 + x.cnt.lastHalt % 2 ^ 16 * 2 ^ 2336 +
    x.cnt.lastHaltOp % 2 ^ 64 * 2 ^ 2368 + satTo 32 h.writesDiscarded * 2 ^ 2432 + satTo 32 h.doorbellsRefused * 2 ^ 2464

/-- BAR4: the MSI-X table of 16 bytes for each vector, with message address, data and mask, and the pending bits from 0x8000 on (the layout of PCI
Express, PRESUMED, log 26). -/
def State.bar4Word (s : State) (i : Nat) : Nat :=
  if i < 8192 then
    let x := s.msix (i / 4)
    if i % 4 = 0 then x.addr.toNat % 2 ^ 32 else if i % 4 = 1 then x.addr.toNat / 2 ^ 32 else if i % 4 = 2 then x.data.toNat else b2n x.masked
  else if i < 8256 then (List.range 32).foldl (fun a k => a + b2n (s.msix (32 * (i - 8192) + k)).pend * 2 ^ k) 0
  else 0

/-- `WINDOW_A_READ` (R342, R343, R348): Window A reads all ones, and the read is counted; a page of Window B reads its fields, BAR4 its table. The pages of
a context that is not granted read zero. -/
def execWindowARead (p : HostPage) (off : Nat) (n : Nat) (s : State) : Res :=
  match p with
  | .a c =>
    let s1 := ({ s.ungate (.pcie 0) with host := { s.host with readsA := s.host.readsA + 1 } }).countEv 16 0x207 0 none 1
    .next (s1.answer (c * 65536 + off) (List.replicate n (if granted (s.ctx c) then 0xFF else 0)))
  | .b c => .next ((s.ungate (.pcie 0)).answer (c * 4096 + off) (leBytes (if granted (s.ctx c) then s.statusPage c / 2 ^ (8 * off) else 0) n))
  | .bar4 => .next ((s.ungate (.pcie 0)).answer off ((List.range n).map fun i => BitVec.ofNat 8 (bitsOf (s.bar4Word ((off + i) / 4)) (8 * ((off + i) % 4)) 8)))

/-- A doorbell of the current epoch is refused (R17, R350). -/
def hostBellBad (x : Ctx) (q dt : W32) : Bool :=
  bellBad x q || decide (128 < w32Diff q x.cnt.queueConsumed) ||
    decide (w32Diff dt x.host.dataReleased < w32Diff x.host.accData x.host.dataReleased) ||
    decide (128 < w32Diff dt x.host.dataReleased)

/-- `HOST_DOORBELL` (R349 to R351): one write that covers bytes 0 to 15 of the page. -/
def execHostDoorbell (c : Fin 4096) (off : Nat) (d : List Byte) (s : State) : Res :=
  let x := s.ctx c
  if !granted x || x.st == .free then .next (s.discardWrite c)
  else if off ≠ 0 ∨ d.length ≠ 16 then .next (s.discardWrite c)
  else
    let v := leNat d
    let q := BitVec.ofNat 32 (bitsOf v 0 32)
    let dt := BitVec.ofNat 32 (bitsOf v 32 32)
    if s.host.detached || bitsOf v 64 16 != x.host.epoch.toNat || x.st == .killed then .next (s.refuseBell c)
    else if hostBellBad x q dt then .next ((s.ungate (.pcie 0)).haltRecord c 0x0106 q.toNat)
    else
      .next ((s.updCtx c fun y => { y with
        cnt := { y.cnt with queueProducer := q },
        host := { y.host with accQueue := q, accData := dt, bells := y.host.bells ++ [⟨q, dt, s.now⟩] } }).advanceHost c)

/-- `EGRESS_ACK` (R354): one write that covers bytes 16 to 23 exactly. -/
def execEgressAck (c : Fin 4096) (off : Nat) (d : List Byte) (s : State) : Res :=
  let x := s.ctx c
  if !s.hostMay c || off ≠ 16 || d.length ≠ 8 then .next (s.discardWrite c)
  else
    let v := leNat d
    if v < x.host.egressAcked ∨ x.host.egressWritten < v then .next (s.discardWrite c)
    else .next ((s.ungate (.pcie 0)).updHost c fun h => { h with egressAcked := v, batches := h.batches.filter fun b => decide (v < b.seq) })

/-- An egress record (R353). -/
def egressRecord (b : Batch) (epoch : Nat) : List Byte :=
  leBytes (b.offset % 2 ^ 40 + b.length % 2 ^ 40 * 2 ^ 64 + epoch * 2 ^ 112 + b.opIndex % 2 ^ 64 * 2 ^ 128 + b.seq % 2 ^ 64 * 2 ^ 192) 32

/-- Steps 3 and 4 of R353: the bytes of the hold area and then the record leave PE0. -/
def State.emitBatch (s : State) (c : Nat) (r : EgressReg) (b : Batch) : State :=
  let x := s.ctx c
  let s1 := s.toHost (r.dataBase + b.offset) (s.rdVAt hub0Agent c (holdAddr x + b.offset) b.length)
  let s2 := s1.toHost (r.recBase + 32 * ((b.seq - 1) % 2 ^ r.recLog2)) (egressRecord b x.host.epoch.toNat)
  s2.updHost c fun h => { h with egressWritten := max h.egressWritten b.seq,
                                 batches := h.batches.map fun y => if y.seq = b.seq then { y with st := .issued } else y }

/-- A batch has completed step 4: it counts for its vector, whose message goes at COAL_COUNT (R356). -/
def State.countBatch (s : State) (r : EgressReg) : State :=
  let x := s.msix r.vector
  if r.coalCount ≤ x.batches + 1 then s.sendVector r.vector
  else s.setMsix r.vector { x with batches := x.batches + 1, since := if x.since.isSome then x.since else some s.now }

/-- The registration that bits [437:256] of the page hold (R348). -/
def stagedReg (v : Nat) : EgressReg :=
  { dataBase := bitsOf v 0 64, recBase := bitsOf v 64 64, recLog2 := bitsOf v 134 5, vector := bitsOf v 139 11,
    coalCount := bitsOf v 150 16, coalUs := bitsOf v 166 16 }

/-- A field of a registration lies outside its range (R348, R355). -/
def badReg (v holdLog : Nat) : Bool :=
  let r := stagedReg v
  r.dataBase % 4096 != 0 || r.recBase % 4096 != 0 || bitsOf v 128 6 != holdLog || decide (r.recLog2 < 4) || decide (16 < r.recLog2) ||
    r.vector == 0 || r.coalCount == 0 || r.coalUs == 0 || decide (65000 < r.coalUs)

/-- Bytes `lo` on of a 32-byte area replaced by `d`. -/
def mergeBytes (v : BitVec 256) (lo : Nat) (d : List Byte) : BitVec 256 :=
  BitVec.ofNat 256 (leNat (((leBytes v.toNat 32).take lo ++ d ++ (leBytes v.toNat 32).drop (lo + d.length)).take 32))

/-- `EGRESS_REGISTRATION` (R349, R354, R355, R359): a write that takes bytes 32 to 63 of the page and touches neither doorbell nor acknowledgement; COMMIT
applies the registration, and unconfirmed batches are rewritten from the hold area in ascending SEQ. Bytes written before COMMIT are kept (DEDUCED, log
27), and bytes that hold no field take nothing. -/
def execEgressRegistration (c : Fin 4096) (off : Nat) (d : List Byte) (s : State) : Res :=
  let x := s.ctx c
  if !s.hostMay c || off < 24 || 64 ≤ off || off + d.length ≤ 32 then .next (s.discardWrite c)
  else
    let v := (mergeBytes x.host.regStage (off - 32) (d.drop (32 - off))).toNat
    let commit := bitAt v 208 && decide (off ≤ 58) && decide (58 < off + d.length)
    let s1 := (s.ungate (.pcie 0)).updHost c fun h => { h with regStage := BitVec.ofNat 256 (setBits v 208 1 0) }
    if !commit then .next s1
    else if bitsOf v 192 16 ≠ x.host.epoch.toNat || badReg v (holdLog2 x) || (x.host.reg.isSome && decide (x.host.egressAcked < x.host.egressWritten)) then
      .next (s1.discardWrite c)
    else
      let r := stagedReg v
      let s2 := s1.updHost c fun h => { h with reg := some r }
      let old := sortBy (fun (a b : Batch) => decide (a.seq < b.seq)) (x.host.batches.filter fun b => b.st == .unconfirmed)
      .next (old.foldl (fun t b => (t.emitBatch c r b).countBatch r) s2)

/-- The waiting doorbells of a context are discarded with their slots' arrival bits, and the counts fall back (R352, R357). -/
def fallBack (x : Ctx) : Ctx :=
  let h := x.host
  { x with
    cnt := { x.cnt with queueProducer := h.queueReady },
    host := { h with bells := [], noticed := false, accQueue := h.queueReady, accData := h.dataReleased,
                     qWritten := h.qWritten.filter fun e =>
                       !(decide (w32Diff (BitVec.ofNat 32 e.1) h.queueReady < w32Diff h.accQueue h.queueReady)),
                     dWritten := h.dWritten.filter fun e =>
                       !(decide (w32Diff (BitVec.ofNat 32 e.1) h.dataReleased < w32Diff h.accData h.dataReleased)) } }

/-- `INGRESS_INCOMPLETE` (R352): a doorbell has waited 100 µs; the notice is posted once. -/
def execIngressIncomplete (c : Fin 4096) (s : State) : Res :=
  let x := s.ctx c
  match x.host.bells with
  | b :: _ =>
    if x.host.noticed then .next s
    else .next (((s.advance (b.since + 100000)).updHost c fun h => { h with noticed := true }).postNotice c 0x0C03 (firstMissing x.host))
  | [] => .next s

/-- `INGRESS_EXPIRED` (R352): a doorbell has waited INGRESS_DEADLINE_US. -/
def execIngressExpired (c : Fin 4096) (s : State) : Res :=
  let x := s.ctx c
  match x.host.bells with
  | b :: _ =>
    if ingressDeadlineUs x = 0xFFFFFFFF then .next s
    else
      .next (((s.advance (b.since + 1000 * ingressDeadlineUs x)).updCtx c fallBack).haltRecord c 0x0802 (firstMissing x.host))
  | [] => .next s

/-- The waiting batch with the lowest sequence. -/
def nextBatch (h : HostSide) : Option Batch :=
  (h.batches.filter fun b => b.st == .waiting).foldl (fun m b =>
    match m with
    | none => some b
    | some y => if b.seq < y.seq then some b else some y) none

/-- Step 1 of R353 holds for a batch. -/
def batchMay (h : HostSide) (r : EgressReg) (b : Batch) : Bool :=
  let un := h.batches.filter fun y => y.st != .waiting
  !(un.any fun y => overlaps y.offset y.length b.offset b.length) && decide (un.length < 2 ^ r.recLog2)

/-- Step 2 of R353: the batch's bytes are copied to the hold area. -/
def State.holdBatch (s : State) (c : Nat) (b : Batch) : State × Option (Nat × Hit) :=
  let va := holdAddr (s.ctx c) + b.offset
  match s.prepAll c [(accRead, b.src, b.length)] with
  | (s1, some e) => (s1, some e)
  | (s1, none) =>
    match s1.prepAllAt hub0Agent c [(accWrite, va, b.length)] with
    | (s2, some e) => (s2, some e)
    | (s2, none) => (s2.wrVAt hub0Agent c va (s2.rdV c b.src b.length), none)

/-- `EGRESS_BATCH_ISSUE` (R353): the next batch is copied to the hold area and leaves PE0 with its record; its `COPY` is done. -/
def execEgressBatchIssue (c : Fin 4096) (s : State) : Res :=
  let x := s.ctx c
  match nextBatch x.host, x.host.reg with
  | some b, some r =>
    if s.host.detached || !batchMay x.host r b || !(x.flights.any fun f => f.opIndex == b.opIndex && f.st == .egress b.seq) then .next s
    else
      match s.holdBatch c b with
      | (s1, some (acc, h)) =>
        let e := s1.opFaultBy (if acc = accRead then s1.seqAgent c else hub0Agent) c b.opIndex acc h
        let s2 := if h.kind ≤ 5 then e.1 else e.1.updHost c fun y => { y with batches := y.batches.filter fun z => z.opIndex != b.opIndex || z.st != .waiting }
        .next (s2.setFlight c b.opIndex e.2)
      | (s1, none) => .next (((s1.emitBatch c r b).countBatch r).setFlight c b.opIndex (.done (endWith 0 0)))
  | _, _ => .next s

/-- A context's side of a detachment (R357). A batch that waits is copied to the hold area first where nothing unacknowledged overlaps
it (DESIGN CHOICE, log 28). -/
def State.detachCtx (s : State) (c : Nat) : State :=
  let x := s.ctx c
  let s1 := match nextBatch x.host with
    | some b =>
      let t := if x.host.batches.any (fun (y : Batch) => y.st != BatchSt.waiting && overlaps y.offset y.length b.offset b.length) then s else (s.holdBatch c b).1
      t.setFlight c b.opIndex (.done (endWith 0 0))
    | none => s
  let s2 := s1.updCtx c fallBack
  s2.updHost c fun h => { h with reg := none, batches := h.batches.map fun (b : Batch) => { b with st := .unconfirmed } }

/-- The host is detached (R357): fault containment, at once, for every granted context. -/
def State.detach (s : State) : State :=
  if s.host.detached then s
  else
    let s1 := { s with host := { s.host with detached := true, fenceReads := [] } }
    (s1.ctxs.filter fun e => granted e.2).foldl (fun t e => t.detachCtx e.1) s1

/-- The host attaches (R358): a new epoch for every granted context, and vector 0. -/
def State.attach (s : State) : State :=
  let s1 := s.detach
  let s2 := { s1 with host := { s1.host with detached := false } }
  let s3 := (s2.ctxs.filter fun e => granted e.2).foldl (fun t e => t.updHost e.1 fun h => { h with epoch := h.epoch + 1 }) s2
  (s3.sendVector 0).raise 7959

/-- `EGRESS_READ_TIMEOUT` (R357): the zero-length read of a `FENCE` has no completion within 50 ms. -/
def execEgressReadTimeout (c : Fin 4096) (s : State) : Res :=
  match s.host.fenceReads.find? fun e => e.1 == c.val with
  | some e => .next (s.advance (e.2 + 50000000)).detach
  | none => .next s

/-- `HOST_DETACH` (R357). -/
def execHostDetach (cause : DetachCause) (s : State) : Res :=
  let s1 := s.detach
  .next { s1 with host := { s1.host with linkUp := s1.host.linkUp && cause != .dlDown } }

/-- COAL_US of a registration that names a vector. -/
def State.coalUsOf (s : State) (v : Nat) : Option Nat :=
  s.ctxs.findSome? fun e =>
    match e.2.host.reg with
    | some r => if r.vector = v then some r.coalUs else none
    | none => none

/-- `MSIX_COALESCE_TIMEOUT` (R356): COAL_US has passed since the first batch counted. -/
def execMsixCoalesceTimeout (v : Fin 2048) (s : State) : Res :=
  match (s.msix v).since, s.coalUsOf v with
  | some t, some us => .next ((s.advance (t + 1000 * us)).sendVector v)
  | _, _ => .next s

/-- A vector with one word of its table entry written; an unmask takes the pending bit with it. -/
def msixPut (x : Msix) (word : Nat) (d : BitVec 32) : Msix :=
  if word = 0 then { x with addr := BitVec.ofNat 64 (x.addr.toNat / 2 ^ 32 * 2 ^ 32 + d.toNat) }
  else if word = 1 then { x with addr := BitVec.ofNat 64 (x.addr.toNat % 2 ^ 32 + d.toNat * 2 ^ 32) }
  else if word = 2 then { x with data := d }
  else { x with masked := bitAt d.toNat 0, pend := x.pend && bitAt d.toNat 0 }

/-- `MSIX_MASK_WRITE` (R342, R356): a host write of a word of BAR4; an unmask sends a held pending message. -/
def execMsixMaskWrite (off : Fin 65536) (d : BitVec 32) (s : State) : Res :=
  let v := off.val / 16
  if 2048 ≤ v then .next s
  else
    let x := s.msix v
    let s1 := (s.ungate (.pcie 0)).setMsix v (msixPut x (off.val / 4 % 4) d)
    if x.pend && !(s1.msix v).pend then .next (s1.emitMsix v) else .next s1

end Sys2Proof.Machine
end

