-- ==== Sys2Proof/Machine/Flits.lean ====
section
/-! DEFINITION. The link layer of a fabric-mode port: packets as bytes (R317), flits with their headers, the retry buffer and the credits of the virtual
channels (R307, R308, R315), and the packets that wait in the input buffers. -/

namespace Sys2Proof.Machine

/-- A link port. -/
def State.port (s : State) (p : Nat) : LinkPort := s.fabric.ports.getD p LinkPort.reset

/-- Replaces a link port. -/
def State.setPort (s : State) (p : Nat) (x : LinkPort) : State := { s with fabric := { s.fabric with ports := s.fabric.ports.set p x } }

/-- The header of a packet with a CRC (R317). -/
def packetHeader (pk : Packet) (crc : Nat) : List Byte :=
  leBytes (pk.type % 16 + pk.vcLevel.val * 2 ^ 4 + b2n pk.cls * 2 ^ 6 + pk.destId.toNat * 2 ^ 8 + pk.srcId.toNat * 2 ^ 28 + pk.destContext.val * 2 ^ 48 +
    pk.srcContext.val * 2 ^ 60 + pk.payload.length % 4096 * 2 ^ 72 + pk.e2eSeq.toNat * 2 ^ 96 + pk.addr.toNat * 2 ^ 128 + pk.aux.toNat * 2 ^ 192 +
    crc * 2 ^ 224) 32

/-- The CRC over the header, with its field zero, and the payload (R317). -/
def packetCrc (pk : Packet) : BitVec 32 := Config.crc32 (packetHeader pk 0 ++ pk.payload)

/-- The CRC a packet travels with: that of the level it now has. A packet that failed its check on the way here fails it behind this hub too; which wrong
value it then carries is not said (free value, log 188). -/
def sentCrc (pk : Packet) : Nat :=
  if pk.crcOk then (packetCrc pk).toNat else ((packetCrc pk).toNat + 1 + Config.freeNat (2 ^ 63 + (packetCrc pk).toNat) % (2 ^ 32 - 1)) % 2 ^ 32

/-- A packet as it travels: the header, with the level it now has, and the payload. -/
def packetBytes (pk : Packet) : List Byte := packetHeader pk (sentCrc pk) ++ pk.payload

/-- The packet that bytes hold, and what its end-to-end check finds. -/
def packetOf (d : List Byte) : Packet :=
  let h := leNat (d.take 32)
  let pk : Packet :=
    { type := bitsOf h 0 4, vcLevel := Fin.ofNat 4 (bitsOf h 4 2), cls := bitAt h 6, destId := BitVec.ofNat 20 (bitsOf h 8 20),
      srcId := BitVec.ofNat 20 (bitsOf h 28 20), destContext := Fin.ofNat 4096 (bitsOf h 48 12), srcContext := Fin.ofNat 4096 (bitsOf h 60 12),
      e2eSeq := BitVec.ofNat 32 (bitsOf h 96 32), addr := BitVec.ofNat 64 (bitsOf h 128 64), aux := BitVec.ofNat 32 (bitsOf h 192 32),
      payload := (d.drop 32).take (bitsOf h 72 12), crcOk := true }
  { pk with crcOk := BitVec.ofNat 32 (bitsOf h 224 32) == packetCrc pk }

/-- Flits of a packet of `n` payload bytes: whole flits (R317). -/
def flitsFor (n : Nat) : Nat := (32 + n + 511) / 512

/-- The data of a packet's flits; the rest of the last one is zero. -/
def packetFlits (pk : Packet) : List (List Byte) :=
  let n := flitsFor pk.payload.length
  let d := packetBytes pk ++ List.replicate (512 * n - 32 - pk.payload.length) 0
  (List.range n).map fun i => (d.drop (512 * i)).take 512

/-- The virtual channel of a packet: its class and level (R315). -/
def packetVc (pk : Packet) : Nat := 4 * b2n pk.cls + pk.vcLevel.val

/-- A link header (R307). -/
def flitHeader (seq ack : BitVec 12) (nak : Bool) (vc units crc : Nat) : List Byte :=
  leBytes (seq.toNat + ack.toNat * 2 ^ 12 + b2n nak * 2 ^ 24 + vc % 8 * 2 ^ 25 + units % 16 * 2 ^ 28 + crc * 2 ^ 32) 8

/-- A flit on the wire: header, data, and the check symbols of its code behind them (R307; their place is a DESIGN CHOICE, log 149). -/
def flitWire (seq ack : BitVec 12) (nak : Bool) (vc units : Nat) (data : List Byte) : List Byte :=
  let d := flitHeader seq ack nak vc units (Config.crc32 (flitHeader seq ack nak vc units 0 ++ data)).toNat ++ data
  d ++ leBytes (Config.flitCheck d).toNat 20

/-- The first channel with credits to return, and how many units of 4 flits a header can return (R307). -/
def LinkPort.creditReturn (x : LinkPort) : Nat × Nat :=
  match (List.range 8).find? fun v => decide (4 ≤ x.owed.getD v 0) with
  | some v => (v, min 15 (x.owed.getD v 0 / 4))
  | none => (0, 0)

/-- One flit leaves a port with the acknowledgement and the credits of the moment (R307, R308). -/
def State.emitFlit (s : State) (p : Nat) (seq : BitVec 12) (data : List Byte) : State :=
  let x := s.port p
  let c := x.creditReturn
  let s1 := s.setPort p { x with owed := x.owed.set c.1 (x.owed.getD c.1 0 - 4 * c.2) }
  { s1 with out := { s1.out with flits := (p, flitWire seq (x.expect - 1) x.nak c.1 c.2 data) :: s1.out.flits } }

/-- An idle flit leaves: all zero, with the sequence number of the last data flit, and kept in no buffer (DESIGN CHOICE, log 149). -/
def State.emitIdle (s : State) (p : Nat) : State := s.emitFlit p ((s.port p).txNext - 1) (List.replicate 512 0)

/-- A new data flit leaves and is kept until it is acknowledged (R308). -/
def State.emitData (s : State) (p : Nat) (data : List Byte) : State :=
  let s1 := s.emitFlit p (s.port p).txNext data
  let x := s1.port p
  s1.setPort p { x with txNext := x.txNext + 1, retry := x.retry ++ [data], ackAt := if x.retry.isEmpty then s.now else x.ackAt }

/-- A packet may leave a port: its channel has the credits, and the retry buffer of 1,024 flits the room (R308, R315). -/
def LinkPort.mayLeave (x : LinkPort) (pk : Packet) : Bool :=
  let n := flitsFor pk.payload.length
  decide (n ≤ x.credits.getD (packetVc pk) 0) && decide (x.retry.length + n ≤ 1024)

/-- The next packet to leave: the first of the queue that may leave and that no earlier one of its channel precedes (R315). -/
def LinkPort.nextPacket (x : LinkPort) : List Packet → List Nat → Option Packet
  | [], _ => none
  | pk :: r, held => if !held.contains (packetVc pk) && x.mayLeave pk then some pk else x.nextPacket r ((packetVc pk) :: held)

/-- A packet's flits leave together (R307, R315). -/
def State.emitPacket (s : State) (p : Nat) (pk : Packet) : State :=
  let n := flitsFor pk.payload.length
  let x := s.port p
  let s1 := s.setPort p { x with queue := x.queue.erase pk, credits := x.credits.set (packetVc pk) (x.credits.getD (packetVc pk) 0 - n) }
  ((packetFlits pk).foldl (fun (t : State) d => t.emitData p d) s1).countEv (16 + p / 8) 0x200 (p % 8) none n

/-- What waits on a port leaves as far as it may, at most `n` packets. -/
def State.pumpPort (s : State) (p : Nat) : Nat → State
  | 0 => s
  | n + 1 =>
    match (s.port p).nextPacket (s.port p).queue [] with
    | some pk => (s.emitPacket p pk).pumpPort p n
    | none => s

/-- Sends what may leave; an idle flit carries the acknowledgement when nothing does (R307, R308). -/
def State.answerFlit (s : State) (p : Nat) : State :=
  let t := s.pumpPort p (s.port p).queue.length
  if (t.port p).txNext = (s.port p).txNext then t.emitIdle p else t

/-- No packet waits and credits of a whole unit are owed: an idle flit returns them (R307). -/
def State.returnCredits (s : State) (p : Nat) : State :=
  let x := s.port p
  if (x.state = 2 ∨ x.state = 3) ∧ 0 < x.creditReturn.2 ∧ (x.nextPacket x.queue []).isNone then s.emitIdle p else s

/-- A port takes a packet of the hub: its channel has room, and none of its channel waits, so that no class holds up another (R315). -/
def LinkPort.takes (x : LinkPort) (pk : Packet) : Bool := x.mayLeave pk && !(x.queue.any fun y => packetVc y == packetVc pk)

/-- A packet is handed to a link port (R314). -/
def State.launchPacket (s : State) (p : Nat) (pk : Packet) : State :=
  let s1 := s.toPort p pk
  let s2 := s1.setPort p { s1.port p with queue := (s1.port p).queue ++ [pk] }
  s2.pumpPort p (s2.port p).queue.length

/-- The link of a port starts anew or is gone (R308, R311): both sides begin with empty buffers and full credits. -/
def LinkPort.cleared (x : LinkPort) : LinkPort :=
  { x with acked := x.txNext - 1, resends := 0, nak := false, retry := [], queue := [], arriving := [], credits := List.replicate 8 32,
           owed := List.replicate 8 0, timeTx := none, timeRx := 0 }

/-- The packet that a port's received flits hold goes to the input buffer of its channel once its last flit has come (R315, R317). -/
def LinkPort.assemble (x : LinkPort) (data : List Byte) : LinkPort :=
  let d := x.arriving ++ data
  if 512 * flitsFor (bitsOf (leNat (d.take 32)) 72 12) ≤ d.length then { x with arriving := [], input := x.input ++ [(packetVc (packetOf d), packetOf d)] }
  else { x with arriving := d }

/-- The first packet in an input buffer. -/
def LinkPort.firstIn (x : LinkPort) (vc : Nat) : Option Packet := (x.input.find? fun e => e.1 == vc).map Prod.snd

/-- A packet leaves its input buffer, whose flits are owed to the partner as credits (R315). -/
def LinkPort.takeIn (x : LinkPort) (vc : Nat) (pk : Packet) : LinkPort :=
  { x with input := x.input.erase (vc, pk), owed := x.owed.set vc (x.owed.getD vc 0 + flitsFor pk.payload.length) }

end Sys2Proof.Machine
end

