-- ==== Sys2Proof/Machine/Fabric.lean ====
section
/-! DEFINITION. The fabric: routes (R312 to R314), packets and their end-to-end delivery (R317, R318), and the bookkeeping of
collectives that wait on partners (R323, R327 to R331). -/

namespace Sys2Proof.Machine

/-- The package's fabric identifier; 0xF_FFFF is none (R312). -/
def State.fabricId (s : State) : Nat := s.effNat 0x4100 1 % 2 ^ 20

/-- Mode in effect of a link port: 0 off, 1 fabric, 2 Ethernet (R304). -/
def State.portMode (s : State) (p : Nat) : Nat := s.effNat 0x4010 (p + 1)

/-- A live port: fabric mode, state 2 or 3, not fenced (R314, R423). -/
def State.portLive (s : State) (p : Nat) : Bool :=
  s.portMode p == 1 && ((s.port p).state == 2 || (s.port p).state == 3) && !bitAt s.integ.portsFenced p

/-- The live ports as a mask. -/
def State.livePorts (s : State) : Nat := (List.range 16).foldl (fun m p => if s.portLive p then m + 2 ^ p else m) 0

/-- A cause of R328 ends on the stack, port or partition `which`. -/
def State.endCause (s : State) (cause which : Nat) : State :=
  { s with fabric := { s.fabric with ended := tabPut 0 s.fabric.ended (256 * cause + which) s.now } }

/-- A port changes `LinkPortState` and raises its fixed source (R366); a port that leaves degraded service ends a cause of R328. -/
def State.toPortState (s : State) (p st : Nat) : State :=
  if (s.port p).state = st then s
  else
    let s1 := (s.setPort p { s.port p with state := st }).raise (7940 + p)
    if (s.port p).state = 3 then s1.endCause 6 p else s1

/-- The route entry of a destination in the table in use (R314). -/
def State.routeEntry (s : State) (dest : Nat) : Nat :=
  let g := s.fabric.shift
  let i := if dest >>> g = s.fabricId >>> g then dest % 2 ^ g else 2 ^ g + (dest >>> g)
  (tabGet 0#64 s.fabric.table i).toNat

/-- The set bits of a 16-bit mask, from bit 0. -/
def setBitList (m : Nat) : List Nat := (List.range 16).filter fun i => bitAt m i

/-- The port of R314 for a packet with choice number `h`, or none when it is dropped. -/
def State.routePort (s : State) (dest h : Nat) : Option Nat :=
  let e := s.routeEntry dest
  if !bitAt e 34 then none
  else
    let m1 := bitsOf e 0 16 &&& s.livePorts
    let m := if m1 = 0 then bitsOf e 16 16 &&& s.livePorts else m1
    if m = 0 then none else (setBitList m)[h % (setBitList m).length]?

/-- VC_BUMP of a destination's route. -/
def State.vcBump (s : State) (dest : Nat) : Nat := bitsOf (s.routeEntry dest) 32 2

/-- A VC level raised, saturating at 3 (R313). -/
def bumpVc (v b : Nat) : Fin 4 := Fin.ofNat 4 (min 3 (v + b))

/-- The first bytes of a payload as a number. -/
def payloadNat (pk : Packet) (lo n : Nat) : Nat := leNat ((pk.payload.drop lo).take n)

/-- CHUNK of a packet that carries one: the collective prefix (R327), or the parade's own (DESIGN CHOICE, log 33). -/
def packetChunk (pk : Packet) : Nat := if pk.type = 3 then payloadNat pk 8 4 else payloadNat pk 4 4

/-- The choice number of a packet: its chunk for collective and parade data, its source otherwise (R314). -/
def choiceOf (pk : Packet) : Nat := if pk.type = 3 ∨ pk.type = 7 then packetChunk pk else pk.srcId.toNat

/-- A hub drops a packet and counts it (R314, R317). -/
def State.dropPacket (s : State) (hub : Nat) : State :=
  ({ s with fabric := { s.fabric with drops := s.fabric.drops + 1 } }).countEv (16 + hub) 0x203 0 none 1

/-- A packet as it leaves on its route (R313, R314). -/
def State.raised (s : State) (pk : Packet) : Packet := { pk with vcLevel := bumpVc pk.vcLevel.val (s.vcBump pk.destId.toNat) }

/-- Hands a packet of the package's own to the port of its route; one for the package itself waits for its receive engine; dropped and counted, by
HUB_0, without a route (R314; log 137). -/
def State.route (s : State) (pk : Packet) (h : Nat) : State :=
  if s.fabricId = 0xFFFFF then s
  else if pk.destId.toNat = s.fabricId then { s with fabric := { s.fabric with own := s.fabric.own ++ [pk] } }
  else
    match s.routePort pk.destId.toNat h with
    | some p => s.launchPacket p (s.raised pk)
    | none => s.dropPacket 0

/-- Sends a packet of the package's own: it takes the next E2E_SEQ of its destination, and one that is acknowledged is kept for resending
(R317, R318). -/
def State.send (s : State) (type : Nat) (dest : Nat) (dctx sctx : Nat) (addr aux : Nat) (payload : List Byte) : State :=
  let d := BitVec.ofNat 20 dest
  let seq := tabGet 0#32 s.fabric.tx dest
  let pk : Packet :=
    { type := type, vcLevel := 0, cls := type == 2, destId := d, srcId := BitVec.ofNat 20 s.fabricId, destContext := Fin.ofNat 4096 dctx,
      srcContext := Fin.ofNat 4096 sctx, e2eSeq := seq, addr := BitVec.ofNat 64 addr, aux := BitVec.ofNat 32 aux, payload := payload, crcOk := true }
  let s1 := { s with fabric := { s.fabric with tx := tabPut 0#32 s.fabric.tx dest (seq + 1) } }
  let s2 := if type = 1 ∨ type = 3 ∨ type = 6 ∨ type = 7 then
      { s1 with fabric := { s1.fabric with unacked := s1.fabric.unacked ++ [⟨dest, seq, pk, s1.now, 0⟩] } } else s1
  s2.route pk (choiceOf pk)

/-- Acknowledges a received packet (R318). -/
def State.ackPacket (s : State) (pk : Packet) (payload : List Byte) : State :=
  s.send 2 pk.srcId.toNat pk.srcContext.val pk.destContext.val 0 pk.e2eSeq.toNat payload

/-- What a receiver does first with a packet (R317, R318): a packet that fails its CRC is not for it; a type that is acknowledged is
acknowledged; a duplicate is discarded, however old (DESIGN CHOICE, log 173). Answers whether the packet is new. -/
def State.receive (s : State) (pk : Packet) : State × Bool :=
  if !pk.crcOk || pk.destId.toNat != s.fabricId then (s, false)
  else if pk.type = 1 ∨ pk.type = 3 ∨ pk.type = 6 ∨ pk.type = 7 then
    let s1 := s.ackPacket pk []
    let key := (pk.srcId.toNat, pk.e2eSeq)
    if s1.fabric.seen.contains key then (s1, false)
    else ({ s1 with fabric := { s1.fabric with seen := s1.fabric.seen ++ [key] } }, true)
  else (s, true)

/-- The pending collective of a context. -/
def State.run (s : State) (c : Nat) : Option CollRun := tabGet none s.fabric.runs c

/-- Replaces the pending collective of a context. -/
def State.setRun (s : State) (c : Nat) (r : Option CollRun) : State := { s with fabric := { s.fabric with runs := tabPut none s.fabric.runs c r } }

/-- FABRIC_ID and context of a member (R320). -/
def memberId (w : W64) : Nat := bitsOf w.toNat 0 20
def memberCtx (w : W64) : Nat := bitsOf w.toNat 20 12

/-- The partition's clock is held back by the cap, the brake or a duty cycle (R328). -/
def PartSt.capped (p : PartSt) : Bool := p.duty || p.braked || decide (p.clockMHz < 800)

/-- Pace matching holds the partition's clock (R333). -/
def PartSt.paced (p : PartSt) : Bool := p.paceNum != p.paceDen

/-- A cause on `which` stands, or ended after `since`. -/
def State.stood (s : State) (cause which since : Nat) (stands : Bool) : Bool := stands || decide (since < tabGet 0 s.fabric.ended (256 * cause + which))

/-- A compute stack's capability class is less than whole (R425): fewer tiles, thread units, stream units or ways, or a fenced compute die. -/
def State.lessCapable (s : State) (n : Nat) : Bool :=
  decide ((s.integ.tiles.getD n []).length < 8) || decide (s.integ.units.getD n 0 < 64) || decide (s.integ.streams.getD n 0 < 16) ||
    decide (s.integ.ways.getD n 0 < 28) || s.integ.computeFenced.getD n false

/-- The causes of R328, with their details, that a context may have met since `since`: heat, degraded ports and capability classes, the cap and
pace matching where they stand or stood; page faults, waits and other contexts at any time. -/
def State.causesSince (s : State) (c since : Nat) : List (Nat × Nat) :=
  let k := (s.ctx c).part.getD 0
  (((s.stacks k).filter fun n => s.stood 1 n since (decide (0 < s.power.steps.getD n 0))).map fun n => (1, n)) ++
    (((List.range 16).filter fun d => s.stood 2 d since (decide (0 < s.dram.steps.getD d 0))).map fun d => (2, d)) ++
    (if s.stood 3 k since (s.part k).capped then [(3, 0)] else []) ++ (if s.stood 4 k since (s.part k).paced then [(4, 0)] else []) ++ [(5, 0)] ++
    (((List.range 16).filter fun p => s.stood 6 p since ((s.port p).state == 3)).map fun p => (6, p)) ++
    (((s.stacks k).filter s.lessCapable).map fun n => (7, n)) ++ [(8, 0), (9, 0)]

/-- The cause that cost a context the most time since its arrival on a communicator, and its detail; none where no cause cost 1 % of the interval
(R328). The inserted idle that cause 3 cost at least is counted (R400); any more that a cause cost is the part's measurement (free value, log 121). -/
def State.leadingCause (s : State) (c comm : Nat) : Nat × Nat × State :=
  let x := s.ctx c
  let since := tabGet 0 x.arrivals comm
  let span := s.now - since
  let idle := x.idleNs - tabGet 0 x.idleAt comm
  let r := (s.causesSince c since).foldl (fun (a : Nat × (Nat × Nat) × State) e =>
    let f := a.2.2.free
    let own := if e.1 = 3 then min idle span else 0
    let cost := own + f.1 % (span - own + 1)
    if a.1 < cost then (cost, e, f.2) else (a.1, a.2.1, f.2)) (0, (0, 0), s)
  if 100 * r.1 < span then (0, 0, r.2.2) else (r.2.1.1, r.2.1.2, r.2.2)

/-- The collective prefix with its pace field (R327). -/
def collPrefix (comm seq chunk finger opIx straggler cause detail earliest lateness : Nat) (arrived : Bool) : List Byte :=
  leBytes (comm % 2 ^ 32 + seq % 2 ^ 32 * 2 ^ 32 + chunk % 2 ^ 32 * 2 ^ 64 + finger % 2 ^ 32 * 2 ^ 96 + opIx % 2 ^ 32 * 2 ^ 128 +
    straggler % 2 ^ 20 * 2 ^ 160 + cause % 16 * 2 ^ 180 + detail % 256 * 2 ^ 184 + earliest % 2 ^ 32 * 2 ^ 192 +
    satTo 31 lateness * 2 ^ 224 + b2n arrived * 2 ^ 255) 32

/-- The prefix a run sends. -/
def CollRun.prefixOf (r : CollRun) (chunk : Nat) : List Byte :=
  collPrefix r.comm r.seq chunk r.finger.toNat r.opIndex r.straggler r.cause r.detail r.earliest (r.latest - r.earliest) true

/-- Sends a packet to a rank of a run. -/
def State.sendRank (s : State) (c : Nat) (r : CollRun) (type rank chunk : Nat) (d : List Byte) : State :=
  let w := r.members.getD rank 0
  s.send type (memberId w) (memberCtx w) c 0 0 (r.prefixOf chunk ++ d)

/-- The cycles that a pending collective has waited are counted, by HUB_0 (R489; log 137). -/
def State.endWait (s : State) (c : Nat) (r : CollRun) : State := s.countSpan 16 0x206 0 (some c) (s.now - r.arrivedAt)

/-- A pending collective ends with a lost peer (R331): the loss goes to every partner, and the operation is done. -/
def State.losePeer (s : State) (c lostId : Nat) : State :=
  match s.run c with
  | none => s
  | some r =>
    let r1 := { r with lost := some lostId }
    let s1 := r.partners.foldl (fun t j => t.sendRank c r1 5 j 0 (leBytes lostId 4)) (s.endWait c r)
    (s1.setRun c none).setFlight c r.opIndex (.done (endWith 0x0601 lostId))

/-- The pending collective of a killed context, or one that fails: its partners get loss notices naming this package (R331, R417, R419). -/
def State.abandonRun (s : State) (c : Nat) : State :=
  match s.run c with
  | none => s
  | some r => (r.partners.foldl (fun t j => t.sendRank c r 5 j 0 (leBytes t.fabricId 4)) (s.endWait c r)).setRun c none

/-- Merges a sender's pace record (R329): times are the low 32 bits of device time, taken near the receiver's own. -/
def mergePace (r : CollRun) (straggler cause detail earliest lateness now : Nat) : CollRun :=
  let base := now - (now + 2 ^ 32 - earliest) % 2 ^ 32
  let lat := base + lateness
  let r1 := { r with earliest := min r.earliest base }
  if r.latest < lat ∨ (r.latest = lat ∧ straggler < r.straggler) then { r1 with latest := lat, straggler := straggler, cause := cause, detail := detail }
  else r1

/-- The job slot that a context's byte of `ContextJobMap` names (R503). -/
def State.jobSlot (s : State) (c : Nat) : Option Nat :=
  let b := ((s.effBytes 0x8062 1).getD c 0xFF).toNat
  if b < 16 then some b else none

/-- A slot's record in effect, as a number (R503). -/
def State.jobRecord (s : State) (j : Nat) : Nat := s.effNat 0x8061 (j + 1)

/-- State condition 2 of R32 (R504). -/
def State.jobComplete (s : State) (c : Nat) : Bool :=
  match s.jobSlot c with
  | some j => bitsOf (s.jobRecord j) 32 2 == 2
  | none => false

/-- A sender is a member of the job of a context (R504). -/
def State.jobMember (s : State) (c srcId : Nat) : Bool :=
  match s.jobSlot c with
  | some j =>
    let r := s.jobRecord j
    let pa := bitsOf r 128 52
    (bitsOf r 32 2 == 1 || bitsOf r 32 2 == 2) && (List.range (bitsOf r 64 21)).any fun i => bitsOf (s.rdNat (pa + 4 * i) 4) 0 20 == srcId
  | none => false

end Sys2Proof.Machine
end

