-- ==== Sys2Proof/Machine/LaneCode.lean ====
section
/-! DEFINITION. Lane code: the fields of its formats (R174 to R179, R185, R190, R196 to R198), which encodings are legal (R200), and the
region rules of branches (R164). -/

namespace Sys2Proof.Machine

/-- OPCODE of a lane word (R174). -/
def wOp (w : Nat) : Nat := bitsOf w 0 8

/-- What a format V opcode takes: its types, which of A, B, C it reads, how far SAT may go (0: wrap only, 1: signed, 2: any), the MOD bits
it uses, whether its destination is a predicate, and how an immediate widens (0 integer, 1 logic and shifts, 2 floating point, 3 by its type). -/
structure VecSpec where
  types : List Nat
  a : Bool
  b : Bool
  c : Bool
  sat : Nat
  mods : Nat
  toPred : Bool
  imm : Nat
deriving DecidableEq, Repr

def intTypes : List Nat := [0, 1, 2, 3, 4]
def fltTypes : List Nat := [5, 6, 7, 8]

/-- The vector opcodes (R180 to R184). -/
def vecSpec (op : Nat) : Option VecSpec :=
  if 0x01 ≤ op ∧ op ≤ 0x04 then some ⟨[2, 3, 4], true, true, false, 0, 0, false, 1⟩
  else if 0x08 ≤ op ∧ op ≤ 0x0A then some ⟨[2, 4], true, true, false, 0, 0, false, 1⟩
  else if op = 0x0B then some ⟨[2, 4], true, true, true, 0, 15, false, 1⟩
  else if 0x10 ≤ op ∧ op ≤ 0x12 then some ⟨intTypes, true, true, false, 2, 0, false, 0⟩
  else if op = 0x14 then some ⟨intTypes, true, true, true, 2, 0, false, 0⟩
  else if op = 0x13 ∨ op = 0x1B ∨ (0x15 ≤ op ∧ op ≤ 0x18) then some ⟨intTypes, true, true, false, 0, 0, false, 0⟩
  else if op = 0x19 then some ⟨intTypes, true, false, false, 1, 0, false, 0⟩
  else if op = 0x1A then some ⟨[0], true, true, true, 2, 0, false, 0⟩
  else if op = 0x22 then some ⟨fltTypes, true, true, true, 0, 15, false, 2⟩
  else if 0x20 ≤ op ∧ op ≤ 0x24 then some ⟨fltTypes, true, true, false, 0, 13, false, 2⟩
  else if 0x38 ≤ op ∧ op ≤ 0x3B then some ⟨[5, 6], true, false, false, 0, 5, false, 2⟩
  else if op = 0x3C then some ⟨intTypes ++ fltTypes, false, true, false, 0, 0, false, 3⟩
  else if op = 0x3D then some ⟨intTypes ++ fltTypes, true, true, true, 0, 0, false, 3⟩
  else if 0x30 ≤ op ∧ op ≤ 0x35 then some ⟨[2, 4], true, true, false, 0, 0, true, 0⟩
  else if 0x29 ≤ op ∧ op ≤ 0x2C then some ⟨[5, 8], true, true, false, 0, 13, true, 2⟩
  else none

/-- Format V and format S have a WIDE bit (R175). -/
def isWide (w : Nat) : Bool :=
  if (vecSpec (wOp w)).isSome then bitAt w 14 else (wOp w == 0x68 || wOp w == 0x69) && bitAt w 31

/-- Width and number of elements of a type, and whether it takes a pair (R178). -/
def typeW (ty : Nat) : Nat := if ty = 0 then 8 else if ty = 1 ∨ ty = 7 then 16 else if ty = 4 ∨ ty = 8 then 64 else 32
def typePair (ty : Nat) : Bool := ty != 2 && ty != 5
def typeN (ty : Nat) : Nat := (if typePair ty then 64 else 32) / typeW ty

/-- The floating-point format of a type. -/
def typeFmt (ty : Nat) : Nat := if ty = 7 then 0x18 else if ty = 8 then 0x1B else 0x1A

/-- A register operand that exists, of one register, a pair or a quad (R200). -/
def regOk (regs n r : Nat) : Bool := r % n == 0 && decide (r + n ≤ regs)

/-- A source of format V: vector register or, with its scalar bit, s0 to s63. -/
def srcOk (regs ty f : Nat) (sc : Bool) : Bool := if sc then decide (f < 64) else regOk regs (if typePair ty then 2 else 1) f

/-- An instruction of the code: its word index, its word, and its extension word. -/
structure LaneInstr where
  ix : Nat
  w : Nat
  ext : Option Nat
deriving DecidableEq, Repr

/-- The instructions of the code from a word index; an extension word is none (R175). -/
def parseLane : Nat → List W64 → List LaneInstr
  | _, [] => []
  | i, [w] => [⟨i, w.toNat, none⟩]
  | i, w :: e :: r =>
    if isWide w.toNat then ⟨i, w.toNat, some e.toNat⟩ :: parseLane (i + 2) r else ⟨i, w.toNat, none⟩ :: parseLane (i + 1) (e :: r)

/-- An extension word is present where WIDE is 1, has bits [63:32] zero, and carries nothing when no immediate uses it (R175, R200). -/
def extOk (x : LaneInstr) (used : Bool) : Bool :=
  if isWide x.w then
    (match x.ext with
      | some e => decide (e < 2 ^ 32) && (used || e == 0)
      | none => false)
  else true

/-- Legality of a format V word (R177 to R184, R200). -/
def vecOk (regs : Nat) (x : LaneInstr) (v : VecSpec) : Bool :=
  let w := x.w
  let ty := bitsOf w 8 4
  let sat := bitsOf w 12 2
  let imm := bitAt w 55
  let imm16 := imm && !bitAt w 14
  let dty := if wOp w = 0x1A then 3 else ty
  v.types.contains ty && decide (sat ≤ v.sat) && (sat != 2 || v.sat == 2) && !bitAt w 15 &&
  (wOp w == 0x0B || bitsOf w 60 4 == 0) && (bitsOf w 56 4 &&& (15 - v.mods)) == 0 &&
  (if v.toPred then decide (bitsOf w 20 8 < 8) else regOk regs (if typePair dty then 2 else 1) (bitsOf w 20 8)) &&
  (if v.a then srcOk regs ty (bitsOf w 28 8) (bitAt w 52) else bitsOf w 28 8 == 0 && !bitAt w 52) &&
  (if imm then v.b && !bitAt w 53 && (imm16 || bitsOf w 36 8 == 0)
   else if v.b then srcOk regs ty (bitsOf w 36 8) (bitAt w 53) else bitsOf w 36 8 == 0 && !bitAt w 53) &&
  (if v.c then !imm16 && (if wOp w = 0x3D then decide (bitsOf w 44 8 < 8) && !bitAt w 54 else srcOk regs dty (bitsOf w 44 8) (bitAt w 54))
   else !bitAt w 54 && (imm16 || bitsOf w 44 8 == 0)) &&
  extOk x imm && (!(imm && ty == 7 && isWide w) || (x.ext.getD 0) % 2 ^ 16 == 0)

/-- The plain formats of lane code: those of R91 with INT16 and INT64 (R185). -/
def lanePlain (c : Nat) : Bool := (fmtLegal c && !fmtBlock c) || c == 0x05 || c == 0x06

/-- A format that takes a pair (R186). -/
def fmtPair (c : Nat) : Bool := c == 0x06 || c == 0x1B

/-- DST_FMT of a format C word (R185). -/
def convDst (w : Nat) : Nat := if bitsOf w 44 2 = 2 then bitsOf w 36 8 else bitsOf w 46 8

/-- Legality of a format C word (R185 to R189, R200). -/
def convOk (regs w : Nat) : Bool :=
  let src := bitsOf w 8 8
  let dst := convDst w
  let kind := bitsOf w 44 2
  let regsOk := regOk regs (if fmtPair dst && wOp w != 0x42 then 2 else 1) (bitsOf w 20 8) &&
    regOk regs (if fmtPair src then 2 else 1) (bitsOf w 28 8)
  bitsOf w 62 2 == 0 && (kind == 2 || bitsOf w 54 8 == 0) && regsOk &&
  (if wOp w = 0x41 then
     (lanePlain src || fmtBlock src) && (lanePlain dst || fmtBlock dst) && kind != 3 &&
       (if kind = 0 then regOk regs 1 (bitsOf w 36 8) else if kind = 1 then decide (bitsOf w 36 8 < 64) else true)
   else
     kind == 0 && bitsOf w 36 8 == 0 && (if wOp w = 0x40 then lanePlain src && lanePlain dst else src == 0x1A && fmtBlock dst))

/-- The address fields of formats M and A: an index register when IDX_EN, nothing otherwise. -/
def idxOk (regs sh ix : Nat) (en : Bool) : Bool := if en then regOk regs 1 ix else sh == 0 && ix == 0

/-- Registers of DATA by SIZE (R190). -/
def dataRegs (size : Nat) : Nat := if size ≤ 2 then 1 else if size = 3 then 2 else 4

/-- Legality of a format M word (R190, R191, R200). -/
def memOk (regs w : Nat) : Bool :=
  let op := wOp w
  let size := bitsOf w 8 3
  let addr := idxOk regs (bitsOf w 14 2) (bitsOf w 34 8) (bitAt w 42)
  bitsOf w 59 5 == 0 && decide (bitsOf w 12 2 ≤ 1) &&
  (if op = 0x50 ∨ op = 0x51 then
     decide (size ≤ 4) && (!bitAt w 11 || (op == 0x50 && decide (size ≤ 1))) && regOk regs (dataRegs size) (bitsOf w 20 8) && addr
   else
     !bitAt w 11 && bitsOf w 12 2 == 0 && bitsOf w 20 8 == 0 &&
       (if op = 0x52 then size == 0 && addr
        else if op = 0x53 then addr
        else decide (size ≤ 1) && bitsOf w 14 2 == 0 && bitsOf w 28 31 == 0))

/-- Legality of a format A word (R190, R200). -/
def atomOk (regs w : Nat) : Bool :=
  let size := bitsOf w 8 3
  let n := dataRegs size
  (size == 2 || size == 3) && decide (bitsOf w 12 2 ≤ 1) && decide (bitsOf w 59 4 ≤ 10) && !bitAt w 63 &&
  regOk regs n (bitsOf w 20 8) &&
  (if bitsOf w 59 4 = 9 then regOk regs n (bitsOf w 28 8) else bitsOf w 28 8 == 0) &&
  (if bitAt w 11 then regOk regs n (bitsOf w 36 8) else bitsOf w 36 8 == 0) &&
  idxOk regs (bitsOf w 14 2) (bitsOf w 50 8) (bitAt w 58)

/-- TARGET and JOIN of a format X word. -/
def xTarget (w : Nat) : Nat := bitsOf w 12 16
def xJoin (w : Nat) : Nat := bitsOf w 28 16

/-- Legality of a format X word but for its region (R196, R200): `words` is CODE_WORDS and `exts` the indices of extension words. -/
def ctlOk (words : Nat) (exts : List Nat) (w : Nat) : Bool :=
  let op := wOp w
  let place := fun (i : Nat) => decide (i ≤ words) && !exts.contains i
  bitsOf w 44 20 == 0 &&
  (if op = 0x60 ∨ op = 0x62 then true else bitsOf w 8 4 == 0) &&
  (if op = 0x60 ∨ op = 0x61 then place (xTarget w) else xTarget w == 0) &&
  (if op = 0x60 then place (xJoin w) else xJoin w == 0)

/-- Legality of a format S word (R197, R200). `MOV` takes B (log 45). -/
def scalOk (x : LaneInstr) : Bool :=
  let w := x.w
  let sop := bitsOf w 8 4
  let imm := bitAt w 30
  let sd := bitsOf w 12 6
  let sa := bitsOf w 18 6
  let sb := bitsOf w 24 6
  let plain := (!imm || sb == 0) && ((imm && !isWide w) || bitsOf w 48 16 == 0) && bitsOf w 32 8 == 0
  let bare := !imm && !isWide w && bitsOf w 48 16 == 0
  bitsOf w 43 5 == 0 && extOk x imm &&
  (if wOp w = 0x69 then decide (sop ≤ 5) && plain && sd == 0
   else
     bitsOf w 40 3 == 0 &&
     (if sop ≤ 8 then plain
      else if sop = 9 then plain && sa == 0
      else if sop = 10 then bare && decide (sa < 8) && sb == 0 && bitsOf w 32 8 == 0
      else if sop = 11 then bare && decide (sd < 8) && sb == 0 && bitsOf w 32 8 == 0
      else sop == 12 && bare && sa == 0))

/-- The vector register that `READLANE` names. -/
def scalRegOk (regs w : Nat) : Bool := !(wOp w == 0x68 && bitsOf w 8 4 == 12) || regOk regs 1 (bitsOf w 32 8)

/-- Legality of an `MMA` word (R198, R200). -/
def mmaOk (regs w : Nat) : Bool :=
  let n := if bitsOf w 8 2 = 3 then 2 else 1
  bitsOf w 10 10 == 0 && bitsOf w 52 12 == 0 && regOk regs 4 (bitsOf w 20 8) && regOk regs n (bitsOf w 28 8) &&
    regOk regs n (bitsOf w 36 8) && regOk regs 4 (bitsOf w 44 8)

/-- Legality of one instruction (R200), all but the regions. -/
def laneOk (regs words : Nat) (exts : List Nat) (x : LaneInstr) : Bool :=
  let op := wOp x.w
  match vecSpec op with
  | some v => vecOk regs x v
  | none =>
    if 0x40 ≤ op ∧ op ≤ 0x42 then convOk regs x.w
    else if 0x50 ≤ op ∧ op ≤ 0x54 then memOk regs x.w
    else if op = 0x58 then atomOk regs x.w
    else if 0x60 ≤ op ∧ op ≤ 0x64 then ctlOk words exts x.w
    else if op = 0x68 ∨ op = 0x69 then scalOk x && scalRegOk regs x.w
    else if op = 0x70 then mmaOk regs x.w
    else false

/-- The region of a branch, as its first word index and its join (R164). -/
def regionOfBra (x : LaneInstr) : Nat × Nat := (min x.ix (xTarget x.w), xJoin x.w)

/-- Two regions are disjoint or one contains the other. -/
def nested (a b : Nat × Nat) : Bool :=
  decide (a.2 ≤ b.1) || decide (b.2 ≤ a.1) || (decide (a.1 ≤ b.1) && decide (b.2 ≤ a.2)) || (decide (b.1 ≤ a.1) && decide (a.2 ≤ b.2))

/-- A word index lies in a region. -/
def inRegion (i : Nat) (r : Nat × Nat) : Bool := decide (r.1 ≤ i) && decide (i < r.2)

/-- The innermost of the regions that contain an index. -/
def innermost (rs : List (Nat × Nat)) (i : Nat) : Option (Nat × Nat) :=
  (rs.filter (inRegion i)).foldl (fun (m : Option (Nat × Nat)) r =>
    match m with
    | none => some r
    | some y => if r.2 - r.1 < y.2 - y.1 then some r else some y) none

/-- The region rules (R164). The end of a region counts as within it, as for a jump (DESIGN CHOICE, log 148). -/
def regionsOk (code : List LaneInstr) : Bool :=
  let bras := code.filter fun x => wOp x.w == 0x60
  let rs := bras.map regionOfBra
  bras.all (fun x => decide (x.ix < xJoin x.w) && decide (xTarget x.w ≤ xJoin x.w)) &&
  rs.all (fun a => rs.all (nested a)) &&
  rs.all (fun a => decide ((rs.filter fun b => inRegion a.1 b).length ≤ 16)) &&
  (code.filter fun x => wOp x.w == 0x61).all fun x =>
    match innermost rs x.ix with
    | some r => decide (r.1 ≤ xTarget x.w) && decide (xTarget x.w ≤ r.2)
    | none => true

/-- The instructions an `ELEMENTWISE` program may not hold (R163). -/
def elemBarred (x : LaneInstr) : Bool :=
  let op := wOp x.w
  (decide (0x50 ≤ op) && decide (op ≤ 0x54)) || op == 0x58 || op == 0x63 || op == 0x70

/-- The code check of R158, and of R163 for an `ELEMENTWISE`. -/
def codeOk (regs : Nat) (isElem : Bool) (code : List W64) : Bool :=
  let xs := parseLane 0 code
  let exts := (xs.filter fun x => x.ext.isSome).map fun x => x.ix + 1
  xs.all (laneOk regs code.length exts) && regionsOk xs && !(isElem && xs.any elemBarred)

end Sys2Proof.Machine
end

