-- ==== Sys2Proof/Machine/Units.lean ====
section
/-! DEFINITION. Which units are fenced (R425, R500), and the sampling of lane instructions (R495, R496). -/

namespace Sys2Proof.Machine

/-- Thread unit `u` of the package works: its compute die and it are not fenced. -/
def State.unitLive (s : State) (u : Nat) : Bool := !(s.integ.computeFenced.getD (u / 64) false) && !s.fenced (u / 64) 0x09 (u % 64)

/-- One step of the register of R496: x^32 + x^22 + x^2 + x + 1, shifted left. -/
def lfsrStep (r : Nat) : Nat := (2 * r + (b2n (bitAt r 31) + b2n (bitAt r 21) + b2n (bitAt r 1) + b2n (bitAt r 0)) % 2) % 2 ^ 32

/-- The register's next output word: 32 steps on (DESIGN CHOICE, log 49). -/
def lfsrNext (r : Nat) : Nat := (List.range 32).foldl (fun x _ => lfsrStep x) r

/-- Bits `[hi:lo]` of SampleControl in effect for P_k (R495). -/
def State.sampleCtl (s : State) (k lo hi : Nat) : Nat := bitsOf (s.effNat 0x9160 (k + 1)) lo (hi + 1 - lo)

/-- A countdown loaded from the register (R496). -/
def sampleLoad (p : Nat) (r : W32) : W32 × Nat :=
  let x := lfsrNext r.toNat
  (BitVec.ofNat 32 x, 2 ^ (p - 1) + x % 2 ^ p)

/-- A unit's sampler when sampling takes effect (R496). -/
def sampleStart (p seed u : Nat) : Sampler :=
  let x := seed ^^^ u
  let l := sampleLoad p (BitVec.ofNat 32 (if x = 0 then 1 else x))
  ⟨l.1, l.2, none⟩

/-- A unit's sampler. -/
def State.sampler (s : State) (u : Nat) : Option Sampler := tabGet none s.threads.samplers u

/-- Replaces a unit's sampler. -/
def State.setSampler (s : State) (u : Nat) (x : Option Sampler) : State :=
  { s with threads := { s.threads with samplers := tabPut none s.threads.samplers u x } }

/-- One skipped sample of P_k (R496, R497). -/
def State.skipSample (s : State) (k : Nat) : State :=
  { s with ctrs := { s.ctrs with skipped := s.ctrs.skipped.set k (s.ctrs.skipped.getD k 0 + 1) } }

/-- The units of P_k sample as SampleControl in effect says, from its latch point (R495, R496). -/
def State.startSampling (s : State) (k : Nat) : State :=
  let on := s.sampleCtl k 0 0 == 1
  (s.stacks k).foldl (fun t n =>
    (List.range 64).foldl (fun (v : State) i =>
      v.setSampler (64 * n + i) (if on then some (sampleStart (s.sampleCtl k 1 5) (s.sampleCtl k 128 159) (64 * n + i)) else none)) t) s

/-- An instruction issued by a unit of P_k for context `c` counts down (R496); at zero it is tagged, or skipped while another is in flight. -/
def State.sampleIssue (s : State) (k u c : Nat) (tag : Tagged) : State :=
  match s.sampler u with
  | none => s
  | some x =>
    if s.sampleCtl k 20 20 = 1 ∧ s.sampleCtl k 8 19 ≠ c then s
    else if 1 < x.countdown then s.setSampler u (some { x with countdown := x.countdown - 1 })
    else
      let l := sampleLoad (s.sampleCtl k 1 5) x.lfsr
      match x.tagged with
      | some _ => (s.skipSample k).setSampler u (some { x with lfsr := l.1, countdown := l.2 })
      | none => s.setSampler u (some ⟨l.1, l.2, some tag⟩)

/-- A tagged instruction that never completes is skipped (R496). -/
def State.dropTag (s : State) (k u : Nat) : State :=
  match s.sampler u with
  | some x => if x.tagged.isSome then (s.skipSample k).setSampler u (some { x with tagged := none }) else s
  | none => s

end Sys2Proof.Machine
end

