-- ==== Sys2Proof/Machine/Threads.lean ====
section
/-! DEFINITION. Thread groups (R147 to R159, R164, R167 to R173): registers, issue, reconvergence, barriers, the end of blocks and
launches, and group faults. -/

namespace Sys2Proof.Machine

def State.group (s : State) (g : Nat) : Option Group := tabGet none s.threads.groups g
def State.block (s : State) (b : Nat) : Option Block := tabGet none s.threads.blocks b
def State.launch (s : State) (l : Nat) : Option Launch := tabGet none s.threads.launches l

def State.setGroup (s : State) (g : Nat) (x : Option Group) : State :=
  { s with threads := { s.threads with groups := tabPut none s.threads.groups g x } }
def State.setBlock (s : State) (b : Nat) (x : Option Block) : State :=
  { s with threads := { s.threads with blocks := tabPut none s.threads.blocks b x } }
def State.setLaunch (s : State) (l : Nat) (x : Option Launch) : State :=
  { s with threads := { s.threads with launches := tabPut none s.threads.launches l x } }

/-- All 64 threads. -/
abbrev allThreads : Nat := 2 ^ 64 - 1

/-- Register `r` of thread `t` (R150). -/
def Group.reg (g : Group) (r t : Nat) : Nat := (tabGet 0#32 g.v (64 * r + t)).toNat

/-- Writes register `r` of thread `t`. -/
def Group.setReg (g : Group) (r t v : Nat) : Group := { g with v := tabPut 0#32 g.v (64 * r + t) (BitVec.ofNat 32 v) }

/-- A register or a pair (R178). -/
def Group.val (g : Group) (pair : Bool) (r t : Nat) : Nat := if pair then g.reg r t + 2 ^ 32 * g.reg (r + 1) t else g.reg r t

/-- Writes a register or a pair. -/
def Group.setVal (g : Group) (pair : Bool) (r t v : Nat) : Group :=
  if pair then (g.setReg r t (v % 2 ^ 32)).setReg (r + 1) t (v / 2 ^ 32) else g.setReg r t v

/-- Scalar and predicate registers. -/
def Group.sc (g : Group) (i : Nat) : Nat := (tabGet 0#64 g.sreg i).toNat
def Group.pr (g : Group) (i : Nat) : Nat := (tabGet 0#64 g.preg i).toNat
def Group.setSc (g : Group) (i v : Nat) : Group := { g with sreg := tabPut 0#64 g.sreg i (BitVec.ofNat 64 v) }
def Group.setPr (g : Group) (i v : Nat) : Group := { g with preg := tabPut 0#64 g.preg i (BitVec.ofNat 64 v) }

/-- The threads an instruction with a guard acts on (R176), in ascending number. -/
def Group.covered (g : Group) (w : Nat) : List Nat :=
  (List.range 64).filter fun t => bitAt g.active.toNat t && (bitAt (g.pr (bitsOf w 16 3)) t != bitAt w 19)

/-- A mask of threads. -/
def maskOf (ts : List Nat) : Nat := ts.foldl (fun m t => m ||| 2 ^ t) 0

/-- The threads of a mask. -/
def threadsOf (m : Nat) : List Nat := (List.range 64).filter (bitAt m)

/-- Exited threads leave the active mask and every mask on the stack (R164). -/
def Group.exitThreads (g : Group) (m : Nat) : Group :=
  let keep := BitVec.ofNat 64 (allThreads - m)
  { g with exited := g.exited ||| BitVec.ofNat 64 m, active := g.active &&& keep,
           stack := g.stack.map fun e => { e with mask := e.mask &&& keep } }

/-- Reconvergence (R164): a path that reaches the end of the code exits (R151); at its join, or with no live thread, a group takes the
entry on top of its stack. -/
def Group.settle (g : Group) (fin : Nat) : Nat → Group
  | 0 => g
  | n + 1 =>
    let h := if fin ≤ g.pc then g.exitThreads g.active.toNat else g
    match h.stack with
    | e :: r => if h.active = 0 ∨ h.pc = h.join then { h with pc := e.resume, active := e.mask, join := e.join, stack := r }.settle fin n else h
    | [] => h

/-- Every thread of a group has exited. -/
def Group.over (g : Group) : Bool := g.exited.toNat == allThreads

/-- What an instruction sees when its group issues it. -/
structure Lane where
  g : Nat
  grp : Group
  blk : Block
  lch : Launch
  w : Nat
  ext : Nat
deriving DecidableEq, Repr

/-- The end of the code (R174). -/
def Launch.codeEnd (l : Launch) : Nat := 8 * l.code.length

/-- REGS of a launch, and its registers per thread rounded up to eight (R150). -/
def Launch.regs (l : Launch) : Nat := if l.isElem then fld l.desc 216 223 else fld l.desc 208 215
def Launch.alloc (l : Launch) : Nat := roundUp l.regs 8
def Launch.groups (l : Launch) : Nat := if l.isElem then 1 else fld l.desc 216 220
def Launch.localBytes (l : Launch) : Nat := if l.isElem then 0 else fld l.desc 384 402

/-- A group that may issue (R148, R167, R195), which none does while the device is stopped (R417): it lives, does not wait at the barrier, and no fault stalls it. -/
def State.laneAt (s : State) (g : Nat) : Option Lane :=
  match if s.powered then s.group g else none with
  | none => none
  | some grp =>
    match s.block grp.blk with
    | none => none
    | some b =>
      match s.launch b.launch with
      | none => none
      | some l =>
        if grp.waiting = 0 ∧ grp.stalled.isEmpty ∧ !grp.over then
          some ⟨g, grp, b, l, (l.code.getD (grp.pc / 8) 0).toNat, (l.code.getD (grp.pc / 8 + 1) 0).toNat⟩
        else none

/-- Where the next instruction in program order starts (R175). -/
def Lane.next (x : Lane) : Nat := x.grp.pc + (if isWide x.w then 16 else 8)

/-- The group past its instruction. -/
def Lane.past (x : Lane) : Group := { x.grp with pc := x.next, replay := none }

/-- Issues in the second slot: everything but vector, conversion and group matrix instructions (R148). -/
def secondSlot (w : Nat) : Bool := decide (0x50 ≤ wOp w) && decide (wOp w < 0x70)

/-- AGENT_ID of a thread unit's cache (R248). -/
def unitAgent (u : Nat) : Nat := 128 * (u / 64) + u % 64

/-- The partition of a thread unit. -/
def State.partOfUnit (s : State) (u : Nat) : Nat := (s.partOfStack (u / 64)).getD 0

/-- An instruction issues: it counts in its slot, and for sampling (R148, R489, R496). -/
def State.noteIssue (s : State) (x : Lane) (va : Nat) (mask : Nat) : State :=
  let s1 := s.countEv (x.blk.unit / 64) (if secondSlot x.w then 0x012 else 0x011) (x.blk.unit % 64) (some x.lch.ctx) 1
  let s2 := if wOp x.w = 0x70 then s1.countEv (x.blk.unit / 64) 0x013 (x.blk.unit % 64) (some x.lch.ctx) 1 else s1
  s2.sampleIssue (s.partOfUnit x.blk.unit) x.blk.unit x.lch.ctx
    ⟨x.g, x.grp.num, secondSlot x.w, x.lch.ctx, x.lch.opIndex, x.grp.pc, BitVec.ofNat 64 mask, va⟩

/-- The live groups of a block with their identifiers. -/
def State.groupsOf (s : State) (b : Block) : List (Nat × Group) := b.groups.filterMap fun g => (s.group g).map fun x => (g, x)

/-- The barrier generation is complete: some thread waits, and every thread has arrived or exited (R167). -/
def barrierDone (gs : List (Nat × Group)) : Bool :=
  gs.any (fun e => e.2.waiting != 0) && gs.all fun e => (e.2.waiting ||| e.2.exited).toNat == allThreads

/-- The generation's deadline pauses while a group with a thread that has not arrived is stalled on a page fault (R168). -/
def barrierPaused (gs : List (Nat × Group)) : Bool :=
  gs.any fun e => !e.2.stalled.isEmpty && (e.2.waiting ||| e.2.exited).toNat != allThreads

/-- The pause count brought up to `now`. -/
def Block.pauseTo (b : Block) (now : Nat) (paused : Bool) : Block :=
  match b.pausedAt with
  | some t => if paused then b else { b with pausedAt := none, pausedNs := b.pausedNs + (now - t) }
  | none => if paused && b.firstAt.isSome then { b with pausedAt := some now } else b

/-- The output registers of an `ELEMENTWISE` group that has ended (R161): outputs of element e are kept at 2 e and 2 e + 1. -/
def Launch.capture (l : Launch) (g : Group) : Launch :=
  match g.elem with
  | some e0 =>
    let n := fld l.desc 224 255 * fld l.desc 256 287
    { l with outs := (List.range 64).foldl (fun o t =>
        if e0 + t < n then
          (tabPut 0#64 (tabPut 0#64 o (2 * (e0 + t)) (BitVec.ofNat 64 (g.val true 8 t))) (2 * (e0 + t) + 1)
            (BitVec.ofNat 64 (g.val true 10 t)))
        else o) l.outs }
  | none => l

/-- The blocks of a launch that are on units. -/
def State.blocksOf (s : State) (l : Nat) : List (Nat × Block) :=
  s.threads.blocks.filterMap fun e =>
    match e.2 with
    | some b => if b.launch = l then some (e.1, b) else none
    | none => none

/-- The value in an output register: an INT32, an FP64 or an FP32 (R161). -/
def outValue (fmt v : Nat) : Num :=
  if fmtInt fmt then ofIntVal (signedOf 32 (v % 2 ^ 32)) else if fmt = cFp64 then decodeFlt cFp64 false v else fp32 (v % 2 ^ 32)

/-- Output `n` of an `ELEMENTWISE` as stored. -/
def elemOut (d : Descriptor) (n : Nat) : Mat :=
  matOf (fld d (256 * n + 832) (256 * n + 895)) (fld d (256 * n + 960) (256 * n + 1007)) (fld d (256 * n + 1008) (256 * n + 1015))
    (fld d (256 * n + 896) (256 * n + 959)) (flag d (256 * n + 1016)) (fld d 256 287)

/-- The outputs of an `ELEMENTWISE` are converted and written when its last element has run (R161). -/
def State.writeOuts (s : State) (l : Launch) : State × Tally :=
  let rows := fld l.desc 224 255
  let cols := fld l.desc 256 287
  (List.range (fld l.desc 211 212)).foldl (fun (a : State × Tally) n =>
    let m := elemOut l.desc n
    let es := (List.range rows).map fun r => (List.range cols).map fun c =>
      let v := outValue m.fmt (tabGet 0#64 l.outs (2 * (r * cols + c) + n)).toNat
      (⟨v, v.isNan, v.isFin⟩ : Elem)
    let wr := m.writeRows 0 es
    (a.1.wrVAll l.ctx wr.1, a.2.join (tallyRows n 0 0 wr.2))) (s, Tally.empty)

/-- The memory that the outputs of an `ELEMENTWISE` take. -/
def elemWrites (d : Descriptor) : List (Nat × Nat × Nat) :=
  (List.range (fld d 211 212)).flatMap fun n => (elemOut d n).writeExtents 0 (fld d 224 255)

/-- A launch has run (R159, R161): its results stand, and its record is due. The bursts that write the outputs of an `ELEMENTWISE` are accesses like any
other: one that faults holds the launch, and one that is refused ends the operation (R214, R215, R295). -/
def State.endLaunch (s : State) (ix : Nat) (l : Launch) : State :=
  if l.isElem then
    match s.newAccess.prepAll l.ctx (elemWrites l.desc) with
    | (s1, some (acc, h)) =>
      let e := s1.faultAt l.ctx (s1.seqAgent l.ctx) l.opIndex acc h (.op l.ctx l.opIndex)
      if h.kind ≤ 5 then e.2.setLaunch ix (some l)
      else (e.2.setLaunch ix none).setFlight l.ctx l.opIndex (.done (endWith (statusOfKind h.kind) e.1))
    | (s1, none) =>
      let r := s1.writeOuts l
      (r.1.setLaunch ix none).setFlight l.ctx l.opIndex (.done (r.2.result 0))
  else (s.setLaunch ix none).setFlight l.ctx l.opIndex (.done (Tally.empty.result 0))

/-- A block whose groups have all exited leaves its unit; the last one ends its launch. -/
def State.endBlock (s : State) (bid : Nat) (b : Block) : State :=
  let s1 := (s.groupsOf b).foldl (fun (t : State) e => t.setGroup e.1 none) s
  let s2 := s1.setBlock bid none
  match s.launch b.launch with
  | none => s2
  | some l =>
    let l1 := (s.groupsOf b).foldl (fun (x : Launch) e => x.capture e.2) l
    if l1.total ≤ l1.nextBlock ∧ (s2.blocksOf b.launch).isEmpty then s2.endLaunch b.launch l1 else s2.setLaunch b.launch (some l1)

/-- What follows any change of a block's groups: its barrier, its pause, its end (R159, R167, R168). -/
def State.refreshBlock (s : State) (bid : Nat) : State :=
  match s.block bid with
  | none => s
  | some b =>
    let fin := match s.launch b.launch with
      | some l => l.codeEnd
      | none => 0
    let gs := s.groupsOf b
    let done := barrierDone gs
    let s1 := if done then gs.foldl (fun (t : State) e => t.setGroup e.1 (some ({ e.2 with waiting := 0 }.settle fin 34))) s else s
    let b1 := if done then { b with firstAt := none, firstPc := 0, pausedAt := none, pausedNs := 0 } else b.pauseTo s.now (barrierPaused gs)
    let s2 := s1.setBlock bid (some b1)
    if (s2.groupsOf b1).all fun e => e.2.over then s2.endBlock bid b1 else s2

/-- An instruction's effect on its group takes hold. -/
def State.retire (s : State) (x : Lane) (h : Group) (va mask : Nat) : State :=
  ((s.noteIssue x va mask).setGroup x.g (some (h.settle x.lch.codeEnd 34))).refreshBlock x.grp.blk

/-- Runs an instruction that touches only its group's registers: `is` names its words. -/
def State.laneReg (s : State) (g : Nat) (is : Nat → Bool) (f : Lane → Group → Group) : State :=
  match s.laneAt g with
  | some x => if is x.w then s.retire x (f x x.past) 0 (maskOf (x.grp.covered x.w)) else s
  | none => s

/-- Every block of a launch leaves its unit, with its groups; tagged instructions in flight are skipped (R170, R496). -/
def State.clearLaunch (s : State) (ix : Nat) : State :=
  let s1 := (s.blocksOf ix).foldl (fun (t : State) e =>
    let t1 := e.2.groups.foldl (fun (u : State) g => u.setGroup g none) t
    let tagHere := match t1.sampler e.2.unit with
      | some y => (match y.tagged with | some z => e.2.groups.contains z.group | none => false)
      | none => false
    (if tagHere then t1.dropTag (s.partOfUnit e.2.unit) e.2.unit else t1).setBlock e.1 none) s
  s1.setLaunch ix none

/-- A launch stops and its operation ends with a result (R170). -/
def State.stopLaunch (s : State) (ix : Nat) (r : OpResult) : State :=
  match s.launch ix with
  | some l => (s.clearLaunch ix).setFlight l.ctx l.opIndex (.done r)
  | none => s

/-- The area of one group in a dump (R173). -/
def groupDump (a : Nat) (g : Group) : List Byte :=
  ((List.range (64 * a)).flatMap fun i => leBytes (tabGet 0#32 g.v i).toNat 4) ++
  ((List.range 64).flatMap fun i => leBytes (g.sc i) 8) ++ ((List.range 8).flatMap fun i => leBytes (g.pr i) 8) ++
  leBytes g.pc 8 ++ leBytes g.active.toNat 8 ++ leBytes g.exited.toNat 8 ++ leBytes g.join 8 ++ leBytes g.stack.length 8 ++
  List.replicate 24 0 ++
  ((List.range 32).flatMap fun i =>
    match g.stack.reverse[i]? with
    | some e => leBytes e.resume 4 ++ leBytes e.join 4 ++ leBytes e.mask.toNat 8
    | none => List.replicate 16 0)

/-- The dump of a block (R173), when DUMP_ADDR is not zero. -/
def State.dumpBlock (s : State) (l : Launch) (b : Block) : State :=
  let at_ := fld l.desc 448 511
  if l.isElem ∨ at_ = 0 then s
  else
    (s.updCtx l.ctx fun x => { x with dumpLost := false }).postRecord l.ctx at_
      (((s.groupsOf b).flatMap fun e => groupDump l.alloc e.2) ++ tabGetList 0 b.store 0 l.localBytes) dumpMark

/-- Block coordinates (R159). -/
def blockX (l : Launch) (n : Nat) : Nat := n % fld l.desc 320 351
def blockY (l : Launch) (n : Nat) : Nat := n / fld l.desc 320 351 % fld l.desc 352 367
def blockZ (l : Launch) (n : Nat) : Nat := n / fld l.desc 320 351 / fld l.desc 352 367

/-- A group fault record (R172). `miss` are the masks of bits [1535:512], by group. -/
def groupFaultRecord (l : Launch) (b : Block) (kind grp pc dl act missGroups now : Nat) (miss : List (Nat × Nat)) : Nat :=
  l.opIndex % 2 ^ 64 + l.ctx * 2 ^ 64 + kind * 2 ^ 80 + blockX l b.num % 2 ^ 32 * 2 ^ 96 + blockY l b.num * 2 ^ 128 +
    blockZ l b.num % 2 ^ 16 * 2 ^ 144 + grp * 2 ^ 160 + (b.unit / 64) * 2 ^ 168 + (b.unit % 64) * 2 ^ 176 + pc * 2 ^ 192 + dl * 2 ^ 224 +
    act * 2 ^ 256 + missGroups * 2 ^ 320 + now % 2 ^ 64 * 2 ^ 384 + dTag l.desc * 2 ^ 448 +
    (miss.foldl (fun a e => a + e.2 * 2 ^ (64 * e.1)) 0) * 2 ^ 512 + b2n (fld l.desc 448 511 != 0) * 2 ^ 1536

/-- A group fault (R170, R172): the dump, the record, and the end of the operation with the record's index. -/
def State.groupFault (s : State) (ix : Nat) (l : Launch) (b : Block) (status rec : Nat) : State :=
  let s1 := s.dumpBlock l b
  let x := s1.ctx l.ctx
  let i := x.cnt.groupFaults
  let s2 := s1.setCtx l.ctx { x with cnt := { x.cnt with groupFaults := i + 1 } }
  let base := x.regs.groupFault.eff.toNat
  let s3 := if base = 0 then s2 else s2.postRecord l.ctx (base + 256 * (i.toNat % 16)) (leBytes rec 256) groupMark
  s3.stopLaunch ix (endWith status i.toNat)

/-- An access of a group that cannot be served ends the operation (R170, R195, R295, R297): the dump is written, and DETAIL is the INDEX of
the fault record; no group fault record names such an access (DEDUCED, log 48). -/
def State.accessFault (s : State) (ix status index : Nat) (bid : Nat) : State :=
  match s.launch ix, s.block bid with
  | some l, some b => (s.dumpBlock l b).stopLaunch ix (endWith status index)
  | _, _ => s

/-- BARRIER_DEADLINE_US in effect (R156). -/
def Launch.deadlineUs (l : Launch) : Nat := if fld l.desc 416 447 = 0 then 10000 else fld l.desc 416 447

/-- The threads of a group that have neither arrived nor exited. -/
def Group.missing (g : Group) : Nat := allThreads - (g.waiting ||| g.exited).toNat

/-- When the deadline of a block's barrier generation expires, while one is pending and not paused (R168). -/
def Block.expiresAt (b : Block) (l : Launch) : Option Nat :=
  match b.firstAt, b.pausedAt with
  | some t, none => some (t + 1000 * l.deadlineUs + b.pausedNs)
  | _, _ => none

/-- The block of an operation whose deadline expires first, no later than `b`'s at `due`: of those at one time the lowest linear block number (R171). -/
def State.firstExpired (s : State) (l : Launch) (b : Block) (due : Nat) : Block × Nat :=
  (s.threads.blocks.filterMap Prod.snd).foldl (fun (a : Block × Nat) y =>
    match y.expiresAt l with
    | some t => if y.launch = b.launch ∧ (t < a.2 ∨ (t = a.2 ∧ y.num < a.1.num)) then (y, t) else a
    | none => a) (b, due)

/-- `BARRIER_TIMEOUT` (R168, R169, R171): the deadline of a block's barrier generation expires; an earlier one of its operation, or one of a lower block
at the same time, is the one that faults (log 186). -/
def execBarrierTimeout (blk : Nat) (s : State) : Res :=
  match s.block blk with
  | none => .next s
  | some b0 =>
    match s.launch b0.launch with
    | none => .next s
    | some l =>
    match b0.expiresAt l with
    | some t =>
      let e := s.firstExpired l b0 t
      let b := e.1
      let s1 := s.advance e.2
      let miss := ((s.groupsOf b).filter fun e => e.2.missing != 0).map fun e => (e.2.num, e.2.missing)
      let mg := miss.foldl (fun a e => a ||| 2 ^ e.1) 0
      .next (s1.groupFault b.launch l b 0x0702
        (groupFaultRecord l b 2 ((miss.map Prod.fst).headD 0) b.firstPc l.deadlineUs 0 mg s1.now miss))
    | none => .next s

/-- A sample record (R497). -/
def sampleRecord (u : Nat) (x : Tagged) (m : SampleMeasure) (now : Nat) : Nat :=
  0x40 + (u / 64) * 2 ^ 8 + (u % 64) * 2 ^ 11 + x.num * 2 ^ 17 + b2n x.second * 2 ^ 21 + x.ctx * 2 ^ 32 + x.opIndex % 2 ^ 64 * 2 ^ 64 +
    x.pc % 2 ^ 32 * 2 ^ 128 + satTo 16 m.waitCycles * 2 ^ 160 + satTo 16 m.latency * 2 ^ 176 + m.servedBy.val * 2 ^ 192 +
    b2n m.tlbMiss * 2 ^ 195 + b2n m.faultStalled * 2 ^ 196 + x.mask.toNat * 2 ^ 224 + x.va % 2 ^ 64 * 2 ^ 288 + now % 2 ^ 64 * 2 ^ 352

/-- `SAMPLE_RECORD_WRITE` (R497): the tagged instruction of a unit completes. -/
def execSampleRecordWrite (u : Fin 512) (m : SampleMeasure) (s : State) : Res :=
  match s.sampler u with
  | none => .next s
  | some x =>
    match x.tagged with
    | none => .next s
    | some t =>
      let k := s.partOfUnit u
      let s1 := s.setSampler u (some { x with tagged := none })
      let n := s.ctrs.produced.getD k 0
      let size := 2 ^ s.sampleCtl k 24 28
      if w32Diff n (BitVec.ofNat 32 (s.effNat 0x9162 (k + 1))) = size then .next (s1.skipSample k)
      else
        let pa := s.sampleCtl k 64 115 + 64 * (n.toNat % size)
        let s2 := (s1.wrHome pa (leBytes (sampleRecord u t m s.now) 64))
        let s3 := { s2 with ctrs := { s2.ctrs with produced := s2.ctrs.produced.set k (n + 1) } }
        .next (if s.sampleCtl k 47 47 = 1 then s3.raise (s.sampleCtl k 32 44) else s3)

end Sys2Proof.Machine
end

