-- ==== Sys2Proof/Machine/Streams.lean ====
section
/-! DEFINITION. `STREAM` (R201 to R206), stream programs (R207 to R212), bursts (R213, R214, R217 to R220) and the hamper (R223 to R228). -/

namespace Sys2Proof.Machine

def xOp (w : Nat) : Nat := bitsOf w 0 8

/-- Source, target and index endpoint of a transfer word (R208). -/
def isXfer (w : Nat) : Bool := xOp w == 0x01 || xOp w == 0x02
def xSrcSlot (w : Nat) : Nat := if xOp w = 1 then bitsOf w 11 2 else bitsOf w 17 2
def xDstSlot (w : Nat) : Nat := if xOp w = 1 then bitsOf w 16 2 else bitsOf w 22 2
def xDstAr (w : Nat) : Nat := if xOp w = 1 then bitsOf w 13 3 else bitsOf w 19 3
def xLen (w : Nat) : Nat := if xOp w = 1 then bitsOf w 18 4 else bitsOf w 24 4
def xIncDst (w : Nat) : Bool := if xOp w = 1 then bitAt w 23 else bitAt w 34

/-- KIND of an endpoint (R203). -/
def epKind (e : W64) : Nat := bitsOf e.toNat 0 4
def epFabric (e : W64) : Nat := bitsOf e.toNat 8 20
def epContext (e : W64) : Nat := bitsOf e.toNat 32 12

/-- END and CTR of a `LOOP` word (R209). -/
def lEnd (w : Nat) : Nat := bitsOf w 11 5
def lCtr (w : Nat) : Nat := bitsOf w 8 3

/-- The loops of a program: index, end and counter. -/
def progLoops (ws : List W64) : List (Nat × Nat × Nat) :=
  (ws.zipIdx.filter fun e => xOp e.1.toNat == 0x08).map fun e => (e.2, lEnd e.1.toNat, lCtr e.1.toNat)

/-- The loops whose body holds word `i`. -/
def enclosing (ls : List (Nat × Nat × Nat)) (i : Nat) : List (Nat × Nat × Nat) := ls.filter fun l => decide (l.1 < i) && decide (i ≤ l.2.1)

/-- Legality of a transfer word (R208, R210). -/
def xferOk (eps : List W64) (w : Nat) : Bool :=
  let k := fun (i : Nat) => epKind (eps.getD i 0)
  (if xOp w = 1 then bitsOf w 24 40 == 0 else bitsOf w 35 29 == 0 && k (bitsOf w 11 2) == 1) &&
  decide (6 ≤ xLen w) && decide (xLen w ≤ 12) && k (xSrcSlot w) == 1 && k (xDstSlot w) != 0 &&
  (k (xDstSlot w) != 2 || (xDstAr w == 0 && !xIncDst w))

/-- Legality of a `LOOP` word at index `i` (R209, R210); an END that names an inner LOOP's own word is refused (DEDUCED, log 163). -/
def loopOk (n i : Nat) (ls : List (Nat × Nat × Nat)) (w : Nat) : Bool :=
  let outer := enclosing ls i
  decide (lCtr w ≤ 5) && bitsOf w 20 12 == 0 && (if bitAt w 16 then bitsOf w 32 32 == 0 else bitsOf w 17 3 == 0) &&
  decide (i < lEnd w) && decide (lEnd w < n) &&
  ls.all (fun l => !(decide (i < l.1) && decide (l.1 ≤ lEnd w) && decide (lEnd w < l.2.1))) &&
  outer.all (fun l => l.2.2 != lCtr w) && decide (outer.length < 6)

/-- Legality of a program word (R207 to R210). -/
def progWordOk (eps : List W64) (n i : Nat) (ls : List (Nat × Nat × Nat)) (w : Nat) : Bool :=
  if isXfer w then xferOk eps w
  else if xOp w = 0x08 then loopOk n i ls w
  else if xOp w = 0x10 then bitsOf w 14 10 == 0
  else if xOp w = 0x11 then bitsOf w 17 7 == 0 && (enclosing ls i).any fun l => l.2.2 == bitsOf w 14 3
  else if xOp w = 0x12 then bitsOf w 14 10 == 0 && bitsOf w 24 40 != 0
  else xOp w == 0x18 && w == 0x18

/-- The code check of R210. -/
def progOk (eps ws : List W64) : Bool :=
  ws.zipIdx.all fun e => progWordOk eps ws.length e.2 (progLoops ws) e.1.toNat

/-- A hamper program: every endpoint it names as a target is a hamper (R206). -/
def isHamperProg (eps ws : List W64) : Bool :=
  ws.all fun w => !isXfer w.toNat || epKind (eps.getD (xDstSlot w.toNat) 0) == 2

def State.inst (s : State) (i : Nat) : Option Instance := tabGet none s.streams.insts i
def State.setInst (s : State) (i : Nat) (x : Option Instance) : State :=
  { s with streams := { s.streams with insts := tabPut none s.streams.insts i x } }

/-- An instance whose unit runs: a stopped device runs none (R417). -/
def State.liveInst (s : State) (i : Nat) : Option Instance := if s.powered then s.inst i else none

/-- The instances that run, with their numbers. -/
def State.instList (s : State) : List (Nat × Instance) := s.streams.insts.filterMap fun e => e.2.map fun x => (e.1, x)

/-- Some instance runs on a stream unit of P_k. -/
def State.streamsBusy (s : State) (k : Nat) : Bool :=
  (s.instList.any fun e => s.partOfStack (e.2.unit / 16) == some k) ||
    s.power.gated.any fun u => match u with
      | .streamUnit v => decide (12 ≤ v.val % 16) && s.partOfStack (v / 16) == some k
      | _ => false

def streamFields : List (Nat × Nat) :=
  [(128, 191), (192, 196), (200, 205), (1152, 1183), (1184, 1215), (1216, 1247), (704, 767), (768, 831), (832, 895)] ++
  ((List.range 7).map fun r => (64 * r + 256, 64 * r + 319)) ++
  ((List.range 4).flatMap fun e => [(64 * e + 896, 64 * e + 899), (64 * e + 904, 64 * e + 923), (64 * e + 928, 64 * e + 939)])

/-- The endpoints of a descriptor. -/
def streamEps (d : Descriptor) : List W64 := (List.range 4).map fun e => BitVec.ofNat 64 (fld d (64 * e + 896) (64 * e + 959))

/-- BAD_FIELD of a `STREAM`, but for its program (R203, R205), in a partition of `n` stacks. -/
def streamBadField (d : Descriptor) (n : Nat) : Reject :=
  let soft := fld d 1152 1183
  badField
    ([badAddr d 128 64, (fld d 200 205 == 0 || decide (4 * n < fld d 200 205), 200),
      (soft != 0 && (decide (soft < 10) || decide (4294967294 < soft)), 1152)] ++
     (List.range 4).flatMap fun e =>
       let k := fld d (64 * e + 896) (64 * e + 899)
       [(decide (3 < k), 64 * e + 896), (k != 3 && fld d (64 * e + 904) (64 * e + 923) != 0, 64 * e + 904),
        (k != 3 && fld d (64 * e + 928) (64 * e + 939) != 0, 64 * e + 928)])

/-- A deadline of the descriptor, or the dictionary's for P_k (R222). -/
def State.deadlineOf (s : State) (k ix v : Nat) : Nat := if v = 0 then s.effNat ix (k + 1) else v

/-- Instance `i` of a `STREAM` on P_k (R204). -/
def State.newInst (s : State) (c ix k i : Nat) (d : Descriptor) (ws : List W64) : Instance :=
  let st := s.stacks k
  let q := i % st.length
  let u := i / st.length
  let a := ((List.range 7).map fun r => BitVec.ofNat 64 (fld d (64 * r + 256) (64 * r + 319))) ++
    [BitVec.ofNat 64 (fld d 704 767 + q * fld d 768 831 + u * fld d 832 895)]
  { ctx := c, opIndex := ix, unit := 16 * st.getD q 0 + 12 + u, hamper := isHamperProg (streamEps d) ws, words := ws, pc := 0, loops := [],
    a := a, init := a, c := List.replicate 6 0, eps := streamEps d, bursts := [], indexStall := none, syncing := false,
    softUs := s.deadlineOf k 0x3040 (fld d 1152 1183), hardInt := s.deadlineOf k 0x3041 (fld d 1184 1215),
    hardExt := s.deadlineOf k 0x3042 (fld d 1216 1247) }

/-- The instances of a `STREAM` start (R204, R206). -/
def State.startStream (s : State) (c ix k : Nat) (d : Descriptor) (ws : List W64) : State × FlightSt :=
  let n := fld d 200 205
  let base := s.streams.nextId
  let s1 := (List.range n).foldl (fun (t : State) i => t.setInst (base + i) (some (s.newInst c ix k i d ws)))
    { s with streams := { s.streams with nextId := base + n } }
  (s1, if isHamperProg (streamEps d) ws then .done (endWith 0 0) else .streaming)

/-- `STREAM` (R205, R206): validated, its program read and checked, then accepted when the units are idle. -/
def runStream : RunOp := fun s c ix d =>
  let k := s.partOfCtx c
  match (headerCheck d streamFields).orElse (streamBadField d (s.stacks k).length) with
  | some r => rejected s r
  | none =>
    let n := if fld d 192 196 = 0 then 32 else fld d 192 196
    match s.prep c accCode (fld d 128 191) (8 * n) with
    | (s1, some h) => s1.opFault c ix accCode h
    | (s1, none) =>
      let ws := (List.range n).map fun i => BitVec.ofNat 64 (s1.rdVNat c (fld d 128 191 + 8 * i) 8)
      if !progOk (streamEps d) ws then rejected s1 (0x0104, 128)
      else if (streamEps d).any (fun e => epKind e == 3) && !s.jobComplete c then rejected s1 (0x0410, 2)
      else if s1.streamsBusy k then (s1, .streamWait)
      else s1.startStream c ix k d ws

/-- `STREAM` taken. -/
def execStream (p : Fin 8) (s : State) : Res := .next (s.takeOp p 0x0C runStream)

/-- A `STREAM` that waited for its units starts when they are idle (R206). -/
def State.wakeStream (s : State) (k : Nat) : State :=
  match (s.part k).running with
  | none => s
  | some c =>
    match (s.ctx c).flights with
    | f :: _ =>
      if f.st == .streamWait && !s.streamsBusy k then
        let r := runStream s c f.opIndex f.desc
        r.1.setFlight c f.opIndex r.2
      else s
    | [] => s

/-- A stream unit has woken (R206, R408): a `STREAM` that waited for it starts. -/
def State.wakeUnit (s : State) (v : Nat) : State :=
  match s.partOfStack (v / 16) with
  | some k => s.wakeStream k
  | none => s

/-- Every instance of an operation leaves its unit; its uncommitted bursts go with it (R214, R220). -/
def State.dropInsts (s : State) (c ix : Nat) : State :=
  let gone := s.instList.filter fun e => e.2.ctx == c && e.2.opIndex == ix
  let s1 := gone.foldl (fun (t : State) e => t.setInst e.1 none) s
  match gone with
  | e :: _ =>
    match s.partOfStack (e.2.unit / 16) with
    | some k => s1.wakeStream k
    | none => s1
  | [] => s1

/-- A synchronous `STREAM` stops with a result (R214, R220). -/
def State.stopStream (s : State) (c ix : Nat) (r : OpResult) : State := (s.setFlight c ix (.done r)).dropInsts c ix

/-- Closes every loop whose body has just ended (R211). -/
def closeLoops : Nat → Nat → List LoopRec → List W32 → Nat × List LoopRec × List W32
  | 0, pc, ls, c => (pc, ls, c)
  | n + 1, pc, ls, c =>
    match ls with
    | l :: r =>
      if pc = l.stop + 1 then
        let v := (c.getD l.ctr 0) + 1
        let c1 := c.set l.ctr v
        if v.toNat < l.count then (l.start + 1, ls, c1) else closeLoops n pc r c1
      else (pc, ls, c)
    | [] => (pc, ls, c)

/-- An instance past its instruction (R211). -/
def Instance.past (x : Instance) : Instance :=
  let r := closeLoops 7 (x.pc + 1) x.loops x.c
  { x with pc := r.1, loops := r.2.1, c := r.2.2 }

/-- An instance has ended: its program is done and its last burst is committed (R211). -/
def Instance.over (x : Instance) : Bool := decide (x.words.length ≤ x.pc) && x.bursts.isEmpty

/-- What follows a change of an instance: a `SYNC` is satisfied, or the instance ends and with the last one its operation (R206). -/
def State.putInst (s : State) (i : Nat) (x : Instance) : State :=
  if x.over then
    let s1 := s.setInst i none
    if s1.instList.any fun e => e.2.ctx == x.ctx && e.2.opIndex == x.opIndex then s1
    else
      let s2 := if x.hamper then s1 else s1.setFlight x.ctx x.opIndex (.done (endWith 0 0))
      match s.partOfStack (x.unit / 16) with
      | some k => s2.wakeStream k
      | none => s2
  else s.setInst i (some { x with syncing := x.syncing && !x.bursts.isEmpty })

/-- Runs the next word of an instance when its opcode is `op`. -/
def State.streamReg (s : State) (i op : Nat) (f : Instance → Nat → Instance) : State :=
  match s.liveInst i with
  | none => s
  | some x =>
    let w := (x.words.getD x.pc 0).toNat
    if x.pc < x.words.length ∧ xOp w = op then s.putInst i (f x w) else s

/-- An address register of an instance. -/
def Instance.ar (x : Instance) (r : Nat) : Nat := (x.a.getD r 0).toNat
def Instance.setAr (x : Instance) (r v : Nat) : Instance := { x with a := x.a.set r (BitVec.ofNat 64 v) }

/-- `LOOP` (R211): a count of zero skips the body, and nothing is closed there, as the algorithm is written (DEDUCED, log 51). -/
def execLoop (i : Nat) (s : State) : Res :=
  .next (s.streamReg i 0x08 fun x w =>
    let n := if bitAt w 16 then x.ar (bitsOf w 17 3) % 2 ^ 32 else bitsOf w 32 32
    let y := { x with c := x.c.set (lCtr w) 0 }
    if n = 0 then { y with pc := lEnd w + 1 } else ({ y with loops := ⟨lCtr w, x.pc, lEnd w, n⟩ :: y.loops }).past)

/-- IMM of a register word, sign-extended (R209). -/
def immS (w : Nat) : Int := signedOf 40 (bitsOf w 24 40)

/-- `ADD` (R207). -/
def execAdd (i : Nat) (s : State) : Res :=
  .next (s.streamReg i 0x10 fun x w => (x.setAr (bitsOf w 8 3) (((x.ar (bitsOf w 11 3) : Int) + immS w) % (2 ^ 64 : Int)).toNat).past)

/-- `MADD` (R207). -/
def execMadd (i : Nat) (s : State) : Res :=
  .next (s.streamReg i 0x11 fun x w =>
    (x.setAr (bitsOf w 8 3) (((x.ar (bitsOf w 11 3) : Int) + ((x.c.getD (bitsOf w 14 3) 0).toNat : Int) * immS w) % (2 ^ 64 : Int)).toNat).past)

/-- `WRAP` (R207). -/
def execWrap (i : Nat) (s : State) : Res :=
  .next (s.streamReg i 0x12 fun x w =>
    let init := (x.init.getD (bitsOf w 8 3) 0).toNat
    (x.setAr (bitsOf w 8 3) (init + (x.ar (bitsOf w 11 3) + 2 ^ 64 - init) % 2 ^ 64 % bitsOf w 24 40)).past)

/-- `SYNC` (R207). -/
def execSync (i : Nat) (s : State) : Res := .next (s.streamReg i 0x18 fun x _ => { x with syncing := true }.past)

/-- A transfer may issue: no `SYNC` holds it, fewer than 32 bursts are in flight (R202, R207, R211), and no fault stalls the instance's index read (R217). -/
def Instance.mayIssue (x : Instance) : Bool := !(x.syncing && !x.bursts.isEmpty) && decide (x.bursts.length < 32) && x.indexStall.isNone

/-- The agent whose accesses a stream unit makes: the stack cache of its die (R248). -/
def streamAgent (u : Nat) : Nat := 128 * (u / 16) + 64

/-- A burst issued by an instance for transfer word `w`, between two addresses (R208, R213). -/
def State.issueBurst (s : State) (i : Nat) (x : Instance) (w src dst : Nat) : State :=
  let n := s.streams.nextId
  let len := 2 ^ xLen w
  let b : Burst := ⟨n, src / 64 * 64, dst / 64 * 64, len, xDstSlot w, s.now, 0, [], false, false⟩
  let y := if xIncDst w then x.setAr (xDstAr w) (x.ar (xDstAr w) + len) else x
  ({ s with streams := { s.streams with nextId := n + 1 } }).putInst i ({ y with bursts := y.bursts ++ [b] }.past)

/-- `XFER` (R208). -/
def execXfer (i : Nat) (s : State) : Res :=
  match s.liveInst i with
  | none => .next s
  | some x =>
    let w := (x.words.getD x.pc 0).toNat
    if x.pc < x.words.length ∧ xOp w = 0x01 ∧ x.mayIssue then
      let src := x.ar (bitsOf w 8 3)
      let y := if bitAt w 22 then x.setAr (bitsOf w 8 3) (src + 2 ^ xLen w) else x
      .next (s.issueBurst i y w src (x.ar (xDstAr w)))
    else .next s

/-- A refused access of an instance's own: it waits on the record, or its operation ends (R214, R217, R297). -/
def State.instFault (s : State) (i n acc : Nat) (x : Instance) (h : Hit) : State × Option Nat :=
  let e := s.faultAt x.ctx (streamAgent x.unit) x.opIndex acc h (.burst i n)
  if h.kind ≤ 5 then (e.2, some e.1) else (e.2.stopStream x.ctx x.opIndex (endWith (statusOfKind h.kind) e.1), none)

/-- A dropped hamper prefetch of a stream unit is counted (R227, R489). -/
def State.countDrop (s : State) (u : Nat) (c : Option Nat) : State :=
  ({ s with streams := { s.streams with dropped := s.streams.dropped + 1 } }).countEv (u / 16) 0x022 (u % 16) c 1

/-- `n` bytes of a context can be read now: mapped with the read right, backed and neither lost nor uncorrectable; nothing is allocated or recorded
(R227). -/
def State.readable (s : State) (c va n : Nat) : Bool :=
  [va, va + (n - 1)].all fun a =>
    match s.look c a with
    | .leaf pa r _ _ => rightsOk r 1 && s.backed pa && (s.dirOf (pa / 128)).st != .l && !s.deadOwned (pa / 128) && (s.badIn (pa / 128) (pa / 128)).isNone
    | _ => false

/-- The walk and the home accesses of a read of a stream unit that may not fault: the translation is cached, and the page counted (R289, R290, R302). -/
def State.walkFor (s : State) (u c va n : Nat) : State := (s.cacheWalk (streamAgent u) c va).countPage (streamAgent u) c va (s.tr c va) n

/-- `GATHER` (R208): the index is read, then a burst issued from base + index × 2^SHIFT. A fault of the read stalls the instance (R217, R293); a hamper
program whose index cannot be read drops the burst, and allocates nothing (R227). -/
def execGather (i : Nat) (s : State) : Res :=
  match s.liveInst i with
  | none => .next s
  | some x =>
    let w := (x.words.getD x.pc 0).toNat
    if x.pc < x.words.length ∧ xOp w = 0x02 ∧ x.mayIssue then
      let n := if bitAt w 13 then 8 else 4
      let ia := x.ar (bitsOf w 8 3)
      let y := x.setAr (bitsOf w 8 3) (ia + n)
      let go := fun (t : State) =>
        t.issueBurst i y w ((y.ar (bitsOf w 14 3) + leNat (t.rdVAt (streamAgent x.unit) x.ctx ia n) * 2 ^ bitsOf w 28 6) % 2 ^ 64) (y.ar (xDstAr w))
      if x.hamper then .next (if s.readable x.ctx ia n then go (s.walkFor x.unit x.ctx ia n) else (s.countDrop x.unit (some x.ctx)).putInst i y.past)
      else
        match s.prepAt (streamAgent x.unit) x.ctx accRead ia n with
        | (s1, none) => .next (go s1)
        | (s1, some h) =>
          match s1.instFault i s.streams.nextId accRead x h with
          | (s2, some ix) => .next ({ s2 with streams := { s2.streams with nextId := s2.streams.nextId + 1 } }.setInst i (some { x with indexStall := some ix }))
          | (s2, none) => .next s2
    else .next s

/-- Bytes of one side of a stack's hamper (R223, R229). -/
def State.sideLines (s : State) (n : Nat) : Nat :=
  match s.partOfStack n with
  | some k => s.effNat 0x3031 (k + 1) * 2 ^ 18
  | none => 0

/-- The fill side of a stack's hamper (R223): side 1 before latch point 0 (DESIGN CHOICE, log 165). -/
def State.fillSide (s : State) (n : Nat) : Nat :=
  match s.partOfStack n with
  | some k => ((s.part k).latchCount + 1) % 2
  | none => 0

/-- The lines of a burst that a translated range covers, whole even where the burst covers half of one (DESIGN CHOICE, log 164). -/
def State.burstLines (s : State) (c : Nat) (b : Burst) : List Nat := ((List.range (b.len / 64)).map fun j => s.tr c (b.src + 64 * j) / 128).eraseDups

/-- Every page of a burst's source is mapped with the read right and holds readable data that a cache may hold (R249); nothing is allocated or recorded
(R227). -/
def State.prefetchable (s : State) (c : Nat) (b : Burst) : Bool :=
  (List.range (b.len / 64)).all fun j => s.readable c (b.src + 64 * j) 64 && !ioAddr (s.tr c (b.src + 64 * j))

/-- A hamper prefetch is placed in the fill side of the stack that runs it, whose hamper the homes then record as a sharer, or dropped (R224, R226, R227); none
while a home cannot serve one of its lines yet, and it waits there (R250). -/
def State.placePrefetch (s0 : State) (x : Instance) (b : Burst) : Option State :=
  let s := if s0.prefetchable x.ctx b then
      (List.range ((b.len + 127) / 128)).foldl (fun (t : State) j => t.walkFor x.unit x.ctx (b.src + 128 * j) 64) s0
    else s0
  let n := x.unit / 16
  let side := s.fillSide n
  let ls := s.burstLines x.ctx b
  let held := s.streams.hamper.filter fun h => h.stack == n && h.side == side
  let fresh := ls.filter fun l => !(held.any fun h => h.line == l)
  let r := fresh.foldl (fun (t : State × Bool) l => if t.2 then t.1.shareHamper n side l else t) (s, true)
  if !(s0.prefetchable x.ctx b && decide (held.length + fresh.length ≤ s.sideLines n)) then some (s.countDrop x.unit (some x.ctx))
  else if r.2 then some r.1
  else none

/-- The packets of a burst to another package (R319): one, or two halves when it does not fit in one payload. -/
def State.sendBurst (s : State) (x : Instance) (b : Burst) (d : List Byte) : State :=
  let e := x.eps.getD b.dstSlot 0
  let num := b.num % 2 ^ 28
  if b.len ≤ 2048 then s.send 1 (epFabric e) (epContext e) x.ctx b.dst num d
  else
    (s.send 1 (epFabric e) (epContext e) x.ctx b.dst (num + 2 * 2 ^ 28) (d.take (b.len / 2))).send 1 (epFabric e) (epContext e) x.ctx
      (b.dst + b.len / 2) (num + 3 * 2 ^ 28) (d.drop (b.len / 2))

/-- The oldest burst of an instance is committed. -/
def State.dropHead (s : State) (i : Nat) (x : Instance) : State :=
  (s.countEv (x.unit / 16) 0x020 (x.unit % 16) (some x.ctx) 1).putInst i { x with bursts := x.bursts.drop 1 }

/-- A burst stalls on a fault record (R217, R219). -/
def stallBurst (x : Instance) (ix now : Nat) : Instance :=
  { x with bursts := match x.bursts with
    | b :: r => { b with stalled := [ix], pausedAt := now } :: r
    | [] => [] }

/-- `BURST_COMMIT` (R212 to R214): the oldest burst of an instance has arrived whole and commits. -/
def execBurstCommit (i : Nat) (s : State) : Res :=
  match s.liveInst i with
  | none => .next s
  | some x =>
    match x.bursts with
    | [] => .next s
    | b :: _ =>
      let t := s.newAccess
      if !b.stalled.isEmpty || b.sent then .next s
      else if x.hamper then
        match t.placePrefetch x b with
        | some u => .next (u.dropHead i x)
        | none => .next s
      else
        let kind := epKind (x.eps.getD b.dstSlot 0)
        let need := (accRead, b.src, b.len) :: (if kind = 1 then [(accWrite, b.dst, b.len)] else [])
        match t.prepAllAt (streamAgent x.unit) x.ctx need with
        | (s1, some (acc, h)) =>
          match s1.instFault i b.num acc x h with
          | (s2, some ix) => .next (s2.setInst i (some (stallBurst x ix s2.now)))
          | (s2, none) => .next s2
        | (s1, none) =>
          let d := s1.rdVAt (streamAgent x.unit) x.ctx b.src b.len
          if kind = 3 then
            .next ((s1.sendBurst x b d).setInst i (some { x with bursts := { b with sent := true } :: x.bursts.drop 1 }))
          else if kind = 1 then .next ((s1.wrVAt (streamAgent x.unit) x.ctx b.dst d).dropHead i x)
          else
            match s1.placePrefetch x b with
            | some u => .next (u.dropHead i x)
            | none => .next s

/-- The burst `n` of an instance. -/
def findBurst (x : Instance) (n : Nat) : Option Burst := x.bursts.find? fun b => b.num == n

/-- When the stall count of a burst last restarted (R219): at its issue, or at the arrival of one of its bytes, which is the part's timing (free value,
log 138). -/
def State.countFrom (s : State) (b : Burst) : Nat × State := (b.from_ + (s.free).1, (s.free).2)

/-- The commands name a burst of a sequencer's program by a number from here up, which less this is the stream unit and, above it, the burst of its program,
and by its operation (DESIGN CHOICE, log 138). -/
abbrev seqBursts : Nat := 2 ^ 32

/-- The stream unit that a number of a sequencer's burst names. -/
def seqUnit (i : Nat) : Nat := (i - seqBursts) % 128

/-- A stream unit runs programs of its die's sequencer: one of SU_0 to SU_11 that is live and stands in for no other (R201). -/
def State.seqMay (s : State) (u : Nat) : Bool :=
  decide (u % 16 < 12) && !s.fenced (u / 16) 0x0A (u % 16) && !(s.integ.computeFenced.getD (u / 16) false) &&
    !(s.streams.standIn.any fun e => e.1 / 16 == u / 16 && e.2 == u % 16 + 1)

/-- The operation of a sequencer's program that stream unit `u` serves: its context and flight (R219, R220). Results are written when an operation is taken,
so a program's bursts are under way until its completion (log 10). -/
def State.seqProgram (s : State) (u op : Nat) : Option (Nat × Flight) :=
  match if s.powered && s.seqMay u then s.partOfStack (u / 16) else none with
  | none => none
  | some k =>
    match (s.part k).running with
    | none => none
    | some c =>
      match (s.ctx c).flights.find? fun f => f.opIndex == op with
      | none => none
      | some f =>
        match f.st with
        | .computed _ _ => some (c, f)
        | .done r => if r.status = 0 && (dOpcode f.desc == 0x18 || dOpcode f.desc == 0x19) then some (c, f) else none
        | .launched l => if (s.launch l).any fun x => x.isElem then some (c, f) else none
        | _ => none

/-- A deadline of a sequencer's program: the dictionary's value of its partition (R222). It changes at latch points alone, when no operation is in flight,
so the value in effect is that of its taking. -/
def State.seqDeadline (s : State) (u ix : Nat) : Nat :=
  match s.partOfStack (u / 16) with
  | some k => s.effNat ix (k + 1)
  | none => 0xFFFFFFFF

/-- What a context's sequencer runs for its operation. -/
def State.workOf (s : State) (c : Nat) : SeqWork := (tabGet none s.streams.work c).getD ⟨0, s.now, [], []⟩

/-- When the stall count of a sequencer's burst last restarted (R219): after the taking of its operation, and after the restart that its soft deadline met
(free value, log 138). An operation that waits for a page fault has no program yet. -/
def State.seqFrom (s : State) (c i : Nat) : Nat × State :=
  let w := s.workOf c
  ((match w.stalls.find? fun e => e.1 == i with
    | some e => e.2
    | none => w.at_) + (s.free).1, (s.free).2)

/-- The soft deadline of a sequencer's burst: the notice is posted once for it (R220). -/
def State.stallSeq (s : State) (i op : Nat) : State :=
  match s.seqProgram (seqUnit i) op with
  | none => s
  | some (c, _) =>
    let w := s.workOf c
    if w.stalls.any fun e => e.1 == i then s
    else
      let f := s.seqFrom c i
      let s1 := f.2.advance (f.1 + 1000 * s.seqDeadline (seqUnit i) 0x3040)
      ({ s1 with streams := { s1.streams with work := tabPut none s1.streams.work c (some { w with stalls := w.stalls ++ [(i, f.1)] }) } }).postNotice
        c 0x0C02 (seqUnit i)

/-- `STREAM_STALL` (R219, R220): the soft deadline of a burst whose bytes have not all arrived. -/
def execStreamStall (i : Nat) (n : Nat) (s : State) : Res :=
  if seqBursts ≤ i then .next (s.stallSeq i n)
  else
    match s.liveInst i with
    | none => .next s
    | some x =>
      match findBurst x n with
      | none => .next s
      | some b =>
        if b.noticed || !b.stalled.isEmpty || b.sent then .next s
        else
          let f := s.countFrom b
          let s1 := f.2.advance (f.1 + 1000 * x.softUs)
          let s2 := s1.setInst i (some { x with bursts := x.bursts.map fun e => if e.num = n then { e with noticed := true, from_ := f.1 } else e })
          .next (s2.postNotice x.ctx 0x0C02 x.unit)

/-- A burst whose source is external (R218). -/
def State.external (s : State) (c : Nat) (b : Burst) : Bool :=
  (List.range (b.len / 64)).any fun j =>
    match regionOf (s.tr c (b.src + 64 * j)) with
    | .cxl | .pcie | .guest _ => true
    | _ => false

/-- A burst of a sequencer's program meets the hard deadline of its class (R218, R220, R222): its operation stops. Which source the burst reads, and how much
of the output was committed, are the part's (free values, log 138): committed bursts stay as written, and the others are discarded whole. -/
def State.starveSeq (s : State) (i op : Nat) : State :=
  let u := seqUnit i
  match s.seqProgram u op with
  | none => s
  | some (c, f) =>
    let ext := s.free
    let us := s.seqDeadline u (if ext.1 % 2 = 0 then 0x3041 else 0x3042)
    if us = 0xFFFFFFFF then s
    else
      let t := ext.2.seqFrom c i
      let kept := t.2.free
      let s1 := (kept.2.advance (t.1 + 1000 * us)).discardOutput (s.workOf c) kept.1
      match f.st with
      | .launched l => s1.stopLaunch l (endWith 0x0501 u)
      | _ => s1.setFlight c op (.done (endWith 0x0501 u))

/-- `STREAM_STARVED` (R220): the hard deadline of a burst's class. -/
def execStreamStarved (i : Nat) (n : Nat) (s : State) : Res :=
  if seqBursts ≤ i then .next (s.starveSeq i n)
  else
    match s.liveInst i with
    | none => .next s
    | some x =>
      match findBurst x n with
      | none => .next s
      | some b =>
        let us := if s.external x.ctx b then x.hardExt else x.hardInt
        if us = 0xFFFFFFFF ∨ !b.stalled.isEmpty ∨ b.sent then .next s
        else
          let f := s.countFrom b
          let s1 := f.2.advance (f.1 + 1000 * us)
          if x.hamper then
            .next ((({ s1 with streams := { s1.streams with cancelled := s1.streams.cancelled + 1 } }).countEv (x.unit / 16) 0x023 (x.unit % 16) (some x.ctx)
              1).dropInsts x.ctx x.opIndex)
          else .next (s1.stopStream x.ctx x.opIndex (endWith 0x0501 x.unit))

/-- The receiver's acknowledgement of a burst to another package (R319): it is committed, or its operation ends. -/
def State.burstAcked (s : State) (num status : Nat) : State :=
  match s.instList.find? fun e => e.2.bursts.any fun b => b.sent && b.num % 2 ^ 28 == num with
  | none => s
  | some (i, x) =>
    if status = 0 then (s.countEv (x.unit / 16) 0x020 (x.unit % 16) (some x.ctx) 1).putInst i { x with bursts := x.bursts.filter fun b => !(b.sent && b.num % 2 ^ 28 == num) }
    else s.stopStream x.ctx x.opIndex (endWith 0x0201 0xFFFFFFFF)

/-- The instance whose burst travels in a packet ends with a lost peer (R319). -/
def State.burstUnreachable (s : State) (num dest : Nat) : State :=
  match s.instList.find? fun e => e.2.bursts.any fun b => b.sent && b.num % 2 ^ 28 == num with
  | none => s
  | some (_, x) => s.stopStream x.ctx x.opIndex (endWith 0x0601 dest)

/-- The latch point of P_k empties the side that becomes its fill side (R223). -/
def State.turnHamper (s : State) (k : Nat) : State :=
  let st := s.stacks k
  let side := ((s.part k).latchCount + 1) % 2
  { s with streams := { s.streams with hamper := s.streams.hamper.filter fun h => !(st.contains h.stack && h.side == side) } }

/-- Both sides of the hampers of P_k are emptied (R228). -/
def State.emptyHampers (s : State) (k : Nat) : State :=
  { s with streams := { s.streams with hamper := s.streams.hamper.filter fun h => !((s.stacks k).contains h.stack) } }

end Sys2Proof.Machine
end

