-- ==== Sys2Proof/Machine/Verbs.lean ====
section
/-! DEFINITION. The queue pairs of Ethernet-mode ports (R306, R477, R478): their entries, the accesses they make for the context that owns them, and what
waits for a fault of one (R293, R295, R297). Those accesses are the hub's (R248). -/

namespace Sys2Proof.Machine

/-- A queue pair (R477). -/
def State.qp (s : State) (key : Nat) : QueuePair := (tabGet none s.banks.qps key).getD QueuePair.reset

/-- Replaces a queue pair. -/
def State.setQp (s : State) (key : Nat) (x : QueuePair) : State := { s with banks := { s.banks with qps := tabPut none s.banks.qps key (some x) } }

/-- QP_STATE (R477): 0 RESET, 1 INIT, 2 RTR, 3 RTS, 4 ERROR. -/
def QueuePair.state (x : QueuePair) : Nat := bitsOf x.word0.toNat 0 3

/-- The key of queue pair `q` of a port. -/
def qpOf (port q : Nat) : Nat := 1024 * port + q

/-- The port runs Ethernet and its link is up (R305, R306). -/
def State.etherUp (s : State) (port : Nat) : Bool := s.portMode port == 2 && ((s.port port).state == 2 || (s.port port).state == 3)

/-- The AGENT_ID of the hub of a queue pair's port (R248). -/
def qpAgent (key : Nat) : Nat := 1152 + key / 8192

/-- A context that owns a queue pair: its tables translate the pair's addresses. -/
def QueuePair.owner (x : QueuePair) : Nat := bitsOf x.word0.toNat 16 12

/-- Address of entry `i` of `size` bytes in a ring of a queue pair. -/
def qpEntry (w : W64) (i size : Nat) : Nat := bitsOf w.toNat 0 56 + size * (i % 2 ^ bitsOf w.toNat 56 5)

/-- A completion entry (R478). -/
def completionEntry (ix status : Nat) (recv : Bool) (bytes now : Nat) : Nat :=
  ix % 2 ^ 32 + status * 2 ^ 32 + b2n recv * 2 ^ 40 + bytes % 2 ^ 32 * 2 ^ 64 + now % 2 ^ 64 * 2 ^ 128

/-- Fields of a send-queue entry (R478). -/
def wqeOp (e : Nat) : Nat := bitsOf e 0 8
def wqeSignaled (e : Nat) : Bool := bitAt e 8
def wqeLen (e : Nat) : Nat := bitsOf e 32 32
def wqeLocal (e : Nat) : Nat := bitsOf e 64 64
def wqeRemote (e : Nat) : Nat := bitsOf e 128 64
def wqeKey (e : Nat) : Nat := bitsOf e 192 32

/-- Packets of a message of `n` bytes: 4,096 bytes to a packet, and one for a message without data (R306). -/
def roceParts (n : Nat) : Nat := max 1 ((n + 4095) / 4096)

/-- The packets of a message leave, each with the next sequence number (R306, R477); a read takes the numbers of its answer's packets too. -/
def State.sendRoce (s : State) (key op addr rkey len : Nat) (d : List Byte) : State :=
  let x := s.qp key
  let n := roceParts d.length
  let pks := (List.range n).map fun i =>
    (⟨key / 1024, key % 1024, op, (bitsOf x.word1.toNat 32 24 + x.sent + i) % 2 ^ 24, i, n, addr, rkey, len, (d.drop (4096 * i)).take 4096⟩ : RoceMsg)
  let s1 := s.setQp key { x with sent := x.sent + if op = 3 then roceParts len else n }
  { s1 with out := { s1.out with roce := pks.reverse ++ s1.out.roce } }

/-- The answer to an inbound request: it carries the sequence numbers of the request, and no number of the pair's own. -/
def State.roceAnswer (s : State) (key op psn : Nat) (d : List Byte) : State :=
  let n := roceParts d.length
  let pks := (List.range n).map fun i =>
    (⟨key / 1024, key % 1024, op, (psn + i) % 2 ^ 24, i, n, 0, 0, d.length, (d.drop (4096 * i)).take 4096⟩ : RoceMsg)
  { s with out := { s.out with roce := pks.reverse ++ s.out.roce } }

/-- An access for the owner of a pair. -/
def State.qpAccess (s : State) (key acc va n : Nat) : State × Option Hit :=
  if n = 0 then (s, none) else s.prepAt (qpAgent key) (s.qp key).owner acc va n

/-- Puts something in front of what waits for the pair. -/
def State.qpWaits (s : State) (key : Nat) (w : QpWait) : State := let x := s.qp key; s.setQp key { x with waiting := x.waiting ++ [w] }

/-- An access of a pair was refused (R293, R297): a serviceable one stalls what made it, any other writes its record and makes it fail, by `f`. -/
def State.qpRefused (s : State) (key acc : Nat) (h : Hit) (w : QpWait) (f : State → State) : State :=
  let c := (s.qp key).owner
  if h.kind ≤ 5 then ((s.faultAt c (qpAgent key) 0 acc h (.qp key)).2).qpWaits key w
  else f (s.faultAt c (qpAgent key) 0 acc h (.qp key)).2

/-- Sets QP_STATE (R477). -/
def State.qpState (s : State) (key st : Nat) : State := let x := s.qp key; s.setQp key { x with word0 := BitVec.ofNat 64 (setBits x.word0.toNat 0 3 st) }

/-- Writes a completion entry in the next place of the completion queue, behind one that waits for a fault. One that finds no place, or that the memory
it names refuses for good, puts the pair in ERROR and is lost (DESIGN CHOICE, log 75). -/
def State.postCq (s : State) (key ix status : Nat) (recv : Bool) (bytes : Nat) : State :=
  let x := s.qp key
  if !x.waiting.isEmpty then s.qpWaits key (.completion ix status recv bytes)
  else if 2 ^ bitsOf x.cq.toNat 56 5 ≤ w32Diff x.cqProducer x.cqConsumer then s.qpState key 4
  else
    let ea := qpEntry x.cq x.cqProducer.toNat 32
    match s.qpAccess key accWrite ea 32 with
    | (s1, some h) => s1.qpRefused key accWrite h (.completion ix status recv bytes) fun t => t.qpState key 4
    | (s1, none) =>
      (s1.wrVAt (qpAgent key) x.owner ea (leBytes (completionEntry ix status recv bytes s.now) 32)).setQp key { x with cqProducer := x.cqProducer + 1 }

/-- Writes flushed completion entries for `l` (R478). -/
def State.flushList (s : State) (key : Nat) (recv : Bool) (l : List Nat) : State := l.foldl (fun (t : State) i => t.postCq key i 4 recv 0) s

/-- What of a pair's waiting work keeps its place when the pair enters ERROR, and the entries whose data will not land. -/
def keptWaits (l : List QpWait) : List QpWait := l.filter fun w => match w with | .completion .. => true | _ => false
def lostLandings (l : List QpWait) : List Nat := l.filterMap fun w => match w with | .landing ix _ _ => some ix | _ => none

/-- A queue pair that enters ERROR flushes the entries it has not completed (R478; when is not said: DESIGN CHOICE, log 75). -/
def State.flushQp (s : State) (key : Nat) : State :=
  let x := s.qp key
  let sends := (List.range (min (w32Diff x.sqProducer x.sqConsumer) 65536)).map fun i => x.sqConsumer.toNat + i
  let recvs := (List.range (min (w32Diff x.rqProducer x.rqConsumer) 65536)).map fun i => x.rqConsumer.toNat + i
  let s0 := s.setQp key { x with waiting := keptWaits x.waiting }
  let s1 := (s0.flushList key false (lostLandings x.waiting ++ x.flying.map Prod.fst ++ sends)).flushList key true recvs
  let y := s1.qp key
  s1.setQp key { y with sqConsumer := y.sqProducer, flying := [], rqConsumer := y.rqProducer }

/-- The pair enters ERROR. -/
def State.errorQp (s : State) (key : Nat) : State := if (s.qp key).state = 4 then s else (s.qpState key 4).flushQp key

/-- A send-queue entry ends (R478): a completion entry for one that is SIGNALED or that failed (PRESUMED from RDMA practice, log 77). -/
def State.endWqe (s : State) (key ix e status : Nat) : State :=
  if wqeSignaled e || status != 0 then s.postCq key ix status false (if status = 0 then wqeLen e else 0) else s

/-- The entry is consumed. -/
def State.consumeWqe (s : State) (key ix e : Nat) (fly : Bool) : State :=
  let x := s.qp key
  s.setQp key { x with sqConsumer := x.sqConsumer + 1, flying := if fly then x.flying ++ [(ix, BitVec.ofNat 512 e)] else x.flying }

/-- An entry that fails on its own side (R478): STATUS 1. -/
def State.failWqe (s : State) (key ix e : Nat) : State := (s.consumeWqe key ix e false).endWqe key ix e 1

/-- A priority of a pair: the upper bits of its traffic class (PRESUMED from RDMA practice, log 77). -/
def QueuePair.prio (x : QueuePair) : Nat := bitsOf x.peer.toNat 197 3

/-- The pair has a send-queue entry to process: it is in RTS on a port whose link is up, and flow control does not hold its priority (R306, R477). -/
def State.wqeReady (s : State) (key : Nat) : Bool :=
  let x := s.qp key
  s.etherUp (key / 1024) && x.state == 3 && x.sqConsumer != x.sqProducer && !((s.port (key / 1024)).paused.contains x.prio)

/-- Where the pair's next send-queue entry lies. -/
def State.wqeAt (s : State) (key : Nat) : Nat := let x := s.qp key; qpEntry x.sq x.sqConsumer.toNat 64

/-- The pair's next send-queue entry, as its owner's tables let it be read; 0 where they do not. -/
def State.wqeWord (s : State) (key : Nat) : Nat :=
  match s.qpAccess key accRead (s.wqeAt key) 64 with
  | (s1, none) => leNat (s1.rdVAt (qpAgent key) (s1.qp key).owner (s1.wqeAt key) 64)
  | _ => 0

/-- Issues the entry `e` (R478): SEND and RDMA WRITE carry their data, RDMA READ its request. A LENGTH above 2^31 or an OPCODE that is not listed ends it with
a local fault (PRESUMED from RDMA practice, log 77). -/
def State.issueWqe (s : State) (key ix e op : Nat) : State :=
  let c := (s.qp key).owner
  if 2 ^ 31 < wqeLen e ∨ wqeOp e = 0 ∨ 3 < wqeOp e then s.failWqe key ix e
  else if wqeOp e = 3 then (s.consumeWqe key ix e true).sendRoce key 3 (wqeRemote e) (wqeKey e) (wqeLen e) []
  else
    match s.qpAccess key accRead (wqeLocal e) (wqeLen e) with
    | (s1, some h) => s1.qpRefused key accRead h (.wqe op) fun t => t.failWqe key ix e
    | (s1, none) =>
      (s1.consumeWqe key ix e true).sendRoce key (wqeOp e) (wqeRemote e) (wqeKey e) (wqeLen e) (s1.rdVAt (qpAgent key) c (wqeLocal e) (wqeLen e))

/-- The pair's next entry is processed when it is one of OPCODE `op`, or one that no OPCODE names. -/
def State.runWqe (s : State) (key op : Nat) : State :=
  let x := s.qp key
  if !s.wqeReady key then s
  else
    match s.qpAccess key accRead (s.wqeAt key) 64 with
    | (s1, some h) => s1.qpRefused key accRead h (.wqe op) fun t => t.failWqe key x.sqConsumer.toNat 0
    | (s1, none) =>
      let e := leNat (s1.rdVAt (qpAgent key) x.owner (s1.wqeAt key) 64)
      if wqeOp e = op ∨ wqeOp e = 0 ∨ 3 < wqeOp e then s1.issueWqe key x.sqConsumer.toNat e op else s1

/-- A receive-queue entry is used up (R478). -/
def State.endReceive (s : State) (key status n : Nat) : State :=
  let x := s.qp key
  (s.setQp key { x with rqConsumer := x.rqConsumer + 1 }).postCq key x.rqConsumer.toNat status true n

/-- An inbound SEND that fails: its receive entry ends with STATUS 1, and its sender is told. -/
def State.failReceive (s : State) (key psn : Nat) : State := (s.endReceive key 1 0).roceAnswer key 0x12 psn []

/-- An inbound SEND lands in the next receive-queue entry (R478). With no entry it is not taken, nor its place in the sequence, and its sender tries again
(PRESUMED from RDMA practice, log 77). -/
def State.receiveSend (s : State) (key : Nat) (q : RdmaInbound) (d : List Byte) : State :=
  let x := s.qp key
  if x.rqConsumer = x.rqProducer then s.setQp key { x with expect := some q.psn }
  else
    let ea := qpEntry x.rq x.rqConsumer.toNat 16
    match s.qpAccess key accRead ea 16 with
    | (s1, some h) => s1.qpRefused key accRead h (.inbound q) fun t => t.failReceive key q.psn.toNat
    | (s1, none) =>
      let e := leNat (s1.rdVAt (qpAgent key) x.owner ea 16)
      if bitsOf e 64 32 < d.length then s1.failReceive key q.psn.toNat
      else
        match s1.qpAccess key accWrite (bitsOf e 0 64) d.length with
        | (s2, some h) => s2.qpRefused key accWrite h (.inbound q) fun t => t.failReceive key q.psn.toNat
        | (s2, none) => ((s2.wrVAt (qpAgent key) x.owner (bitsOf e 0 64) d).endReceive key 0 d.length).roceAnswer key 0x10 q.psn.toNat []

/-- The packets that a request takes of the peer's sequence: those of its data, or those of a read's answer (R306). -/
def inboundParts : RdmaRequest → Nat
  | .write _ _ d | .send d => roceParts d.length
  | .read _ _ n => roceParts n

/-- An inbound request is performed (R477, R478): one whose R_Key differs, or that the owner's tables do not allow, is answered with a remote access
error. -/
def State.performInbound (s : State) (key : Nat) (q : RdmaInbound) : State :=
  let x := s.qp key
  let psn := q.psn.toNat
  let deny := fun (t : State) => t.roceAnswer key 0x12 psn []
  match q.req with
  | .send d => s.receiveSend key q d
  | .write a rkey d =>
    if rkey.toNat ≠ bitsOf x.word1.toNat 0 32 then deny s
    else
      (match s.qpAccess key accWrite a d.length with
       | (s1, some h) => s1.qpRefused key accWrite h (.inbound q) deny
       | (s1, none) => (s1.wrVAt (qpAgent key) x.owner a d).roceAnswer key 0x10 psn [])
  | .read a rkey n =>
    if rkey.toNat ≠ bitsOf x.word1.toNat 0 32 then deny s
    else
      (match s.qpAccess key accRead a n with
       | (s1, some h) => s1.qpRefused key accRead h (.inbound q) deny
       | (s1, none) => s1.roceAnswer key 0x11 psn (s1.rdVAt (qpAgent key) x.owner a n))

/-- The data of a read land for their entry (R478). -/
def State.landRead (s : State) (key ix e : Nat) (d : List Byte) : State :=
  match s.qpAccess key accWrite (wqeLocal e) d.length with
  | (s1, some h) => s1.qpRefused key accWrite h (.landing ix (BitVec.ofNat 512 e) d) fun t => t.endWqe key ix e 1
  | (s1, none) => (s1.wrVAt (qpAgent key) (s1.qp key).owner (wqeLocal e) d).endWqe key ix e 0

/-- Something that waited for the pair is done again. -/
def State.qpAttempt (s : State) (key : Nat) : QpWait → State
  | .wqe op => s.runWqe key op
  | .inbound q => s.performInbound key q
  | .landing ix e d => s.landRead key ix e.toNat d
  | .completion ix status recv bytes => s.postCq key ix status recv bytes

/-- The place of a request in its peer's packet sequence: next, already taken, or ahead of a packet that is missing (R306; PRESUMED from RDMA practice,
log 77). The first request after RESET sets the sequence, for no register holds the peer's first number. -/
inductive SeqPlace where
  | next | taken | ahead
deriving DecidableEq, Repr

/-- Places a sequence number. -/
def seqPlace (expect : Option (BitVec 24)) (psn : BitVec 24) : SeqPlace :=
  match expect with
  | none => .next
  | some e => if psn = e then .next else if (e - psn).toNat ≤ 2 ^ 23 then .taken else .ahead

/-- A waiting request behind a SEND that was not taken is not taken either: its peer sends it again. -/
def State.stillDue (s : State) (key : Nat) : QpWait → Bool
  | .inbound q => seqPlace (s.qp key).expect q.psn == .taken
  | _ => true

/-- What waits for the pair goes on in its order, up to the next that stalls. -/
def State.qpRun (s : State) (key : Nat) : List QpWait → State
  | [] => s
  | w :: rest =>
    if !s.stillDue key w then s.qpRun key rest
    else
    let s1 := s.qpAttempt key w
    let x := s1.qp key
    if x.waiting.isEmpty then s1.qpRun key rest else s1.setQp key { x with waiting := x.waiting ++ rest }

/-- Something is to be done for the pair: at once, or behind what waits for a fault (R295). -/
def State.qpDo (s : State) (key : Nat) (w : QpWait) : State := if (s.qp key).waiting.isEmpty then s.qpAttempt key w else s.qpWaits key w

/-- The fault that the pair waits on was resolved with retry (R295). -/
def State.qpRetry (s : State) (key : Nat) : State :=
  let x := s.qp key
  (s.setQp key { x with waiting := [] }).qpRun key x.waiting

/-- What the pair waited to do fails (R295, R478). -/
def State.qpFail (s : State) (key : Nat) : QpWait → State
  | .wqe _ => if s.wqeReady key then s.failWqe key (s.qp key).sqConsumer.toNat (s.wqeWord key) else s
  | .inbound q =>
    match q.req with
    | .send _ => s.failReceive key q.psn.toNat
    | _ => s.roceAnswer key 0x12 q.psn.toNat []
  | .landing ix e _ => s.endWqe key ix e.toNat 1
  | .completion .. => s.qpState key 4

/-- The fault was resolved with decline (R295): the access fails, and what waited behind it goes on. -/
def State.qpDecline (s : State) (key : Nat) : State :=
  let x := s.qp key
  match x.waiting with
  | [] => s
  | w :: rest =>
    let s1 := (s.setQp key { x with waiting := [] }).qpFail key w
    let y := s1.qp key
    if y.waiting.isEmpty then s1.qpRun key rest else s1.setQp key { y with waiting := y.waiting ++ rest }

/-- The pairs of a context whose fault records no longer wait (R14, R295): what they waited to do fails. -/
def State.dropQpWaits (s : State) (c : Nat) : State :=
  let keys := (s.banks.qps.map Prod.fst).filter fun k => (s.qp k).owner == c && !(s.qp k).waiting.isEmpty
  keys.foldl (fun (t : State) k => t.qpDecline k) s

end Sys2Proof.Machine
end

