-- ==== Sys2Proof/Machine/Kill.lean ====
section
/-! DEFINITION. Killing a context (R14, R417). -/

namespace Sys2Proof.Machine

/-- Where a flight of a killed context stands: its operation is abandoned; one that has completed keeps its result (R13, R14). -/
def abandonFlight (f : Flight) : Flight :=
  match f.st with
  | .recordStalled _ r => { f with st := .done r }
  | .done r => { f with st := .done r }
  | _ => { f with st := .done (endWith 0x0411 0) }

/-- Every instance of a context leaves its unit, hamper programs too (R222). -/
def State.dropCtxInsts (s : State) (c : Nat) : State :=
  (s.instList.filter fun e => e.2.ctx == c).foldl (fun (t : State) e => t.dropInsts e.2.ctx e.2.opIndex) s

/-- The launches of a context. -/
def State.launchesOf (s : State) (c : Nat) : List Nat :=
  s.threads.launches.filterMap fun e =>
    match e.2 with
    | some l => if l.ctx = c then some e.1 else none
    | none => none

/-- A kill (R14): the operations in flight are abandoned, a pending collective tells its partners (R419), the context's fault records no
longer wait (R295), and it gives up its partition at a release point (R527). Vector 0 is sent for a granted context (R356). -/
def State.killCtx (s : State) (c : Nat) : State :=
  let x := s.ctx c
  if x.st == .killed || x.st == .free then s
  else
    let s1 := (s.launchesOf c).foldl (fun (t : State) l => t.clearLaunch l) s
    let s2 := (s1.abandonRun c).dropCtxInsts c
    let s3 := s2.updCtx c fun y => { y with
      st := .killed, deficit := 0, pendStart := false, pendStop := false, pendRebind := none, flights := y.flights.map abandonFlight,
      records := [], regionDue := false, host := { y.host with batches := y.host.batches.filter fun b => b.st != .waiting } }
    let s4 := { s3 with
      fq := { s3.fq with pending := s3.fq.pending.filter fun p => p.ctx != c },
      host := { s3.host with fenceReads := s3.host.fenceReads.filter fun e => e.1 != c } }
    let s5 := ((s4.dropQpWaits c).beginRelease c).refreshRun
    if granted x then s5.sendVector 0 else s5

end Sys2Proof.Machine
end

