-- ==== Sys2Proof/Machine/Integrity.lean ====
section
/-! DEFINITION. Containment and reports (R411 to R420, R423): fencing of units, reaction classes 2 and 3, integrity reports, and the
commands of the sentinel, lockstep pairs and watchdogs. -/

namespace Sys2Proof.Machine

/-- A context record (R418). -/
def contextRecord (c first last report : Nat) (killed : Bool) : Nat :=
  0x31 + c * 2 ^ 8 + b2n killed * 2 ^ 20 + first % 2 ^ 64 * 2 ^ 64 + last % 2 ^ 64 * 2 ^ 128 + report % 2 ^ 32 * 2 ^ 288

/-- The notifications of class 0x03 for a report and its context records, 14 records to a message (R460). -/
def State.notifyReport (s : State) (rep : List Byte) (recs : List (List Byte)) : State :=
  let first := s.notify 3 0 (rep ++ (recs.take 14).flatten) none
  ((List.range ((recs.length + 13) / 14)).drop 1).foldl (fun (t : State) i => t.notify 3 0 ((recs.drop (14 * i)).take 14).flatten none) first

/-- Writes an integrity report with a context record for each context of the suspect span, in ascending number (R418). A context that does
not exist any more is named as destroyed. -/
def State.report (s : State) (w : Nat) (ctxs : List (Nat × Nat)) : State :=
  let a := s.postIndexed w
  let ix := bitsOf a.2 256 32
  let r := ctxs.foldl (fun (t : State × List (List Byte)) e =>
    let x := s.ctx e.1
    let p := t.1.postIndexed (contextRecord e.1 e.2 (x.cnt.nextOp - 1) ix (x.st == .killed))
    (p.1, t.2 ++ [leBytes p.2 64])) (a.1, [])
  r.1.notifyReport (leBytes a.2 64) r.2

/-- The operations in flight of the contexts that `p` selects: context and the index of its first operation in flight. -/
def State.inFlight (s : State) (p : Nat → Ctx → Bool) : List (Nat × Nat) :=
  (s.ctxs.filter fun e => p e.1 e.2).filterMap fun e =>
    match e.2.flights with
    | f :: _ => some (e.1, f.opIndex)
    | [] => none

/-- Two lists of contexts with their first operations, the earlier operation kept, in ascending context number. -/
def joinSpan (a b : List (Nat × Nat)) : List (Nat × Nat) :=
  b.foldl (fun l e =>
    match l.find? fun x => x.1 == e.1 with
    | some y => if e.2 < y.2 then insBy (fun p q => decide (p.1 < q.1)) e (l.filter fun x => x.1 != e.1) else l
    | none => insBy (fun p q => decide (p.1 < q.1)) e l) (sortBy (fun (p q : Nat × Nat) => decide (p.1 < q.1)) a)

/-- Kills every context of a span (R417). -/
def State.killSpan (s : State) (ctxs : List (Nat × Nat)) : State := ctxs.foldl (fun (t : State) e => t.killCtx e.1) s

/-- The contexts whose work runs on CS_n at this moment: the one that holds its partition with operations in flight, and those with stream
instances on the die. -/
def State.spanOfDie (s : State) (n : Nat) : List (Nat × Nat) :=
  let held := match s.partOfStack n with
    | some k => s.inFlight fun c _ => (s.part k).running == some c
    | none => []
  joinSpan held ((s.instList.filter fun e => e.2.unit / 16 == n).map fun e => (e.2.ctx, e.2.opIndex))

/-- Every context bound to P_k. -/
def State.boundTo (s : State) (k : Nat) : List (Nat × Nat) :=
  (s.ctxs.filter fun e => e.2.part == some k && e.2.st != .free).map fun e => (e.1, e.2.cnt.nextOp)

/-- CS_n is the first stack of its partition. -/
def State.firstOf (s : State) (n : Nat) : Option Nat :=
  match s.partOfStack n with
  | some k => if (s.stacks k).head? = some n then some k else none
  | none => none

/-- The report of a class 2 reaction after its containment (R417, R418). -/
def State.unitReport (s : State) (diag cls die ix : Nat) (transient spare degraded : Bool) (since : Nat) (ctxs : List (Nat × Nat)) : State :=
  s.report (integrityWord diag cls die ix 2 transient spare degraded since s.now ctxs.length s.integ.generation) ctxs

/-- The caching agents of a processor die (R248). -/
def pdAgents (m : Nat) : List Nat := (List.range 24).map (fun k => 1024 + 64 * m + k) ++ [1024 + 64 * m + 32]

/-- What becomes of a message on its way to an agent declared dead (R264, R265): the home answers an Inval in its place; forwards and grants for writing
wait for the lookup that answers them. -/
def afterDeath (a : Nat) (m : CohMsg) : List CohMsg :=
  if m.dest ≠ a then [m]
  else
    match m.kind with
    | .fwdShared | .fwdOwn | .fwdOnce | .fwdRecall => [m]
    | .inval => if m.requester < 2048 then [⟨.invalAck, m.requester, m.requester, m.line, [], .s, m.why⟩] else []
    | .data | .ack => if m.grant = .m then [m] else []
    | _ => []

/-- The agent that makes a request to a home (R257, R262). -/
def requesterOf : Instr → Option Nat
  | .readShared q _ _ | .readExclusive q _ _ | .ownNoData q _ => some q.agent.val
  | .upgrade a _ _ | .readOnce a _ _ | .writeLine a _ _ | .writePartial a _ _ _ | .atomicAtHome a _ _ _ => some a.val
  | _ => none

/-- Every home receives a Declare for an agent (R264); its requests that wait are discarded (R265), and a recall that waited for its answer goes on (R252). -/
def State.declareDead (s : State) (a : Nat) (fatal : Bool) : State :=
  if s.coh.dead.any fun d => d.agent == a then s
  else
    let recalled := (s.coh.msgs ++ s.coh.heldFwds).filter fun m => m.dest == a && m.kind == .inval && m.requester == homeAgent
    let s1 := { s with coh := { s.coh with
      dead := s.coh.dead ++ [⟨a, fatal, s.now, [], 0, 0, 0, false⟩],
      msgs := (s.coh.msgs ++ s.coh.heldFwds.filter fun m => m.dest == a).flatMap (afterDeath a),
      heldFwds := s.coh.heldFwds.filter fun m => m.dest != a,
      notices := s.coh.notices.filter fun e => e.1 != a,
      atHome := s.coh.atHome.filter fun r => requesterOf r != some a,
      inAgent := s.coh.inAgent.filter fun r => requesterOf r != some a } }
    recalled.foldl (fun (t : State) m => t.endRecall m.line) s1

/-- Unpinned signatures that the remaining tiles of P_k cannot run take the default (R88). -/
def State.refitSigs (s : State) (k : Nat) : State :=
  let t := s.tilesOf k
  s.updPart k fun p => { p with sigs := p.sigs.map fun e => if !e.pinned && decide (t < e.tiles) then sigDefault e.key e.blocks t e.stamp false else e }

/-- The compute die of CS_n is fenced whole (R413, R417): the contexts of the span are killed, and all of a partition's when it loses its sequencer. Its
thread units are declared dead by fatal report (R264; DEDUCED, log 143), and signatures that the tiles left cannot run take the default (R88). -/
def State.fenceDie (s : State) (n diag cause : Nat) (since : Nat) (span : List (Nat × Nat)) : State :=
  let all := match s.firstOf n with
    | some k => joinSpan span (s.boundTo k)
    | none => span
  let s1 := (s.addFence n 0xF0 0 cause).killSpan all
  let s2 := { s1 with integ := { s1.integ with computeFenced := s1.integ.computeFenced.set n true } }
  let s3 := ((List.range 64).map fun u => 128 * n + u).foldl (fun (t : State) a => t.declareDead a true) s2
  let s4 := (match s3.partOfStack n with
    | some k => s3.refitSigs k
    | none => s3).degrade
  s4.unitReport diag 0xF0 n 0 false false true since all

/-- The shadowed and the checking logical tile of window `w` with `t` live logical tiles (R89, R90, R416). -/
def sentinelPair (w t : Nat) : Nat × Nat := (w % t, (w + t / 2) % t)

/-- The shadowing of window `w` on CS_n has ended (R89, R420). -/
def State.endShadow (s : State) (n w : Nat) : State :=
  { s with integ := { s.integ with shadowed := tabPut 0 s.integ.shadowed n (w + 1) } }

/-- It is the shadow millisecond of a tile of CS_n, by physical number (R89). -/
def State.inShadow (s : State) (n tile : Nat) : Bool :=
  let ts := s.integ.tiles.getD n []
  decide (s.now % 8000000 < 1000000) && ts[(sentinelPair (s.now / 8000000) ts.length).1]? == some tile

/-- A tile of CS_n, by physical number, is fenced (R90, R417, R425): TILE_8 takes its logical position while it is a spare; the contexts that
used the tile since its last check are killed (R416). A fence in the tile's shadow millisecond ends that window's shadowing (R420). -/
def State.fenceTile (s : State) (n tile diag cause : Nat) : State :=
  let key := 16 * n + tile
  let span := tabGet [] s.integ.used key
  let since := tabGet 0 s.integ.checkedAt key
  let ts := s.integ.tiles.getD n []
  let free := s.integ.spare.getD n false
  let takes := free && tile != 8
  let ts1 := if takes then ts.map fun t => if t = tile then 8 else t else ts.filter fun t => t != tile
  let s0 := if s.inShadow n tile then s.endShadow n (s.now / 8000000) else s
  let s1 := s0.addFence n 0x08 tile cause
  let s2 := { s1 with integ := { s1.integ with
    tiles := s1.integ.tiles.set n ts1, spare := s1.integ.spare.set n (free && !takes && tile != 8), used := tabPut [] s1.integ.used key [] } }
  let s3 := s2.killSpan span
  let s4 := if takes then s3.capChanged
    else (match s3.partOfStack n with
      | some k => s3.refitSigs k
      | none => s3).degrade
  s4.unitReport diag 0x08 n tile (cause == 0x03) takes (!takes) since span

/-- The contexts whose blocks run on a thread unit, with their operations. -/
def State.onUnitCtxs (s : State) (u : Nat) : List (Nat × Nat) :=
  joinSpan [] (s.threads.blocks.filterMap fun e =>
    match e.2 with
    | some b => if b.unit = u then (s.launch b.launch).map fun l => (l.ctx, l.opIndex) else none
    | none => none)

/-- A thread unit is fenced (R417, R423): its L1 is declared dead by fatal report (R264; DEDUCED, log 143). -/
def State.fenceThreadUnit (s : State) (u diag cause : Nat) : State :=
  let n := u / 64
  let span := (s.onUnitCtxs u)
  let s1 := (s.addFence n 0x09 (u % 64) cause).killSpan span
  let s2 := ({ s1 with integ := { s1.integ with units := s1.integ.units.set n (s1.integ.units.getD n 0 - 1) } }.declareDead (unitAgent u) true).degrade
  s2.unitReport diag 0x09 n (u % 64) (diag == 0x03 && cause == 0x03) false true s.now span

/-- The unit that stands in for stream unit `u` of CS_n after a fencing: the highest live one of SU_0 to SU_11 that stands in for no other
(R201). -/
def State.standInFor (s : State) (n : Nat) : Option Nat :=
  (List.range 12).reverse.find? fun u => !s.fenced n 0x0A u && !(s.streams.standIn.any fun e => e.1 / 16 == n && e.2 == u + 1)

/-- A stream unit is fenced (R201, R417): a unit of SU_0 to SU_11 stands in for one of SU_12 to SU_15, or the die goes with it. -/
def State.fenceStreamUnit (s : State) (v diag cause : Nat) : State :=
  let n := v / 16
  let u := v % 16
  let place := match s.streams.standIn.find? fun e => e.1 / 16 == n && e.2 == u + 1 with
    | some e => some (e.1 % 16)
    | none => if 12 ≤ u then some u else none
  let s0 := s.addFence n 0x0A u cause
  let span := match place with
    | some q => joinSpan [] ((s.instList.filter fun e => e.2.unit == 16 * n + q).map fun e => (e.2.ctx, e.2.opIndex))
    | none => s.spanOfDie n
  let s1 := s0.killSpan span
  let s2 := { s1 with integ := { s1.integ with streams := s1.integ.streams.set n (s1.integ.streams.getD n 0 - 1) } }
  match place with
  | none => (s2.degrade).unitReport diag 0x0A n u false false true s.now span
  | some q =>
    match s2.standInFor n with
    | some w =>
      ({ s2 with streams := { s2.streams with standIn := tabPut 0 s2.streams.standIn (16 * n + q) (w + 1) } }.degrade).unitReport diag 0x0A n u false
        false true s.now span
    | none => s2.fenceDie n diag cause s.now (joinSpan span (s.spanOfDie n))

/-- A base-SRAM way of CS_n is fenced (R423, R425). -/
def State.fenceWay (s : State) (n way diag cause : Nat) : State :=
  let s1 := s.addFence (8 + n) 0x05 way cause
  let s2 := { s1 with integ := { s1.integ with ways := s1.integ.ways.set n (s1.integ.ways.getD n 0 - 1) } }.degrade
  s2.unitReport diag 0x05 (8 + n) way false false true s.now []

/-- The device stops at once in FAULT after a package fault (R417): its partitions and ports stop, PE0 goes down and detaches its host (R357), the PE1 ports go
down, and the alert line is driven. A unit that no leaky bucket names has UNIT_CLASS 0 in its report (DESIGN CHOICE, log 156). An OFF device stays OFF (R453). -/
def State.packageFault (s : State) (diag cls die ix : Nat) : State :=
  if s.dev.state == .off then s else
  let s1 := ((List.range 16).foldl (fun (t : State) p => t.toPortState p 0) s).detach
  let s2 := { s1 with
    dev := { s1.dev with alertLow := true }
    host := { s1.host with linkUp := false }
    pe1 := s1.pe1.map fun (x : Pe1Port) => { x with linkUp := false } }
  (s2.report (integrityWord diag cls die ix 3 false false false s.now s.now 0 s2.integ.generation) []).toDevState .fault

/-- A guest is cut off (R387): state 6; its window takes faults of kind UNBACKED. -/
def State.cutGuest (s : State) (g cause addr : Nat) : State :=
  let x := s.guest g
  let s1 := { s with guests := s.guests.set g { x with state := 6 } }
  s1.postFq (BitVec.ofNat 512 (0x20 + g * 2 ^ 8 + cause * 2 ^ 9 + addr % 2 ^ 64 * 2 ^ 64 + s.now % 2 ^ 64 * 2 ^ 128))

/-- A processor die is fenced (R417, R423): without a core left in the package it is a package fault. -/
def State.fencePd (s : State) (m diag cause : Nat) : State :=
  let s1 := (s.addFence (18 + m) 0xF0 0 cause)
  let s2 := { s1 with integ := { s1.integ with cores := s1.integ.cores.set m 0 } }
  let s3 := (pdAgents m).foldl (fun (t : State) a => t.declareDead a true) s2
  let left := s3.integ.cores.getD 0 0 + (if hasPd1 s.dev.variant then s3.integ.cores.getD 1 0 else 0)
  if left = 0 then s3.packageFault diag 0x0B (18 + m) 0
  else s3.degrade.unitReport diag 0xF0 (18 + m) 0 false false true s.now []

/-- A transient mismatch or residue event of a tile (R413, R415, R423). -/
def State.tileEvent (s : State) (n tile diag : Nat) : State := s.countError 8 n tile fun t => t.fenceTile n tile diag 0x03

/-- A tile passed its check (R416). -/
def State.tilePassed (s : State) (n tile : Nat) : State :=
  { s with integ := { s.integ with used := tabPut [] s.integ.used (16 * n + tile) [], checkedAt := tabPut 0 s.integ.checkedAt (16 * n + tile) s.now } }

/-- The mismatch procedure of R413 on a shadowed tile and its checker, by physical number. A tile that passes its known-answer test is checked (R416), also
one that is fenced all the same. -/
def State.mismatch (s : State) (n shadow checker : Nat) (r : SentinelResult) : State :=
  if r.shadowPass && r.checkerPass then
    (if r.recomputeAgree then
       ((s.tilePassed n shadow).tilePassed n checker).tileEvent n (if r.shadowDiffered then shadow else checker) 0x01
     else (((s.tilePassed n shadow).tilePassed n checker).tileEvent n checker 0x01).fenceTile n shadow 0x01 0x04)
  else if r.shadowPass then (s.tilePassed n shadow).fenceTile n checker 0x01 0x01
  else if r.checkerPass then (s.tilePassed n checker).fenceTile n shadow 0x01 0x01
  else s.fenceDie n 0x01 0x01 s.now (s.spanOfDie n)

/-- `SENTINEL_WINDOW` (R89, R90, R413 to R416, R420): the shadow millisecond of a window of CS_n, which ends 1 ms into the window's 8 ms of device time; there
is none once that millisecond is over, and one in a window. A tile without a pass, or the last tile of a die, runs the known-answer test instead. -/
def execSentinelWindow (cs : Fin 8) (w : Nat) (r : SentinelResult) (s : State) : Res :=
  let n := cs.val
  let ts := s.integ.tiles.getD n []
  if s.integ.computeFenced.getD n false || ts.isEmpty || decide (8000000 * w + 1000000 < s.now) || decide (w < tabGet 0 s.integ.shadowed n) then .next s
  else
    let t := (s.advance (8000000 * w + 1000000)).endShadow n w
    let p := sentinelPair w ts.length
    let shadow := ts.getD p.1 0
    let checker := if s.integ.spare.getD n false then 8 else ts.getD p.2 0
    if ts.length = 1 ∨ r.idle then .next (if r.shadowPass then t.tilePassed n shadow else t.fenceTile n shadow 0x01 0x01)
    else if r.match_ then .next (t.tilePassed n shadow)
    else .next (t.mismatch n shadow checker r)

/-- `TRANSACTION_WATCHDOG` (R411): a transaction has been outstanding for 10 ms: a package fault. -/
def execTransactionWatchdog (d : Fin 36) (s : State) : Res := .next (s.packageFault 0x09 0 d.val 0)

end Sys2Proof.Machine
end

