-- ==== Sys2Proof/Machine/LaneAlu.lean ====
section
/-! DEFINITION. The vector instructions of lanes (R177 to R184), the conversions (R185 to R189) and the group matrix instruction (R165,
R166). -/

namespace Sys2Proof.Machine

/-- A value sign-extended from `w` to `n` bits. -/
def sext (w n v : Nat) : Nat := (signedOf w (v % 2 ^ w) % (2 ^ n : Int)).toNat

/-- An immediate widened to one element (R179): `v` of 16 or, with `wide`, 32 bits; `kind` as in `VecSpec`. -/
def immElem (kind ty : Nat) (wide : Bool) (v : Nat) : Nat :=
  let w := typeW ty
  let k := if kind = 3 then (if 5 ≤ ty then 2 else 0) else kind
  if k = 2 then
    (if wide then (if ty = 7 then v / 2 ^ 16 else if ty = 8 then (encodeFlt cFp64 (fp32 v)).1 else v)
     else (if ty = 7 then v else if ty = 8 then (encodeFlt cFp64 (fp32 (v * 2 ^ 16))).1 else v * 2 ^ 16))
  else if k = 1 then v % 2 ^ w
  else if wide then (if w ≤ 32 then v % 2 ^ w else sext 32 64 v)
  else if w ≤ 16 then v % 2 ^ w else sext 16 w v

/-- One element repeated over the shape of a type. -/
def splat (ty e : Nat) : Nat := (List.range (typeN ty)).foldl (fun a h => a + e * 2 ^ (typeW ty * h)) 0

/-- A source field of format V for thread `t` (R179). -/
def srcVal (g : Group) (ty f : Nat) (sc : Bool) (t : Nat) : Nat :=
  if sc then (if typePair ty then g.sc (f % 64) else g.sc (f % 64) % 2 ^ 32) else g.val (typePair ty) f t

def vTy (w : Nat) : Nat := bitsOf w 8 4
def vSat (w : Nat) : Nat := bitsOf w 12 2
def vD (w : Nat) : Nat := bitsOf w 20 8

/-- Sources A, B and C of thread `t`. -/
def Lane.srcA (x : Lane) (t : Nat) : Nat := srcVal x.grp (vTy x.w) (bitsOf x.w 28 8) (bitAt x.w 52) t
def Lane.srcB (x : Lane) (kind t : Nat) : Nat :=
  if bitAt x.w 55 then
    splat (vTy x.w) (if bitAt x.w 14 then immElem kind (vTy x.w) true (x.ext % 2 ^ 32) else immElem kind (vTy x.w) false (bitsOf x.w 36 16))
  else srcVal x.grp (vTy x.w) (bitsOf x.w 36 8) (bitAt x.w 53) t
def Lane.srcC (x : Lane) (ty t : Nat) : Nat := srcVal x.grp ty (bitsOf x.w 44 8) (bitAt x.w 54) t

/-- Writes one value for each covered thread. -/
def Lane.putVec (x : Lane) (h : Group) (pair : Bool) (d : Nat) (f : Nat → Nat) : Group :=
  (x.grp.covered x.w).foldl (fun g t => g.setVal pair d t (f t)) h

/-- Element `h` of a packed value. -/
def elemOf (ty v h : Nat) : Nat := bitsOf v (typeW ty * h) (typeW ty)

/-- An operation applied to each element of a type. -/
def eachElem (ty : Nat) (f : Nat → Nat → Nat → Nat) (a b c : Nat) : Nat :=
  (List.range (typeN ty)).foldl (fun r h => r + f (elemOf ty a h) (elemOf ty b h) (elemOf ty c h) % 2 ^ typeW ty * 2 ^ (typeW ty * h)) 0

/-- A vector instruction that works element by element; `kind` says how an immediate widens. -/
def Lane.runVec (x : Lane) (h : Group) (kind : Nat) (f : Nat → Nat → Nat → Nat) : Group :=
  let ty := vTy x.w
  x.putVec h (typePair ty) (vD x.w) fun t => eachElem ty f (x.srcA t) (x.srcB kind t) (x.srcC ty t)

/-- A vector instruction on elements of `w` bits, given what it does to A, B and C. -/
def laneVec (op kind : Nat) (f : Nat → Nat → Nat → Nat → Nat → Nat) (g : Nat) (s : State) : State :=
  s.laneReg g (fun w => wOp w == op) fun x h => x.runVec h kind (f x.w (typeW (vTy x.w)))

/-- The arithmetic right shift of a `w`-bit number. -/
def sarBits (w a n : Nat) : Nat := ((signedOf w a / (2 ^ n : Int)) % (2 ^ w : Int)).toNat

/-- The left rotation of a `w`-bit number. -/
def rotlBits (w a n : Nat) : Nat := (a * 2 ^ n) % 2 ^ w + a / 2 ^ (w - n)

/-- `SHL` (R180). -/
def execShl (g : Nat) (s : State) : Res := .next (laneVec 0x01 1 (fun _ w a b _ => a * 2 ^ (b % w)) g s)

/-- `SHR` (R180). -/
def execShr (g : Nat) (s : State) : Res := .next (laneVec 0x02 1 (fun _ w a b _ => a / 2 ^ (b % w)) g s)

/-- `SAR` (R180). -/
def execSar (g : Nat) (s : State) : Res := .next (laneVec 0x03 1 (fun _ w a b _ => sarBits w a (b % w)) g s)

/-- `ROTL` (R180). -/
def execRotl (g : Nat) (s : State) : Res := .next (laneVec 0x04 1 (fun _ w a b _ => rotlBits w a (b % w)) g s)

/-- `AND` (R180). -/
def execAnd (g : Nat) (s : State) : Res := .next (laneVec 0x08 1 (fun _ _ a b _ => a &&& b) g s)

/-- `OR` (R180). -/
def execOr (g : Nat) (s : State) : Res := .next (laneVec 0x09 1 (fun _ _ a b _ => a ||| b) g s)

/-- `XOR` (R180). -/
def execXor (g : Nat) (s : State) : Res := .next (laneVec 0x0A 1 (fun _ _ a b _ => a ^^^ b) g s)

/-- The truth table of a `LOP3`: MOD and bits [63:60] (R177). -/
def lopTable (w : Nat) : Nat := bitsOf w 56 4 + 16 * bitsOf w 60 4

/-- A three-input function bit by bit (R180). -/
def lopBits (tt w a b c : Nat) : Nat :=
  (List.range w).foldl (fun r i => r + b2n (bitAt tt (4 * b2n (bitAt a i) + 2 * b2n (bitAt b i) + b2n (bitAt c i))) * 2 ^ i) 0

/-- `LOP3` (R180). -/
def execLop3 (g : Nat) (s : State) : Res := .next (laneVec 0x0B 1 (fun wd w a b c => lopBits (lopTable wd) w a b c) g s)

/-- An operand read as SAT says (R181). -/
def satRead (sat w v : Nat) : Int := if sat = 2 then (v : Int) else signedOf w v

/-- An exact result written as SAT says: its low bits, or clamped once (R181). -/
def satWrite (sat w : Nat) (v : Int) : Nat :=
  let lo : Int := if sat = 2 then 0 else -(2 ^ (w - 1) : Int)
  let hi : Int := if sat = 2 then 2 ^ w - 1 else 2 ^ (w - 1) - 1
  ((if sat = 0 then v else max lo (min hi v)) % (2 ^ w : Int)).toNat

/-- An integer operation formed exactly and written once (R181). -/
def intVec (op : Nat) (f : Int → Int → Int → Int) (g : Nat) (s : State) : State :=
  laneVec op 0 (fun wd w a b c => satWrite (vSat wd) w (f (satRead (vSat wd) w a) (satRead (vSat wd) w b) (satRead (vSat wd) w c))) g s

/-- `IADD` (R181). -/
def execIadd (g : Nat) (s : State) : Res := .next (intVec 0x10 (fun a b _ => a + b) g s)

/-- `ISUB` (R181). -/
def execIsub (g : Nat) (s : State) : Res := .next (intVec 0x11 (fun a b _ => a - b) g s)

/-- `IMUL` (R181). -/
def execImul (g : Nat) (s : State) : Res := .next (intVec 0x12 (fun a b _ => a * b) g s)

/-- `IMULHI_S` (R181). -/
def execImulhiS (g : Nat) (s : State) : Res :=
  .next (laneVec 0x13 0 (fun _ w a b _ => ((signedOf w a * signedOf w b / (2 ^ w : Int)) % (2 ^ w : Int)).toNat) g s)

/-- `IMAD` (R181). -/
def execImad (g : Nat) (s : State) : Res := .next (intVec 0x14 (fun a b c => a * b + c) g s)

/-- `SMIN` (R181). -/
def execSmin (g : Nat) (s : State) : Res := .next (laneVec 0x15 0 (fun _ w a b _ => if signedOf w a < signedOf w b then a else b) g s)

/-- `UMIN` (R181). -/
def execUmin (g : Nat) (s : State) : Res := .next (laneVec 0x16 0 (fun _ _ a b _ => min a b) g s)

/-- `SMAX` (R181). -/
def execSmax (g : Nat) (s : State) : Res := .next (laneVec 0x17 0 (fun _ w a b _ => if signedOf w a < signedOf w b then b else a) g s)

/-- `UMAX` (R181). -/
def execUmax (g : Nat) (s : State) : Res := .next (laneVec 0x18 0 (fun _ _ a b _ => max a b) g s)

/-- `IABS` (R181). -/
def execIabs (g : Nat) (s : State) : Res := .next (laneVec 0x19 0 (fun wd w a _ _ => satWrite (vSat wd) w (signedOf w a).natAbs) g s)

/-- The four products of one INT32 element of `IDOT8`, added to it (R181). -/
def dot8 (sat a b c k : Nat) : Nat :=
  satWrite sat 32 ((List.range 4).foldl (fun (r : Int) h =>
    r + satRead sat 8 (bitsOf a (8 * (4 * k + h)) 8) * satRead sat 8 (bitsOf b (8 * (4 * k + h)) 8)) (satRead sat 32 (bitsOf c (32 * k) 32)))

/-- `IDOT8` (R181). -/
def execIdot8 (g : Nat) (s : State) : Res :=
  .next (s.laneReg g (fun w => wOp w == 0x1A) fun x h =>
    x.putVec h true (vD x.w) fun t =>
      let a := x.srcA t
      let b := x.srcB 0 t
      let c := x.srcC 3 t
      dot8 (vSat x.w) a b c 0 + 2 ^ 32 * dot8 (vSat x.w) a b c 1)

/-- `IMULHI_U` (R181). -/
def execImulhiU (g : Nat) (s : State) : Res := .next (laneVec 0x1B 0 (fun _ w a b _ => a * b / 2 ^ w) g s)

/-- A floating-point operand after MOD: absolute value, then negation (R182). -/
def modOperand (fmt v : Nat) (ab neg : Bool) : Num :=
  let x := decodeFlt fmt false v
  let y := if ab then x.abs else x
  if neg then y.negate else y

/-- Operands A, B and C of a floating-point instruction (R177). -/
def fltA (wd v : Nat) : Num := modOperand (typeFmt (vTy wd)) v (bitAt wd 58) (bitAt wd 56)
def fltB (wd v : Nat) : Num := modOperand (typeFmt (vTy wd)) v (bitAt wd 59) false
def fltC (wd v : Nat) : Num := modOperand (typeFmt (vTy wd)) v false (bitAt wd 57)

/-- A floating-point operation rounded once to its element format (R182). -/
def fltVec (op : Nat) (f : Num → Num → Num → Num) (g : Nat) (s : State) : State :=
  laneVec op 2 (fun wd _ a b c => (encodeFlt (typeFmt (vTy wd)) (f (fltA wd a) (fltB wd b) (fltC wd c))).1) g s

/-- `FADD` (R182). -/
def execFadd (g : Nat) (s : State) : Res := .next (fltVec 0x20 (fun a b _ => a.add b) g s)

/-- `FMUL` (R182). -/
def execFmul (g : Nat) (s : State) : Res := .next (fltVec 0x21 (fun a b _ => a.mul b) g s)

/-- `FFMA` (R182). -/
def execFfma (g : Nat) (s : State) : Res := .next (fltVec 0x22 (fun a b c => (a.mul b).add c) g s)

/-- `FMIN` (R182, R106). -/
def execFmin (g : Nat) (s : State) : Res := .next (fltVec 0x23 (fun a b _ => a.min b) g s)

/-- `FMAX` (R182, R106). -/
def execFmax (g : Nat) (s : State) : Res := .next (fltVec 0x24 (fun a b _ => a.max b) g s)

/-- An approximation of FP32 elements after MOD (R183). -/
def approxVec (op : Nat) (f : Nat → Nat) (g : Nat) (s : State) : State := laneVec op 2 (fun wd _ a _ _ => f (toFp32 (fltA wd a))) g s

/-- `RCP` (R183). -/
def execRcp (g : Nat) (s : State) : Res := .next (approxVec 0x38 laneRcp g s)

/-- `RSQRT` (R183). -/
def execRsqrt (g : Nat) (s : State) : Res := .next (approxVec 0x39 laneRsqrt g s)

/-- `EXP2` (R183). -/
def execExp2 (g : Nat) (s : State) : Res := .next (approxVec 0x3A laneExp2 g s)

/-- `LOG2` (R183). -/
def execLog2 (g : Nat) (s : State) : Res := .next (approxVec 0x3B laneLog2 g s)

/-- `MOV` (R184). -/
def execMov (g : Nat) (s : State) : Res := .next (laneVec 0x3C 3 (fun _ _ _ b _ => b) g s)

/-- `SEL` (R184). -/
def execSel (g : Nat) (s : State) : Res :=
  .next (s.laneReg g (fun w => wOp w == 0x3D) fun x h =>
    x.putVec h (typePair (vTy x.w)) (vD x.w) fun t => if bitAt (x.grp.pr (bitsOf x.w 44 3)) t then x.srcA t else x.srcB 3 t)

/-- A predicate with bit `t` set to a value. -/
def putBit (p t : Nat) (v : Bool) : Nat := setBits p t 1 (b2n v)

/-- A compare: bit t of the predicate for each covered thread, the other bits unchanged (R184). -/
def cmpVec (op kind : Nat) (f : Nat → Nat → Nat → Nat → Bool) (g : Nat) (s : State) : State :=
  s.laneReg g (fun w => wOp w == op) fun x h =>
    let d := bitsOf x.w 20 3
    h.setPr d ((x.grp.covered x.w).foldl (fun p t => putBit p t (f x.w (typeW (vTy x.w)) (x.srcA t) (x.srcB kind t))) (x.grp.pr d))

/-- `ICMP_EQ` (R184). -/
def execIcmpEq (g : Nat) (s : State) : Res := .next (cmpVec 0x30 0 (fun _ _ a b => a == b) g s)

/-- `ICMP_NE` (R184). -/
def execIcmpNe (g : Nat) (s : State) : Res := .next (cmpVec 0x31 0 (fun _ _ a b => a != b) g s)

/-- `ICMP_SLT` (R184). -/
def execIcmpSlt (g : Nat) (s : State) : Res := .next (cmpVec 0x32 0 (fun _ w a b => decide (signedOf w a < signedOf w b)) g s)

/-- `ICMP_SLE` (R184). -/
def execIcmpSle (g : Nat) (s : State) : Res := .next (cmpVec 0x33 0 (fun _ w a b => decide (signedOf w a ≤ signedOf w b)) g s)

/-- `ICMP_ULT` (R184). -/
def execIcmpUlt (g : Nat) (s : State) : Res := .next (cmpVec 0x34 0 (fun _ _ a b => decide (a < b)) g s)

/-- `ICMP_ULE` (R184). -/
def execIcmpUle (g : Nat) (s : State) : Res := .next (cmpVec 0x35 0 (fun _ _ a b => decide (a ≤ b)) g s)

/-- `FCMP_EQ` (R184, R106). -/
def execFcmpEq (g : Nat) (s : State) : Res := .next (cmpVec 0x29 2 (fun wd _ a b => (fltA wd a).eq (fltB wd b)) g s)

/-- `FCMP_NE` (R184, R106). -/
def execFcmpNe (g : Nat) (s : State) : Res := .next (cmpVec 0x2A 2 (fun wd _ a b => !(fltA wd a).eq (fltB wd b)) g s)

/-- `FCMP_LT` (R184, R106). -/
def execFcmpLt (g : Nat) (s : State) : Res := .next (cmpVec 0x2B 2 (fun wd _ a b => (fltA wd a).lt (fltB wd b)) g s)

/-- `FCMP_LE` (R184, R106). -/
def execFcmpLe (g : Nat) (s : State) : Res :=
  .next (cmpVec 0x2C 2 (fun wd _ a b => (fltA wd a).lt (fltB wd b) || (fltA wd a).eq (fltB wd b)) g s)

/-- Bits of a lane format (R91, R185). -/
def laneBits (c : Nat) : Nat := if c = 0x05 then 16 else if c = 0x06 then 64 else fmtBits c

/-- The value of a source element (R186 to R188). -/
def convValue (c v : Nat) : Num :=
  let b := v % 2 ^ laneBits c
  if c = 0x05 ∨ c = 0x06 ∨ fmtInt c then ofIntVal (signedOf (laneBits c) b)
  else if c = 0x25 then (ofIntVal (signedOf 8 b)).scale (-6)
  else if fmtMx c then decodeFlt (mxElem c) true b
  else if fmtTs c then
    (let neg := bitAt b (fmtBits c - 1)
     let m := bitsOf b 0 (fmtBits c - 1)
     if neg && m == 0 then .nan else .fin neg m 0)
  else decodeFlt c false b

/-- An MX element written by `CVTX` (R188). -/
def mxWrite (c : Nat) (v : Num) : Nat :=
  match v with
  | .fin n _ _ =>
    let r := mxCode c v
    if r.2 then (if c = 0x25 then (if n then 129 else 127) else signBit (mxElem c) n + maxCode (mxElem c)) else r.1
  | _ => 0

/-- A TS element written by `CVTX` (R188). -/
def tsWrite (c : Nat) (v : Num) : Nat :=
  let nanBits := 2 ^ (fmtBits c - 1)
  match v with
  | .fin n _ _ =>
    let m := min (tsMax c) (roundAt v.abs 0)
    (if n && m != 0 then nanBits else 0) + m
  | _ => nanBits

/-- A value written into a register as a lane format (R186 to R188). -/
def convWriteReg (c : Nat) (v : Num) : Nat :=
  if c = 0x05 ∨ c = 0x06 ∨ fmtInt c then
    (let b := (encodeInt (laneBits c) v).1
     if laneBits c = 64 then b else sext (laneBits c) 32 b)
  else if fmtMx c then mxWrite c v
  else if fmtTs c then tsWrite c v
  else (encodeFlt c v).1

/-- A conversion of each covered thread's register (R186); `f` gets the source value and the thread. -/
def convLane (op : Nat) (f : Lane → Nat → Num → Nat) (g : Nat) (s : State) : State :=
  s.laneReg g (fun w => wOp w == op) fun x h =>
    let src := bitsOf x.w 8 8
    x.putVec h (fmtPair (convDst x.w) && op != 0x42) (bitsOf x.w 20 8)
      fun t => f x t (convValue src (x.grp.val (fmtPair src) (bitsOf x.w 28 8) t))

/-- `CVT` (R187). -/
def execCvt (g : Nat) (s : State) : Res := .next (convLane 0x40 (fun x _ v => convWriteReg (convDst x.w) v) g s)

/-- The exponent of a `CVTX` (R185). -/
def cvtxExp (x : Lane) (t : Nat) : Int :=
  if bitsOf x.w 44 2 = 2 then signedOf 16 (bitsOf x.w 46 16)
  else signedOf 32 ((if bitsOf x.w 44 2 = 1 then x.grp.sc (bitsOf x.w 36 6) else x.grp.reg (bitsOf x.w 36 8) t) % 2 ^ 32)

/-- `CVTX` (R188). -/
def execCvtx (g : Nat) (s : State) : Res := .next (convLane 0x41 (fun x t v => convWriteReg (convDst x.w) (v.scale (cvtxExp x t))) g s)

/-- The block scale exponent of R99 or R100 (R189). -/
def sclxExp (c : Nat) (a : Num) : Int :=
  match (if fmtMx c then mxScale c a.abs else tsScale c a.abs) with
  | some x => x
  | none => 128

/-- `SCLX` (R189). -/
def execSclx (g : Nat) (s : State) : Res :=
  .next (convLane 0x42 (fun x _ v => ((sclxExp (convDst x.w) v) % (2 ^ 32 : Int)).toNat) g s)

/-- A fragment element of A or B held by thread `t`, element `h` (R165). -/
def fragElem (g : Group) (fmt r t h : Nat) : Nat :=
  if fmt = 3 then bitsOf (g.val true r t) (16 * h) 16 else bitsOf (g.reg r t) (8 * h) 8

/-- The value of a fragment element. -/
def fragValue (fmt b : Nat) : Num :=
  if fmt = 0 then ofIntVal (signedOf 8 b) else decodeFlt (if fmt = 1 then 0x13 else if fmt = 2 then 0x14 else 0x18) false b

/-- D[i][j] of an `MMA` (R165). -/
def mmaElem (g : Group) (w i j : Nat) : Nat :=
  let fmt := bitsOf w 8 2
  let terms := (List.range 16).map fun k =>
    (fragValue fmt (fragElem g fmt (bitsOf w 28 8) (4 * i + k / 4) (k % 4))).mul
      (fragValue fmt (fragElem g fmt (bitsOf w 36 8) (4 * j + k / 4) (k % 4)))
  let c := g.reg (bitsOf w 44 8 + j % 4) (4 * i + j / 4)
  if fmt = 0 then (encodeInt 32 ((sumExact terms).add (ofIntVal (signedOf 32 c)))).1 else toFp32 ((fp32 c).add (sumExact terms))

/-- The group after an `MMA`. -/
def mmaGroup (x : Lane) (h : Group) : Group :=
  (List.range 256).foldl (fun g e =>
    let i := e / 16
    let j := e % 16
    g.setReg (bitsOf x.w 20 8 + j % 4) (4 * i + j / 4) (mmaElem x.grp x.w i j)) h

/-- `MMA` (R165, R166): any active mask but all 64 raises the group fault `DIVERGENT_MATRIX`. -/
def execMma (g : Nat) (s : State) : Res :=
  match s.laneAt g with
  | none => .next s
  | some x =>
    if wOp x.w ≠ 0x70 then .next s
    else if x.grp.active.toNat = allThreads then .next (s.retire x (mmaGroup x x.past) 0 allThreads)
    else
      let live := allThreads - (x.grp.active ||| x.grp.exited).toNat
      .next (s.groupFault x.blk.launch x.lch x.blk 0x0701
        (groupFaultRecord x.lch x.blk 1 x.grp.num x.grp.pc 0 x.grp.active.toNat 0 s.now [(x.grp.num, live)]))

end Sys2Proof.Machine
end

