-- ==== Sys2Proof/Machine/LaneMem.lean ====
section
/-! DEFINITION. The memory instructions of lanes (R190 to R195). -/

namespace Sys2Proof.Machine

/-- The value an atomic leaves (R192): `n` bytes, the old value, the operand, and the comparison value of `CAS`. -/
def atomNew (op : AtomOp) (n old v cmp : Nat) : Nat :=
  let w := 8 * n
  match op with
  | .add => (old + v) % 2 ^ w
  | .smin => if signedOf w v < signedOf w old then v else old
  | .umin => min old v
  | .smax => if signedOf w old < signedOf w v then v else old
  | .umax => max old v
  | .and => old &&& v
  | .or => old ||| v
  | .xor => old ^^^ v
  | .exch => v
  | .cas => if old = cmp then v else old
  | .fadd =>
    let c := if n = 8 then cFp64 else cFp32
    (encodeFlt c ((decodeFlt c false old).add (decodeFlt c false v))).1

/-- AOP (R190). -/
def aopOf (k : Nat) : AtomOp :=
  match k with
  | 0 => .add | 1 => .smin | 2 => .umin | 3 => .smax | 4 => .umax | 5 => .and | 6 => .or | 7 => .xor | 8 => .exch | 9 => .cas | _ => .fadd

/-- The address of a thread's access, aligned to its size (R191). -/
def laneAddr (base sh ix : Nat) (en : Bool) (off : Int) (align : Nat) : Nat :=
  let a := (((base : Int) + ((if en then ix * 2 ^ sh else 0 : Nat) : Int) + off) % (2 ^ 64 : Int)).toNat
  a / align * align

/-- Format M. -/
def memAddr (g : Group) (w t align : Nat) : Nat :=
  laneAddr (g.sc (bitsOf w 28 6)) (bitsOf w 14 2) (g.reg (bitsOf w 34 8) t) (bitAt w 42) (signedOf 16 (bitsOf w 43 16)) align

/-- Format A. -/
def atomAddr (g : Group) (w t align : Nat) : Nat :=
  laneAddr (g.sc (bitsOf w 44 6)) (bitsOf w 14 2) (g.reg (bitsOf w 50 8) t) (bitAt w 58) 0 align

/-- The local store of the lane's block (R154). -/
def State.locRead (s : State) (x : Lane) (a n : Nat) : Nat :=
  match s.block x.grp.blk with
  | some b => if a < x.lch.localBytes then leNat (tabGetList 0 b.store a n) else 0
  | none => 0

/-- A local store; beyond LOCAL_BYTES nothing is written (R154). -/
def State.locWrite (s : State) (x : Lane) (a : Nat) (d : List Byte) : State :=
  match s.block x.grp.blk with
  | some b => if a < x.lch.localBytes then s.setBlock x.grp.blk (some { b with store := tabPutList 0 b.store a d }) else s
  | none => s

/-- One thread's part of a memory instruction: the state, the group, and the refused access with its class. -/
abbrev ThreadRun := State → Group → Nat → State × Group × Option (Nat × Hit)

/-- The AGENT_ID of a lane's thread unit (R248). -/
abbrev Lane.agent (x : Lane) : Nat := unitAgent x.blk.unit

/-- A memory instruction under way: the threads whose access faulted with the records they wait on, and how it ends if it cannot go on. -/
structure MemRun where
  st : State
  grp : Group
  failed : List Nat
  ixs : List Nat
  dead : Option (Nat × Nat)

/-- One thread of a memory instruction (R192, R195). -/
def memStep (x : Lane) (f : ThreadRun) (r : MemRun) (t : Nat) : MemRun :=
  if r.dead.isSome then r
  else
    match f r.st r.grp t with
    | (s1, g1, none) => { r with st := s1, grp := g1 }
    | (s1, _, some (acc, h)) =>
      let e := s1.faultAt x.lch.ctx (unitAgent x.blk.unit) x.lch.opIndex acc h (.group x.g)
      if h.kind ≤ 5 then { r with st := e.2, failed := r.failed ++ [t], ixs := insNat e.1 r.ixs }
      else { r with st := e.2, dead := some (statusOfKind h.kind, e.1) }

/-- Runs a memory instruction for its covered threads in ascending number, or for those that a fault stalled (R192, R195). The group
goes on when no access faulted; otherwise it stalls, and what the other threads did stays. -/
def State.laneMem (s : State) (g : Nat) (is : Nat → Bool) (va : Lane → Nat → Nat) (f : Lane → ThreadRun) : State :=
  match s.laneAt g with
  | none => s
  | some x =>
    if !is x.w then s
    else
      let ts := match x.grp.replay with
        | some m => threadsOf m.toNat
        | none => x.grp.covered x.w
      let r := ts.foldl (memStep x (f x)) ⟨s, x.grp, [], [], none⟩
      let lead := match x.grp.covered x.w with
        | t :: _ => va x t
        | [] => 0
      let note := fun (u : State) => if x.grp.replay.isSome then u else u.noteIssue x lead (maskOf (x.grp.covered x.w))
      match r.dead with
      | some d => (note r.st).accessFault x.blk.launch d.1 d.2 x.grp.blk
      | none =>
        if r.failed.isEmpty then
          ((note r.st).setGroup g (some ({ r.grp with pc := x.next, replay := none }.settle x.lch.codeEnd 34))).refreshBlock x.grp.blk
        else
          ((note r.st).setGroup g (some { r.grp with stalled := r.ixs, replay := some (BitVec.ofNat 64 (maskOf r.failed)) })).refreshBlock
            x.grp.blk

/-- SPACE is local. -/
def isLocal (w : Nat) : Bool := bitsOf w 12 2 == 1

/-- A loaded value placed in its registers (R190). -/
def loadInto (g : Group) (w t v : Nat) : Group :=
  let d := bitsOf w 20 8
  let size := bitsOf w 8 3
  if size = 0 then g.setReg d t (if bitAt w 11 then sext 8 32 v else v)
  else if size = 1 then g.setReg d t (if bitAt w 11 then sext 16 32 v else v)
  else if size = 2 then g.setReg d t v
  else if size = 3 then g.setVal true d t v
  else (g.setVal true d t (v % 2 ^ 64)).setVal true (d + 2) t (v / 2 ^ 64)

/-- `LD` for one thread (R191). -/
def ldThread (x : Lane) : ThreadRun := fun s g t =>
  let n := 2 ^ bitsOf x.w 8 3
  let a := memAddr x.grp x.w t n
  if isLocal x.w then (s, loadInto g x.w t (s.locRead x a n), none)
  else
    match s.newAccess.prepAt x.agent x.lch.ctx accRead a n with
    | (s1, some h) => (s1, g, some (accRead, h))
    | (s1, none) => (s1, loadInto g x.w t (leNat (s1.rdVAt x.agent x.lch.ctx a n)), none)

/-- `LD` (R191). -/
def execLd (g : Nat) (s : State) : Res :=
  .next (s.laneMem g (fun w => wOp w == 0x50) (fun x t => memAddr x.grp x.w t (2 ^ bitsOf x.w 8 3)) ldThread)

/-- The bytes that `ST` stores for one thread. -/
def storeBytes (g : Group) (w t : Nat) : List Byte :=
  let d := bitsOf w 20 8
  let size := bitsOf w 8 3
  if size ≤ 2 then leBytes (g.reg d t) (2 ^ size)
  else if size = 3 then leBytes (g.val true d t) 8
  else leBytes (g.val true d t) 8 ++ leBytes (g.val true (d + 2) t) 8

/-- `ST` for one thread (R192). -/
def stThread (x : Lane) : ThreadRun := fun s g t =>
  let n := 2 ^ bitsOf x.w 8 3
  let a := memAddr x.grp x.w t n
  let d := storeBytes x.grp x.w t
  if isLocal x.w then (s.locWrite x a d, g, none)
  else
    match s.newAccess.prepAt x.agent x.lch.ctx accWrite a n with
    | (s1, some h) => (s1, g, some (accWrite, h))
    | (s1, none) => (s1.wrVAt x.agent x.lch.ctx a d, g, none)

/-- `ST` (R192). -/
def execSt (g : Nat) (s : State) : Res :=
  .next (s.laneMem g (fun w => wOp w == 0x51) (fun x t => memAddr x.grp x.w t (2 ^ bitsOf x.w 8 3)) stThread)

/-- A covered thread of a lower number names the same line, and has acted on it (R193). -/
def Lane.lineDone (x : Lane) (t : Nat) : Bool :=
  (x.grp.covered x.w).any fun u => decide (u < t) && memAddr x.grp x.w u 128 == memAddr x.grp x.w t 128

/-- `ZERO_LINE` for one thread (R193, R239), which acts once on each distinct line: the line is zero, Modified in the unit's L1, in the stack cache or, where both are disabled, at its home, and
not lost. -/
def zeroThread (x : Lane) : ThreadRun := fun s g t =>
  let a := memAddr x.grp x.w t 128
  if x.lineDone t then (s, g, none)
  else
  match s.newAccess.prepAt x.agent x.lch.ctx accFull a 128 with
  | (s1, some h) => (s1, g, some (accFull, h))
  | (s1, none) => (s1.zeroVFrom x.agent x.lch.ctx 1 2 a 128, g, none)

/-- `ZERO_LINE` (R193). -/
def execZeroLine (g : Nat) (s : State) : Res :=
  .next (s.laneMem g (fun w => wOp w == 0x52) (fun x t => memAddr x.grp x.w t 128) zeroThread)

/-- The line that a prefetch of a context may fetch, in physical memory: its translation is still resident and gives the rights, and nothing refuses the
read (R193, R238, R288). A translation that any cache of the context holds counts as resident (DEDUCED, log 154). -/
def State.prefetchPa (s : State) (c va : Nat) (write : Bool) : Option Nat :=
  match s.tlb.leaves.find? fun e => e.covers c va with
  | none => none
  | some e =>
    let pa := (e.pa + (va - e.lo)) / 128 * 128
    if s.hits c [5, e.lo, e.pa, e.entry] && rightsOk (bitsOf e.entry 2 3) (if write then 3 else 1) && s.backed pa && !ioAddr pa &&
        (s.dirOf (pa / 128)).st != .l && !s.deadOwned (pa / 128) && (s.badIn (pa / 128) (pa / 128)).isNone then some pa
    else none

/-- A prefetch fetches a line for an agent, with ownership when a write is intended (R193, R257). -/
def State.prefetchLine (s : State) (a ln age : Nat) (write : Bool) : State :=
  if write then
    match s.filler a ln with
    | none => s
    | some b =>
      match s.present b ln with
      | some c => if c.st = .m then s.hit b ln else (s.takeLine ln).ownLine a ln age (some c)
      | none => (s.takeLine ln).ownLine a ln age none
  else s.bringLine a ln age

/-- `PREFETCH` for one thread (R193), once for each distinct line: bit 8 names the stack cache, bit 9 a write intent, bit 10 an old insertion. -/
def prefetchThread (x : Lane) : ThreadRun := fun s g t =>
  if x.lineDone t then (s, g, none)
  else
  match s.newAccess.prefetchPa x.lch.ctx (memAddr x.grp x.w t 1) (bitAt x.w 9) with
  | none => (s.newAccess, g, none)
  | some pa =>
    ((s.newAccess.countPage (if bitAt x.w 8 then stackCacheOf x.agent else x.agent) x.lch.ctx (memAddr x.grp x.w t 1) pa 1).prefetchLine (if bitAt x.w 8 then stackCacheOf x.agent else x.agent) (pa / 128) (if bitAt x.w 10 then 3 else 1) (bitAt x.w 9), g, none)

/-- `PREFETCH` (R193): it never stalls or faults. -/
def execPrefetch (g : Nat) (s : State) : Res :=
  .next (s.laneMem g (fun w => wOp w == 0x53) (fun x t => memAddr x.grp x.w t 1) prefetchThread)

/-- `MFENCE` (R194): every earlier write is visible already, for each access acts at its home. -/
def execMfence (g : Nat) (s : State) : Res := .next (s.laneReg g (fun w => wOp w == 0x54) fun _ h => h)

/-- An atomic for one thread (R192): the old value is that of the line once the unit owns it (R257). -/
def atomThread (x : Lane) : ThreadRun := fun s g t =>
  let n := 2 ^ bitsOf x.w 8 3
  let pair := n == 8
  let a := atomAddr x.grp x.w t n
  let v := x.grp.val pair (bitsOf x.w 20 8) t
  let cmp := x.grp.val pair (bitsOf x.w 28 8) t
  let ret := fun (old : Nat) => if bitAt x.w 11 then g.setVal pair (bitsOf x.w 36 8) t old else g
  let op := aopOf (bitsOf x.w 59 4)
  if isLocal x.w then
    let old := s.locRead x a n
    (s.locWrite x a (leBytes (atomNew op n old v cmp) n), ret old, none)
  else
    match s.newAccess.prepAt x.agent x.lch.ctx accAtomic a n with
    | (s1, some h) => (s1, g, some (accAtomic, h))
    | (s1, none) =>
      let old := leNat (s1.rdBytes (s1.tr x.lch.ctx a) n)
      (s1.wrVAt x.agent x.lch.ctx a (leBytes (atomNew op n old v cmp) n), ret old, none)

/-- An `ATOM` whose AOP is `k`. -/
def laneAtom (k g : Nat) (s : State) : State :=
  s.laneMem g (fun w => wOp w == 0x58 && bitsOf w 59 4 == k) (fun x t => atomAddr x.grp x.w t (2 ^ bitsOf x.w 8 3)) atomThread

/-- `ATOM_ADD` (R192). -/
def execAtomAdd (g : Nat) (s : State) : Res := .next (laneAtom 0 g s)

/-- `ATOM_SMIN` (R192). -/
def execAtomSmin (g : Nat) (s : State) : Res := .next (laneAtom 1 g s)

/-- `ATOM_UMIN` (R192). -/
def execAtomUmin (g : Nat) (s : State) : Res := .next (laneAtom 2 g s)

/-- `ATOM_SMAX` (R192). -/
def execAtomSmax (g : Nat) (s : State) : Res := .next (laneAtom 3 g s)

/-- `ATOM_UMAX` (R192). -/
def execAtomUmax (g : Nat) (s : State) : Res := .next (laneAtom 4 g s)

/-- `ATOM_AND` (R192). -/
def execAtomAnd (g : Nat) (s : State) : Res := .next (laneAtom 5 g s)

/-- `ATOM_OR` (R192). -/
def execAtomOr (g : Nat) (s : State) : Res := .next (laneAtom 6 g s)

/-- `ATOM_XOR` (R192). -/
def execAtomXor (g : Nat) (s : State) : Res := .next (laneAtom 7 g s)

/-- `ATOM_EXCH` (R192). -/
def execAtomExch (g : Nat) (s : State) : Res := .next (laneAtom 8 g s)

/-- `ATOM_CAS` (R192). -/
def execAtomCas (g : Nat) (s : State) : Res := .next (laneAtom 9 g s)

/-- `ATOM_FADD` (R192). -/
def execAtomFadd (g : Nat) (s : State) : Res := .next (laneAtom 10 g s)

end Sys2Proof.Machine
end

