-- ==== Sys2Proof/Machine/Homes.lean ====
section
/-! DEFINITION. The homes of the coherent pool (R248 to R257, R262, R265): what a home reads, refuses, recalls and grants, what becomes of a block whose
symbol code fails, the order of waiting requests, and the requests of caching and non-caching agents. One command is one message as it is handled;
messages that a command sends wait in `coh.msgs` for the command that receives them. -/

namespace Sys2Proof.Machine

/-- Sends one message. -/
def State.post (s : State) (m : CohMsg) : State := { s with coh := { s.coh with msgs := s.coh.msgs ++ [m] } }

/-- The first message of a kind to an agent for a line. -/
def State.msgFor (s : State) (k : MsgKind) (a ln : Nat) : Option CohMsg := s.coh.msgs.find? fun m => m.kind == k && m.dest == a && m.line == ln

/-- Takes one message away. -/
def State.unpost (s : State) (m : CohMsg) : State := { s with coh := { s.coh with msgs := s.coh.msgs.erase m } }

/-- Sends Inval to agents, each of which owes the requester one InvalAck (R251, R257); a dead agent is answered for by the home. -/
def State.invalidate (s : State) (ln req : Nat) (targets : List Nat) : State :=
  let ts := targets.filter fun t => t != req && agentExists s.dev.variant t && !s.agentDead t
  let s1 := ts.foldl (fun (t : State) h => t.post ⟨.inval, h, req, ln, [], .s, .demand⟩) s
  if ts.isEmpty ∨ req = homeAgent then s1
  else { s1 with coh := { s1.coh with owedAcks := s1.coh.owedAcks ++ [(req, ln, ts.length)] } }

/-- The context whose work an agent of a compute stack carries, with its operation; none for the others. -/
def State.agentCtx (s : State) (a : Nat) : Option (Nat × Nat) :=
  if a < 1024 then
    (match if a % 128 < 64 then (s.onUnitCtxs (64 * (a / 128) + a % 128)).head? else none with
     | some e => some e
     | none => ((s.partOfStack (a / 128)).bind fun k => (s.part k).running).map fun c => (c, runningOp (s.ctx c)))
  else none

/-- An operation whose access was refused ends (R267). -/
def State.endByLine (s : State) (c op kind ix : Nat) : State :=
  match (s.ctx c).flights.find? fun f => f.opIndex == op with
  | some f =>
    (match f.st with
     | .launched l => s.stopLaunch l (endWith (statusOfKind kind) ix)
     | .streaming => s.stopStream c op (endWith (statusOfKind kind) ix)
     | _ => s)
  | none => s

/-- The exception that a refused request of a core raises; a hint is dropped (R238, R240, R267). -/
def coreCause : CoreReq → Option Nat
  | .fetch => some 1
  | .load _ => some 5
  | .store _ | .zero _ => some 7
  | .hintRead _ | .hintWrite _ | .hintFetch => none

/-- The access class of a request (R298). -/
def classOf (acc : Nat) : ReqCause → Nat
  | .core _ .fetch _ => accCode
  | _ => acc

/-- A core takes an access fault with the faulting virtual address in its trap value register (R267). Lost and uncorrectable data also write a record with
CONTEXT 0xFFF (R297). -/
def State.coreFault (s : State) (k a cause acc kind ln : Nat) (va : BitVec 64) : State :=
  let s1 := { s with irq := s.irq.setCore k { s.irq.coreOf k with cause := cause, tval := va } }
  if kind < 6 then s1 else (s1.hardFault 0xFFF a 0 acc ⟨kind, 7, va.toNat, ln * 128⟩).2

/-- A refused request (R54, R262, R265, R267, R277): its fault record, and the end of the operation that made it; a hamper prefetch is dropped (R227),
and so is a hint (R238). The virtual address of a context's access is the agent's and does not travel with the message (free value, log 54). A request that
no context and no core is known to have made names CONTEXT 0xFFF. -/
def State.refuse (s : State) (a ln acc kind : Nat) (why : ReqCause) : State :=
  if isHamper a then s.countDrop (16 * (a / 128)) none
  else
    match why with
    | .core k r va =>
      (match coreCause r with
       | some cause => s.coreFault k a cause (classOf acc why) kind ln va
       | none => s)
    | _ =>
      let v := s.free
      match s.agentCtx a with
      | none => (v.2.hardFault 0xFFF a 0 acc ⟨kind, 7, v.1 % 2 ^ 56, ln * 128⟩).2
      | some e =>
        if kind < 6 then (v.2.faultAt e.1 a e.2 acc ⟨kind, 7, v.1 % 2 ^ 56, ln * 128⟩ (.op e.1 e.2)).2
        else
          let r := v.2.hardFault e.1 a e.2 acc ⟨kind, 7, v.1 % 2 ^ 56, ln * 128⟩
          r.2.endByLine e.1 e.2 kind r.1

/-- The way of base SRAM that holds a line of near memory (R229, R423). -/
def nearWay (ln : Nat) : Nat := (ln * 128 - 0x100000000000) % 2 ^ 31 / 2 ^ 26

/-- What the symbol code corrected in a read of memory is counted on its row or way (R277, R422). -/
def State.noteEcc (s : State) (ln : Nat) (e : Ecc) : State :=
  if e = .corrected then
    match regionOf (ln * 128) with
    | .dram d => s.noteCorrected d (s.storePc d ln) (rowOf ln)
    | .near n => s.countError 5 (8 + n) (nearWay ln) fun t => t.fenceWay n (nearWay ln) 0x04 0x03
    | _ => s
  else s

/-- Uncorrectable data that a home read from memory: the line enters L and the find is reported (R277, R417). -/
def State.loseStored (s : State) (ln : Nat) : State :=
  let s1 := (s.loseLine ln).lineReport ln 1
  match regionOf (ln * 128) with
  | .near n => s1.countError 5 (8 + n) (nearWay ln) fun t => t.fenceWay n (nearWay ln) 0x04 0x03
  | _ => s1

/-- The home reads a line from memory for agent `a`: uncorrectable data put the line in L and refuse the request (R277). -/
def State.homeRead (s : State) (a ln acc : Nat) (e : Ecc) (why : ReqCause) : State × Option (List Byte) :=
  if e = .uncorrectable || s.bad.contains ln then ((s.loseStored ln).refuse a ln acc 7 why, none)
  else (s.noteEcc ln e, some (s.memLine ln))

/-- A way of an L1, L2 or L3 is fenced (R423): its line of each set goes home, and the ways above it are counted one lower, so that the cache works on with
one way fewer (DESIGN CHOICE, log 140). -/
def State.fenceCacheWay (s : State) (a way diag cause : Nat) : State :=
  let gone := ((s.copiesOf a).filter fun e => e.2.way == way).foldl (fun (t : State) e => t.giveUpLine a e.1) s
  let moved := ((gone.copiesOf a).filter fun e => decide (way < e.2.way)).foldl
    (fun (t : State) e => t.setCopy a e.1 (some { e.2 with way := e.2.way - 1 })) gone
  let s1 := (moved.addFence (dieOfAgent a) 0x06 (wayBase a + way) cause).degrade
  s1.unitReport diag 0x06 (dieOfAgent a) (wayBase a + way) false false true s.now []

/-- A way of a caching agent as buckets name it: class, die, index (R423). A stack cache is made of base-SRAM ways, behind those of near memory
(DESIGN CHOICE, log 140). -/
def State.wayName (s : State) (a way : Nat) : Nat × Nat × Nat :=
  if isStackCache a then (5, 8 + a / 128, s.nearWays (a / 128) + way) else (6, dieOfAgent a, wayBase a + way)

/-- A symbol-code error in a block of an agent's cache is counted on its way (R243, R422). A line in the writeback buffer is in none. -/
def State.cacheError (s : State) (a ln : Nat) : State :=
  match s.copyOf a ln with
  | none => s
  | some c =>
    let w := s.wayName a c.way
    s.countError w.1 w.2.1 w.2.2 fun t => if w.1 = 5 then t.fenceWay (a / 128) w.2.2 0x04 0x03 else t.fenceCacheWay a c.way 0x04 0x03

/-- The report of an uncorrectable block in an agent's cache (R417 class 1, R418, R421). -/
def State.blockReport (s : State) (a way : Nat) : State :=
  let w := s.wayName a way
  let r := s.postIndexed (integrityWord 0x04 w.1 w.2.1 w.2.2 1 false false false s.now s.now 0 s.integ.generation)
  r.1.notify 3 0 (leBytes r.2 64) none

/-- What an agent has of a line is its current data: the home names it the owner, or a forward is on its way to it (R257, R258). -/
def State.holdsCurrent (s : State) (a ln : Nat) : Bool :=
  (s.dirOf ln).owner == some a || (s.coh.msgs ++ s.coh.heldFwds).any fun m => isFwd m.kind && m.dest == a && m.line == ln

/-- An uncorrectable block in an agent's cache or writeback buffer (R243): a dirty line is recorded as lost; a clean copy goes, and memory still has the
line, though its consumer is refused all the same (DEDUCED, log 157); a buffered line that the home forwarded away is discarded. -/
def State.loseBlock (s : State) (a ln : Nat) : State :=
  let s1 := (s.cacheError a ln).blockReport a (((s.copyOf a ln).map Copy.way).getD 0)
  match s.copyOf a ln with
  | some c =>
    if c.stale then s1.setCopy a ln none
    else if c.st = .m ∨ c.st = .o then s1.loseLine ln
    else
      let d := s1.dirOf ln
      let left := d.sharers.filter fun x => x != a
      let d1 := if d.owner = some a ∨ (d.owner.isNone && d.groups.isEmpty && left.isEmpty) then DirEntry.none else { d with sharers := left }
      (s1.setCopy a ln none).setDir ln (if d.st = .l then d else d1)
  | none =>
    if s.holdsCurrent a ln then s1.loseLine ln
    else { s1 with coh := { s1.coh with wb := s1.coh.wb.filter fun e => !(e.1 == a && e.2.1 == ln) } }

/-- One forward to a dead agent is answered by the home (R265): with data from memory, or with a refusal when the line's only current data died. -/
def State.answerForDead (s : State) (m : CohMsg) : State :=
  let s1 := s.unpost m
  if (s1.dirOf m.line).st == .l || s1.deadData m.dest m.line then
    let s2 := if (s1.dirOf m.line).st == .l then s1 else (s1.loseLine m.line).countReclaim m.dest 1 0
    if m.requester = homeAgent then s2 else s2.refuse m.requester m.line 0 6 m.why
  else if m.requester = homeAgent then s1
  else
    s1.post ⟨if m.kind = .fwdOnce then .dataOnce else .data, m.requester, m.requester, m.line, s1.memLine m.line,
      if m.kind = .fwdOwn then .m else .s, m.why⟩

/-- The rules of R265 for one line and one dead agent. -/
def State.reclaimLine (s : State) (ln a : Nat) : State :=
  let fwds := s.coh.msgs.filter fun m => m.line == ln && m.dest == a && isFwd m.kind
  let s1 := (fwds.foldl (fun (t : State) m => t.answerForDead m) s).reclaimRecord ln a
  if fwds.any fun m => m.kind == .fwdRecall then s1.endRecall ln else s1

/-- The first lookup of a line applies the rules for every dead agent (R265). -/
def State.lookup (s : State) (ln : Nat) : State := s.coh.dead.foldl (fun (t : State) d => t.reclaimLine ln d.agent) s

/-- A recall of one line (R252). It ends at once when no live agent is left to answer. -/
def State.recall (s : State) (ln : Nat) (d : DirEntry) : State :=
  let s1 := match d.owner with
    | some o => s.post ⟨.fwdRecall, o, homeAgent, ln, [], .s, .demand⟩
    | none => s
  let s2 := s1.invalidate ln homeAgent (d.holders.filter fun h => d.owner != some h)
  (({ s2 with coh := { s2.coh with recalls := s2.coh.recalls + 1 } }).countEv (8 + (homeOf (ln * 128)).getD 0) 0x104 0 none 1).endRecall ln

/-- A new entry finds room, or the home recalls a line of its set and the request waits while the recall lasts (R251, R252). -/
def State.room (s : State) (ln : Nat) : State × Bool :=
  if (s.dirOf ln).st != .i || s.dirRoom ln then (s, true)
  else
    let l := s.setLines ((homeOf (ln * 128)).getD 0) (Config.directorySet ln)
    if l.any fun e => (s.coh.msgs ++ s.coh.heldFwds).any fun m => m.line == e.1 && m.requester == homeAgent then (s, false)
    else
      match l.find? fun e => e.2.st != .l && !s.lineBusy e.1 with
      | some e => let s1 := s.recall e.1 e.2; (s1, s1.dirRoom ln)
      | none => (s, false)

/-- A grant or a notice of a line is on its way to some agent, which would hold an Inval or a recall until it is complete (R257, R259). -/
def State.linePending (s : State) (ln : Nat) : Bool :=
  (s.coh.msgs.any fun m => m.line == ln && (m.kind == .data || m.kind == .ack || m.kind == .invalAck)) || (s.coh.owedAcks.any fun e => e.2.1 == ln) ||
    s.coh.notices.any fun e => e.2 == ln

/-- The stack that stores a line retrains (R464): accesses wait. -/
def State.lineRetrains (s : State) (ln : Nat) : Bool :=
  match regionOf (ln * 128) with
  | .dram d => s.dram.retraining.contains d
  | _ => false

/-- What a request needs before the home can handle it: its stack trained, the lookup of its line, its agent free of an earlier transaction on it, the line not busy, and
room for its entry. A request that keeps no line is handled whole once no grant of the line is on its way. Answers whether the home goes on. -/
def State.letIn (s : State) (a ln : Nat) (entry : Bool) : State × Bool :=
  let s1 := s.lookup ln
  if s1.lineRetrains ln || s1.lineBusy ln || s1.grantDue a ln || (s1.wbOf a ln).isSome then (s1, false)
  else if entry then s1.room ln
  else (s1, !s1.linePending ln)

/-- Data granted from memory (R257). -/
def State.grantData (s : State) (a ln acc : Nat) (e : Ecc) (why : ReqCause) (g : CopySt) (k : DirEntry → DirEntry) : State :=
  let d := s.dirOf ln
  match s.homeRead a ln acc e why with
  | (s1, none) => s1
  | (s1, some bytes) => (s1.setDir ln (k d)).post ⟨.data, a, a, ln, bytes, g, why⟩

/-- The record of a first reader (R253): E, or S for the hamper. -/
def firstReader (a : Nat) : DirEntry := if isHamper a then ⟨.s, none, [a], []⟩ else ⟨.e, some a, [], []⟩

/-- ReadShared at the home (R257). -/
def State.sharedAt (s : State) (a ln : Nat) (e : Ecc) (why : ReqCause) : State :=
  let d := s.dirOf ln
  let g : CopySt := if isHamper a then .s else .e
  match d.st, d.owner with
  | .l, _ => s.refuse a ln 0 6 why
  | .s, _ => s.grantData a ln 0 e why .s fun x => x.addSharer a
  | .e, some o =>
    if o = a then s.grantData a ln 0 e why g fun _ => firstReader a
    else (s.setDir ln ⟨.s, none, [o, a], []⟩).post ⟨.fwdShared, o, a, ln, [], .s, why⟩
  | .m, some o => if o = a then s else (s.setDir ln ⟨.o, some o, [a], []⟩).post ⟨.fwdShared, o, a, ln, [], .s, why⟩
  | .o, some o => if o = a then s else (s.setDir ln (d.addSharer a)).post ⟨.fwdShared, o, a, ln, [], .s, why⟩
  | _, _ => s.grantData a ln 0 e why g fun _ => firstReader a

/-- ReadExclusive at the home (R257). -/
def State.exclusive (s : State) (a ln : Nat) (e : Ecc) (why : ReqCause) : State :=
  let d := s.dirOf ln
  match d.st, d.owner with
  | .l, _ => s.refuse a ln 1 6 why
  | .e, some o =>
    if o = a then s.grantData a ln 1 e why .m fun _ => ownedBy a
    else (s.setDir ln (ownedBy a)).post ⟨.fwdOwn, o, a, ln, [], .m, why⟩
  | .m, some o => if o = a then s else (s.setDir ln (ownedBy a)).post ⟨.fwdOwn, o, a, ln, [], .m, why⟩
  | .o, some o =>
    if o = a then s
    else ((s.setDir ln (ownedBy a)).post ⟨.fwdOwn, o, a, ln, [], .m, why⟩).invalidate ln a (d.holders.filter fun h => h != o)
  | _, _ =>
    match s.homeRead a ln 1 e why with
    | (s1, none) => s1
    | (s1, some bytes) => ((s1.setDir ln (ownedBy a)).post ⟨.data, a, a, ln, bytes, .m, why⟩).invalidate ln a d.holders

/-- The requester of an Upgrade is still recorded (R257); a group alone does not say that it holds the line. -/
def State.stillRecorded (s : State) (a ln : Nat) : Bool :=
  let d := s.dirOf ln
  d.owner == some a || d.sharers.contains a || (d.groups.contains (a / 8) && (s.copyOf a ln).isSome)

/-- Upgrade at the home (R257). -/
def State.upgradeAt (s : State) (a ln : Nat) (e : Ecc) : State :=
  let d := s.dirOf ln
  if (d.st == .s || d.st == .o) && s.stillRecorded a ln then
    ((s.setDir ln (ownedBy a)).post ⟨.ack, a, a, ln, [], .m, .demand⟩).invalidate ln a d.holders
  else (s.countLine a ln).exclusive a ln e .demand

/-- OwnNoData at the home (R257): a full-line write; the line leaves L with zeros, to which the writer's bytes come (R268). -/
def State.ownAt (s : State) (a ln : Nat) (why : ReqCause) : State :=
  let d := s.dirOf ln
  let s1 := ({ s with bad := s.bad.filter fun l => l != ln }).setDir ln (ownedBy a)
  (s1.post ⟨.ack, a, a, ln, List.replicate 128 0, .m, why⟩).invalidate ln a d.holders

/-- The owner of a line has its data: in its copy, in its writeback buffer or on its way. -/
def State.ownerHolds (s : State) (ln o : Nat) : Bool :=
  (match s.copyOf o ln with
   | some c => !c.stale
   | none => false) || (s.wbOf o ln).isSome || (s.dataTo o ln).isSome || (s.fwdFrom o ln).isSome

/-- ReadOnce at the home (R262). -/
def State.onceAt (s : State) (a ln : Nat) (e : Ecc) : State :=
  match (s.dirOf ln).st, (s.dirOf ln).owner with
  | .l, _ => s.refuse a ln 0 6 .demand
  | _, some o => s.post ⟨.fwdOnce, o, a, ln, [], .s, .demand⟩
  | _, none =>
    match s.homeRead a ln 0 e .demand with
    | (s1, none) => s1
    | (s1, some d) => s1.post ⟨.dataOnce, a, a, ln, d, .s, .demand⟩

/-- A line with some of its bytes replaced (R255). -/
def mergePartial (line : List Byte) (w : PartialWrite) : List Byte := w.bytes.foldl (fun l e => l.set e.1 e.2) line

/-- WritePartial and AtomicAtHome (R262): the owner's data come back, every holder loses the line, and the merged line is written. The data of an owner
that evicted its clean copy come from memory (R257). No response goes to the requester (DESIGN CHOICE, log 169). -/
def State.mergeAtHome (s : State) (a ln acc : Nat) (e : Ecc) (f : List Byte → List Byte) : State :=
  if (s.dirOf ln).st = .l then s.refuse a ln acc 6 .demand
  else if (match (s.dirOf ln).owner with | some o => s.ownerHolds ln o | none => false) then
    let s1 := s.takeLine ln
    s1.memWrite (ln * 128) (f (s1.memLine ln))
  else
    match s.homeRead a ln acc e .demand with
    | (s1, none) => s1
    | (s1, some bytes) => (s1.takeLine ln).memWrite (ln * 128) (f bytes)

/-- The line an atomic leaves (R262). -/
def atomicLine (w : AtomicReq) (l : List Byte) : List Byte :=
  let old := leNat ((l.drop w.offset).take w.size)
  l.take w.offset ++ leBytes (atomNew w.op w.size old (w.operand.toNat % 2 ^ (8 * w.size)) (w.compare.toNat % 2 ^ (8 * w.size))) w.size ++
    l.drop (w.offset + w.size)

/-- What a request to a home names: its agent, its line, its access class (R298), whether it caches the line (R257) or not (R262), and its cause. -/
structure Request where
  agent : Nat
  line : Nat
  acc : Nat
  caches : Bool
  why : ReqCause
deriving DecidableEq, Repr

/-- The request that a command is. -/
def requestOf : Instr → Option Request
  | .readShared q ln _ => some ⟨q.agent, ln, accRead, true, q.why⟩
  | .readExclusive q ln _ => some ⟨q.agent, ln, accWrite, true, q.why⟩
  | .upgrade a ln _ => some ⟨a, ln, accWrite, true, .demand⟩
  | .ownNoData q ln => some ⟨q.agent, ln, accFull, true, q.why⟩
  | .readOnce a ln _ => some ⟨a, ln, accRead, false, .demand⟩
  | .writeLine a ln _ => some ⟨a, ln, accFull, false, .demand⟩
  | .writePartial a ln _ _ => some ⟨a, ln, accWrite, false, .demand⟩
  | .atomicAtHome a ln _ _ => some ⟨a, ln, accAtomic, false, .demand⟩
  | _ => none

/-- What the home does with a request that it takes (R257, R262). -/
def State.serveRequest (s1 : State) (i : Instr) : State :=
  let s := match requestOf i with
    | some r => if i matches .upgrade _ _ _ then s1 else s1.countLine r.agent r.line
    | none => s1
  match i with
  | .readShared q ln e => s.sharedAt q.agent ln e q.why
  | .readExclusive q ln e => s.exclusive q.agent ln e q.why
  | .upgrade a ln e => s.upgradeAt a ln e
  | .ownNoData q ln => s.ownAt q.agent ln q.why
  | .readOnce a ln e => s.onceAt a ln e
  | .writeLine _ ln d => s.wrBytes (ln * 128) d
  | .writePartial a ln w e => s.mergeAtHome a ln accWrite e fun l => mergePartial l w
  | .atomicAtHome a ln w e => s.mergeAtHome a ln accAtomic e (atomicLine w)
  | _ => s

/-- The home takes a request, refuses it where the line is not backed (R54), or leaves it waiting: it handles one transaction per line at a time
(R250). Answers whether the request is over with. -/
def State.handle (s : State) (q : Instr) (r : Request) : State × Bool :=
  if !s.backed (r.line * 128) then (s.refuse r.agent r.line r.acc 4 r.why, true)
  else
    match (s.wakeFor (r.line * 128)).letIn r.agent r.line r.caches with
    | (s1, false) => (s1, false)
    | (s1, true) => (s1.serveRequest q, true)

/-- An earlier request for the line waits at the home. -/
def State.lineAwaited (s : State) (ln : Nat) : Bool := s.coh.atHome.any fun q => ((requestOf q).map Request.line) == some ln

/-- A request reaches its home: it is handled, or it waits there behind the earlier ones for its line (R250, R260). -/
def State.enter (s : State) (q : Instr) (r : Request) : State :=
  if s.lineAwaited r.line then { s with coh := { s.coh with atHome := s.coh.atHome ++ [q] } }
  else
    match s.handle q r with
    | (s1, true) => s1
    | (s1, false) => { s1 with coh := { s1.coh with atHome := s1.coh.atHome ++ [q] } }

/-- How many requests an agent may have outstanding (R256). R256 names no limit for a hamper (DESIGN CHOICE, log 135). -/
def requestLimit (a : Nat) : Option Nat :=
  if isHamper a then none
  else if isStackCache a then some 512
  else if a < 1024 then some 64
  else if a < 1152 then some (if (a - 1024) % 64 = 32 then 256 else 32)
  else if a < 1160 then some 256
  else some 128

/-- The requests of an agent that are outstanding: those that wait at homes, and the lines of those under way; writebacks and notices are none (R256). -/
def State.outstanding (s : State) (a : Nat) : Nat :=
  (((s.coh.msgs ++ s.coh.heldFwds).filter fun m => m.requester == a && m.kind != .wbAck && m.kind != .noticeAck).map CohMsg.line ++
    (s.coh.owedAcks.filter fun e => e.1 == a).map fun e => e.2.1).eraseDups.length + s.coh.atHome.countP fun q => requesterOf q == some a

/-- An agent has no request left to send (R256). -/
def State.agentFull (s : State) (a : Nat) : Bool :=
  match requestLimit a with
  | some n => decide (n ≤ s.outstanding a)
  | none => false

/-- The first request for its line among those that wait at the homes is handled when it can be. -/
def State.retryHome (s : State) (q : Instr) : State :=
  match requestOf q with
  | none => s
  | some r =>
    if (s.coh.atHome.find? fun x => ((requestOf x).map Request.line) == some r.line) ≠ some q then s
    else
      match s.handle q r with
      | (s1, true) => { s1 with coh := { s1.coh with atHome := s1.coh.atHome.erase q } }
      | (s1, false) => s1

/-- A request that waits in its agent leaves when the agent has one to send (R256). -/
def State.retryAgent (s : State) (q : Instr) : State :=
  match requestOf q with
  | none => s
  | some r => if s.agentFull r.agent then s else ({ s with coh := { s.coh with inAgent := s.coh.inAgent.erase q } }).enter q r

/-- After a message was handled, what waited for it goes on: requests at the homes in their order, then those in the agents (R250, R256). -/
def State.goOn (s : State) : State :=
  let s1 := s.coh.atHome.foldl (fun (t : State) q => t.retryHome q) s
  s1.coh.inAgent.foldl (fun (t : State) q => t.retryAgent q) s1

/-- A request for a line without a home (R249, R466): it passes to the device or to the register block; a caching one finds no cache that may hold the
line, and only its read goes on. -/
def State.unhomed (s : State) (q : Instr) (r : Request) : State :=
  let pa := r.line * 128
  if ioAddr pa then
    if !s.backed pa then s.refuse r.agent r.line r.acc 4 r.why
    else
      let t := s.wakeFor pa
      match q with
      | .writeLine _ _ d => t.wrBytes pa d
      | .writePartial _ _ w _ => w.bytes.foldl (fun (t : State) e => t.wrBytes (pa + e.1) [e.2]) t
      | .atomicAtHome _ _ w _ => t.wrBytes (pa + w.offset) (((atomicLine w (t.rdBytes pa 128)).drop w.offset).take w.size)
      | _ => if r.acc = accRead then t.answer pa (t.rdBytes pa 128) else t
  else if regionOf pa = .regs ∧ 1024 ≤ r.agent ∧ r.agent < 1152 then
    let s1 := { s with fq := { s.fq with accessErrors := satInc 32 s.fq.accessErrors } }
    if r.acc = accRead then s1.answer pa (List.replicate 128 0) else s1
  else s.refuse r.agent r.line r.acc 4 r.why

/-- What holds a line on the way from an agent's cache to the home (R225, R236): the hamper and the stack cache of its stack, or the L3 of its processor
die. -/
def State.onTheWay (s : State) (a ln : Nat) : Option Served :=
  if isHamper a ∨ 1152 ≤ a then none
  else if a < 1024 then
    if s.inHamper (a / 128) ln then some .hamper
    else if isUnit a then (s.present (stackCacheOf a) ln).map fun c => .cache (stackCacheOf a) c
    else none
  else if (a - 1024) % 64 < 24 then (s.present (a / 64 * 64 + 32) ln).map fun c => .cache (a / 64 * 64 + 32) c
  else none

/-- A read that a cache on its way serves gets its data there, and fills nothing (DESIGN CHOICE, log 135). -/
def State.serveNear (s : State) (ln : Nat) : Served → State
  | .cache b c => (s.hit b ln).answer (ln * 128) (if c.stale then c.data.take 128 else (s.lineView ln).take 128)
  | _ => s.answer (ln * 128) ((s.lineView ln).take 128)

/-- An agent may make a request (R248, R249, R253, R262, R263): the hamper only reads. -/
def State.mayRequest (s : State) (r : Request) : Bool :=
  if r.caches then s.mayCache r.agent r.line && (!isHamper r.agent || r.acc == accRead) else s.mayBypass r.agent r.line

/-- One request of an agent (R236, R250, R256, R257, R262). -/
def State.request (s : State) (q : Instr) : State :=
  match requestOf q with
  | none => s
  | some r =>
    if !s.mayRequest r then s
    else if (homeOf (r.line * 128)).isNone then s.unhomed q r
    else if r.acc = accRead ∧ (s.onTheWay r.agent r.line).isSome then s.serveNear r.line ((s.onTheWay r.agent r.line).getD .home)
    else if s.agentFull r.agent then { s with coh := { s.coh with inAgent := s.coh.inAgent ++ [q] } }
    else s.enter q r

/-- `READ_SHARED` (R257). -/
def execReadShared (q : Requester) (ln : Nat) (e : Ecc) (s : State) : Res := .next (s.request (.readShared q ln e))

/-- `READ_EXCLUSIVE` (R257). The hamper never asks for it (R253). -/
def execReadExclusive (q : Requester) (ln : Nat) (e : Ecc) (s : State) : Res := .next (s.request (.readExclusive q ln e))

/-- `UPGRADE` (R257). -/
def execUpgrade (a : Fin 2048) (ln : Nat) (e : Ecc) (s : State) : Res := .next (s.request (.upgrade a ln e))

/-- `OWN_NO_DATA` (R257, R268). -/
def execOwnNoData (q : Requester) (ln : Nat) (s : State) : Res := .next (s.request (.ownNoData q ln))

/-- `READ_ONCE` (R262). -/
def execReadOnce (a : Fin 2048) (ln : Nat) (e : Ecc) (s : State) : Res := .next (s.request (.readOnce a ln e))

/-- `WRITE_LINE` (R262): every holder loses the line, and memory takes all 128 bytes. -/
def execWriteLine (a : Fin 2048) (ln : Nat) (d : List Byte) (s : State) : Res := .next (s.request (.writeLine a ln d))

/-- `WRITE_PARTIAL` (R262). -/
def execWritePartial (a : Fin 2048) (ln : Nat) (w : PartialWrite) (e : Ecc) (s : State) : Res := .next (s.request (.writePartial a ln w e))

/-- `ATOMIC_AT_HOME` (R262). -/
def execAtomicAtHome (a : Fin 2048) (ln : Nat) (w : AtomicReq) (e : Ecc) (s : State) : Res := .next (s.request (.atomicAtHome a ln w e))

end Sys2Proof.Machine
end

