-- ==== Sys2Proof/Machine/Coherence.lean ====
section
/-! DEFINITION. The holders of the coherent pool: what a holder does with a forward or an Inval, what a requester does with an answer, writebacks and the
races (R252, R257 to R259), and dead agents (R264 to R266). -/

namespace Sys2Proof.Machine

/-- The forward of a kind that an agent has received, and whether it answers it now: a forward is held while the agent's own grant is not
complete, or its notice is not acknowledged (R257, R259). The messages of a dead agent are discarded (R264). -/
def State.takeFwd (s : State) (k : MsgKind) (a ln : Nat) : State × Option CohMsg :=
  match s.msgFor k a ln with
  | none => (s, none)
  | some m =>
    if s.agentDead a then (s, none)
    else if s.grantDue a ln || s.coh.notices.contains (a, ln) then
      let s1 := s.unpost m
      ({ s1 with coh := { s1.coh with heldFwds := s1.coh.heldFwds ++ [m] } }, none)
    else (s, some m)

/-- Forwards that an agent held for a line reach it now. -/
def State.releaseFwds (s : State) (a ln : Nat) : State :=
  let mine := s.coh.heldFwds.filter fun m => m.dest == a && m.line == ln
  { s with coh := { s.coh with msgs := s.coh.msgs ++ mine, heldFwds := s.coh.heldFwds.filter fun m => !(m.dest == a && m.line == ln) } }

/-- The data an agent holds of a line, with the stores it made in M, and the state of its copy; none when it holds nothing. -/
def State.heldData (s : State) (a ln : Nat) (w : PartialWrite) : Option (List Byte × Option Copy) :=
  match s.copyOf a ln with
  | some c => if c.stale then (s.wbOf a ln).map fun d => (d, none) else some (if c.st = .m then mergePartial c.data w else c.data, some c)
  | none => (s.wbOf a ln).map fun d => (d, none)

/-- A holder answers a forward that it does not hold back, by `f` on the data it has. A block whose symbol code fails is never forwarded (R243): the
requester is refused. An agent that holds nothing answers NotHeld. -/
def State.answerFwd (s : State) (k : MsgKind) (a ln : Nat) (w : PartialWrite) (e : Ecc) (f : State → CohMsg → List Byte → Option Copy → State) : State :=
  match s.takeFwd k a ln with
  | (s1, none) => s1
  | (s1, some m) =>
    match s1.heldData a ln w with
    | none => s1
    | some (d, c) =>
      if e = .uncorrectable then
        let s2 := (s1.loseBlock a ln).unpost m
        (if m.requester = homeAgent then s2.endRecall ln else (if (s2.dirOf ln).st = .l then s2 else s2.setDir ln DirEntry.none).refuse m.requester ln 0 7 m.why).goOn
      else (f ((if e = .corrected then s1.cacheError a ln else s1).unpost m) m d c).goOn

/-- `FWD_SHARED` (R257, R258): Data to the requester; E goes to S, M to O, O stays. -/
def execFwdShared (a : Fin 2048) (ln : Nat) (h : HeldLine) (s : State) : Res :=
  .next (s.answerFwd .fwdShared a ln h.w h.ecc fun t m d c =>
    let t1 := t.post ⟨.data, m.requester, m.requester, ln, d, .s, m.why⟩
    match c with
    | some x => t1.setCopy a ln (some { x with data := d, st := if x.st = .m ∨ x.st = .o then .o else .s })
    | none => t1)

/-- `FWD_OWN` (R257, R258): Data to the requester, and the holder goes to I. -/
def execFwdOwn (a : Fin 2048) (ln : Nat) (h : HeldLine) (s : State) : Res :=
  .next (s.answerFwd .fwdOwn a ln h.w h.ecc fun t m d c =>
    (match c with
     | some _ => t.setCopy a ln none
     | none => t).post ⟨.data, m.requester, m.requester, ln, d, .m, m.why⟩)

/-- `FWD_ONCE` (R262): DataOnce to the requester; the holder keeps its state. -/
def execFwdOnce (a : Fin 2048) (ln : Nat) (h : HeldLine) (s : State) : Res :=
  .next (s.answerFwd .fwdOnce a ln h.w h.ecc fun t m d c =>
    let t1 := t.post ⟨.dataOnce, m.requester, m.requester, ln, d, .s, m.why⟩
    match c with
    | some x => t1.setCopy a ln (some { x with data := d })
    | none => t1)

/-- `FWD_RECALL` (R252): the owner returns its data and goes to I; the home writes memory. -/
def execFwdRecall (a : Fin 2048) (ln : Nat) (h : HeldLine) (s : State) : Res :=
  .next (s.answerFwd .fwdRecall a ln h.w h.ecc fun t _ d c =>
    ((match c with
      | some _ => t.setCopy a ln none
      | none => t).memWrite (ln * 128) d).endRecall ln)

/-- A copy goes from an agent's cache; what a disabled cache kept stays (R245). -/
def State.dropCopy (s : State) (a ln : Nat) : State := if staleCopy (s.copyOf a ln) then s else s.setCopy a ln none

/-- A line goes from the hamper of CS_n, placed or on its way to be placed (R226). -/
def State.dropHamperLine (s : State) (n ln : Nat) : State :=
  { s with
    coh := { s.coh with msgs := s.coh.msgs.filter fun m => !(m.kind == .data && m.dest == 128 * n + 65 && m.line == ln) }
    streams := { s.streams with hamper := s.streams.hamper.filter fun h => !(h.stack == n && h.line == ln) } }

/-- The Inval that reaches an agent now. A hamper's prefetch whose line is invalidated on its way is not placed, so the hamper holds none back (R226). -/
def State.takeInval (s : State) (a ln : Nat) : State × Option CohMsg :=
  if isHamper a && !s.agentDead a then (s, s.msgFor .inval a ln) else s.takeFwd .inval a ln

/-- `INVAL` (R251): the copy goes, and the requester gets an InvalAck whether or not there was one. -/
def execInval (a : Fin 2048) (ln : Nat) (s : State) : Res :=
  match s.takeInval a ln with
  | (s1, none) => .next s1
  | (s1, some m) =>
    let s2 := (s1.unpost m).dropCopy a ln
    let s3 := if isHamper a then s2.dropHamperLine (a.val / 128) ln else s2
    .next (if m.requester = homeAgent then s3.endRecall ln else s3.post ⟨.invalAck, m.requester, m.requester, ln, [], .s, m.why⟩).goOn

/-- A hamper's fill: placed in the fill side while there is room, else dropped (R223, R227). -/
def State.fillHamper (s : State) (n ln : Nat) : State :=
  let side := s.fillSide n
  if (s.streams.hamper.filter fun h => h.stack == n && h.side == side).length < s.sideLines n then
    { s with streams := { s.streams with hamper := s.streams.hamper ++ [⟨n, side, ln⟩] } }
  else s.countDrop (16 * n) none

/-- A grant that is complete releases the forwards held for it (R257). -/
def State.grantDone (s : State) (a ln : Nat) : State := if s.grantDue a ln then s else s.releaseFwds a ln

/-- The age at which a grant fills a cache (R237). -/
def ageOf : ReqCause → Nat
  | .old => 3
  | _ => 1

/-- Zeros in one 64-byte sector of a line (R240). -/
def zeroSector (d : List Byte) (sector : Nat) : List Byte := d.take (64 * sector) ++ List.replicate 64 0 ++ d.drop (64 * sector + 64)

/-- What a granted line holds when its cache has it: `cbo.zero` zeroes its sector (R240). -/
def grantedLine : ReqCause → List Byte → List Byte
  | .core _ (.zero sector) _, d => zeroSector d sector
  | _, d => d

/-- The key of a line in the L1 data (1) or instruction (0) cache of a core. -/
def l1Key (core side ln : Nat) : Nat := (2 * core + side) * 2 ^ 48 + ln

/-- A line of a core's L1 cache. -/
def State.l1Of (s : State) (core side ln : Nat) : Option L1Line := tabGet none s.coh.l1 (l1Key core side ln)

/-- Replaces a line of a core's L1 cache. -/
def State.setL1 (s : State) (core side ln : Nat) (x : Option L1Line) : State :=
  { s with coh := { s.coh with l1 := tabPut none s.coh.l1 (l1Key core side ln) x } }

/-- The lines of a set of a core's L1 cache of 8 ways and 64 sets (R234), with their numbers. -/
def State.l1Set (s : State) (core side ln : Nat) : List (Nat × L1Line) :=
  s.coh.l1.filterMap fun e => if e.1 / 2 ^ 48 = 2 * core + side ∧ e.1 % 64 = ln % 64 then e.2.map fun x => (e.1 % 2 ^ 48, x) else none

/-- Sectors of a line enter a core's L1 cache, the victim of the set leaving (R235, R237); its L1s hold clean lines only. A disabled L2 has its L1 data caches
disabled; instruction caches cannot be (R244). -/
def State.fillL1 (s : State) (core side ln : Nat) (low high : Bool) : State :=
  if side = 1 ∧ (s.geometry (l2Of core)).1 = 0 then s
  else
    match s.l1Of core side ln with
    | some x => s.setL1 core side ln (some { x with age := 0, low := x.low || low, high := x.high || high })
    | none =>
      let set := s.l1Set core side ln
      match (List.range 8).find? fun w => !(set.any fun e => e.2.way == w) with
      | some w => s.setL1 core side ln (some ⟨1, w, low, high⟩)
      | none =>
        let v := victimOf (set.map fun e => (e.2.age, e.2.way))
        let s1 := set.foldl (fun (t : State) e => t.setL1 core side e.1 (if e.2.way = v.2 then none else some { e.2 with age := e.2.age + v.1 })) s
        s1.setL1 core side ln (some ⟨1, v.2, low, high⟩)

/-- What a core's request leaves in its L1 caches (R235, R238): a load or its hint one sector of data, a fetch or its hint a line of instructions. A store
is written through and allocates nothing (DESIGN CHOICE, log 135). While its L2 is disabled, the die's L3 serves its instruction cache (R244, R245). -/
def State.fillCore (s : State) (a ln : Nat) : ReqCause → State
  | .core k r _ =>
    let l3 := a == 1056 + 64 * (k.val / 48) && (s.geometry (l2Of k)).1 == 0 && (r == .fetch || r == .hintFetch)
    if l2Of k ≠ a ∧ !l3 then s
    else
      match r with
      | .load sec | .hintRead sec | .hintWrite sec => s.fillL1 k 1 ln (sec.val == 0) (sec.val == 1)
      | .fetch | .hintFetch => s.fillL1 k 0 ln true true
      | .store _ | .zero _ => s
  | _ => s

/-- An agent keeps what it is granted: the record names it, or what takes the line from it reaches it after its grant (R250, R257). -/
def State.keepsGrant (s : State) (a ln : Nat) : Bool :=
  (s.dirOf ln).holders.contains a || (s.coh.msgs ++ s.coh.heldFwds).any fun m => m.dest == a && m.line == ln && (isFwd m.kind || m.kind == .inval)

/-- A granted line enters the cache of its requester (R237, R257): a line of a way that is disabled on its way is not kept, nor one that another access has
taken on its way. -/
def State.fillGrant (s : State) (a ln : Nat) (m : CohMsg) (d : List Byte) : State :=
  if !s.keepsGrant a ln then s
  else if isHamper a then s.fillHamper (a / 128) ln else (s.fill a ln m.grant (ageOf m.why) (grantedLine m.why d)).fillCore a ln m.why

/-- `DATA` (R257): the line enters the requester's cache in the state granted. -/
def execData (a : Fin 2048) (ln : Nat) (s : State) : Res :=
  match if s.agentDead a then none else s.msgFor .data a ln with
  | none => .next s
  | some m => .next (((s.unpost m).fillGrant a ln m m.data).grantDone a ln).goOn

/-- `DATA_ONCE` (R262): the data reach a non-caching requester. -/
def execDataOnce (a : Fin 2048) (ln : Nat) (s : State) : Res :=
  match s.msgFor .dataOnce a ln with
  | none => .next s
  | some m => .next ((s.unpost m).answer (ln * 128) m.data).goOn

/-- `ACK` (R257): a grant without data: the copy goes to M; after OwnNoData it holds zeros until it is written. -/
def execAck (a : Fin 2048) (ln : Nat) (s : State) : Res :=
  match if s.agentDead a then none else s.msgFor .ack a ln with
  | none => .next s
  | some m =>
    let s1 := s.unpost m
    let d := if m.data.isEmpty then (match s1.copyOf a ln with | some c => c.data | none => s1.lineView ln) else m.data
    .next ((s1.fillGrant a ln m d).grantDone a ln).goOn

/-- `INVAL_ACK` (R257): one of the InvalAcks that the requester expects. -/
def execInvalAck (a : Fin 2048) (ln : Nat) (s : State) : Res :=
  match s.msgFor .invalAck a ln with
  | none => .next s
  | some m =>
    let s1 := s.unpost m
    let s2 := { s1 with coh := { s1.coh with owedAcks := s1.coh.owedAcks.filterMap fun (e : Nat × Nat × Nat) =>
      if e.1 = a.val ∧ e.2.1 = ln then (if e.2.2 ≤ 1 then none else some (e.1, e.2.1, e.2.2 - 1)) else some e } }
    .next (s2.grantDone a ln).goOn

/-- The requester of a forward that found nothing is served from memory (R257), or refused where the line was lost (R265). -/
def State.serve (s : State) (m : CohMsg) (a : Nat) (e : Ecc) : State :=
  if (s.dirOf m.line).st = .l then s.refuse m.requester m.line 0 6 m.why
  else
  match s.homeRead m.requester m.line 0 e m.why with
  | (s1, none) => s1
  | (s1, some d) =>
    let k : MsgKind := if m.kind = .fwdOnce then .dataOnce else .data
    let x := s1.dirOf m.line
    (s1.setDir m.line { x with sharers := x.sharers.filter fun h => h != a }).post
      ⟨k, m.requester, m.requester, m.line, d, if m.kind = .fwdOwn then .m else .s, m.why⟩

/-- `NOT_HELD` (R257): a forward reached an agent that no longer holds the line. -/
def execNotHeld (a : Fin 2048) (ln : Nat) (e : Ecc) (s : State) : Res :=
  if s.agentDead a || s.grantDue a ln || (s.heldData a ln ⟨[]⟩).isSome then .next s
  else
    match s.coh.msgs.find? fun m => isFwd m.kind && m.dest == a.val && m.line == ln with
    | none => .next s
    | some m =>
      let s1 := s.unpost m
      .next (if m.kind = .fwdRecall then s1.endRecall ln else s1.serve m a e).goOn

/-- What the home's record becomes when the owner's dirty data reach it (R257): I, or S when sharers remain or the owner keeps a clean copy (R240;
DEDUCED, log 151). -/
def writtenBack (x : DirEntry) (a : Nat) (kept : Bool) : DirEntry :=
  let y : DirEntry := { x with st := .s, owner := none, sharers := x.sharers.filter fun h => h != a }
  if kept then y.addSharer a else if y.sharers.isEmpty && y.groups.isEmpty then DirEntry.none else y

/-- WbDirty reaches the home from the writeback buffer (R258): memory is written while the sender is still the owner, else the data are discarded;
WbAck follows in both cases. -/
def State.homeWriteback (s : State) (a ln : Nat) (kept : Bool) : State :=
  match s.wbOf a ln with
  | none => s
  | some d =>
    if (s.msgFor .wbAck a ln).isSome then s
    else
      let x := s.dirOf ln
      (if x.owner == some a && (x.st == .m || x.st == .o) then (s.memWrite (ln * 128) d).setDir ln (writtenBack x a kept) else s).post
        ⟨.wbAck, a, a, ln, [], .s, .demand⟩

/-- What an agent does to write a line back (R240, R257, R258): the dirty copy enters the writeback buffer, with the stores made to it; it leaves the
cache, or stays clean after `cbo.clean`. A flush of a clean copy drops it. -/
def State.writeBack (s : State) (a ln : Nat) (w : PartialWrite) (why : WbReason) : State :=
  match s.copyOf a ln with
  | none => s
  | some c =>
    let dirty := (c.st == .m || c.st == .o) && !c.stale
    let d := if c.st = .m then mergePartial c.data w else c.data
    if s.grantDue a ln || s.coh.notices.contains (a, ln) then s
    else if dirty then
      (match why with
       | .clean => (s.setCopy a ln (some { c with st := .s, data := d })).toWb a ln d
       | _ => s.evict a ln { c with data := d })
    else if why = .flush then s.dropCopy a ln
    else s

/-- `WB_DIRTY` (R240, R257, R258): an evicted dirty line, or one that a core's `cbo.clean` or `cbo.flush` writes back, reaches the home. A dirty block
whose symbol code fails is lost (R243). Only processor caches clean and flush. -/
def execWbDirty (a : Fin 2048) (ln : Nat) (x : WriteBack) (s : State) : Res :=
  if s.agentDead a || (x.why != .evict && decide (a.val < 1024)) then .next s
  else if x.ecc = .uncorrectable && (s.heldData a ln x.w).isSome then .next (s.loseBlock a ln).goOn
  else
    let s1 := if x.ecc = .corrected then s.cacheError a ln else s
    .next ((s1.writeBack a ln x.w x.why).homeWriteback a ln (x.why == .clean))

/-- What the home makes of a DirtyNotice (R259). -/
def noticed (x : DirEntry) (a : Nat) (fwdShared : Bool) : DirEntry :=
  if x.st = .e ∧ x.owner = some a then { x with st := .m }
  else if x.st = .s ∧ x.sharers.contains a ∧ fwdShared then { x with st := .o, owner := some a, sharers := x.sharers.filter fun h => h != a }
  else x

/-- `DIRTY_NOTICE` (R259): the first store to an E line makes the copy M, and the home applies the notice. -/
def execDirtyNotice (a : Fin 2048) (ln : Nat) (w : PartialWrite) (s : State) : Res :=
  match s.copyOf a ln with
  | some c =>
    if c.st = .e ∧ !c.stale ∧ !s.agentDead a then
      let s1 := s.setCopy a ln (some { c with st := .m, data := mergePartial c.data w, age := 0 })
      let fwd := (s1.coh.msgs ++ s1.coh.heldFwds).any fun m => m.kind == .fwdShared && m.dest == a.val && m.line == ln
      let s2 := { s1 with coh := { s1.coh with notices := s1.coh.notices ++ [(a.val, ln)] } }
      .next ((s2.setDir ln (noticed (s2.dirOf ln) a fwd)).post ⟨.noticeAck, a, a, ln, [], .s, .demand⟩)
    else .next s
  | none => .next s

/-- `WB_ACK` (R258, R259): the notice is acknowledged, or the writeback buffer is released once no forward to it is outstanding; held
forwards follow. -/
def execWbAck (a : Fin 2048) (ln : Nat) (s : State) : Res :=
  match s.coh.msgs.find? fun m => (m.kind == .wbAck || m.kind == .noticeAck) && m.dest == a.val && m.line == ln with
  | none => .next s
  | some m =>
    if m.kind = .noticeAck then
      let s1 := s.unpost m
      .next ({ s1 with coh := { s1.coh with notices := s1.coh.notices.filter fun e => e != (a.val, ln) } }.releaseFwds a ln).goOn
    else if (s.coh.msgs ++ s.coh.heldFwds).any fun x => isFwd x.kind && x.dest == a.val && x.line == ln then .next s
    else
      let s1 := s.unpost m
      .next ({ s1 with coh := { s1.coh with wb := s1.coh.wb.filter fun e => !(e.1 == a.val && e.2.1 == ln) } }.releaseFwds a ln).goOn

/-- The caching agents of a die (R248). -/
def dieAgents : DieName → List Nat
  | .cs n => (List.range 66).map fun i => 128 * n + i
  | .pd m => pdAgents m

/-- The die is on the part and works. -/
def State.dieLive (s : State) : DieName → Bool
  | .cs n => !(s.integ.computeFenced.getD n false)
  | .pd m => (m.val == 0 || hasPd1 s.dev.variant) && decide (0 < s.integ.cores.getD m 0)

/-- An agent whose unit is fenced or that is dead names itself in no Heartbeat. -/
def State.agentLive (s : State) (a : Nat) : Bool := !s.agentDead a && !(decide (a < 1024) && decide (a % 128 < 64) && s.fenced (a / 128) 0x09 (a % 128))

/-- A cause of a fence entry that R500 does not list: that of a lost Heartbeat (free value, log 53). -/
def State.heartbeatCause (s : State) : Nat × State := ((s.free).1 % 256, (s.free).2)

/-- A core pair is fenced with its L2 (R417, R423). -/
def State.fencePair (s : State) (m k diag cause : Nat) : State :=
  let s1 := (s.addFence (18 + m) 0x0B (2 * k) cause).addFence (18 + m) 0x0B (2 * k + 1) cause
  let n := ([2 * k, 2 * k + 1] : List Nat).countP fun i => !s.fenced (18 + m) 0x0B i
  let s2 := { s1 with integ := { s1.integ with cores := s1.integ.cores.set m (s1.integ.cores.getD m 0 - n) } }
  let left := s2.integ.cores.getD 0 0 + (if hasPd1 s2.dev.variant then s2.integ.cores.getD 1 0 else 0)
  if left = 0 then s2.packageFault diag 0x0B (18 + m) (2 * k)
  else s2.degrade.unitReport diag 0x0B (18 + m) (2 * k) false false true s.now []

/-- The unit behind a dead agent is fenced (R264, R417). -/
def State.fenceAgent (s : State) (a diag : Nat) : State :=
  let c := s.heartbeatCause
  if a < 1024 then
    let n := a / 128
    if s.integ.computeFenced.getD n false then s
    else if a % 128 < 64 then (if s.fenced n 0x09 (a % 128) then s else c.2.fenceThreadUnit (64 * n + a % 128) diag c.1)
    else c.2.fenceDie n diag c.1 s.now (s.spanOfDie n)
  else
    let m := (a - 1024) / 64
    let k := (a - 1024) % 64
    if s.integ.cores.getD m 0 = 0 then s
    else if k = 32 then c.2.fencePd m diag c.1
    else if s.fenced (18 + m) 0x0B (2 * k) then s else c.2.fencePair m k diag c.1

/-- `HEARTBEAT_SEND` (R264): a die's controller sends every home a Heartbeat that names its live agents. -/
def execHeartbeatSend (d : DieName) (s : State) : Res :=
  let off := match d with
    | .cs _ => false
    | .pd m => (s.irq.sliceOf m).dieOff
  if s.dieLive d && !off then
    .next { s with coh := { s.coh with sent := s.coh.sent ++ [⟨d, (dieAgents d).filter fun a => s.agentLive a, false⟩] } }
  else .next s

/-- Records when a die was last heard. -/
def State.heard (s : State) (d : DieName) : State :=
  { s with coh := { s.coh with beats := (s.coh.beats.filter fun e => e.1 != d) ++ [(d, s.now)] } }

/-- `HEARTBEAT` (R264, R365): the homes receive a die's Heartbeat. A parked die is not timed; an agent missing from a Heartbeat is
declared dead. -/
def execHeartbeat (h : HeartbeatMsg) (s : State) : Res :=
  if !s.dieLive h.die then .next s
  else
    let s1 := ({ s with coh := { s.coh with sent := s.coh.sent.erase h } }).heard h.die
    if h.parked then .next { s1 with coh := { s1.coh with parked := (s1.coh.parked.filter fun d => d != h.die) ++ [h.die] } }
    else
      let s2 := { s1 with coh := { s1.coh with parked := s1.coh.parked.filter fun d => d != h.die } }
      let missing := (dieAgents h.die).filter fun a => !h.live.contains a && !s2.agentDead a
      .next (missing.foldl (fun (t : State) a => (t.declareDead a false).fenceAgent a 0x0A) s2).goOn

/-- `HEARTBEAT_LOSS` (R264): 1 ms without a Heartbeat; every caching agent of the die is dead and the die fenced. -/
def execHeartbeatLoss (d : DieName) (s : State) : Res :=
  if !s.dieLive d || s.coh.parked.contains d then .next s
  else
    let s1 := match s.coh.beats.find? fun e => e.1 == d with
      | some e => s.advance (e.2 + 1000000)
      | none => s
    let s2 := (dieAgents d).foldl (fun (t : State) a => t.declareDead a false) s1
    let c := s2.heartbeatCause
    match d with
    | .cs n => .next (c.2.fenceDie n 0x0A c.1 s2.now (s2.spanOfDie n)).goOn
    | .pd m => .next (c.2.fencePd m 0x0A c.1).goOn

/-- `DECLARE` (R264, R265): a fatal report or a heartbeat loss reaches every home; the agent is fenced. -/
def execDeclare (a : Fin 2048) (fatal : Bool) (s : State) : Res :=
  if agentExists s.dev.variant a && agentCaching a && !s.agentDead a then .next ((s.declareDead a fatal).fenceAgent a 0x0A).goOn else .next s

/-- `RECLAIM_SWEEP` (R265): a home applies the rules to its remaining entries. -/
def execReclaimSweep (home : Fin 8) (a : Fin 2048) (s : State) : Res :=
  match s.coh.dead.find? fun d => d.agent == a.val with
  | none => .next s
  | some d =>
    if d.swept.contains home then .next s
    else
      let lines := (s.coh.dir.map Prod.fst).filter fun ln => homeOf (ln * 128) == some home.val
      let s1 := State.goOn <| lines.foldl (fun (t : State) ln => t.reclaimLine ln a) s
      .next { s1 with coh := { s1.coh with dead := s1.coh.dead.map fun x =>
        if x.agent = a.val then { x with swept := x.swept ++ [home.val], doneAt := if x.swept.length = 7 then s.now else x.doneAt } else x } }

/-- The reclaim report (R266). -/
def reclaimReport (d : DeadAgent) : Nat :=
  0x10 + d.agent * 2 ^ 8 + b2n d.fatal * 2 ^ 19 + d.at_ % 2 ^ 64 * 2 ^ 64 + d.doneAt % 2 ^ 64 * 2 ^ 128 + d.lost * 2 ^ 192 + d.dropped * 2 ^ 224

/-- `RECLAIM_REPORT` (R266): every home has finished; the report goes to the fault queue. -/
def execReclaimReport (a : Fin 2048) (s : State) : Res :=
  match s.coh.dead.find? fun d => d.agent == a.val with
  | none => .next s
  | some d =>
    if d.reported || decide (d.swept.length < 8) then .next s
    else
      let s1 := { s with coh := { s.coh with dead := s.coh.dead.map fun (x : DeadAgent) => if x.agent = a.val then { x with reported := true } else x } }
      .next (s1.postFq (BitVec.ofNat 512 (reclaimReport d)))

end Sys2Proof.Machine
end

