-- ==== Sys2Proof/Machine/Domains.lean ====
section
/-! DEFINITION. The domains of the package: what a trip, a power gate or a reset of every domain but the always-on domain leaves (R404,
R405, R409, R458), and what every answered request of the always-on domain looks like (R449). -/

namespace Sys2Proof.Machine

/-- Bytes of the CXL tier, which lie outside the package and which no power-up writes (R499). -/
def keptCell (a : Nat) : Bool := decide (0x200000000000 ≤ a) && decide (a < 0x240000000000)

/-- The guest sites as power-up finds them: populated ones train, but for a site that is fenced (R382, R417). -/
def State.bootGuests (s : State) : List GuestSt :=
  (List.range 2).map fun g => ⟨if !hasGuests s.dev.variant then 0 else if s.fenced (16 + g) 0xF1 g then 6 else 2, 0, 0, 0, [], 65536, 0⟩

/-- Every domain but the always-on domain stops and loses what it held (R405, R409, R458). The dictionary, the event log, the fuses, the
integrity record with what is fenced, the dead agents (R264), temperatures and energy stay with the always-on domain, and row repairs with the stacks (R278). What the entries of the
gated units showed last is kept for their reads (R455). -/
def State.dropDomains (s : State) : State :=
  let z := State.reset
  { s with
    mem := s.mem.filter fun e => keptCell e.1
    bad := []
    ctxs := z.ctxs
    parts := z.parts
    threads := z.threads
    streams := { z.streams with standIn := s.streams.standIn }
    coh := { z.coh with dead := s.coh.dead }
    dram := { z.dram with pcState := s.dram.pcState.filter fun e => e.2 == 3, temps := s.dram.temps, steps := s.dram.steps, rowRepairs := s.dram.rowRepairs, softRows := s.dram.softRows, results := s.dram.results }
    tlb := z.tlb
    fq := z.fq
    fabric := z.fabric
    host := { z.host with perst := s.host.perst }
    irq := { z.irq with aff := affinityReset (hasPd1 s.dev.variant) }
    guests := s.bootGuests
    pe1 := z.pe1
    asleep := match s.asleep with
      | some a => some a
      | none => some ⟨s.parts, s.fabric, s.guests, s.pe1, s.power.graceUntil, s.power.brakedDies, s.power.procClock, s.dram.spare, s.ctrs⟩
    power := { s.power with firstIdle := none, graceUntil := none, brakedDies := z.power.brakedDies, procClock := z.power.procClock, gated := [] }
    banks := z.banks
    ctrs := z.ctrs }

/-- The record of a trip: cause, die or stack, reading, device time; R403 names the parts and not their places (DESIGN CHOICE, log 55). -/
def tripRecord (cause die reading now : Nat) : List Byte := leBytes (cause + die * 2 ^ 8 + reading % 2 ^ 32 * 2 ^ 32 + now % 2 ^ 64 * 2 ^ 64) 32

/-- A hardware trip (R404, R405, R457): every domain but the always-on domain is gated, PWR_TRIP_N goes low, and the device enters FAULT. -/
def State.tripNow (s : State) (cause die reading : Nat) : State :=
  if s.dev.state == .off then s
  else
    let rec_ := tripRecord cause die reading s.now
    let s1 := s.dropDomains
    let s2 := { s1 with power := { s1.power with lastTrip := rec_, tripLow := true }, dev := { s1.dev with alertLow := true } }
    (s2.toDevState .fault).notify 2 0 rec_ none

/-- Power-up begins (R426, R458, R498): every domain but the always-on domain restarts, the images are fetched again, and bucket levels start at
zero. -/
def State.restart (s : State) : State :=
  let z := State.reset
  let s1 := s.dropDomains
  { s1 with
    integ := { s1.integ with levels := [], leakFrom := [], used := [], checkedAt := [] }
    asleep := none
    parts := s1.parts.map fun (p : PartSt) => { p with eveDoneAt := s.now }
    sec := { s.sec with images := z.sec.images, done := false, kind := 0, source := s.sec.lastSource, fetches := 0, refusals := 0, bytes := [],
                        waitUntil := none, askedAt := s.now, fenceAsked := false, committed := false }
    dev := { s1.dev with resetAt := s.now, degradedLater := false, routeCommitted := false, quiesceAt := 0, quiesceKilled := 0 } }

/-- What counts since a reset starts from zero with it (R396, R424, R441, R453): the energies, the integrity record and the debug scopes with the tokens
refused. Fences go, and come back with the fence record and the self-tests (R426, R500); `TrayReplaceFlag` stays (R424). -/
def State.clearSince (s : State) : State :=
  let z := State.reset
  { s with
    power := { s.power with energyMj := 0, unattributedMj := 0, tripLow := false }
    integ := { z.integ with trayReplace := s.integ.trayReplace }
    streams := { s.streams with standIn := [] }
    coh := { s.coh with dead := [] }
    dram := { s.dram with pcState := [] }
    sec := { s.sec with scopes := 0, scopesDue := 0, tokensRefused := 0, signedSince := false }
    dev := { s.dev with alertLow := false } }

/-- VIN is absent (R453, R508, R515): nothing runs and nothing is driven. What is fused and what was repaired for good stays, soft repairs do
not (DEDUCED, log 158); the model's own records stay. -/
def State.goOff (s : State) : State :=
  let z := State.reset
  { z with
    pending := s.pending
    now := s.now
    freeIx := s.freeIx
    mem := s.mem.filter fun e => keptCell e.1
    dram := { z.dram with rowRepairs := s.dram.rowRepairs }
    irq := { z.irq with aff := affinityReset (hasPd1 s.dev.variant) }
    guests := ({ s with integ := z.integ } : State).bootGuests
    sec := { z.sec with keyRevoked := s.sec.keyRevoked, svn := s.sec.svn, ownerHash := s.sec.ownerHash, ownerSet := s.sec.ownerSet,
                        nonceIx := s.sec.nonceIx }
    dev := { z.dev with variant := s.dev.variant, dramSets := s.dev.dramSets, state := .off, since := s.now, vin := false, aoUp := false,
                         clocks := z.dev.clocks.mapIdx fun i _ => i == 4 && s.dev.clocks.getD 4 false }
    out := s.out }

/-- The number of an origin in `RequestedByOrigin` (R458). -/
def originCode : Origin → Nat
  | .management => 1 | .node => 2 | .host => 3

/-- Abort codes (R452). -/
abbrev abBadMessage : Nat := 0x08000001
abbrev abBusy : Nat := 0x08000031
abbrev abUnknown : Nat := 0x08000002
abbrev abAbsent : Nat := 0x08000003
abbrev abNotAuthorised : Nat := 0x08000010
abbrev abReadOnly : Nat := 0x08000011
abbrev abLength : Nat := 0x08000013
abbrev abSegment : Nat := 0x08000030
abbrev abValue : Nat := 0x08000020
abbrev abState : Nat := 0x08000022

/-- A response (R449): the header of its request with RESPONSE, its status and its data; VERSION is 1 whatever the request held. -/
def response (m : UleelMsg) (status off : Nat) (last pending : Bool) (d : List Byte) : UleelMsg :=
  { m with version := 1, flags := BitVec.ofNat 8 (1 + b2n last * 2 + b2n pending * 4), offset := BitVec.ofNat 32 off, length := BitVec.ofNat 16 d.length,
           reserved := 0, status := BitVec.ofNat 32 status, data := d }

/-- The message that bytes spell (R449): a header and the data its LENGTH names. -/
def msgOf (l : List Byte) : UleelMsg :=
  let h := leNat (l.take 20)
  ⟨BitVec.ofNat 8 h, BitVec.ofNat 8 (h >>> 8), BitVec.ofNat 16 (h >>> 16), BitVec.ofNat 16 (h >>> 32), BitVec.ofNat 8 (h >>> 48), BitVec.ofNat 8 (h >>> 56),
    BitVec.ofNat 32 (h >>> 64), BitVec.ofNat 16 (h >>> 96), BitVec.ofNat 16 (h >>> 112), BitVec.ofNat 32 (h >>> 128), (l.drop 20).take (bitsOf h 96 16)⟩

/-- A node mailbox (R480). -/
def State.mail (s : State) (i : Nat) : Mailbox := (tabGet none s.banks.mail i).getD Mailbox.reset

/-- Replaces a node mailbox. -/
def State.setMail (s : State) (i : Nat) (x : Mailbox) : State := { s with banks := { s.banks with mail := tabPut none s.banks.mail i (some x) } }

/-- The request that a mailbox holds (R480). -/
def Mailbox.asked (x : Mailbox) : UleelMsg := msgOf (tabGetList 0 x.request 0 1048)

/-- The response to a mailbox's request: it sets DONE, clears BUSY and raises SOURCE, in that order (R480). -/
def State.deliverMail (s : State) (i : Nat) (m : UleelMsg) : State :=
  let x := s.mail i
  let s1 := s.setMail i { x with response := msgBytes m, done := true, busy := false }
  if bitAt x.goWord.toNat 31 then s1.raise (bitsOf x.goWord.toNat 16 13) else s1

/-- A message leaves for an origin. -/
def State.reply (s : State) (o : Origin) (m : UleelMsg) : State := { s with out := { s.out with responses := (o, m) :: s.out.responses } }

/-- An origin has 16 requests whose answers have not left (R451). -/
def State.overrun (s : State) (o : Origin) : Bool := decide (16 ≤ s.dict.unanswered.countP fun e => e.1 == originCode o && decide (s.now < e.2))

/-- Answers a request (R451). Its answer is settled here; when it leaves, within 10 ms, is not said (free value, log 82), and until then the request counts as
unanswered. -/
def State.respond (s : State) (o : Origin) (m : UleelMsg) : State :=
  if s.overrun o then s.reply o m
  else
    let f := s.free
    let rest := s.dict.unanswered.filter fun e => decide (s.now < e.2)
    ({ f.2 with dict := { s.dict with unanswered := rest ++ [(originCode o, s.now + f.1 % 10000001)] } }).reply o m

/-- A write request of an entry as a command stands for it: its TRANSACTION is 0 (DESIGN CHOICE, log 56). -/
def writeMsg (ix sub : Nat) (d : List Byte) : UleelMsg :=
  ⟨1, 2, 0, BitVec.ofNat 16 ix, BitVec.ofNat 8 sub, 0, 0, BitVec.ofNat 16 d.length, 0, 0, d⟩

/-- Origin rights of a write (R448). -/
def mayWrite (o : Origin) (ix sub : Nat) : Bool :=
  match o with
  | .management => !(ix == 0x8100 && sub == 1)
  | .node => if ix = 0x8100 then sub == 2 || sub == 3 || sub == 6 else !(decide (0x7000 ≤ ix) && decide (ix < 0x8000))
  | .host => ix == 0x8100 && sub == 1

/-- The device is in READY, or in DEGRADED with no context RUNNABLE or PARKED (R454). -/
def State.asReady (s : State) : Bool := s.dev.state == .ready || (s.dev.state == .degraded && !s.anyActive)

/-- The device is in RUNNING, or in DEGRADED while a context is RUNNABLE or PARKED (R454). -/
def State.asRunning (s : State) : Bool := s.dev.state == .running || (s.dev.state == .degraded && s.anyActive)

/-- States in which RW, RWB and WO entries are written (R455). -/
def State.isUp (s : State) : Bool := s.live || s.dev.state == .draining || s.dev.state == .quiesced

end Sys2Proof.Machine
end

