-- ==== Sys2Proof/Machine/DramCmds.lean ====
section
/-! DEFINITION. The commands of stacked DRAM (R275 to R282, R464) and of scrubbing and the leaky buckets (R421, R422). Temperatures are in
tenths of a degree. -/

namespace Sys2Proof.Machine

/-- The step a reading leads to (R275, R402): entered at a threshold, and left when the reading is 2 °C below that step's threshold. -/
def nextStep (thr : List Nat) (cur reading : Nat) : Nat :=
  let up := thr.countP fun t => decide (t ≤ reading)
  (List.range (thr.length + 1)).foldl (fun m j => if up < j ∧ j ≤ cur ∧ thr.getD (j - 1) 0 ≤ reading + 20 then max m j else m) up

def dramThr : List Nat := [950, 970, 990, 1010, 1030]

/-- A die or stack without a working sensor is held at its lowest ceiling, whatever step the reading leads to (R423). -/
def State.heldStep (s : State) (die lowest step : Nat) : Nat := if s.integ.sensors.contains die then lowest else step

/-- The steps that a set of readings leads to; a changed step raises source 7,960 (R366). -/
def State.dramSteps (s : State) (t : List Nat) : State :=
  (List.range 16).foldl (fun (u : State) d =>
    let cur := u.dram.steps.getD d 0
    let n := s.heldStep (20 + d) 5 (nextStep dramThr cur (t.getD d 0))
    let u1 := { u with dram := { u.dram with steps := u.dram.steps.set d n } }
    let u2 := if cur ≠ 0 ∧ n = 0 then u1.endCause 2 d else u1
    if n = cur then u2 else u2.raise 7960) s

/-- The first index of a list with a value of at least `v`. -/
def firstAtLeast (l : List Nat) (v : Nat) : Option Nat := (List.range l.length).find? fun i => decide (v ≤ l.getD i 0)

def stackThr : List Nat := [950, 970, 990, 1010, 1030, 1050]

/-- The steps of the compute stacks follow their base dies (R402); a changed step raises source 7,960. -/
def State.stackSteps (s : State) (t : List Nat) : State :=
  (List.range 8).foldl (fun (u : State) n =>
    let cur := u.power.steps.getD n 0
    let j := s.heldStep (8 + n) 6 (nextStep stackThr cur (t.getD (8 + n) 0))
    let u1 := { u with power := { u.power with steps := u.power.steps.set n j } }
    let u2 := if cur ≠ 0 ∧ j = 0 then u1.endCause 1 n else u1
    if j = cur then u2 else u2.raise 7960) s

/-- A die or stack has no working temperature sensor left (R423): it is held at its lowest ceiling at once, and the fencing is reported. -/
def State.fenceSensor (s : State) (die diag cause : Nat) : State :=
  let s1 := s.addFence die 0x0C 0 cause
  let s2 := { s1 with integ := { s1.integ with sensors := (s1.integ.sensors.filter fun d => d != die) ++ [die] } }
  let s3 := (s2.stackSteps s2.power.dieTemps).dramSteps s2.dram.temps
  s3.degrade.unitReport diag 0x0C die 0 false false true s.now []

/-- Paired temperature sensors of a die disagree (R411, R423): after one lasting fault its pair stands in, and the next fences them. -/
def State.sensorsDisagree (s : State) (die : Nat) : State :=
  s.countError 0x0C die 0 fun t =>
    let k := bucketKey 0x0C die 0
    if t.sparesUsed k < 1 then t.useSpare k else if t.fenced die 0x0C 0 then t else t.fenceSensor die 0x0D 0x03

/-- The higher reading of a pair, in tenths of a degree (R411). -/
def pairHigh (p : Nat × Nat) : Nat := max p.1 p.2

/-- The readings of a pair lie more than 4 °C apart (R411). -/
def pairDisagrees (p : Nat × Nat) : Bool := decide (40 < max p.1 p.2 - min p.1 p.2)

/-- The pairs of the dies from `lo` whose readings disagree are counted (R411). -/
def State.comparePairs (s : State) (lo : Nat) (t : List (Nat × Nat)) : State :=
  (List.range t.length).foldl (fun (u : State) i => if pairDisagrees (t.getD i (0, 0)) then u.sensorsDisagree (lo + i) else u) s

/-- `DRAM_TEMP_READING` (R275, R404, R411): the paired sensors of the 16 stacks, of which the higher reading is used; at 105 °C the package trips. -/
def execDramTempReading (t : List (Nat × Nat)) (s : State) : Res :=
  if s.dev.state == .off then .next s
  else
    let r := (t.take 16).map pairHigh
    let s1 := ({ s with dram := { s.dram with temps := r } }).dramSteps r
    match firstAtLeast r 1050 with
    | some d => .next (s1.tripNow 2 (20 + d) (r.getD d 0))
    | none => .next (s1.comparePairs 20 (t.take 16))

/-- A copy to PC_64 begins (R279). -/
def State.beginCopy (s : State) (d c : Nat) : State :=
  let s1 := s.setPc d c 1
  { s1 with dram := { s1.dram with copying := s1.dram.copying ++ [(d, c)], spare := s1.dram.spare.set d c } }

/-- Lines of a row whose stored data are uncorrectable when the device reads the row for its repair. -/
def State.badInRow (s : State) (key row : Nat) : List Nat :=
  s.bad.filter fun ln => (match regionOf (ln * 128) with | .dram d => d == key / 65 && s.storePc d ln == key % 65 | _ => false) &&
    rowIx 0 (rowOf ln) == rowIx 0 row

/-- A soft row repair at a tick boundary (R278): uncorrectable lines of the row enter L and are reported; the repair is counted on its stack and its
pseudo-channel, and kept to be made permanent. -/
def State.repairRow (s : State) (key row : Nat) : State :=
  let d := key / 65
  let s1 := (s.badInRow key row).foldl (fun (t : State) ln => (t.loseLine ln).lineReport ln 1) s
  { s1 with dram := { s1.dram with rowRepairs := s1.dram.rowRepairs.set d (s1.dram.rowRepairs.getD d 0 + 1),
                                   pcRepairs := tabPut 0 s1.dram.pcRepairs key (satInc 16 (tabGet 0 s1.dram.pcRepairs key)),
                                   softRows := s1.dram.softRows ++ [(key, row)] } }

/-- Hard repair while in BOOTING makes every soft repair permanent (R278), and counts as a repair made (R282). -/
def State.hardRepair (s : State) : State :=
  { s with dram := { s.dram with
    rowRepairs := s.dram.rowRepairs.mapIdx fun d n => n + s.dram.softRows.countP fun e => e.1 / 65 == d
    softRows := [] } }

/-- What is due on stacked DRAM at a tick boundary: row repairs, copies to PC_64, and retraining for a new timing set (R278, R279, R464). -/
def State.dramTick (s : State) : State :=
  let due := s.dram.copyDue
  let rows := s.dram.repairDue
  let s1 := { s with dram := { s.dram with copyDue := [], repairDue := [] } }
  let s2 := rows.foldl (fun (t : State) e => t.repairRow e.1 e.2) s1
  due.foldl (fun (t : State) e => t.beginCopy e.1 e.2) s2

/-- `PSEUDO_CHANNEL_COPY_END` (R279): the failed pseudo-channel is replaced; lines that were uncorrectable during the copy enter L and are
reported (R277), those whose stored data were already so among them. -/
def execPseudoChannelCopyEnd (d : Fin 16) (bad : List Nat) (s : State) : Res :=
  match s.dram.copying.find? fun e => e.1 == d.val with
  | none => .next s
  | some e =>
    let s1 := ((bad ++ s.bad).eraseDups.filter fun ln => lineOfPc d e.2 ln).foldl (fun (t : State) ln => (t.loseLine ln).lineReport ln 1) s
    let s2 := s1.setPc d e.2 2
    .next { s2 with dram := { s2.dram with copying := s2.dram.copying.filter fun x => x.1 != d.val } }

/-- A lane is below limit (R281): an eye narrower than 20 steps or lower than 40 mV. -/
def belowLimit (e : LaneEye) : Bool := decide (e.rdSteps < 20) || decide (e.wrSteps < 20) || decide (e.rdMv < 40) || decide (e.wrMv < 40)

/-- A lane record (R282): heights in units of 5 mV. -/
def laneRecord (e : LaneEye) (replaced : Bool) : W64 :=
  BitVec.ofNat 64 (satTo 8 e.rdSteps + satTo 8 e.wrSteps * 2 ^ 8 + satTo 8 (e.rdMv / 5) * 2 ^ 16 + satTo 8 (e.wrMv / 5) * 2 ^ 24 +
    b2n (belowLimit e) * 2 ^ 32 + b2n replaced * 2 ^ 33)

/-- The key of a lane's result: stack, channel, lane. -/
def laneKey (d c i : Nat) : Nat := 2275 * d + 35 * c + i

/-- The lane of a channel that its redundant lane carries. -/
def State.replacedLane (s : State) (d c : Nat) : Option Nat :=
  (List.range 34).find? fun i => bitAt (tabGet 0#64 s.dram.results (laneKey d c i)).toNat 33

/-- Margining of one channel (R281): a lane below limit takes the redundant lane; when that is in use or below limit itself, the channel
fails. Of several lanes below limit the lowest takes it, and REPLACED stays clear when it is below limit itself (DESIGN CHOICE, log 171). -/
def State.marginChannel (s : State) (d c : Nat) (eyes : List LaneEye) : State :=
  let had := s.replacedLane d c
  let low := (List.range (min 34 eyes.length)).filter fun i => (eyes[i]?).any belowLimit && had != some i
  let spareLow := (eyes[34]?).any belowLimit
  let takes := if had.isSome || spareLow then had else low.head?
  let fails := (had.isSome && (spareLow || !low.isEmpty)) || (had.isNone && ((spareLow && !low.isEmpty) || decide (1 < low.length)))
  let s1 := (List.range (min 35 eyes.length)).foldl (fun (t : State) i =>
    match eyes[i]? with
    | some e => { t with dram := { t.dram with results := tabPut 0#64 t.dram.results (laneKey d c i) (laneRecord e (takes == some i)) } }
    | none => t) s
  if fails then s1.failPc d c 0x02 else s1

/-- Margining of one stack: 65 channels of 35 lanes (R281, R282). -/
def State.marginStack (s : State) (d : Nat) (eyes : List LaneEye) : State :=
  (List.range 65).foldl (fun (t : State) c => t.marginChannel d c ((eyes.drop (35 * c)).take 35)) s

/-- `MARGINING_DONE` (R281, R282): the results of requested stacks are written and their request bits clear. It never runs while a context is
RUNNABLE. -/
def execMarginingDone (r : List (Fin 16 × List LaneEye)) (s : State) : Res :=
  let asked := s.effNat 0x9040 1
  let done := r.filter fun e => bitAt asked e.1
  if done.isEmpty || (s.ctxs.any fun e => e.2.st == .runnable) then .next s
  else
    let s1 := done.foldl (fun (t : State) e => t.marginStack e.1 e.2) s
    let left := (List.range 16).foldl (fun w d => if bitAt asked d && !(done.any fun e => e.1.val == d) then w + 2 ^ d else w) 0
    .next (s1.putEntry 0x9040 1 (leBytes left 2))

/-- A stack that fails training is fenced whole (R499): its slot is unbacked, FenceList names each of its channels, and one report is written
(DESIGN CHOICE, log 161). -/
def State.fenceStack (s : State) (d : Nat) : State :=
  let s1 := s.discardLines fun ln => match regionOf (ln * 128) with | .dram x => x == d | _ => false
  let s2 := (List.range 65).foldl (fun (t : State) c => (t.setPc d c 3).addFence (20 + d) 0x02 c 0x02) s1
  ({ s2 with integ := { s2.integ with dramDegraded := s2.integ.dramDegraded ||| 2 ^ d } }.degrade).unitReport 0 0x02 (20 + d) 0 false false true s.now []

/-- `DRAM_RETRAIN_DONE` (R464): the stack's retraining ends, and the requests that waited for it go on; one that cannot train is fenced whole (R499). -/
def execDramRetrainDone (d : Fin 16) (ok : Bool) (s : State) : Res :=
  if s.dram.retraining.contains d then
    let s1 := { s with dram := { s.dram with retraining := s.dram.retraining.filter fun x => x != d.val } }
    .next ((if ok then s1 else s1.fenceStack d).goOn)
  else .next s

/-- A line of memory is scrubbed (R277, R421): a corrected block is counted on its row and channel, or on its way. The row is the line's own, whichever
the command names (R271). -/
def State.scrubMemory (s : State) (ln : Nat) (e : Ecc) : State :=
  if !s.backed (ln * 128) || (s.dirOf ln).st == .l then s
  else if e = .uncorrectable || s.bad.contains ln then (s.loseStored ln).goOn
  else s.noteEcc ln e

/-- A line of a stack cache, an L2 or an L3 is scrubbed (R421): an uncorrectable block puts its line in L, be it dirty or clean. Other caches are not
scrubbed, nor is a line that a disabled cache kept. -/
def State.scrubCache (s : State) (a ln : Nat) (e : Ecc) : State :=
  if isUnit a || staleCopy (s.copyOf a ln) || (s.copyOf a ln).isNone then s
  else
    match e with
    | .clean => s
    | .corrected => s.cacheError a ln
    | .uncorrectable => (((s.cacheError a ln).blockReport a (((s.copyOf a ln).map Copy.way).getD 0)).loseLine ln).goOn

/-- The bank of a directory row: which rows share spares is the part's (R423). -/
def dirBank (row : Nat) : Nat := Config.freeNat (2 ^ 61 + row) % 2 ^ 16

/-- A row of a base die's directory fails: 64 spare rows per bank, and then a package fault (R423). -/
def State.failDirRow (s : State) (home row diag : Nat) : State :=
  let k := bucketKey 7 (8 + home) (dirBank row)
  if s.sparesUsed k < 64 then s.useSpare k else s.packageFault diag 7 (8 + home) row

/-- An error in a row of a base die's directory counts against its bucket (R423). -/
def State.directoryError (s : State) (home row : Nat) : State := s.countError 7 (8 + home) row fun t => t.failDirRow home row 0x04

/-- A symbol-code error in a row of a directory (R241, R243, R421): what the home knew of an uncorrectable entry's line is lost, so the line is. -/
def State.directoryRow (s : State) (home row ln : Nat) (uncorrectable : Bool) : State :=
  let s1 := s.directoryError home row
  if uncorrectable && homeOf (ln * 128) == some home && (s.dirOf ln).st != .i && (s.dirOf ln).st != .l then
    let s2 := s1.loseLine ln
    let r := s2.postIndexed (integrityWord 0x04 7 (8 + home) row 1 false false false s.now s.now 0 s2.integ.generation)
    (r.1.notify 3 0 (leBytes r.2 64) none).goOn
  else s1

/-- `SCRUB_READ` (R421): what background scrubbing reads, and what the symbol code says of it. -/
def execScrubRead (t : ScrubPlace) (ln : Nat) (e : Ecc) (s : State) : Res :=
  match t with
  | .memory _ => .next (s.scrubMemory ln e)
  | .cache a => .next (s.scrubCache a ln e)
  | .directory home row => .next (if e = .clean then s else s.directoryRow home row ln (e == .uncorrectable))

/-- `BUCKET_LEAK` (R422): the leak period of a bucket ends, and its level falls by 1 when it is above zero. A bucket at zero has no period running. -/
def execBucketLeak (k : Nat) (s : State) : Res :=
  let v := tabGet 0 s.integ.levels k
  if v = 0 then .next s
  else
    let due := tabGet 0 s.integ.leakFrom k + s.leakPeriod (k / 2 ^ 48)
    .next (((s.advance due).startLeak k due).setLevel k (v - 1))

end Sys2Proof.Machine
end

