-- ==== Sys2Proof/Machine/Power.lean ====
section
/-! DEFINITION. Power, heat and clocks (R391 to R409). Temperatures are in tenths of a degree, power in W. -/

namespace Sys2Proof.Machine

/-- Ceiling on the array clock by throttle step (R402). -/
def stepCeiling (step : Nat) : Nat := ([800, 725, 650, 575, 500, 450, 400] : List Nat).getD step 400

/-- The present array clock of CS_n: the chosen clock under the ceiling of its step (R397). A stack in no partition keeps the last one chosen for it, or that
of the brake (R401; DESIGN CHOICE, log 176). -/
def State.stackClock (s : State) (n : Nat) : Nat :=
  min (stepCeiling (s.power.steps.getD n 0)) (match s.partOfStack n with
    | some k => (s.part k).clockMHz
    | none => s.power.idleClock.getD n 800)

/-- What a core rail's regulator sets for a least voltage in µV: 1.08 times it, rounded up to a step of 2.5 mV (R394). -/
def setVoltage (vmin : Nat) : Nat := (108 * vmin + 249999) / 250000 * 2500

/-- The voltage of `VCD_n` in µV (R392, R394). -/
def State.stackVoltage (s : State) (n : Nat) : Nat := setVoltage (Config.vmin n (s.stackClock n))

/-- The voltage of `VPD_m` in µV (R392, R394). -/
def State.procVoltage (s : State) (m : Nat) : Nat := setVoltage (Config.vmin (8 + m) (s.power.procClock.getD m 0))

/-- `STACK_TEMP_READING` (R402, R403, R404, R411): the higher reading of each logic die's sensor pair; at 115 °C the package trips. The pairs of the base
dies, which R402 uses, are compared. -/
def execStackTempReading (t : List (Nat × Nat)) (s : State) : Res :=
  if s.dev.state == .off then .next s
  else
    let r := (t.take 20).map pairHigh
    let s1 := ({ s with power := { s.power with dieTemps := r } }).stackSteps r
    match firstAtLeast r 1150 with
    | some d => .next (s1.tripNow 1 d (r.getD d 0))
    | none => .next (s1.comparePairs 8 ((t.drop 8).take 8))

/-- The cap last accepted. -/
def State.capNow (s : State) : Nat := s.accNat 0x2100 3

/-- A cap is accepted (R398, R401): a lowered one starts the grace, and no idle was inserted under a new value. -/
def State.capAccepted (s : State) (old new : Nat) : State :=
  let s1 := if new = old then s else { s with power := { s.power with firstIdle := none } }
  if new < old then { s1 with power := { s1.power with graceUntil := some (s.now + 50000000), prevCap := old } } else s1

/-- `GRACE_END` (R398). -/
def execGraceEnd (s : State) : Res :=
  match s.power.graceUntil with
  | some t => .next { s.advance t with power := { s.power with graceUntil := none } }
  | none => .next s

/-- The cap-check average (R401): over 10 ms while no partition duty-cycles; else from the first idle inserted under the present cap, of whose span the last
1,000 ms count. While none was inserted yet there is no such average (DEDUCED, log 181). -/
def State.capCheck (s : State) (a : CapAverages) : Option Nat :=
  if s.parts.any fun p => p.duty then
    s.power.firstIdle.map fun t => if 1000000000 < s.now - t then a.last1000ms else a.sinceIdle
  else some a.last10ms

/-- The condition of the power brake (R401): the 1 ms average, or after the grace the cap-check average 10 % above the cap. -/
def State.brakeDue (s : State) (avg1ms : Nat) (a : CapAverages) : Bool :=
  decide (5000 < avg1ms) || (s.power.graceUntil.isNone && (s.capCheck a).any fun w => decide (11 * s.capNow < 10 * w))

/-- `POWER_BRAKE` (R401): every compute stack and processor die goes to its lowest operating point; the stacks of a partition are one domain. -/
def execPowerBrake (avg1ms : Nat) (capAvg : CapAverages) (s : State) : Res :=
  if s.brakeDue avg1ms capAvg && s.dev.state != .off then
    .next { s with
      parts := s.parts.mapIdx fun k p => if s.partExists k then { p with clockMHz := 400, braked := true } else p
      power := { s.power with brakedDies := [true, hasPd1 s.dev.variant], procClock := [800, 800], idleClock := List.replicate 8 400 } }
  else .next s

/-- `HARDWARE_TRIP` (R404, R405, R508): a condition of R404. In STANDBY, low VIN is no trip: the device goes to OFF. -/
def execHardwareTrip (t : TripReading) (s : State) : Res :=
  if t.cause.val = 0 then .next s
  else if t.cause.val = 3 ∧ s.dev.state = .standby then .next s.goOff
  else .next (s.tripNow t.cause.val t.die t.reading)

/-- The share of one context (R406, R407). -/
def State.addEnergy (s : State) (c mj : Nat) : State :=
  s.updCtx c fun x => { x with cnt := { x.cnt with energyMj := x.cnt.energyMj + mj, eveEnergyMj := x.cnt.eveEnergyMj + mj } }

/-- The context to which a unit's share goes (R406): the one that used it, the one that issued the hub's work, or the one that holds the partition whose
stacks idle and leak. -/
def State.energyOwner (s : State) : EnergyUse → Option Nat
  | .used c | .hubWork c => some c.val
  | .idleOf p => if s.partExists p then (s.part p).running else none
  | .package => none

/-- The shares that go to a context which exists; every other is unattributed. -/
def State.ownShares (s : State) (e : EnergyShares) : List (Nat × Nat) :=
  e.shares.filterMap fun x => match s.energyOwner x.1 with
    | some c => if (s.ctx c).st == .free then none else some (c, x.2)
    | none => none

/-- `ENERGY_ATTRIBUTION` (R406): what no context takes is unattributed, so that the sums agree. Shares above the measured energy are no
division of it. -/
def execEnergyAttribution (e : EnergyShares) (s : State) : Res :=
  let own := s.ownShares e
  let sum := own.foldl (fun a x => a + x.2) 0
  if e.totalMj < (e.shares.map Prod.snd).sum then .next s
  else
    let s1 := own.foldl (fun (t : State) x => t.addEnergy x.1 x.2) s
    .next { s1 with power := { s1.power with
      energyMj := s1.power.energyMj + e.totalMj, unattributedMj := s1.power.unattributedMj + (e.totalMj - sum) } }

/-- Highest grid step of `n` points from `lo` in steps of `d` MHz whose predicted power `l` passes `ok`. -/
def highestStep (lo d : Nat) (l : List Nat) (ok : Nat → Bool) : Option Nat :=
  ((List.range l.length).reverse.find? fun i => ok (l.getD i 0)).map fun i => lo + d * i

/-- The choice of R397 for one processor die at a tick boundary. -/
def dieClock (cap : Nat) (m : TickMeasure) (die : Nat) : Nat :=
  (highestStep 800 100 (m.predictW.getD die []) fun w => decide (m.othersW.getD die 0 + w ≤ cap)).getD 800

/-- The processor dies at a tick boundary (R39, R397, R401): the cap takes effect for the domains outside partitions. -/
def State.powerTick (s : State) (m : TickMeasure) (due : Bool) : State :=
  let cap := if due then s.capNow else s.power.capTick
  { s with power := { s.power with capTick := cap, procClock := [dieClock cap m 0, dieClock cap m 1], brakedDies := [false, false] } }

/-- Stacks in partitions that have a RUNNABLE context (R397). -/
def State.activeStacks (s : State) : Nat :=
  (List.range 8).countP fun n => match s.partOfStack n with
    | some k => s.ctxs.any fun e => e.2.st == .runnable && e.2.part == some k
    | none => false

/-- The first grid step at or above a clock (R333, R393). -/
def gridAbove (f : Nat) : Nat := if f ≤ 400 then 400 else min 800 ((f + 24) / 25 * 25)

/-- A clock scaled by the partition's target factor, rounded up to a whole MHz (R333). -/
def pacedClock (p : PartSt) (f : Nat) : Nat := if p.paceDen = 0 then f else gridAbove ((f * p.paceNum + p.paceDen - 1) / p.paceDen)

/-- Predicted power `w` fits the budget (cap − np) × s ÷ active of R397. When no partition has a RUNNABLE context the rule divides by
zero (free value, log 57). -/
def fitsBudget (cap np own active w : Nat) : Bool :=
  if active = 0 then decide (w ≤ Config.idleBudget cap np own) else decide ((w * active : Int) ≤ ((cap : Int) - np) * own)

/-- The cap's choice of a partition's clock (R397): none when no grid step fits. -/
def State.capClock (s : State) (k : Nat) (m : LatchMeasure) : Option Nat :=
  highestStep 400 25 m.predictW (fitsBudget s.capNow m.othersW (s.stacks k).length s.activeStacks)

/-- The inserted idle of a duty-cycling partition in ns, and whether the cap stays unmet (R399). -/
def idleFor (runNs runW cap idleW : Nat) : Nat × Bool :=
  if runW ≤ cap then (0, decide (cap ≤ idleW))
  else if cap ≤ idleW then (200000000, true)
  else
    let d := runNs * (runW - cap) / (cap - idleW)
    (min d 200000000, decide (200000000 ≤ d))

/-- The bits of the duty-cycling partitions (R461). -/
def State.dutyMask (s : State) : Nat := (List.range 8).foldl (fun a k => a + b2n (s.part k).duty * 2 ^ k) 0

/-- Inserted idle of a partition holds up every context bound to it (R400). -/
def State.chargeIdle (s : State) (k d : Nat) : State :=
  { s with ctxs := s.ctxs.map fun e => if e.2.part == some k then (e.1, { e.2 with idleNs := e.2.idleNs + d }) else e }

/-- Clock and duty cycle of a partition at its latch point (R333, R397, R399 to R401): the brake is left, the clock chosen, and the idle
computed. -/
def State.powerLatch (s : State) (k : Nat) (m : LatchMeasure) : State :=
  let p := s.part k
  let f := s.capClock k m
  let duty := f.isNone
  let i := idleFor (s.now - p.eveDoneAt) m.runAvgW s.capNow (p.idleAvgW.getD 250)
  let s00 := if p.capped then s.endCause 3 k else s
  let s0 := if duty then s00.chargeIdle k i.1 else s00
  let s1 := s0.setPart k { p with
    capW := s.capNow, clockMHz := min (f.getD 400) (pacedClock p (f.getD 400)), braked := false, duty := duty, capUnmet := duty && i.2,
    idleUntil := if duty then s.now + i.1 else 0 }
  if duty && !p.duty then s1.postEvent 0x0C05 0xFF s1.dutyMask none else s1

/-- `PowerStatus` (R396). -/
def State.powerStatus (s : State) : Nat :=
  b2n (s.parts.any fun p => p.duty) + b2n s.power.graceUntil.isSome * 2 + b2n ((s.parts.any fun p => p.braked) || s.power.brakedDies.any fun b => b) * 4 +
    b2n (s.parts.any fun p => p.capUnmet) * 8 + (List.range 8).foldl (fun a n => a + b2n (decide (0 < s.power.steps.getD n 0)) * 2 ^ (4 + n)) 0

/-- The condition of R408 under which a unit is gated, as far as it is not a time, nor a wish of a link's partner. -/
def State.gateable (s : State) : GateUnit → Bool
  | .tile p => s.partExists p && !(s.ctxs.any fun e => e.2.st == .runnable && e.2.part == some p.val)
  | .threadUnit u => !(s.threads.blocks.any fun e => match e.2 with | some b => b.unit == u.val | none => false)
  | .streamUnit u => !(s.instList.any fun e => e.2.unit == u.val)
  | .stack n => (s.partOfStack n).isNone
  | .sramWays n => (s.partOfStack n).isNone
  | .dram d => !s.dram.retraining.contains d && !(s.dram.copying.any fun e => e.1 == d.val)
  | .collective => !(s.fabric.runs.any fun e => e.2.isSome)
  | .pcie x => if x = 0 then s.host.linkUp else s.pe1.any fun y => y.linkUp
  | .guestSite g => decide (4 ≤ (s.guest g).state)
  | .linkPort p => s.portMode p == 0

/-- `UNIT_POWER_GATE` (R408): an idle unit's timer has expired. -/
def execUnitPowerGate (u : GateUnit) (s : State) : Res :=
  if s.gateable u && !s.power.gated.contains u then .next { s with power := { s.power with gated := s.power.gated ++ [u] } } else .next s

/-- The tiles that wake with a unit, by 16 n + t (R408): those of a partition's stacks, or of one stack with its sequencer. -/
def State.wokenTiles (s : State) (u : GateUnit) : List Nat :=
  ((match u with
    | .tile p => s.stacks p
    | .stack n => [n.val]
    | _ => []).filter fun n => !(s.integ.computeFenced.getD n false)).flatMap fun n =>
      (s.integ.tiles.getD n [] ++ if s.integ.spare.getD n false then [8] else []).map fun t => 16 * n + t

/-- `UNIT_WAKE` (R206, R408, R414): a gated unit wakes, and what waits for it goes on; woken tiles run the known-answer test; those that fail it, by 16 n + t,
are fenced, and the others are checked (R416). A link port wakes by the retraining that follows its change of mode (R305). -/
def execUnitWake (u : GateUnit) (failed : List Nat) (s : State) : Res :=
  if s.power.gated.contains u then
    let woken := s.wokenTiles u
    let good := (woken.filter fun x => !failed.contains x).foldl (fun (t : State) x => t.tilePassed (x / 16) (x % 16)) (s.ungate u)
    let t := (woken.filter failed.contains).foldl (fun (t : State) x => t.fenceTile (x / 16) (x % 16) 0x01 0x01) good
    .next (match u with
      | .streamUnit v => t.wakeUnit v
      | _ => t)
  else .next s

end Sys2Proof.Machine
end

