-- ==== Sys2Proof/Machine/Counters.lean ====
section
/-! DEFINITION. Counter blocks at their boundaries (R482 to R488), their records and the mirror (R492), and which selectors are legal (R485,
R489). -/

namespace Sys2Proof.Machine

/-- The kind of a block (R482): 0 compute, 1 base, 2 hub, 3 processor, 4 partition. -/
def blockKind (b : Nat) : Nat := if b < 8 then 0 else if b < 16 then 1 else if b < 18 then 2 else if b < 20 then 3 else 4

/-- The block's unit is on the part (R2, R482). -/
def blockPresent (v : Variant) (b : Nat) : Bool := b != 19 || hasPd1 v

/-- The events of a kind with the instances that UNIT may name (R489): tiles, thread units, stream units, pseudo-channels, edges, ports; 1 for
an event of the whole block. -/
def kindEvents : Nat → List (Nat × Nat)
  | 0 => [(0x001, 9), (0x002, 9), (0x003, 9), (0x010, 64), (0x011, 64), (0x012, 64), (0x013, 64), (0x014, 64), (0x015, 64), (0x020, 16), (0x021, 16),
          (0x022, 16), (0x023, 16), (0x024, 1), (0x025, 1), (0x026, 1)]
  | 1 => [(0x100, 1), (0x101, 1), (0x102, 1), (0x103, 1), (0x104, 1), (0x105, 128), (0x106, 128), (0x107, 128), (0x108, 3), (0x109, 1)]
  | 2 => [(0x200, 8), (0x201, 8), (0x202, 8), (0x203, 1), (0x204, 1), (0x205, 1), (0x206, 1), (0x207, 1), (0x208, 1), (0x209, 1), (0x20A, 1)]
  | 3 => [(0x300, 1), (0x301, 1), (0x302, 1)]
  | _ => [(0x400, 1), (0x401, 1), (0x402, 1), (0x403, 1), (0x404, 1), (0x405, 1), (0x406, 1), (0x407, 1), (0x408, 1), (0x409, 1)]

/-- A selector that the device accepts (R485). -/
def selectorOk (b v : Nat) : Bool :=
  bitsOf v 37 27 == 0 && bitsOf v 20 2 != 3 &&
    (kindEvents (blockKind b)).any fun e => e.1 == bitsOf v 0 12 && (bitsOf v 12 8 == 0xFF || decide (bitsOf v 12 8 < e.2))

/-- What of a selector clears its counter when it changes (R488): EVENT, UNIT, MODE and the context filter. -/
def selScope (v : Nat) : Nat × Nat := (bitsOf v 0 22, bitsOf v 24 13)

/-- Clears one counter with its OVERFLOW. -/
def CounterBlock.clear (x : CounterBlock) (i : Nat) : CounterBlock := { x with cnt := x.cnt.set i 0, ovf := x.ovf.set i false }

/-- Events of which this model's commands show each occurrence, or the whole of each span; what the others count (what is busy, resident, waiting, hit or
missed in a cycle) is the part's timing. -/
def shownEvents : List Nat :=
  [0x011, 0x012, 0x013, 0x020, 0x022, 0x023, 0x104, 0x109, 0x200, 0x201, 0x202, 0x203, 0x204, 0x205, 0x206, 0x207, 0x208, 0x209, 0x406, 0x407, 0x408, 0x409]

/-- Events that have no context attribution (R489). -/
def noContextEvents : List Nat := [0x003, 0x104, 0x107, 0x109, 0x202, 0x203, 0x204, 0x207, 0x209, 0x20A, 0x300, 0x301, 0x302]

/-- What a selector has counted of timing in `cycles` cycles, by a free value: edge and cycles at most one in a cycle, and with CONTEXT_EN nothing of an event
without a context (R486). -/
def gathered (v f cycles : Nat) : Nat :=
  if bitAt v 36 && noContextEvents.contains (bitsOf v 0 12) then 0 else if bitsOf v 20 2 = 0 then f % 2 ^ 48 else f % (cycles + 1)

/-- What the enabled counters of a block have counted of timing since they were last looked at: free values (R486, R489; log 102). -/
def State.gather (s : State) (b : Nat) : State :=
  if s.dict.eff.isEmpty || !blockPresent s.dev.variant b || (decide (20 ≤ b) && !s.partExists (b - 20)) then s
  else
    let x := s.ctrBlock b
    (List.range 8).foldl (fun (t : State) i =>
      let v := t.eventSel b i
      if bitAt v 22 && !shownEvents.contains (bitsOf v 0 12) then (t.free).2.addCounter b i (gathered v (t.free).1 (s.cycle - x.gatheredAt)) else t)
      (s.setCtrBlock b { x with gatheredAt := s.cycle })

/-- A block at the boundary where its selectors and its clear take effect (R484, R488); `old` gives the selectors before. -/
def State.counterBoundary (s : State) (b : Nat) (old : Nat → Nat) (clear : Bool) : State :=
  let x := s.ctrBlock b
  let changed := (List.range 8).filter fun i => old i != s.eventSel b i
  let x1 := changed.foldl (fun y i => if selScope (old i) = selScope (s.eventSel b i) then y else y.clear i) x
  let x2 := if changed.isEmpty then x1 else { x1 with selGen := x1.selGen + 1 }
  if clear then
    let m := s.effNat (0x9100 + b) 9
    ((s.setCtrBlock b ((List.range 8).foldl (fun y i => if bitAt m i then y.clear i else y) x2)).putEntry (0x9100 + b) 9 (leBytes 0 2))
  else s.setCtrBlock b x2

/-- A block record (R492). -/
def State.blockRecord (s : State) (b : Nat) : Nat :=
  if blockPresent s.dev.variant b then
    let x := s.ctrBlock b
    x.seq.toNat + x.selGen.toNat * 2 ^ 32 + s.cycle * 2 ^ 64 + s.now % 2 ^ 64 * 2 ^ 128 +
      (List.range 8).foldl (fun a i => a + x.cnt.getD i 0 * 2 ^ (192 + 64 * i) + b2n (x.ovf.getD i false) * 2 ^ (255 + 64 * i)) 0 +
      x.seq.toNat * 2 ^ 992
  else 0

/-- Writes the record of a block to the mirror, its SEQ raised by 1 (R492). A mirror that is not backed takes nothing. -/
def State.mirrorBlock (s : State) (b : Nat) : State :=
  let base := s.effNat 0x9150 1
  if base = 0 then s
  else
    let s0 := s.gather b
    let x := s0.ctrBlock b
    let s1 := s0.setCtrBlock b { x with seq := x.seq + 1 }
    s1.wrHome (base + 128 * b) (leBytes (s1.blockRecord b) 128)

/-- A block counts (R2, R488): its unit is present, its partition exists. -/
def State.blockCounts (s : State) (b : Nat) : Bool := blockPresent s.dev.variant b && !(decide (20 ≤ b) && !s.partExists (b - 20))

/-- `COUNTER_WRAP` (R487): counter `i` of a block has passed 2^48 − 1 by what it counts, `v`. -/
def execCounterWrap (blk : Fin 28) (i : Fin 8) (v : Nat) (s : State) : Res :=
  if 2 ^ 48 ≤ v ∧ s.blockCounts blk ∧ bitAt (s.eventSel blk i) 22 then .next (s.wrapCounter blk i v) else .next s

end Sys2Proof.Machine
end

