-- ==== Sys2Proof/Machine/Held.lean ====
section
/-! DEFINITION. What held settings do at the boundary where they take effect: the base-SRAM split (R232), cache controls (R244 to R247),
counters (R488), sampling (R495), and the fields of contexts (R117, R299, R344, R470). -/

namespace Sys2Proof.Machine

/-- A copy leaves its cache with its data at home and its agent off the record; with `keep` the line stays in the array, clean and unknown
to the directory (R232, R245). -/
def State.withdraw (s : State) (a ln : Nat) (c : Copy) (keep : Bool) : State :=
  let s1 := if (c.st == .m || c.st == .o) && !c.stale then s.memWrite (ln * 128) c.data else s
  let d := s1.dirOf ln
  let left := d.sharers.filter fun x => x != a
  let d1 : DirEntry :=
    if c.stale || d.st == .l then d
    else if d.owner = some a then (if left.isEmpty && d.groups.isEmpty then DirEntry.none else ⟨.s, none, left, d.groups⟩)
    else if d.owner.isNone && left.isEmpty && d.groups.isEmpty then DirEntry.none
    else { d with sharers := left }
  (s1.setDir ln d1).setCopy a ln (if keep then some { c with st := .s, stale := true } else none)

/-- The copies of the agents that `p` selects: agent, line, copy. -/
def State.copiesWhere (s : State) (p : Nat → Bool) : List (Nat × Nat × Copy) :=
  s.coh.copies.filterMap fun e => if p (e.1 / 2 ^ 48) then e.2.map fun c => (e.1 / 2 ^ 48, e.1 % 2 ^ 48, c) else none

/-- The agents behind subindex `j` of a cache control (R244). -/
def cacheAgent (ix j a : Nat) : Bool :=
  if ix = 0x9010 then a == 128 * (j - 1) + 64
  else if ix = 0x9011 then decide (a < 1024) && a / 128 == j - 1 && decide (a % 128 < 64)
  else if j % 2 = 1 then a / 64 == 16 + (j - 1) / 2 && decide (1024 ≤ a) && decide (a % 64 < 24)
  else a == 1024 + 64 * ((j - 1) / 2) + 32

/-- Dirty lines of the caches that `p` selects are written back, and the copies that stay are clean (R506). Answers how many. -/
def State.cleanCaches (s : State) (p : Nat → Bool) : State × Nat :=
  (s.copiesWhere p).foldl (fun (t : State × Nat) e =>
    if (e.2.2.st == .m || e.2.2.st == .o) && !e.2.2.stale then
      let d := t.1.dirOf e.2.1
      let s1 := t.1.memWrite (e.2.1 * 128) e.2.2.data
      let s2 := s1.setDir e.2.1 (if d.groups.isEmpty && decide ((d.sharers.filter fun x => x != e.1).length < 4) then
          ⟨.s, none, (d.sharers.filter fun x => x != e.1) ++ [e.1], []⟩
        else ⟨.s, none, [], ((d.sharers ++ [e.1]).map (· / 8) ++ d.groups).eraseDups⟩)
      (s2.setCopy e.1 e.2.1 (some { e.2.2 with st := .s }), t.2 + 1)
    else t) (s, 0)

/-- Invalidates a cache (R246): its dirty lines go home first (DEDUCED, log 58). -/
def State.invalidateCache (s : State) (ix j : Nat) : State :=
  let s1 := (s.copiesWhere (cacheAgent ix j)).foldl (fun (t : State) e => t.withdraw e.1 e.2.1 e.2.2 false) s
  (s1.putEntry ix (j + 16) (leBytes 0 1)).putEntry ix (j + 32) (leBytes 0 1)

/-- Disables a cache (R245), or enables it again with a notice when it is stale (R246): its lines, and those of the L1 caches that an L2 entry covers, stay
in the array, and are of use again as clean copies that the directory does not know. -/
def State.switchCache (s : State) (ix j : Nat) (on : Bool) : State :=
  if on then (if s.effNat ix (j + 32) = 1 then s.postEvent 0x0C04 0xFF (ix * 2 ^ 16 + j) none else s)
  else
    ((s.copiesWhere (cacheAgent ix j)).foldl (fun (t : State) e => t.withdraw e.1 e.2.1 e.2.2 true) s).putEntry ix (j + 32) (leBytes 1 1)

/-- The base of a stack's near-memory window (R53). -/
def nearBase (n : Nat) : Nat := 0x100000000000 + n * 2 ^ 31

/-- The split of one stack changes (R232): near memory from `oldN` to `newN` ways with `ways` left to the stack cache, whose
highest-numbered ways leave (DESIGN CHOICE, log 166). -/
def State.splitStack (s : State) (n oldN newN ways : Nat) : State :=
  let s1 := (s.copiesWhere fun a => a == 128 * n + 64).foldl (fun (t : State) e => if ways ≤ e.2.2.way then t.withdraw e.1 e.2.1 e.2.2 false else t) s
  let lo := nearBase n + min oldN newN * 2 ^ 26
  let hi := nearBase n + max oldN newN * 2 ^ 26
  let s2 := s1.discardLines fun ln => decide (lo ≤ ln * 128) && decide (ln * 128 < hi)
  { s2 with mem := tabClear s2.mem lo hi }

/-- The steps of R232 for every stack of P_k, from the split before. -/
def State.splitPart (s : State) (k oldN oldH : Nat) : State :=
  let n1 := s.effNat 0x3030 (k + 1)
  let h1 := s.effNat 0x3031 (k + 1)
  let s1 := (s.stacks k).foldl (fun (t : State) n => t.splitStack n oldN n1 (t.integ.ways.getD n 0 - n1 - h1)) s
  if h1 = oldH then s1 else s1.emptyHampers k

/-- Held entries take effect at a boundary, in the order of R247. -/
def State.applyKeys (s : State) (keys : List Nat) : State :=
  let blocks := ((keys.filter fun k => decide (0x9100 ≤ k / 256) && decide (k / 256 < 0x911C)).map fun k => k / 256 - 0x9100).eraseDups
  let s1 := keys.foldl (fun (t : State) k => t.applyEntry k) (blocks.foldl (fun (t : State) b => t.gather b) s)
  let ks := ((keys.filter fun k => k / 256 == 0x3030 || k / 256 == 0x3031).map fun k => k % 256 - 1).eraseDups
  let s2 := ks.foldl (fun (t : State) k => t.splitPart k (s.effNat 0x3030 (k + 1)) (s.effNat 0x3031 (k + 1))) s1
  let cache := keys.filter fun k => decide (0x9010 ≤ k / 256) && decide (k / 256 ≤ 0x9012)
  let s3 := (cache.filter fun k => decide (16 < k % 256) && s1.effNat (k / 256) (k % 256) == 1).foldl
    (fun (t : State) k => t.invalidateCache (k / 256) (k % 256 - 16)) s2
  let s4 := (cache.filter fun k => decide (k % 256 < 16) && s.effNat (k / 256) (k % 256) != s1.effNat (k / 256) (k % 256)).foldl
    (fun (t : State) k => t.switchCache (k / 256) (k % 256) (s1.effNat (k / 256) (k % 256) == 1)) s3
  let s5 := blocks.foldl (fun (t : State) b => t.counterBoundary b (fun i => s.eventSel b i) (keys.contains (256 * (0x9100 + b) + 9))) s4
  (keys.filter fun k => k / 256 == 0x9160).foldl (fun (t : State) k => t.startSampling (k % 256 - 1)) s5

/-- A held field takes its last accepted value. -/
def Held.latch {α : Type} (h : Held α) : Held α := if h.waits then settled h.acc else h

/-- Some field of a context waits for its boundary. -/
def ctxWaits (x : Ctx) : Bool :=
  x.regs.prio.waits || x.regs.groupFault.waits || x.regs.eventLog.waits || x.regs.sources.waits || x.regs.policy.waits || x.regs.xlate.waits ||
    x.regs.hostBlk.waits || x.regs.invalHeld.isSome || x.pendStart || x.pendStop || x.pendRebind.isSome

/-- The host's side of a context when HOST_GRANT changes (R12, R344, R349): a grant starts with empty windows at the present counts and keeps the
epoch; its end leaves only the entries that were ready. -/
def regrant (x : Ctx) (was : Bool) : Ctx :=
  if granted x == was then x
  else if was then { x with cnt := { x.cnt with queueProducer := x.host.queueReady }, host := { x.host with bells := [], noticed := false } }
  else { x with host := { HostSide.created with epoch := x.host.epoch, queueReady := x.cnt.queueProducer, accQueue := x.cnt.queueProducer } }

/-- The held fields of a context take effect (R38, R299, R474): a new Almanac region is due to be zeroed (R129), a new quota counts from zero,
and the invalidation is done. -/
def latchRegs (x : Ctx) : Ctx :=
  let r := x.regs
  let old := r.policy.eff.toNat
  let r1 := { r with
    prio := r.prio.latch, groupFault := r.groupFault.latch, eventLog := r.eventLog.latch, sources := r.sources.latch, policy := r.policy.latch,
    xlate := r.xlate.latch, hostBlk := r.hostBlk.latch, invalHeld := none, invalDone := r.invalDone || r.invalHeld.isSome,
    pagesPlaced := if bitsOf r.xlate.latch.eff.toNat 64 32 = bitsOf r.xlate.eff.toNat 64 32 then r.pagesPlaced else 0 }
  let new := r1.policy.eff.toNat
  let moved := bitsOf old 8 11 != bitsOf new 8 11 || bitsOf old 64 64 != bitsOf new 64 64
  regrant { x with regs := r1, regionDue := x.regionDue || moved } (granted x)

/-- The commands held for a context take effect (R471): STOP only where the context stands at a boundary position, which for the context that
holds the partition is its own Eve. A context that starts is RUNNABLE (R471); a `WAIT` still in flight parks it again when it is next evaluated false
(DEDUCED, log 60). -/
def latchCommands (x : Ctx) (mayStop : Bool) : Ctx :=
  let x1 := if x.pendStop && mayStop && ctxActive x then { x with st := .stopped, deficit := 0, pendStop := false } else x
  let x2 := if x1.pendStart && x1.st == .stopped then { x1 with st := .runnable, deficit := 0, pendStart := false } else x1
  match x2.pendRebind with
  | some k => { x2 with part := some k, pendRebind := none }
  | none => x2

/-- The translations of a held invalidation leave every cache (R291). -/
def State.invalidateHeld (s : State) (c : Nat) : State :=
  match (s.ctx c).regs.invalHeld with
  | some r => s.uncache c r.1 r.2
  | none => s

/-- One context bound to a partition at its latch point. -/
def State.latchCtx (s : State) (c : Nat) (mayStop : Bool) : State :=
  let s1 := (s.invalidateHeld c).updCtx c fun x => latchCommands (latchRegs x) mayStop
  if ctxActive (s1.ctx c) then s1.clearRegion c else s1

end Sys2Proof.Machine
end

