-- ==== Sys2Proof/Machine/Latch.lean ====
section
/-! DEFINITION. Latch points: the drain of a partition (R33, R34), the steps that follow it (R33 to R42, R302, R303, R399), release points
(R527), quiesce drains (R505), the boundaries of R456, and a change of layout (R57, R58, R233). -/

namespace Sys2Proof.Machine

/-- An operation in flight for which the drain of its context does not wait: its `EVE`, and of a halted context a `WAIT` at a boundary position, which
holds no partition (R27, R33; DEDUCED, log 174). -/
def drainPasses (x : Ctx) (f : Flight) : Bool :=
  match f.st with
  | .eve _ _ => true
  | .waiting _ => x.st == .halted && x.atBoundary
  | _ => false

/-- Nothing of a context is outstanding but its `EVE` (R33): operations, records, collectives, faults, and writes in all four scopes. -/
def State.quiet (s : State) (c : Nat) : Bool :=
  let x := s.ctx c
  x.st == .killed ||
    (x.flights.all (drainPasses x) && x.records.isEmpty && (s.run c).isNone &&
      !(s.fq.pending.any fun p => p.ctx == c) && !(s.fabric.unacked.any fun u => u.packet.type == 1 && u.packet.srcContext.val == c) &&
      (x.host.batches.all fun b => b.st != .waiting))

/-- P_k is drained (R33, R34). -/
def State.drained (s : State) (k : Nat) : Bool :=
  !s.streamsBusy k && (match (s.part k).running with
    | some c => s.quiet c
    | none => true)

/-- The leaf entry that maps an address: its physical address (R285). -/
def State.leafAddr (s : State) (va : Nat) : Nat → Nat → Nat → Nat
  | 0, _, t => t
  | fuel + 1, l, t =>
    let ea := t + 8 * bitsOf va (levelShift l) (levelBits l)
    let e := s.rdNat ea 8
    if bitAt e 1 then ea else s.leafAddr va fuel (l + 1) (bitsOf e 8 44 * 256)

/-- The lines of a promoted page go to its new frame (R303): what was lost or is uncorrectable is lost there. -/
def State.copyPage (s : State) (old new : Nat) : State :=
  (List.range 512).foldl (fun (t : State) i =>
    let o := old / 128 + i
    let n := new / 128 + i
    let t0 := t.reclaimIn o o
    if (t0.dirOf o).st == .l then t0.loseLine n
    else if (t0.badIn o o).isSome then (t0.loseLine o).loseLine n
    else
      let t1 := if (t0.dirOf o).st == .i then t0 else t0.takeLine o
      t1.wrBytes (n * 128) (t1.memLine o)) s

/-- The CXL release ring can take a frame (R303). -/
def State.releaseSlot (s : State) : State × Option Nat :=
  let r := s.fq.releases.getD 1 Ring.reset
  if r.cap = 0 ∨ r.cap ≤ r.used then (s, none)
  else
    let ea := r.base + 4 * (r.producer.toNat % r.cap)
    match s.unreadable ea with
    | none => (s, some ea)
    | some _ =>
      if r.unusable then (s, none)
      else (({ s with fq := { s.fq with releases := s.fq.releases.set 1 { r with unusable := true } } }).postEvent 0x0C0A 0xFF 19 none, none)

/-- One page moves to stacked DRAM (R303); none when promotion stops. -/
def State.promote (s : State) (k : Nat) (e : PageCount) : State × Bool :=
  let va := e.vpn * 65536
  if s.quotaOf e.ctx ≤ (s.ctx e.ctx).regs.pagesPlaced then (s, false)
  else
    match s.releaseSlot with
    | (s1, none) => (s1, false)
    | (s1, some slot) =>
      match s1.takeFrame (s1.placement k) with
      | (s2, none) => (s2, false)
      | (s2, some (frame, p)) =>
        let ea := s2.leafAddr va 4 0 (s2.rootOf e.ctx)
        let old := bitsOf (s2.rdNat ea 8) 16 36 * 65536
        let s3 := s2.copyPage old frame
        let s4 := (s3.wrBytes ea (leBytes (setBits (s3.rdNat ea 8) 16 36 (frame / 65536)) 8)).uncache e.ctx va (va + 65536)
        let r := s4.fq.releases.getD 1 Ring.reset
        let s5 := s4.wrBytes slot (leBytes (old / 65536) 4)
        let s6 := { s5 with fq := { s5.fq with releases := s5.fq.releases.set 1 { r with producer := r.producer + 1 } } }
        ((s6.raise 7938).notePlaced e.ctx k p, true)

/-- The order in which pages are promoted (R303). -/
def promotesBefore (a b : PageCount) : Bool :=
  decide (b.count < a.count) || (a.count == b.count && (decide (a.ctx < b.ctx) || (a.ctx == b.ctx && decide (a.vpn < b.vpn))))

/-- Promotes pages in order until one cannot be; an entry whose page is not counted any more only leaves the table. -/
def State.promoteAll (s : State) (k : Nat) : List PageCount → Nat → State × Nat
  | [], n => (s, n)
  | e :: r, n =>
    let drop := fun (t : State) => t.updPart k fun p => { p with counts := p.counts.filter fun x => !(x.ctx == e.ctx && x.vpn == e.vpn) }
    if !s.counted e.ctx (e.vpn * 65536) then (drop s).promoteAll k r n
    else
      match s.promote k e with
      | (s1, false) => (s1, n)
      | (s1, true) => (drop s1).promoteAll k r (n + 1)

/-- The migration step (R303). Answers the pages moved. -/
def State.migrate (s : State) (k : Nat) : State × Nat :=
  let thr := s.effNat 0x3060 (k + 1)
  let l := (sortBy promotesBefore ((s.part k).counts.filter fun e => decide (thr ≤ e.count))).take (s.effNat 0x3061 (k + 1))
  let r := s.promoteAll k l 0
  let s1 := r.1.updPart k fun p => { p with counts := p.counts.map fun e => { e with count := e.count / 2 } }
  (s1.countEv (20 + k) 0x408 0 none r.2, r.2)

/-- What a latch point did: a held setting took effect, pages moved, a decomposition changed. -/
structure LatchDid where
  applied : Bool
  moved : Nat
  adapted : Bool
deriving DecidableEq, Repr

/-- The contexts bound to P_k. -/
def State.ctxsOf (s : State) (k : Nat) : List Nat := (s.ctxs.filter fun e => e.2.part == some k).map Prod.fst

/-- The layout that waits to take effect. -/
def State.newLayout (s : State) : Nat := s.accNat 0x3010 1

/-- A present partition that the waiting change of layout touches (R57). -/
def State.touched (s : State) (k : Nat) : Bool := s.dev.layoutDue && s.partExists k && s.stacks k != stacksIn s.newLayout k

/-- The steps of R33 that every latch point of P_k makes after its drain (R456, R527): the latch point is counted and the hamper turns (R223),
held settings take effect and with them the clock (R395, R397), pages migrate, and decompositions adapt but where a change of layout is due (R87). `own` is the context whose Eve it is; only Eves are counted
for R85. -/
def State.latchSteps (s : State) (k : Nat) (own : Option Nat) (m : LatchMeasure) : State × LatchDid :=
  let s1 := (s.updPart k fun p => { p with latchCount := p.latchCount + 1, eves := if own.isSome then p.eves + 1 else p.eves, lastLatch := s.now }).turnHamper k
  let keys := s1.latchKeys k
  let cs := s1.ctxsOf k
  let p := s1.part k
  let applied := !keys.isEmpty || (cs.any fun c => ctxWaits (s1.ctx c)) || p.capW != s1.capNow || p.quantumUs != s1.accNat 0x3020 1
  let s2 := (s1.applyKeys keys).updPart k fun q => { q with quantumUs := s.accNat 0x3020 1 }
  let holder := (s.part k).running
  let s3 := cs.foldl (fun (t : State) c => t.latchCtx c (holder != some c || (own == some c && (t.ctx c).atBoundary))) s2
  let mg := (s3.refreshRun.powerLatch k m).migrate k
  let ad := if s.touched k then (mg.1, false) else mg.1.adapt k m.sigs
  let s4 := ad.1.countEv (20 + k) 0x409 0 none (b2n ad.2)
  (s4.mirrorBlock (20 + k), ⟨applied, mg.2, ad.2⟩)

/-- A context takes the partition at a boundary; while the device drains or is QUIESCED no interval runs (R505). -/
def State.seatAt (s : State) (k : Nat) (c : Option Nat) : State :=
  let s1 := s.seat k c
  if s.taking then s1 else s1.updPart k fun p => { p with intervalFrom := none }

/-- The partition goes on after its latch point, its records written (R33, R42): the chosen context takes it, or another when the choice does
not hold any more. A device that drains starts the partition's quiesce drain unless that was it (R505). -/
def State.seatNext (s : State) (k : Nat) (quiesced : Bool) : State :=
  let p := s.part k
  let holds : Bool := match p.chosen with
    | some c => (s.ctx c).st == CtxState.runnable && (s.ctx c).part == some k && hasWork (s.ctx c)
    | none => false
  let r := if holds then (s, p.chosen) else s.choose k
  let s1 := (r.1.seatAt k r.2).updPart k fun q => { q with chosen := none }
  if s.dev.state == .draining && !quiesced then s1.updPart k fun q => { q with phase := .draining, drain := .quiesce, drainFrom := s.now, intervalFrom := none }
  else s1

/-- The status and DETAIL of an Eve whose writes were lost, or `OK` (R295). -/
def eveResult (x : Ctx) : OpResult :=
  match x.lost with
  | some (st, ix) => endWith st ix
  | none => endWith 0 0

/-- The `EVE` of a context past its latch point. -/
def eveFlight (x : Ctx) : Option Flight :=
  match x.flights with
  | f :: _ => (match f.st with
    | .eveRecord _ => some f
    | _ => none)
  | [] => none

/-- The completion record of an Eve, and then the chosen context (R33). A halted context that the Eve had chosen reaches a release point at once
(R295). -/
def State.completeEve (s : State) (k c : Nat) (f : Flight) : State :=
  let p := s.part k
  let s1 := (s.updPart k fun q => { q with running := none }).finish c f (eveResult (s.ctx c))
  if (s1.ctx c).flights.any fun g => g.opIndex == f.opIndex then s1.updPart k fun q => { q with running := some c, phase := .draining }
  else if p.chosen = some c ∧ (s1.ctx c).st = .halted then
    s1.updPart k fun q => { q with running := some c, phase := .draining, drain := .release, drainFrom := s.now, chosen := none, eveDoneAt := s.now }
  else ((s1.updPart k fun q => { q with eveDoneAt := s.now }).countEv (20 + k) 0x406 0 (some c) 1).seatNext k false

/-- An Eve report without SWITCHED_OUT (R36). -/
def eveReport (now opIx eves drainNs energy arrayNs : Nat) (d : LatchDid) : Nat :=
  now % 2 ^ 64 + opIx % 2 ^ 64 * 2 ^ 64 + eves * 2 ^ 128 + satTo 32 drainNs * 2 ^ 160 + energy % 2 ^ 64 * 2 ^ 192 + satTo 32 (arrayNs / 1000) * 2 ^ 256 +
    b2n d.applied * 2 ^ 288 + b2n (decide (0 < d.moved)) * 2 ^ 289 + b2n d.adapted * 2 ^ 290 + d.moved % 2 ^ 24 * 2 ^ 292

/-- Writes the report of an Eve when its descriptor names an address (R33, R36); `next` is the context that runs next. -/
def State.postEveReport (s : State) (c report : Nat) (f : Flight) (next : Option Nat) : State :=
  let a := fld f.desc 128 191
  let w := if next.isSome && next != some c then report + 2 ^ 291 else report
  if a = 0 then s else s.postRecord c a (leBytes w 64) 0

/-- The first idle inserted under the present cap begins (R401). -/
def State.noteIdle (s : State) (idle : Bool) : State :=
  if idle && s.power.firstIdle.isNone then { s with power := { s.power with firstIdle := some s.now } } else s

/-- The partition chooses after its latch point and goes on (R33, R42, R399): the report of an Eve, any inserted idle, and without an Eve the
chosen context takes the partition. -/
def State.proceed (s : State) (k : Nat) : State :=
  let p := s.part k
  let r := s.choose k
  let idle := decide (s.now < p.idleUntil)
  let phase := if idle then Phase.idleInserted else Phase.draining
  let base := fun (q : PartSt) => { q with chosen := r.2, drain := .none, phase := phase, report := 0, reached := false,
                                           idleUntil := if idle then q.idleUntil else 0 }
  match p.drain, p.running with
  | .eve, some c =>
    match eveFlight (s.ctx c) with
    | some f => ((r.1.postEveReport c p.report f r.2).updPart k base).noteIdle idle
    | none => (r.1.updPart k base).seatNext k false
  | d, _ =>
    let s1 := (r.1.updPart k fun q => { base q with running := none }).noteIdle idle
    if idle then s1 else s1.seatNext k (d == .quiesce || d == .none)

/-- After its latch steps the partition goes on, or waits for the change of layout that touches it (R57). -/
def State.afterLatch (s : State) (k : Nat) : State :=
  if s.touched k then s.updPart k fun p => { p with phase := .layoutWait, reached := true, running := if p.drain = .eve then p.running else none }
  else s.proceed k

/-- The first access of a layer that closes which stalls: a serviceable fault that node software has not declined (R295). -/
def State.closeStall (s : State) (c : Nat) : List (Nat × Nat × Nat) → State × Option (Nat × Hit)
  | [] => (s, none)
  | (acc, va, n) :: rest =>
    match s.prep c acc va n with
    | (s1, none) => s1.closeStall c rest
    | (s1, some h) =>
      if 5 < h.kind then s.closeStall c rest
      else if (s1.ctx c).declined.contains (acc, h.va / 65536) then s1.closeStall c rest
      else (s1, some (acc, h))

/-- The accesses of closing the layer stall the Eve before its latch point (R295; DESIGN CHOICE, log 61). Once none stalls the layer closes: what
node software declined, a lost line or uncorrectable data lose the one record that meets them and nothing else. -/
def State.closeOrStall (s : State) (c opIx : Nat) : State × Bool :=
  match s.closeStall c (closeExtents (s.ctx c)) with
  | (s1, none) => (s1.closeLayer c opIx, true)
  | (s1, some (acc, h)) => ((s1.faultAt c (s1.seqAgent c) opIx acc h (.eve c)).2, false)

/-- The partition whose `EVE` has drained: its context, the flight, when it was taken and when it reached its latch point. -/
def State.eveReady (s : State) (k : Nat) : Option (Nat × Flight × Nat × Nat) :=
  let p := s.part k
  match p.running with
  | some c =>
    match (s.ctx c).flights with
    | f :: _ =>
      (match f.st with
       | .eve at_ l => if p.phase == .draining && p.drain == .eve && s.drained k then some (c, f, at_, l.getD s.now) else none
       | _ => none)
    | [] => none
  | none => none

/-- `EVE_LATCH_POINT` (R33 to R42, R129 to R132, R302, R303, R399): the drain has ended. -/
def execEveLatchPoint (p : Fin 8) (m : LatchMeasure) (s : State) : Res :=
  match s.eveReady p with
  | none => .next s
  | some (c, f, at_, l) =>
    match s.closeOrStall c f.opIndex with
    | (s1, false) => .next (s1.setFlight c f.opIndex (.eve at_ (some l)))
    | (s1, true) =>
      let s2 := (s1.updCtx c fun x => { x with cnt := { x.cnt with eveCount := x.cnt.eveCount + 1 }, atBoundary := true }).charge c m.arrayNs
      let x := s2.ctx c
      let r := s2.latchSteps p (some c) m
      let w := eveReport l f.opIndex x.cnt.eveCount.toNat (l - at_) x.cnt.eveEnergyMj (x.cnt.eveArrayNs + m.arrayNs) r.2
      let s3 := r.1.updCtx c fun y => { y with cnt := { y.cnt with eveEnergyMj := 0, eveArrayNs := 0 } }
      let s4 := (s3.setFlight c f.opIndex (.eveRecord (endWith 0 0))).updPart p fun q => { q with report := w, running := some c, drain := .eve }
      .next (s4.afterLatch p)

/-- `DUTY_CYCLE_IDLE_END` (R399): the inserted idle ends; the Eve's completion record is written, or the partition goes on. -/
def execDutyCycleIdleEnd (p : Fin 8) (idleW : Nat) (s : State) : Res :=
  let q := s.part p
  if q.phase = .idleInserted then
    let s0 := (s.advance q.idleUntil).countSpan (20 + p) 0x407 0 q.running (q.idleUntil - q.lastLatch)
    let s1 := s0.updPart p fun y => { y with idleUntil := 0, idleAvgW := some idleW, phase := .draining }
    match q.running with
    | some c =>
      match eveFlight (s1.ctx c) with
      | some f => if (s1.ctx c).records.isEmpty then .next (s1.completeEve p c f) else .next s1
      | none => .next (s1.seatNext p false)
    | none => .next (s1.seatNext p true)
  else .next s

/-- `RELEASE_POINT` (R527): the context that gave the partition up is charged, and the partition goes on without its Eve. -/
def execReleasePoint (p : Fin 8) (m : LatchMeasure) (s : State) : Res :=
  let q := s.part p
  if q.phase = .draining ∧ q.drain = .release ∧ s.drained p then
    let s1 := match q.running with
      | some c => (s.charge c m.arrayNs).updCtx c fun x => { x with cnt := { x.cnt with eveArrayNs := x.cnt.eveArrayNs + m.arrayNs } }
      | none => s
    .next ((s1.latchSteps p none m).1.afterLatch p)
  else .next s

/-- `QUIESCE_DRAIN` (R505): the partition has drained and performs the steps of R456. -/
def execQuiesceDrain (p : Fin 8) (m : LatchMeasure) (s : State) : Res :=
  let q := s.part p
  if q.phase = .draining ∧ q.drain = .quiesce ∧ s.drained p then .next ((s.latchSteps p none m).1.afterLatch p) else .next s

/-- A tick boundary is a latch point of P_k (R456): none of its contexts is RUNNABLE or PARKED and nothing is in flight, or the device is
QUIESCED. -/
def State.tickLatches (s : State) (k : Nat) : Bool :=
  let p := s.part k
  s.partExists k && (p.phase == .idle || (p.phase == .running && s.dev.state == .quiesced)) && s.isUp &&
    (s.dev.state == .quiesced || (s.ctxsOf k).all fun c => !ctxActive (s.ctx c) && (s.ctx c).flights.isEmpty)

/-- The boundary of R456. -/
def State.tickLatch (s : State) (k : Nat) (m : LatchMeasure) : State := ((s.latchSteps k none m).1.updPart k fun p => { p with drain := .none }).afterLatch k

/-- The partition of a new layout that a context of P_k binds to (R58). -/
def bindsTo (old new k : Nat) : Option Nat :=
  ((stacksIn old k).find? fun n => decide (layoutOf new n < 8)).map fun n => layoutOf new n

/-- A context of a touched partition at a change of layout (R58): a held REBIND to a partition of the new layout is performed in this boundary (DEDUCED,
log 175); a START held for a context that becomes unbound is dropped (DESIGN CHOICE, log 162). -/
def rebindCtx (old new : Nat) (x : Ctx) : Ctx :=
  match x.part, x.pendRebind.filter fun j => !(stacksIn new j).isEmpty with
  | none, _ => x
  | some _, some j => { x with part := some j, pendRebind := none }
  | some k, none =>
    match bindsTo old new k with
    | some j => { x with part := some j }
    | none =>
      if ctxActive x then { x with part := none, st := .stopped, deficit := 0, pendStart := false, pendStop := false }
      else { x with part := none, pendStart := false }

/-- A stack leaves every partition (R233): its dirty lines go home, its near memory is lost, and its base-SRAM ways are power-gated. -/
def State.leaveStack (s : State) (n oldN : Nat) : State :=
  let s1 := (s.copiesWhere fun a => decide (a < 1024) && a / 128 == n).foldl (fun (t : State) e => t.withdraw e.1 e.2.1 e.2.2 false) s
  let s2 := s1.splitStack n oldN 0 0
  { s2 with power := { s2.power with gated := (s2.power.gated.filter fun u => u != .sramWays (Fin.ofNat 8 n)) ++ [.sramWays (Fin.ofNat 8 n)] } }

/-- A stack that leaves its partition keeps its array clock (R396; DESIGN CHOICE, log 176). -/
def State.keepClock (s : State) (n mhz : Nat) : State := { s with power := { s.power with idleClock := s.power.idleClock.set n mhz } }

/-- The base-SRAM ways of a stack that is in a partition are powered (R408). -/
def State.powerWays (s : State) (n : Nat) : State :=
  { s with power := { s.power with gated := s.power.gated.filter fun u => u != .sramWays (Fin.ofNat 8 n) } }

/-- Near-memory ways of CS_n under a layout. -/
def State.nearUnder (s : State) (map n : Nat) : Nat := if layoutOf map n < 8 then s.effNat 0x3030 (layoutOf map n + 1) else 0

/-- The stacks that a change of layout moves: those whose old or new partition is touched. -/
def movedStacks (old new : Nat) : List Nat :=
  (List.range 8).filter fun n => stacksIn old (layoutOf old n) != stacksIn new (layoutOf old n) || stacksIn old (layoutOf new n) != stacksIn new (layoutOf new n)

/-- A new partition begins (R57, R223), at some step of the clock grid until its first latch point chooses one (R393, R397; free value, log 59). -/
def State.newPart (s : State) (k : Nat) (st : List Nat) : PartSt :=
  match st with
  | [] => PartSt.fresh
  | _ :: _ => { PartSt.fresh with capW := s.capNow, quantumUs := s.accNat 0x3020 1, eveDoneAt := s.now, lastLatch := (s.part k).lastLatch,
                                  clockMHz := 400 + 25 * (Config.freeNat (s.freeIx + k) % 17) }

/-- An Eve past its latch point that waits for a change of layout (R57): its context, its flight, its report, and the idle it owes (R399). -/
structure WaitingEve where
  ctx : Nat
  flight : Flight
  report : Nat
  idle : Nat

/-- The partition that waits for a change of layout in an Eve. -/
def State.waitingEve (s : State) (k : Nat) : Option WaitingEve :=
  let p := s.part k
  match p.drain, p.running with
  | .eve, some c => (eveFlight (s.ctx c)).map fun f => ⟨c, f, p.report, p.idleUntil - p.lastLatch⟩
  | _, _ => none

/-- A new partition chooses (R57). The first Eve of a context that is bound to it and owes idle keeps it idle before the Eve's record (R399; DEDUCED,
log 110). -/
def State.startPart (s : State) (l : List WaitingEve) (k : Nat) : State :=
  let r := s.choose k
  match l.find? fun e => 0 < e.idle && (s.ctx e.ctx).part == some k with
  | some e =>
    ((r.1.postEveReport e.ctx e.report e.flight r.2).updPart k fun p =>
      { p with running := some e.ctx, chosen := r.2, drain := .none, phase := .idleInserted, idleUntil := s.now + e.idle }).noteIdle true
  | none => r.1.seatAt k r.2

/-- The Eve of a partition that waited for a change of layout completes under the new one (R57), but for one whose idle still lies before its record. -/
def State.eveAfterLayout (s : State) (e : WaitingEve) : State :=
  let p := (s.ctx e.ctx).part.map s.part
  if p.any fun q => q.phase == .idleInserted && q.running == some e.ctx then s
  else
    let s1 := s.postEveReport e.ctx e.report e.flight (match p with
      | some q => if q.phase = .idleInserted then q.chosen else q.running
      | none => none)
    s1.finish e.ctx e.flight (eveResult (s1.ctx e.ctx))

/-- A held REBIND to a partition that the new layout does not have is discarded (R58). -/
def dropRebind (new : Nat) (x : Ctx) : Ctx := { x with pendRebind := x.pendRebind.filter fun k => !(stacksIn new k).isEmpty }

/-- Entries whose subindices name stacks and not partitions (R233, R244). -/
def namesStack (ix : Nat) : Bool := ix == 0x9010 || ix == 0x9011

/-- The layout changes (R57, R58, R233, R488), and every touched partition chooses. Values accepted for one that waited for it past its own latch point stay
held (DEDUCED, log 167). -/
def State.changeLayout (s : State) : State :=
  let old := s.dev.layout
  let new := s.newLayout
  let ks := (List.range 8).filter fun k => stacksIn old k != stacksIn new k
  let eves := ks.filterMap s.waitingEve
  let stacks_ := movedStacks old new
  let hampers := { s.streams with hamper := s.streams.hamper.filter fun h => !(stacks_.contains h.stack) }
  let parts := (List.range 8).map fun k => if ks.contains k then s.newPart k (stacksIn new k) else s.part k
  let s1 := { s with
    freeIx := s.freeIx + 8
    parts := parts
    streams := hampers
    ctxs := s.ctxs.map fun (e : Nat × Ctx) => (e.1, dropRebind new (match e.2.part with
      | some k => if ks.contains k then rebindCtx old new e.2 else e.2
      | none => e.2))
    dev := { s.dev with layout := new, layoutDue := false } }
  let gone := (s1.dict.held.map Prod.fst).filter fun key => !namesStack (key / 256) && match s.latchPart (key / 256) (key % 256) with
    | some k => (stacksIn new k).isEmpty
    | none => false
  let s2 := gone.foldl (fun (t : State) key => t.dropEntry key) (s1.applyEntry (entryKey 0x3010 1))
  let s3 := stacks_.foldl (fun (t : State) n =>
    let o := s.nearUnder old n
    if layoutOf new n < 8 then
      let w := t.nearUnder new n
      (t.powerWays n).splitStack n o w (t.integ.ways.getD n 0 - w - t.effNat 0x3031 (layoutOf new n + 1))
    else if layoutOf old n < 8 then (t.leaveStack n o).keepClock n (s.part (layoutOf old n)).clockMHz
    else t.leaveStack n o) s2
  let live := ks.filter fun k => !(stacksIn new k).isEmpty
  let s4 := live.foldl (fun (t : State) k => t.setCtrBlock (20 + k) { t.ctrBlock (20 + k) with cnt := List.replicate 8 0, ovf := List.replicate 8 false }) s3
  let s5 := live.foldl (fun (t : State) k => t.startPart eves k) s4.refreshRun
  eves.foldl (fun (t : State) e => t.eveAfterLayout e) s5

/-- Some present partition is touched by the waiting change of layout. -/
def State.anyTouched (s : State) : Bool := (List.range 8).any fun k => s.touched k

/-- Every touched partition has reached a latch point (R57). -/
def State.allReached (s : State) : Bool := (List.range 8).all fun k => !s.touched k || (s.part k).reached

/-- `LAYOUT_CHANGE` (R57). A change that touches no partition takes effect at a tick boundary and not here. -/
def execLayoutChange (s : State) : Res :=
  if s.dev.layoutDue && s.anyTouched && s.allReached then .next s.changeLayout else .next s

/-- A newer value of `PartitionMap` is accepted (R57): the partitions that wait and that it does not touch go on at once. -/
def State.acceptLayout (s : State) : State :=
  let s1 := { s with dev := { s.dev with layoutDue := true, layoutSince := s.now } }
  (List.range 8).foldl (fun (t : State) k => if (t.part k).phase == .layoutWait && !t.touched k then t.proceed k else t) s1

end Sys2Proof.Machine
end

