-- ==== Sys2Proof/Machine/Collectives.lean ====
section
/-! DEFINITION. `COLLECTIVE` and its packets (R320 to R333). Blocks are reduced by recursive halving and gathered by recursive doubling over the pairs
of the tree (R324); the result does not depend on how the data moves (R326). -/

namespace Sys2Proof.Machine

def kRanks (d : Descriptor) : Nat := fld d 320 340
def kRank (d : Descriptor) : Nat := fld d 352 371
def kRoot (d : Descriptor) : Nat := fld d 384 403
def kComm (d : Descriptor) : Nat := fld d 416 447
def kCount (d : Descriptor) : Nat := fld d 448 487
def kKind (d : Descriptor) : Nat := fld d 488 495
def kFmt (d : Descriptor) : Nat := fld d 496 503
def kOp (d : Descriptor) : Nat := fld d 504 507
def kSend (d : Descriptor) : Nat := fld d 128 191
def kRecv (d : Descriptor) : Nat := fld d 192 255

def collFields : List (Nat × Nat) :=
  [(128, 191), (192, 255), (256, 319), (320, 340), (352, 371), (384, 403), (416, 447), (448, 487), (488, 495), (496, 503), (504, 507)]

/-- Elements of a contribution and of a result (R321). -/
def sendCount (d : Descriptor) (rank : Nat) : Nat :=
  if kKind d = 2 ∨ kKind d = 5 then kRanks d * kCount d else if kKind d = 4 ∧ rank ≠ kRoot d then 0 else kCount d
def recvCount (d : Descriptor) : Nat := if kKind d = 3 ∨ kKind d = 5 then kRanks d * kCount d else kCount d

/-- A reduction (R320). -/
def reduces (d : Descriptor) : Bool := kKind d == 1 || kKind d == 2

/-- RECV may equal SEND (R321). -/
def mayAlias (d : Descriptor) : Bool := (kKind d == 1 || (kKind d == 4 && kRank d == kRoot d)) && kSend d == kRecv d

/-- The checks of R322 that need no memory. -/
def collBadField (d : Descriptor) : Reject :=
  let f := kFmt d
  badField
    [badAddr d 128 64, badAddr d 192 64, badAddr d 256 64, (kRanks d == 0 || decide (2 ^ 20 < kRanks d), 320), (decide (kRanks d ≤ kRank d), 320),
     (decide (kRanks d ≤ kRoot d), 320), (kKind d != 4 && kRoot d != 0, 384), (kCount d == 0, 448), (kKind d == 0 || decide (5 < kKind d), 488),
     (!fmtLegal f || fmtBlock f, 496), (reduces d && !([0x1A, 0x18, 0x03, 0x04].contains f), 496), (reduces d && decide (4 < kOp d), 504),
     (reduces d && (kOp d == 3 || kOp d == 4) && !fmtInt f, 496),
     (overlaps (kSend d) (rowBytes f (sendCount d (kRank d))) (kRecv d) (rowBytes f (recvCount d)) && !mayAlias d, 128)]

/-- The member table is refused (R320, R322): an entry with high bits, a repeat, or an entry of this rank that names another. -/
def membersBad (s : State) (c : Nat) (d : Descriptor) (ms : List W64) : Bool :=
  ms.any (fun w => bitsOf w.toNat 32 32 != 0) || decide (ms.eraseDups.length ≠ ms.length) ||
    (ms.getD (kRank d) 0).toNat != s.fabricId + c * 2 ^ 20

/-- Pieces of a block of so many bytes: at least one (R327). -/
def piecesOf (bytes : Nat) : Nat := max 1 ((bytes + 4031) / 4032)

/-- The elements of block `e` of a reduction (R321, R324): of an all-reduce, one part of COUNT for each rank. -/
def blockElems (d : Descriptor) (e : Nat) : Nat × Nat :=
  if kKind d = 2 then (e * kCount d, kCount d)
  else
    let per := (kCount d + kRanks d - 1) / kRanks d
    (min (e * per) (kCount d), min per (kCount d - e * per))

/-- Bytes of block `e` as it travels: nine for each element of a reduction, else elements packed (DESIGN CHOICE, log 123). -/
def blockBytes (d : Descriptor) (e : Nat) : Nat :=
  if reduces d then 9 * (blockElems d e).2 else if kKind d = 4 ∧ e ≠ kRoot d then 0 else rowBytes (kFmt d) (kCount d)

/-- CHUNK of piece `q` of block `e` (DESIGN CHOICE, log 123). -/
def chunkOf (d : Descriptor) (e q : Nat) : Nat := e * piecesOf (if reduces d then blockBytes d 0 else rowBytes (kFmt d) (kCount d)) + q

/-- The key of a piece from or to a rank. -/
def pieceKey (rank chunk : Nat) : Nat := rank * 2 ^ 32 + chunk

/-- The descriptor of a pending collective. -/
def State.runDesc (s : State) (c : Nat) (r : CollRun) : Option Flight := (s.ctx c).flights.find? fun f => f.opIndex == r.opIndex

/-- The pairs of one level of the tree of R324, the lower rank's partial on the left. -/
def pairUp {α : Type} (f : α → α → α) : List α → List α
  | a :: b :: r => f a b :: pairUp f r
  | l => l

/-- The tree of R324. -/
def treeFold {α : Type} (f : α → α → α) (z : α) : Nat → List α → α
  | 0, l => l.headD z
  | n + 1, l =>
    match l with
    | [] => z
    | [a] => a
    | l => treeFold f z n (pairUp f l)

/-- combine of R325 on values: 0 sum, 1 minimum, 2 maximum. Integer sums are exact. -/
def combine (fmt op : Nat) (a b : Num) : Num :=
  if op = 1 then a.min b else if op = 2 then a.max b else if fmtInt fmt then a.add b else roundTo cFp32 (a.add b)

/-- One contribution to a reduced element; bitwise reductions take its bits as they are (R325). -/
def contributed (fmt op bits : Nat) : Elem :=
  if op = 3 ∨ op = 4 then ⟨.fin false bits 0, false, true⟩ else ⟨decodePlain fmt bits, (decodePlain fmt bits).isNan, (decodePlain fmt bits).isFin⟩

/-- combine of R324 and R325, with what the written element depends on. -/
def combineElem (fmt op : Nat) (a b : Elem) : Elem :=
  ⟨if op = 3 then .fin false (a.v.floorInt.toNat &&& b.v.floorInt.toNat) 0 else if op = 4 then .fin false (a.v.floorInt.toNat ||| b.v.floorInt.toNat) 0
    else combine fmt op a.v b.v, a.anyNan || b.anyNan, a.allFin && b.allFin⟩

/-- The element written for a reduced one: one rounding to FMT (R325). -/
def reducedOut (fmt op : Nat) (e : Elem) : Written :=
  if op = 3 ∨ op = 4 then ⟨e.v.floorInt.toNat % 2 ^ fmtBits fmt, false, .none, false⟩ else writePlain fmt e

/-- One reduced element from its contributions' bits in rank order: the tree of R324. -/
def reduceElem (fmt op : Nat) (xs : List Nat) : Written :=
  reducedOut fmt op (treeFold (combineElem fmt op) ⟨Num.zero, false, true⟩ 21 (xs.map (contributed fmt op)))

/-- A partial result as it travels: FP32 bits, or an integer in two's complement, in 8 bytes, and what it depends on (log 123). -/
def elemBytes (fmt op : Nat) (e : Elem) : List Byte :=
  leBytes (if fmtInt fmt ∨ op = 3 ∨ op = 4 then (e.v.floorInt % 2 ^ 64).toNat else toFp32 e.v) 8 ++ leBytes (b2n e.anyNan + 2 * b2n e.allFin) 1
def carriedElem (fmt op : Nat) (b : List Byte) : Elem :=
  let n := leNat (b.take 8)
  let f := leNat (b.drop 8)
  ⟨if op = 3 ∨ op = 4 then .fin false n 0 else if fmtInt fmt then ofInt (if n < 2 ^ 63 then n else (n : Int) - 2 ^ 64) 0 false else fp32 n, bitAt f 0, bitAt f 1⟩

/-- The partial results of a block. -/
def blockParts (fmt op : Nat) (b : List Byte) : List Elem := (List.range (b.length / 9)).map fun i => carriedElem fmt op ((b.drop (9 * i)).take 9)

/-- Two partial blocks combine, that of the lower ranks on the left (R324). -/
def combineBlocks (d : Descriptor) (a b : List Byte) : List Byte :=
  (List.zipWith (combineElem (kFmt d) (kOp d)) (blockParts (kFmt d) (kOp d) a) (blockParts (kFmt d) (kOp d) b)).flatMap (elemBytes (kFmt d) (kOp d))

/-- A rank's own block `e`, from its contribution. -/
def ownBlock (d : Descriptor) (own : List Byte) (e : Nat) : List Byte :=
  let w := fmtBits (kFmt d)
  if reduces d then
    let r := blockElems d e
    (List.range r.2).flatMap fun j => elemBytes (kFmt d) (kOp d) (contributed (kFmt d) (kOp d) (bitsOf (leNat own) (w * (r.1 + j)) w))
  else if kKind d = 5 then leBytes (bitsOf (leNat own) (w * kCount d * e) (w * kCount d)) (rowBytes (kFmt d) (kCount d))
  else own

/-- Who holds block `e` for the ranks from `i` when 2^l of them have combined: at each level the half that bit `l` of `e` names, where it has ranks
(R324: recursive halving over the pairs of the tree). -/
def holder (p e : Nat) : Nat → Nat → Nat
  | 0, i => i
  | l + 1, i => if bitAt e l && decide (i + 2 ^ l < p) then holder p e l (i + 2 ^ l) else holder p e l i

/-- An exchange of a block with a peer at a level; `mine` when the joined half's block stays here. -/
structure Hop where
  peer : Nat
  block : Nat
  level : Nat
  mine : Bool
deriving DecidableEq, Repr

/-- The exchanges of a rank at a level, and at every level (R324). -/
def hopsAt (rank p l : Nat) : List Hop :=
  let i := rank / 2 ^ (l + 1) * 2 ^ (l + 1)
  let own := if rank < i + 2 ^ l then i else i + 2 ^ l
  let other := if rank < i + 2 ^ l then i + 2 ^ l else i
  if p ≤ i + 2 ^ l then []
  else ((List.range p).filter fun e => holder p e l own == rank).map fun e => ⟨holder p e l other, e, l, holder p e (l + 1) i == rank⟩
def hops (rank p : Nat) : List Hop := (List.range 20).flatMap (hopsAt rank p)

/-- The ranks a member exchanges with: all of them in an all-to-all (R321, R324). -/
def partnersOf (d : Descriptor) : List Nat :=
  if kKind d = 5 then (List.range (kRanks d)).filter fun j => j != kRank d else ((hops (kRank d) (kRanks d)).map Hop.peer).eraseDups

/-- A block that came whole from a rank. -/
def CollRun.received (r : CollRun) (d : Descriptor) (src e : Nat) : Option (List Byte) :=
  let ps := (List.range (piecesOf (blockBytes d e))).map fun q => (r.got.find? fun x => x.1 == pieceKey src (chunkOf d e q)).map Prod.snd
  if ps.all Option.isSome then some (ps.flatMap fun x => x.getD []) else none

/-- The exchange of block `e` at a level. -/
def CollRun.hopOf (r : CollRun) (l e : Nat) : Option Hop := (hopsAt r.rank r.members.length l).find? fun h => h.block == e

/-- Reduce-scatter: the partial result of block `e` over the 2^l ranks of this one's group, where it is held here (R324). -/
def CollRun.partialBlock (r : CollRun) (d : Descriptor) : Nat → Nat → Option (List Byte)
  | 0, e => some (ownBlock d r.own e)
  | l + 1, e =>
    match r.hopOf l e with
    | none => r.partialBlock d l e
    | some h =>
      if h.mine then
        match r.partialBlock d l e, r.received d h.peer e with
        | some a, some b => some (if r.rank < h.peer then combineBlocks d a b else combineBlocks d b a)
        | _, _ => none
      else none

/-- All-gather: block `e` as it stands here after `k` levels, from the whole down (R324). -/
def CollRun.finalBlock (r : CollRun) (d : Descriptor) : Nat → Nat → Option (List Byte)
  | 0, e => if reduces d then r.partialBlock d 20 e else if e = r.rank then some (ownBlock d r.own e) else none
  | k + 1, e =>
    match r.hopOf (19 - k) e with
    | none => r.finalBlock d k e
    | some h => if h.mine then r.finalBlock d k e else r.received d h.peer e

/-- What a member can send now: partial blocks, whole blocks, and the blocks of an all-to-all. -/
def CollRun.outgoing (r : CollRun) (d : Descriptor) : List (Nat × Nat × List Byte) :=
  let hs := hops r.rank r.members.length
  (if reduces d then hs.filterMap fun h => if h.mine then none else (r.partialBlock d h.level h.block).map fun b => (h.peer, h.block, b) else []) ++
    (if kKind d = 1 ∨ kKind d = 3 ∨ kKind d = 4 then
       hs.filterMap fun h => if h.mine then (r.finalBlock d (19 - h.level) h.block).map fun b => (h.peer, h.block, b) else none
     else []) ++
    (if kKind d = 5 then r.partners.map fun j => (j, j, ownBlock d r.own j) else [])

/-- The blocks that a member waits for, by sender. -/
def CollRun.incoming (r : CollRun) (d : Descriptor) : List (Nat × Nat) :=
  let hs := hops r.rank r.members.length
  (if reduces d then (hs.filter Hop.mine).map fun h => (h.peer, h.block) else []) ++
    (if kKind d = 1 ∨ kKind d = 3 ∨ kKind d = 4 then (hs.filter fun h => !h.mine).map fun h => (h.peer, h.block) else []) ++
    (if kKind d = 5 then r.partners.map fun j => (j, r.rank) else [])

/-- The collective waits on a rank (R331). -/
def CollRun.awaits (r : CollRun) (d : Descriptor) (j : Nat) : Bool := (r.incoming d).any fun x => x.1 == j && (r.received d j x.2).isNone

/-- Every block that a member needs has come. -/
def CollRun.whole (r : CollRun) (d : Descriptor) : Bool := (r.incoming d).all fun x => (r.received d x.1 x.2).isSome

/-- An element that moves unchanged, as the trap sees it (R138). -/
def movedElem (fmt b : Nat) : Written :=
  let v := decodePlain fmt b
  ⟨b, false, if v.isNan then .propagated else .none, v.isInf⟩

/-- The elements of RECV (R321, R324). -/
def CollRun.result (r : CollRun) (d : Descriptor) : List Written :=
  let w := fmtBits (kFmt d)
  let p := r.members.length
  let moved := fun (b : List Byte) => (List.range (kCount d)).map fun j => movedElem (kFmt d) (bitsOf (leNat b) (w * j) w)
  let final := fun (e : Nat) => (r.finalBlock d 20 e).getD []
  let reduced := fun (b : List Byte) => (blockParts (kFmt d) (kOp d) b).map (reducedOut (kFmt d) (kOp d))
  if kKind d = 1 then (List.range p).flatMap fun e => reduced (final e)
  else if kKind d = 2 then reduced ((r.partialBlock d 20 r.rank).getD [])
  else if kKind d = 3 then (List.range p).flatMap fun e => moved (final e)
  else if kKind d = 4 then moved (final (kRoot d))
  else (List.range p).flatMap fun j => moved (if j = r.rank then ownBlock d r.own j else (r.received d j r.rank).getD [])

/-- The report of a straggler (R332): the manual names its parts and not their places (DESIGN CHOICE, log 62). -/
def stragglerReport (id c comm seq late cause detail : Nat) : BitVec 256 :=
  BitVec.ofNat 256 (id + c * 2 ^ 20 + comm * 2 ^ 32 + seq % 2 ^ 32 * 2 ^ 64 + satTo 31 late * 2 ^ 96 + cause * 2 ^ 128 + detail * 2 ^ 136)

/-- The target factor of R333, as a fraction. -/
def State.paceFactor (s : State) (r : CollRun) (last : Nat) : Nat × Nat :=
  let w := r.latest - r.arrivedAt
  let t := r.arrivedAt - last
  if s.effNat 0x8020 1 = 1 ∧ r.straggler ≠ r.rank ∧ 1000 * s.effNat 0x8020 3 ≤ w then (100 * t, 100 * t + s.effNat 0x8020 2 * w) else (1, 1)

/-- What follows the completion of a collective (R332, R333): a straggler's report waits for the tick, the latest of a communicator; the pace
factor waits for the latch point. -/
def State.afterCollective (s : State) (c : Nat) (r : CollRun) : State :=
  let f := s.paceFactor r (tabGet 0 (s.ctx c).completions r.comm)
  let w := s.endWait c r
  let s0 := if (s.part (s.partOfCtx c)).paced then w.endCause 4 (s.partOfCtx c) else w
  let s1 := s0.updPart (s.partOfCtx c) fun p => { p with paceNum := f.1, paceDen := f.2 }
  let s2 := s1.updCtx c fun x => { x with completions := tabPut 0 x.completions r.comm s.now }
  if r.straggler = r.rank ∧ 1000 * s.effNat 0x8021 1 ≤ r.latest - r.earliest then
    let rep := stragglerReport s.fabricId c r.comm r.seq (r.latest - r.earliest) r.cause r.detail
    { s2 with fabric := { s2.fabric with straggler := (s2.fabric.straggler.filter fun e => e.1 != r.comm) ++ [(r.comm, rep)] } }
  else s2

/-- A collective with every contribution writes its result and is done (R324 to R326); a fault stalls it (R295). -/
def State.tryCollective (s : State) (c : Nat) : State :=
  match s.run c with
  | none => s
  | some r =>
    match s.runDesc c r with
    | none => s
    | some f =>
      let d := f.desc
      if !r.whole d then s
      else
        let ws := r.result d
        let out := packRow (kFmt d) ws
        match s.prepAllAt hub0Agent c [(accWrite, kRecv d, out.length)] with
        | (s1, some (acc, h)) =>
          let e := s1.opFaultBy hub0Agent c r.opIndex acc h
          let s2 := e.1.setFlight c r.opIndex e.2
          if h.kind ≤ 5 then s2 else s2.abandonRun c
        | (s1, none) =>
          let t := tallyRows 0 0 0 [ws]
          let s2 := ((s1.wrVAt hub0Agent c (kRecv d) out).setRun c none).setFlight c r.opIndex (.computed (t.result 0) (afterTally (s1.ctx c) t))
          s2.afterCollective c r

/-- Sends every piece that a member can send and has not sent (R324, R327). -/
def State.sendDue (s : State) (c : Nat) (r : CollRun) (d : Descriptor) : State :=
  let due := (r.outgoing d).flatMap fun o =>
    (List.range (piecesOf (blockBytes d o.2.1))).map fun q => (o.1, chunkOf d o.2.1 q, (o.2.2.drop (4032 * q)).take 4032)
  let new := due.filter fun x => !r.sent.contains (pieceKey x.1 x.2.1)
  (new.foldl (fun (t : State) x => t.sendRank c r 3 x.1 x.2.1 x.2.2) s).setRun c
    (some { r with sent := r.sent ++ new.map fun x => pieceKey x.1 x.2.1 })

/-- What follows a piece that came: what it lets a member send leaves, and the collective may be complete. -/
def State.collAdvance (s : State) (c : Nat) (r : CollRun) : State :=
  match s.runDesc c r with
  | some f => (s.sendDue c r f.desc).tryCollective c
  | none => s

/-- The rank of a sender among the members. -/
def CollRun.rankOf (r : CollRun) (pk : Packet) : Option Nat :=
  (List.range r.members.length).find? fun i => memberId (r.members.getD i 0) == pk.srcId.toNat && memberCtx (r.members.getD i 0) == pk.srcContext.val

/-- ARRIVED of a collective prefix. -/
def pkArrived (pk : Packet) : Bool := bitAt (payloadNat pk 0 32) 255

/-- What every packet of a pending collective does first (R323, R329, R331): its sender was heard, and its pace record merges; with another
FINGERPRINT the sender is lost. Answers the run, none when it ended. -/
def State.hear (s : State) (c : Nat) (r : CollRun) (pk : Packet) (j : Nat) : State × Option CollRun :=
  let w := payloadNat pk 0 32
  if !pkArrived pk then
    let r1 := { r with heard := tabPut 0 r.heard j (s.now + 1) }
    (s.setRun c (some r1), some r1)
  else if bitsOf w 96 32 ≠ r.finger.toNat then (s.losePeer c pk.srcId.toNat, none)
  else
    let r1 := mergePace { r with heard := tabPut 0 r.heard j (s.now + 1), joined := insNat j r.joined } (bitsOf w 160 20) (bitsOf w 180 4) (bitsOf w 184 8) (bitsOf w 192 32)
      (bitsOf w 224 31) s.now
    (s.setRun c (some r1), some r1)

/-- A collective packet acts on the pending collective it matches (R323, R329, R331). -/
def State.collPacket (s : State) (c : Nat) (r : CollRun) (pk : Packet) : State :=
  match r.rankOf pk with
  | none => s
  | some j =>
    if pk.type = 5 then s.losePeer c (payloadNat pk 32 4)
    else
      match s.hear c r pk j with
      | (s1, none) => s1
      | (s1, some r1) =>
        if pk.type = 3 ∧ !(r1.got.any fun e => e.1 == pieceKey j (packetChunk pk)) then
          let r2 := { r1 with got := sortBy (fun (a b : Nat × List Byte) => decide (a.1 < b.1)) ((pieceKey j (packetChunk pk), pk.payload.drop 32) :: r1.got) }
          (s1.setRun c (some r2)).collAdvance c r2
        else s1

/-- The collective that a packet names: its context, COMM_ID and SEQ. -/
def collKey (pk : Packet) : Nat × Nat × Nat := (pk.destContext.val, payloadNat pk 0 4, payloadNat pk 4 4)

/-- A packet for a pending collective acts, one for a collective not yet reached waits, any other is dropped (R323). -/
def State.collReceive (s : State) (pk : Packet) : State :=
  let k := collKey pk
  match s.run k.1 with
  | some r =>
    if r.comm = k.2.1 ∧ r.seq = k.2.2 then s.collPacket k.1 r pk
    else if tabGet 0 (s.ctx k.1).collSeq k.2.1 < k.2.2 then { s with fabric := { s.fabric with early := s.fabric.early ++ [pk] } } else s
  | none => if tabGet 0 (s.ctx k.1).collSeq k.2.1 < k.2.2 then { s with fabric := { s.fabric with early := s.fabric.early ++ [pk] } } else s

/-- Packets that came before the arrival act now. -/
def State.drainEarly (s : State) (c comm seq : Nat) : State :=
  let mine := s.fabric.early.filter fun pk => decide (collKey pk = (c, comm, seq))
  let s1 := { s with fabric := { s.fabric with early := s.fabric.early.filter fun pk => !decide (collKey pk = (c, comm, seq)) } }
  mine.foldl (fun (t : State) pk => t.collReceive pk) s1

/-- The arrival at a collective (R328): its sequence number and time are taken, and the run begins with its own contribution. -/
def State.beginColl (s : State) (c ix : Nat) (d : Descriptor) (ms : List W64) : State :=
  let x := s.ctx c
  let comm := kComm d
  let seq := tabGet 0 x.collSeq comm + 1
  let bytes := s.rdVAt hub0Agent c (kSend d) (rowBytes (kFmt d) (sendCount d (kRank d)))
  let why := s.leadingCause c comm
  let fp := Config.fingerprint ([kKind d, kFmt d, kOp d, kCount d, kRoot d, kRanks d] ++ ms.map BitVec.toNat)
  let r : CollRun :=
    { opIndex := ix, comm := comm, seq := seq, members := ms, rank := kRank d, finger := fp, own := bytes, got := [], sent := [], partners := partnersOf d,
      heard := [], joined := [], arrivedAt := s.now, earliest := s.now, latest := s.now, straggler := kRank d, cause := why.1, detail := why.2.1,
      lost := none }
  (why.2.2.updCtx c fun y => { y with
    collSeq := tabPut 0 y.collSeq comm seq, arrivals := tabPut 0 y.arrivals comm s.now, idleAt := tabPut 0 y.idleAt comm y.idleNs }).setRun c (some r)

/-- A collective whose buffers can be reached arrives, and its first blocks leave. -/
def State.arriveColl (s : State) (c ix : Nat) (d : Descriptor) (ms : List W64) : State :=
  let s1 := s.beginColl c ix d ms
  match s1.run c with
  | none => s1
  | some r =>
    let s2 := (s1.setFlight c ix .collective).sendDue c r d
    (s2.drainEarly c r.comm r.seq).tryCollective c

/-- A collective that fails at its arrival, on data that is lost or uncorrectable, or a fault that nothing serves, sends the loss notice (R419, log
185). -/
def State.failColl (s : State) (c ix : Nat) (d : Descriptor) (ms : List W64) (kind : Nat) : State :=
  if kind ≤ 5 then s else (s.beginColl c ix d ms).abandonRun c

/-- `COLLECTIVE` (R22, R320 to R328). -/
def runCollective : RunOp := fun s c ix d =>
  match (headerCheck d collFields).orElse (collBadField d) with
  | some r => rejected s r
  | none =>
    match s.prepAll c [(accRead, fld d 256 319, 8 * kRanks d)] with
    | (s1, some (acc, h)) => s1.opFault c ix acc h
    | (s1, none) =>
      let ms := (List.range (kRanks d)).map fun i => BitVec.ofNat 64 (s1.rdVNat c (fld d 256 319 + 8 * i) 8)
      if membersBad s1 c d ms then rejected s1 (0x0104, 256)
      else if !s1.jobComplete c then rejected s1 (0x0410, 2)
      else
        let n := rowBytes (kFmt d) (sendCount d (kRank d))
        match s1.prepAllAt hub0Agent c ((if n = 0 then [] else [(accRead, kSend d, n)]) ++ [(accWrite, kRecv d, rowBytes (kFmt d) (recvCount d))]) with
        | (s2, some (acc, h)) => (s2.failColl c ix d ms h.kind).opFaultBy hub0Agent c ix acc h
        | (s2, none) =>
          let s3 := s2.arriveColl c ix d ms
          (s3, match (s3.ctx c).flights.find? fun f => f.opIndex == ix with
            | some f => f.st
            | none => .collective)

/-- `COLLECTIVE` taken. -/
def execCollective (p : Fin 8) (s : State) : Res := .next (s.takeOp p 0x10 runCollective)

/-- Collective data at the receive engine (R318, R327, R329). -/
def State.takeCollective (s : State) (pk : Packet) : State :=
  match s.receive pk with
  | (s1, true) => s1.collReceive pk
  | (s1, false) => s1

/-- `COLLECTIVE_DATA`. -/
def execCollectiveData (pk : Packet) (s : State) : Res := if pk.type = 3 then .next (s.takeCollective pk) else .next s

/-- The reply to a beacon for a collective that the member has not reached (R330): where it stands and why. -/
def State.answerBeacon (s : State) (pk : Packet) : State :=
  let c := pk.destContext.val
  let x := s.ctx c
  let why := s.leadingCause c (payloadNat pk 0 4)
  why.2.2.send 4 pk.srcId.toNat pk.srcContext.val c 0 0
    (collPrefix (payloadNat pk 0 4) (payloadNat pk 4 4) 0 (payloadNat pk 12 4) (x.cnt.nextOp - 1) 0 why.1 why.2.1 0 0 false)

/-- A pace beacon (R330): for a collective not yet reached it is answered at once; for a pending one its sender is heard. -/
def State.takeBeacon (s : State) (pk : Packet) : State :=
  let k := collKey pk
  let ahead := (s.ctx k.1).st != .free && pkArrived pk && decide (tabGet 0 (s.ctx k.1).collSeq k.2.1 < k.2.2)
  if !(s.receive pk).2 then s
  else
    match s.run k.1 with
    | some r => if r.comm = k.2.1 ∧ r.seq = k.2.2 then s.collPacket k.1 r pk else if ahead then s.answerBeacon pk else s
    | none => if ahead then s.answerBeacon pk else s

/-- `PACE_BEACON`. -/
def execPaceBeacon (pk : Packet) (s : State) : Res := if pk.type = 4 then .next (s.takeBeacon pk) else .next s

/-- A loss notice (R331): the matching collective ends; one not yet reached will end when it is. -/
def State.takeLoss (s : State) (pk : Packet) : State := if (s.receive pk).2 then s.collReceive pk else s

/-- `LOSS_NOTICE`. -/
def execLossNotice (pk : Packet) (s : State) : Res := if pk.type = 5 then .next (s.takeLoss pk) else .next s

/-- `BEACON_TIMER` (R330): each partner not yet heard from at that SEQ gets a beacon, 1 ms after the arrival or the last beacon. -/
def execBeaconTimer (c : Fin 4096) (s : State) : Res :=
  match s.run c with
  | none => .next s
  | some r =>
    let s1 := s.advance (r.arrivedAt + (s.now - r.arrivedAt) / 1000000 * 1000000 + 1000000)
    let ps := r.partners.filter fun j => !r.joined.contains j
    .next (ps.foldl (fun (t : State) j => t.sendRank c r 4 j 0 []) s1)

/-- `PEER_TIMEOUT` (R331): nothing has come for `PeerTimeoutUs` from a partner that the collective waits on. -/
def execPeerTimeout (c : Fin 4096) (rank : Nat) (s : State) : Res :=
  match s.run c with
  | none => .next s
  | some r =>
    if (match s.runDesc c r with | some f => r.awaits f.desc rank | none => false) then
      let from_ := if tabGet 0 r.heard rank = 0 then r.arrivedAt else tabGet 0 r.heard rank - 1
      .next ((s.advance (from_ + 1000 * s.effNat 0x8022 1)).losePeer c (memberId (r.members.getD rank 0)))
    else .next s

end Sys2Proof.Machine
end

