-- ==== Sys2Proof/Machine/Convert.lean ====
section
/-! DEFINITION. `CONVERT` with its remainder tensor (R113 to R116, R126 to R128). -/

namespace Sys2Proof.Machine

def convFields : List (Nat × Nat) :=
  [(128, 191), (192, 255), (256, 319), (320, 383), (384, 447), (448, 479), (480, 511), (512, 559), (560, 607), (608, 615), (616, 623),
   (624, 631), (640, 671)]

def vRows (d : Descriptor) : Nat := fld d 448 479
def vCols (d : Descriptor) : Nat := fld d 480 511
def vSrcFmt (d : Descriptor) : Nat := fld d 608 615
def vDstFmt (d : Descriptor) : Nat := fld d 616 623
def vRem (d : Descriptor) : Nat := fld d 384 447

/-- Source, destination and remainder as stored (R113, R127). -/
def vSrc (d : Descriptor) : Mat := matOf (fld d 128 191) (fld d 512 559) (vSrcFmt d) (fld d 256 319) (flag d 624) (vCols d)
def vDst (d : Descriptor) : Mat := matOf (fld d 192 255) (fld d 560 607) (vDstFmt d) (fld d 320 383) (flag d 625) (vCols d)
def vRemMat (d : Descriptor) : Mat := matRows (vRem d) (roundUp (vCols d) 64) 0x24 (vRem d + vRows d * roundUp (vCols d) 64) (vCols d)

/-- The remainder region (R127). -/
def vRemExt (d : Descriptor) : List (Nat × Nat) :=
  if vRem d = 0 then [] else [(vRem d, vRows d * (roundUp (vCols d) 64 + roundUp ((vCols d + 31) / 32) 64))]

/-- A matrix's elements alone, and its scale array alone. -/
def elemExt (m : Mat) (rows : Nat) : List (Nat × Nat) := (m.whole rows).take 1
def scaleExt (m : Mat) (rows : Nat) : List (Nat × Nat) := (m.whole rows).drop 1

/-- The destination lies over the source, and the scale arrays may too (R115). -/
def vInPlace (d : Descriptor) : Bool := fld d 192 255 == fld d 128 191 && fld d 560 607 == fld d 512 559

def vShareScale (d : Descriptor) : Bool :=
  vInPlace d && fld d 320 383 == fld d 256 319 && ((fmtMx (vSrcFmt d) && fmtMx (vDstFmt d)) || (fmtTs (vSrcFmt d) && fmtTs (vDstFmt d))) &&
    flag d 625 == flag d 624

/-- Some overlap that R115 and R127 refuse. -/
def convOverlaps (d : Descriptor) : Bool :=
  let r := vRows d
  let se := elemExt (vSrc d) r
  let ss := scaleExt (vSrc d) r
  let de := elemExt (vDst d) r
  let ds := scaleExt (vDst d) r
  (meet de se && !vInPlace d) || meet de ss || meet ds se || meet ds de || (meet ds ss && !vShareScale d) || meet ss se ||
    meet (vRemExt d) (se ++ ss ++ de ++ ds)

/-- BAD_FIELD of a `CONVERT` (R91, R115); a relation is judged when the fields it reads are in range (R22). -/
def convBadField (d : Descriptor) : Reject :=
  let sc := fp32 (fld d 640 671)
  let known := fmtLegal (vSrcFmt d) && fmtLegal (vDstFmt d) && !(badDim d 448).1 && !(badDim d 480).1
  badField
    ([badDim d 448, badDim d 480, (!fmtLegal (vSrcFmt d), 608), (!fmtLegal (vDstFmt d), 616), badAddr d 128 64, badAddr d 192 64,
      badAddr d 256 64, badAddr d 320 64, badAddr d 384 64, badLd d 512, badLd d 560, badScale d 256 (vSrcFmt d), badScale d 320 (vDstFmt d),
      (!sc.isFin || sc.isZero, 640), (flag d 627 && fmtInt (vDstFmt d), 616), (vRem d != 0 && fmtInt (vDstFmt d), 384)] ++
     [(shortRow (fld d 512 559) (vSrcFmt d) (vCols d) || shortRow (fld d 560 607) (vDstFmt d) (vCols d), 480),
      (known && convOverlaps d, 128)])

/-- The memory a `CONVERT` reads and writes. -/
def convExtents (x : Ctx) (d : Descriptor) : List (Nat × Nat × Nat) :=
  histExtents x (flag d 627) (fld d 628 631) ++ (vSrc d).readExtents 0 (vRows d) 0 (vCols d) ++ (vDst d).writeExtents 0 (vRows d) ++
    (if vRem d = 0 then [] else (vRemMat d).readExtents 0 (vRows d) 0 (vCols d) ++ (vRemMat d).writeExtents 0 (vRows d))

/-- A matrix of values combined element by element. -/
def zip2 {α β γ : Type} (f : α → β → γ) (a : List (List α)) (b : List (List β)) : List (List γ) := List.zipWith (List.zipWith f) a b

/-- The new remainder of one element (R126, R128): t less value(d) ÷ h for the element `w` written and its value `d`, or +0; and whether it was
reset. -/
def newRemainder (e : Int) (remNan : Bool) (t : Num) (w : Written) (d : Num) : Num × Bool :=
  if remNan || !t.isFin || w.ovf || !d.isFin then (Num.zero, true) else (t.sub (d.scale (-e)), false)

/-- Computes and writes a valid `CONVERT` (R114, R126). -/
def State.convWrite (s : State) (c : Nat) (d : Descriptor) : State × FlightSt :=
  let x := s.ctx c
  let sc := fp32 (fld d 640 671)
  let t := fld d 628 631
  let vs := s.readRect c (vSrc d) 0 (vRows d) 0 (vCols d)
  let xs := vs.map fun r => r.map fun v => v.mul sc
  let own := amaxOf (xs.flatMap id)
  let e := if flag d 627 then s.outScale c t (vDstFmt d) own else 0
  let rem := if vRem d = 0 then xs.map fun r => r.map fun _ => Num.zero else s.readRect c (vRemMat d) 0 (vRows d) 0 (vCols d)
  let ts := if vRem d = 0 then xs else zip2 (fun (a r : Num) => a.add (if r.isNan then Num.zero else r)) xs rem
  let elems := zip2 (fun (p : Num × Num) (r : Num) => (⟨p.2.scale e, p.1.isNan, p.1.isFin && (r.isFin || r.isNan)⟩ : Elem))
    (zip2 Prod.mk vs ts) rem
  let wr := (vDst d).writeRows 0 elems
  let s1 := s.wrVAll c wr.1
  let ds := (vDst d).writtenValues elems
  let nr := zip2 (fun (p : (Num × Num) × Written) (v : Num) => newRemainder e p.1.1.isNan p.1.2 p.2 v) (zip2 Prod.mk (zip2 Prod.mk rem ts) wr.2) ds
  let s2 := if vRem d = 0 then s1
    else s1.wrVAll c ((vRemMat d).writeRows 0 (nr.map fun r => r.map fun v => (⟨v.1, false, true⟩ : Elem))).1
  let tally := tallyRows 0 0 0 wr.2
  let after := { afterTally x tally with
    amax := if flag d 626 then some (t, BitVec.ofNat 32 (toFp32 own)) else none,
    scale := if flag d 627 then s.scaleHead c t e else none,
    remReset := if vRem d = 0 then 0 else (nr.flatMap id).countP Prod.snd }
  (s2, .computed (tally.result 0) after)

/-- `CONVERT` (R22, R113 to R116). -/
def runConvert : RunOp := fun s c ix d =>
  match (headerCheck d convFields).orElse (convBadField d) with
  | some r => rejected s r
  | none =>
    match s.prepAll c (convExtents (s.ctx c) d) with
    | (s1, some (acc, h)) => s1.opFault c ix acc h
    | (s1, none) => s1.convWrite c d

/-- `CONVERT` taken. -/
def execConvert (p : Fin 8) (s : State) : Res := .next (s.takeOp p 0x09 runConvert)

end Sys2Proof.Machine
end

