-- ==== Sys2Proof/Machine/LaneCtl.lean ====
section
/-! DEFINITION. The control and scalar instructions of lanes (R164, R167, R196, R197). -/

namespace Sys2Proof.Machine

/-- p[PRED] exclusive-ored with PRED_NEG, as a mask (R196). -/
def predMask (g : Group) (w : Nat) : Nat :=
  let p := g.pr (bitsOf w 8 3)
  if bitAt w 11 then allThreads - p else p

/-- Pushes a reconvergence entry. -/
def pushIf (b : Bool) (e : Reconv) (l : List Reconv) : List Reconv := if b then e :: l else l

/-- The conditional branch (R164). -/
def braGroup (x : Lane) (h : Group) : Group :=
  let m := x.grp.active.toNat
  let t := m &&& predMask x.grp x.w
  let n := m - t
  let j := 8 * xJoin x.w
  if n = 0 then { h with pc := 8 * xTarget x.w }
  else if t = 0 then h
  else
    let st1 := pushIf (j != x.grp.join) ⟨j, x.grp.active, x.grp.join⟩ x.grp.stack
    { h with stack := pushIf (x.grp.pc + 8 != j) ⟨x.grp.pc + 8, BitVec.ofNat 64 n, j⟩ st1, pc := 8 * xTarget x.w,
             active := BitVec.ofNat 64 t, join := j }

/-- `BRA` (R164). -/
def execBra (g : Nat) (s : State) : Res := .next (s.laneReg g (fun w => wOp w == 0x60) braGroup)

/-- `JMP` (R196). -/
def execJmp (g : Nat) (s : State) : Res := .next (s.laneReg g (fun w => wOp w == 0x61) fun x h => { h with pc := 8 * xTarget x.w })

/-- `EXIT` (R196). -/
def execExit (g : Nat) (s : State) : Res :=
  .next (s.laneReg g (fun w => wOp w == 0x62) fun x h => h.exitThreads (x.grp.active.toNat &&& predMask x.grp x.w))

/-- The group waits at the barrier with its active threads arrived (R167). -/
def State.arrive (s : State) (x : Lane) : State :=
  let b := x.blk
  let b1 := if b.firstAt.isNone then { b with firstAt := some s.now, firstPc := x.grp.pc } else b
  (((s.noteIssue x 0 x.grp.active.toNat).setGroup x.g (some { x.past with waiting := x.grp.active })).setBlock x.grp.blk (some b1)).refreshBlock
    x.grp.blk

/-- `BAR` (R167). -/
def execBar (g : Nat) (s : State) : Res :=
  match s.laneAt g with
  | none => .next s
  | some x => if wOp x.w = 0x63 then .next (s.arrive x) else .next s

/-- `NOP` (R196). -/
def execNop (g : Nat) (s : State) : Res := .next (s.laneReg g (fun w => wOp w == 0x64) fun _ h => h)

/-- Operand B of a scalar instruction (R197): arithmetic, compares and moves sign-extend an immediate, logic and shifts do not. -/
def scalB (x : Lane) (signed : Bool) : Nat :=
  if bitAt x.w 30 then
    (let n := if bitAt x.w 31 then 32 else 16
     let v := if bitAt x.w 31 then x.ext % 2 ^ 32 else bitsOf x.w 48 16
     if signed then sext n 64 v else v)
  else x.grp.sc (bitsOf x.w 24 6)

/-- A `SALU` operation on 64-bit values. -/
def saluOp (sop : Nat) (signed : Bool) (f : Nat → Nat → Nat) (g : Nat) (s : State) : State :=
  s.laneReg g (fun w => wOp w == 0x68 && bitsOf w 8 4 == sop)
    fun x h => h.setSc (bitsOf x.w 12 6) (f (x.grp.sc (bitsOf x.w 18 6)) (scalB x signed) % 2 ^ 64)

/-- `SALU_ADD` (R197). -/
def execSaluAdd (g : Nat) (s : State) : Res := .next (saluOp 0 true (fun a b => a + b) g s)

/-- `SALU_SUB` (R197). -/
def execSaluSub (g : Nat) (s : State) : Res := .next (saluOp 1 true (fun a b => a + (2 ^ 64 - b)) g s)

/-- `SALU_MUL` (R197). -/
def execSaluMul (g : Nat) (s : State) : Res := .next (saluOp 2 true (fun a b => a * b) g s)

/-- `SALU_AND` (R197). -/
def execSaluAnd (g : Nat) (s : State) : Res := .next (saluOp 3 false (fun a b => a &&& b) g s)

/-- `SALU_OR` (R197). -/
def execSaluOr (g : Nat) (s : State) : Res := .next (saluOp 4 false (fun a b => a ||| b) g s)

/-- `SALU_XOR` (R197). -/
def execSaluXor (g : Nat) (s : State) : Res := .next (saluOp 5 false (fun a b => a ^^^ b) g s)

/-- `SALU_SHL` (R197). -/
def execSaluShl (g : Nat) (s : State) : Res := .next (saluOp 6 false (fun a b => a * 2 ^ (b % 64)) g s)

/-- `SALU_SHR` (R197). -/
def execSaluShr (g : Nat) (s : State) : Res := .next (saluOp 7 false (fun a b => a / 2 ^ (b % 64)) g s)

/-- `SALU_SAR` (R197). -/
def execSaluSar (g : Nat) (s : State) : Res := .next (saluOp 8 false (fun a b => sarBits 64 a (b % 64)) g s)

/-- `SALU_MOV` (R197): takes B; its immediate is sign-extended (DEDUCED, log 45). -/
def execSaluMov (g : Nat) (s : State) : Res := .next (saluOp 9 true (fun _ b => b) g s)

/-- `MOVP` (R197). -/
def execMovp (g : Nat) (s : State) : Res :=
  .next (s.laneReg g (fun w => wOp w == 0x68 && bitsOf w 8 4 == 10) fun x h => h.setSc (bitsOf x.w 12 6) (x.grp.pr (bitsOf x.w 18 3)))

/-- `PMOV` (R197). -/
def execPmov (g : Nat) (s : State) : Res :=
  .next (s.laneReg g (fun w => wOp w == 0x68 && bitsOf w 8 4 == 11) fun x h => h.setPr (bitsOf x.w 12 3) (x.grp.sc (bitsOf x.w 18 6)))

/-- `READLANE` (R197). -/
def execReadlane (g : Nat) (s : State) : Res :=
  .next (s.laneReg g (fun w => wOp w == 0x68 && bitsOf w 8 4 == 12) fun x h =>
    h.setSc (bitsOf x.w 12 6) (x.grp.reg (bitsOf x.w 32 8) (x.grp.sc (bitsOf x.w 24 6) % 64)))

/-- The condition of `SCMP` (R197). -/
def scmpCond (sop a b : Nat) : Bool :=
  if sop = 0 then a == b else if sop = 1 then a != b
  else if sop = 2 then decide (signedOf 64 a < signedOf 64 b) else if sop = 3 then decide (signedOf 64 a ≤ signedOf 64 b)
  else if sop = 4 then decide (a < b) else decide (a ≤ b)

/-- `SCMP` (R197). -/
def execScmp (g : Nat) (s : State) : Res :=
  .next (s.laneReg g (fun w => wOp w == 0x69) fun x h =>
    h.setPr (bitsOf x.w 40 3) (if scmpCond (bitsOf x.w 8 4) (x.grp.sc (bitsOf x.w 18 6)) (scalB x true) then allThreads else 0))

end Sys2Proof.Machine
end

