-- ==== Sys2Proof/Machine/Kernel.lean ====
section
/-! DEFINITION. `KERNEL` (R156 to R159), `ELEMENTWISE` (R160 to R163) and the placing of blocks on thread units (R151 to R155). -/

namespace Sys2Proof.Machine

def kernelFields : List (Nat × Nat) :=
  [(128, 191), (192, 207), (208, 215), (216, 220), (224, 227), (256, 319), (320, 351), (352, 367), (368, 383), (384, 402), (416, 447),
   (448, 511)]

/-- Blocks that a unit holds at once (R155). -/
def blockRoom (g a l ls : Nat) : Nat :=
  let x := min (16 / g) (1024 / (a * g))
  if l = 0 then x else min x (ls / l)

/-- BAD_FIELD of a `KERNEL`, but for its code (R155 to R157). -/
def kernelBadField (d : Descriptor) : Reject :=
  let g := fld d 216 220
  let regs := fld d 208 215
  let ls := fld d 224 227
  let loc := fld d 384 402
  let dl := fld d 416 447
  badField
    [badAddr d 128 64, (fld d 192 207 == 0, 192), (regs == 0, 208), (g == 0 || decide (16 < g), 216), (ls == 0 || decide (11 < ls), 224),
     badAddr d 256 64, (fld d 320 351 == 0, 320), (fld d 352 367 == 0, 352), (fld d 368 383 == 0, 368),
     (loc % 1024 != 0 || decide (360448 < loc), 384), (dl != 0 && (decide (dl < 10) || decide (10000000 < dl)), 416), badAddr d 448 4096,
     (decide (ls * 32768 < loc), 224), (decide (0 < g ∧ g ≤ 16) && decide (1024 < roundUp regs 8 * g), 208)]

/-- The code of a descriptor, once read. -/
def State.readCode (s : State) (c : Nat) (d : Descriptor) : List W64 :=
  (List.range (fld d 192 207)).map fun i => BitVec.ofNat 64 (s.rdVNat c (fld d 128 191 + 8 * i) 8)

/-- Starts a launch of `total` blocks. -/
def State.startLaunch (s : State) (l : Launch) : State × FlightSt :=
  let i := s.threads.nextId
  ((({ s with threads := { s.threads with nextId := i + 1 } }).setLaunch i (some l)), .launched i)

/-- `KERNEL` (R157 to R159). The argument block is read when the operation is taken (log 43). -/
def runKernel : RunOp := fun s c ix d =>
  match (headerCheck d kernelFields).orElse (kernelBadField d) with
  | some r => rejected s r
  | none =>
    match s.prep c accCode (fld d 128 191) (8 * fld d 192 207) with
    | (s1, some h) => s1.opFault c ix accCode h
    | (s1, none) =>
      let code := s1.readCode c d
      if !codeOk (fld d 208 215) false code then rejected s1 (0x0104, 128)
      else
        let arg := fld d 256 319
        let total := fld d 320 351 * fld d 352 367 * fld d 368 383
        if arg = 0 then s1.startLaunch ⟨c, ix, d, code, 0, total, false, List.replicate 16 0, []⟩
        else
          match s1.prep c accRead arg 128 with
          | (s2, some h) => s2.opFault c ix accRead h
          | (s2, none) =>
            s2.startLaunch ⟨c, ix, d, code, 0, total, false, (List.range 16).map fun i => BitVec.ofNat 64 (s2.rdVNat c (arg + 8 * i) 8), []⟩

/-- `KERNEL` taken. -/
def execKernel (p : Fin 8) (s : State) : Res := .next (s.takeOp p 0x0B runKernel)

def eIns (d : Descriptor) : Nat := fld d 208 210
def eOuts (d : Descriptor) : Nat := fld d 211 212
def eRows (d : Descriptor) : Nat := fld d 224 255
def eCols (d : Descriptor) : Nat := fld d 256 287

/-- The fields of an `ELEMENTWISE` with its counts of inputs and outputs (R160). -/
def elemFields (d : Descriptor) : List (Nat × Nat) :=
  [(128, 191), (192, 207), (208, 210), (211, 212), (216, 223), (224, 255), (256, 287)] ++
  ((List.range (min 4 (eIns d))).flatMap fun n => [(128 * n + 320, 128 * n + 440)]) ++
  ((List.range (min 2 (eOuts d))).flatMap fun n => [(256 * n + 832, 256 * n + 1016)])

/-- Input `n` as stored, and the rows it has. -/
def elemIn (d : Descriptor) (n : Nat) : Mat :=
  matOf (fld d (128 * n + 320) (128 * n + 383)) (fld d (128 * n + 384) (128 * n + 431)) (fld d (128 * n + 432) (128 * n + 439)) 0 false
    (if flag d (128 * n + 440) then 1 else eCols d)
def elemInRows (d : Descriptor) (n : Nat) : Nat := if (elemIn d n).ld = 0 then 1 else eRows d

/-- The formats an input may have (R160). -/
def elemInFmt (f : Nat) : Bool := ([0x03, 0x04, 0x13, 0x14, 0x18, 0x19, 0x1A, 0x1B] : List Nat).contains f

/-- Output `n` lies in place over input `m` (R163). -/
def elemInPlace (d : Descriptor) (n m : Nat) : Bool :=
  (elemOut d n).addr == (elemIn d m).addr && (elemOut d n).ld == (elemIn d m).ld && (elemOut d n).fmt == (elemIn d m).fmt &&
    (elemIn d m).ld != 0 && !flag d (128 * m + 440)

/-- An overlap that R163 refuses, among the operands whose own format is legal: a check is judged when the fields it reads itself are in range (R22). -/
def elemOverlaps (d : Descriptor) : Bool :=
  let outs := (List.range (min 2 (eOuts d))).filter fun n => fmtLegal (elemOut d n).fmt
  let ins := (List.range (min 4 (eIns d))).filter fun n => elemInFmt (elemIn d n).fmt
  outs.any (fun n => ins.any fun m =>
    let i := (elemIn d m).whole (elemInRows d m)
    let o := (elemOut d n).whole (eRows d)
    if elemInPlace d n m then meet (o.drop 1) i else meet o i) ||
  (decide (2 ≤ outs.length) && meet ((elemOut d 0).whole (eRows d)) ((elemOut d 1).whole (eRows d)))

/-- BAD_FIELD of an `ELEMENTWISE`, but for its code (R160, R163). -/
def elemBadField (d : Descriptor) : Reject :=
  let ins := List.range (min 4 (eIns d))
  let outs := List.range (min 2 (eOuts d))
  let sized := dimOk d 224 && dimOk d 256
  badField
    ([badAddr d 128 64, (fld d 192 207 == 0 || decide (4096 < fld d 192 207), 192), (decide (4 < eIns d), 208),
      (eOuts d == 0 || eOuts d == 3, 211), (decide (fld d 216 223 < 12), 216), badDim d 224, badDim d 256] ++
     (ins.flatMap fun n => [badAddr d (128 * n + 320) 64, badLd d (128 * n + 384), (!elemInFmt (elemIn d n).fmt, 128 * n + 432)]) ++
     (outs.flatMap fun n => [badAddr d (256 * n + 832) 64, badAddr d (256 * n + 896) 64, badLd d (256 * n + 960),
       (!fmtLegal (elemOut d n).fmt, 256 * n + 1008), badScale d (256 * n + 896) (elemOut d n).fmt]) ++
     [(sized && elemOverlaps d, 224)])

/-- The memory an `ELEMENTWISE` reads and writes. -/
def elemExtents (d : Descriptor) : List (Nat × Nat × Nat) :=
  ((List.range (eIns d)).flatMap fun n => (elemIn d n).readExtents 0 (elemInRows d n) 0 (elemIn d n).cols) ++ elemWrites d

/-- `ELEMENTWISE` (R160 to R163). -/
def runElementwise : RunOp := fun s c ix d =>
  match (headerCheck d (elemFields d)).orElse (elemBadField d) with
  | some r => rejected s r
  | none =>
    match s.prep c accCode (fld d 128 191) (8 * fld d 192 207) with
    | (s1, some h) => s1.opFault c ix accCode h
    | (s1, none) =>
      let code := s1.readCode c d
      if !codeOk (fld d 216 223) true code then rejected s1 (0x0104, 128)
      else
        match s1.prepAll c (elemExtents d) with
        | (s2, some (acc, h)) => s2.opFault c ix acc h
        | (s2, none) => s2.startLaunch ⟨c, ix, d, code, 0, (eRows d * eCols d + 63) / 64, true, [], []⟩

/-- `ELEMENTWISE` taken. -/
def execElementwise (p : Fin 8) (s : State) : Res := .next (s.takeOp p 0x0A runElementwise)

/-- The registers an input element takes (R161), as 64 bits. -/
def inputReg (fmt b : Nat) : Nat :=
  if fmt = 0x03 then sext 8 32 b else if fmt = 0x04 ∨ fmt = cFp32 ∨ fmt = cFp64 then b else toFp32 (decodeFlt fmt false b)

/-- The inputs of element `e` placed in the registers of thread `t` (R161). -/
def State.placeInputs (s : State) (l : Launch) (e t : Nat) (g : Group) : Group :=
  (List.range (eIns l.desc)).foldl (fun h n =>
    let m := elemIn l.desc n
    let r := if m.ld = 0 then 0 else e / eCols l.desc
    let col := if flag l.desc (128 * n + 440) then 0 else e % eCols l.desc
    let v := inputReg m.fmt ((s.rawRow l.ctx m r col 1).headD 0)
    if m.fmt = cFp64 then h.setVal true (2 * n) t v else h.setReg (2 * n) t v) g

/-- A group with its threads alive from `live` down, at the head of the code (R151). -/
def freshGroup (bid num : Nat) (fin live first : Nat) (elem : Option Nat) : Group :=
  { blk := bid, num := num, v := (List.range 64).foldl (fun r t => tabPut 0#32 r t (BitVec.ofNat 32 (first + t))) [], sreg := [],
    preg := [(0, BitVec.ofNat 64 allThreads)], pc := 0, active := BitVec.ofNat 64 (2 ^ live - 1),
    exited := BitVec.ofNat 64 (allThreads - (2 ^ live - 1)), join := fin, stack := [], waiting := 0, stalled := [], replay := none,
    elem := elem }

/-- The scalar registers of a `KERNEL` group (R151). -/
def kernelScalars (l : Launch) (num n : Nat) : Tab W64 :=
  ((l.args.map BitVec.toNat ++ [blockX l n, blockY l n, blockZ l n, num, fld l.desc 216 220, fld l.desc 320 351, fld l.desc 352 367,
    fld l.desc 368 383, fld l.desc 384 402] : List Nat).zipIdx).foldl (fun r e => tabPut 0#64 r e.2 (BitVec.ofNat 64 e.1)) []

/-- s16 to s24 of an `ELEMENTWISE` group, whose descriptor has no such fields: free values of the descriptor and the group alone, so that a program's
results depend on nothing else (R46; DESIGN CHOICE, log 50). -/
def freeScalars (d : Descriptor) (n : Nat) : Tab W64 := (List.range 9).foldl (fun r i => tabPut 0#64 r (16 + i) (Config.elemRegister d n (16 + i))) []

/-- The groups of block `n` of a launch, with the identifiers from `gid` on. -/
def State.newGroups (s : State) (l : Launch) (bid gid n : Nat) : List (Nat × Group) :=
  if l.isElem then
    let live := min 64 (eRows l.desc * eCols l.desc - 64 * n)
    let base := freshGroup bid 0 l.codeEnd live (64 * ((Config.elemRegister l.desc (64 * n) 64).toNat % 16)) (some (64 * n))
    [(gid, (List.range live).foldl (fun g t => s.placeInputs l (64 * n + t) t g) { base with sreg := freeScalars l.desc (64 * n) })]
  else
    (List.range l.groups).map fun i => (gid + i, { freshGroup bid i l.codeEnd 64 (64 * i) none with sreg := kernelScalars l i n })

/-- A unit takes a split: the ways it gives up are written back and invalidated (R152, R153). -/
def State.takeSplit (s : State) (u split : Nat) : State :=
  let s1 := s.giveUpWays (unitAgent u) (12 - split - s.fencedWays (unitAgent u))
  { s1 with threads := { s1.threads with splits := tabPut 1 s1.threads.splits u split } }

/-- The blocks on a unit. -/
def State.onUnit (s : State) (u : Nat) : List Block :=
  s.threads.blocks.filterMap fun e =>
    match e.2 with
    | some b => if b.unit = u then some b else none
    | none => none

/-- The launch that a context's operation runs. -/
def launchOf (x : Ctx) : Option Nat :=
  x.flights.findSome? fun f =>
    match f.st with
    | .launched l => some l
    | _ => none

/-- A unit has room for one more block of a launch, at a split (R152, R155). -/
def State.roomOn (s : State) (u : Nat) (l : Launch) (split : Nat) : Bool :=
  let held := s.onUnit u
  decide (held.length < blockRoom l.groups l.alloc l.localBytes (32768 * split)) && held.all fun b => b.split == split

/-- Places the next block of a launch on a unit (R151, R154, R159). -/
def State.placeBlock (s : State) (ix u split : Nat) (l : Launch) : State :=
  let bid := s.threads.nextId
  let gs := s.newGroups l bid (bid + 1) l.nextBlock
  let s1 := if (s.onUnit u).isEmpty then s.takeSplit u split else s
  let s2 := { s1 with threads := { s1.threads with nextId := bid + 1 + gs.length }, freeIx := s1.freeIx }
  let s3 := s2.setBlock bid (some ⟨ix, l.nextBlock, u, split, [], gs.map Prod.fst, none, 0, none, 0⟩)
  (gs.foldl (fun (t : State) e => t.setGroup e.1 (some e.2)) s3).setLaunch ix (some { l with nextBlock := l.nextBlock + 1 })

/-- The reads that supply the elements of block `n` of an `ELEMENTWISE`, row by row of each input (R161, R215). -/
def elemReads (l : Launch) (n : Nat) : List (Nat × Nat × Nat) :=
  let cols := eCols l.desc
  let e0 := 64 * n
  let e1 := min (e0 + 63) (eRows l.desc * cols - 1)
  (List.range (eIns l.desc)).flatMap fun i =>
    let m := elemIn l.desc i
    (List.range (e1 / cols - e0 / cols + 1)).flatMap fun j =>
      let r := e0 / cols + j
      let c0 := if j = 0 then e0 % cols else 0
      let c1 := if r = e1 / cols then e1 % cols else cols - 1
      if flag l.desc (128 * i + 440) then m.readExtents (if m.ld = 0 then 0 else r) 1 0 1 else m.readExtents (if m.ld = 0 then 0 else r) 1 c0 (c1 - c0 + 1)

/-- The bursts that supply a block are committed, and it is placed; a block whose operands fault waits, and operands that are lost end the operation
(R214, R215, R295). The bursts are those of the unit's die. -/
def State.placeElem (s : State) (ix u split : Nat) (l : Launch) : State :=
  match s.newAccess.prepAllAt (128 * (u / 64) + 64) l.ctx (elemReads l l.nextBlock) with
  | (s1, some (acc, h)) =>
    let e := s1.faultAt l.ctx (128 * (u / 64) + 64) l.opIndex acc h (.op l.ctx l.opIndex)
    if h.kind ≤ 5 then e.2 else e.2.stopLaunch ix (endWith (statusOfKind h.kind) e.1)
  | (s1, none) => s1.placeBlock ix u split l

/-- `BLOCK_PLACE` (R152 to R155, R159): the next block of the context's operation goes on a unit of its partition that has room and is awake (R408). An `ELEMENTWISE` has no
LS_SPLIT: its blocks run at the split that the unit last took, 1 on a unit that took none (DESIGN CHOICE, log 139). -/
def execBlockPlace (c : Fin 4096) (u : Fin 512) (s : State) : Res :=
  match launchOf (s.ctx c) with
  | none => .next s
  | some ix =>
    match s.launch ix with
    | none => .next s
    | some l =>
      let split := if l.isElem then tabGet 1 s.threads.splits u else fld l.desc 224 227
      if l.nextBlock < l.total ∧ (s.holdsPart c).isSome ∧ s.partOfStack (u / 64) = s.holdsPart c ∧ s.unitLive u ∧ !s.power.gated.contains (.threadUnit u) ∧ s.roomOn u l split then
        .next (if !l.isElem then s.placeBlock ix u split l else if s.waitsOn (.op l.ctx l.opIndex) then s else s.placeElem ix u split l)
      else .next s

end Sys2Proof.Machine
end

