-- ==== Sys2Proof/Machine/LinkCmds.lean ====
section
/-! DEFINITION. The link layer (R305 to R311, R502), end-to-end delivery and remote writes (R314, R318, R319), the parade (R334 to R336),
and the source of device time (R338 to R340). -/

namespace Sys2Proof.Machine

/-- A port goes down (R311): what its retry buffer held is lost, and it leaves the live ports. -/
def State.portDown (s : State) (p : Nat) : State :=
  let x := s.port p
  if x.state = 0 ∨ x.state = 4 then s
  else (s.setPort p { x.cleared with trained := false, moveLane := none }).toPortState p 4

/-- `PORT_DOWN` (R311). -/
def execPortDown (port : Fin 16) (s : State) : Res := .next (s.portDown port)

/-- A port is fenced after the lasting fault of a lane with LANE_4 in use (R311, R423). -/
def State.fencePort (s : State) (p lane : Nat) : State :=
  if bitAt s.integ.portsFenced p then s
  else
    let ix := p % 8 * 5 + lane
    let s1 := (s.addFence (16 + p / 8) 0x03 ix 0x03).portDown p
    let s2 := { s1 with integ := { s1.integ with portsFenced := s1.integ.portsFenced ||| 2 ^ p } }.degrade
    s2.unitReport 0x07 0x03 (16 + p / 8) ix false false true s.now []

/-- A lane's bucket declared a lasting fault (R310, R311, R423). -/
def State.laneLasting (s : State) (p lane : Nat) : State :=
  let act := s.bucketAction 3
  if act = 1 then s.bucketNotice 3 (16 + p / 8) (p % 8 * 5 + lane)
  else if act = 2 then
    (if (s.port p).spareLane = 0xFF ∧ lane ≠ 4 ∧ (s.port p).moveLane.isNone then s.setPort p { s.port p with moveLane := some lane } else s.fencePort p lane)
  else s

/-- The symbols that a flit's decoding corrected are counted on their lanes; more than 4 on a lane is an event of its bucket (R310, R423). -/
def State.countSymbols (s : State) (p : Nat) (l : List Nat) : State :=
  (List.range 5).foldl (fun (t : State) i =>
    let n := l.getD i 0
    let x := t.port p
    let t1 := t.setPort p { x with corrected := x.corrected.set i ((x.corrected.getD i 0 + n) % 2 ^ 64) }
    if 4 < n then t1.countError 3 (16 + p / 8) (p % 8 * 5 + i) fun u => u.laneLasting p i else t1) s

/-- The sender resends from its oldest unacknowledged flit; after 8 resends of one flit without success the port goes down (R308, R311). -/
def State.resendFlits (s : State) (p : Nat) : State :=
  let x := s.port p
  let n := x.retry.length
  if n = 0 then s
  else if 8 ≤ x.resends then s.portDown p
  else
    let s1 := s.setPort p { x with resends := x.resends + 1, flitsResent := satTo 32 (x.flitsResent + n), ackAt := s.now }
    ((List.range n).foldl (fun (t : State) i => t.emitFlit p (x.acked + 1 + BitVec.ofNat 12 i) (x.retry.getD i [])) s1).countEv (16 + p / 8) 0x202 (p % 8)
      none n

/-- ACK, NAK and credits of a flit that passed its checks (R307, R308): an ACK within the flits in flight advances and frees their places. -/
def State.takeAck (s : State) (p : Nat) (f : Flit) : State :=
  let x := s.port p
  let k := (f.ack - x.acked).toNat
  let y := { x with credits := x.credits.set f.creditVc (min 32 (x.credits.getD f.creditVc 0 + 4 * f.credits)) }
  let s1 := s.setPort p (if k ≠ 0 ∧ k ≤ x.retry.length then { y with acked := f.ack, resends := 0, retry := x.retry.drop k, ackAt := s.now } else y)
  if f.nak then s1.resendFlits p else s1

/-- A flit passes its code, which corrects up to 8 symbols, and its CRC (R307, R308). -/
def flitOk (f : Flit) : Bool :=
  f.decoded && decide (f.corrected.foldl (· + ·) 0 ≤ 8) && f.crc == Config.crc32 (flitHeader f.seq f.ack f.nak f.creditVc f.credits 0 ++ f.data)

/-- An idle flit, by its content and the sequence number of the flit before it (DESIGN CHOICE, log 149). -/
def flitIdle (f : Flit) (expect : BitVec 12) : Bool := f.seq + 1 == expect && f.data.all fun b => b == 0

/-- `FLIT_RECEIVE` (R307, R308, R310, R315): a flit that fails its code, its CRC or its sequence is discarded and a resend asked for; the data of
the expected one join the packet that arrives, and what the acknowledgement frees leaves. -/
def execFlitReceive (port : Fin 16) (f : Flit) (s : State) : Res :=
  let x := s.port port
  if (x.state ≠ 2 ∧ x.state ≠ 3) ∨ s.portMode port ≠ 1 then .next s
  else
    let s1 := s.countSymbols port f.corrected
    let y := s1.port port
    if !flitOk f then .next ((s1.setPort port { y with flitsFailed := satInc 32 y.flitsFailed, nak := true }).answerFlit port)
    else if flitIdle f y.expect then
      let s2 := s1.takeAck port f
      .next (s2.pumpPort port (s2.port port).queue.length)
    else if f.seq ≠ y.expect then .next ((s1.setPort port { y with nak := true }).answerFlit port)
    else
      let s2 := s1.setPort port ({ y with expect := y.expect + 1, nak := false }.assemble f.data)
      .next (((s2.countEv (16 + port / 8) 0x201 (port % 8) none 1).takeAck port f).answerFlit port)

/-- `RETRY_TIMEOUT` (R308): ACK has not advanced for 20 µs. -/
def execRetryTimeout (port : Fin 16) (s : State) : Res :=
  let x := s.port port
  if (x.state = 2 ∨ x.state = 3) ∧ !x.retry.isEmpty then .next ((s.advance (x.ackAt + 20000)).resendFlits port) else .next s

/-- The lane that LANE_4 carries after a training, or none when too few lanes trained (R304, R310). -/
def trainedSpare (l : List Bool) : Option Nat :=
  match (List.range 4).filter fun i => !l.getD i false with
  | [] => some 0xFF
  | [i] => if l.getD 4 false then some i else none
  | _ => none

/-- `PORT_TRAINING_DONE` (R305, R502): a port whose rates agree and whose lanes trained waits for the tick; a fabric-mode port stays in
training while either partner has no identifier; else the training has failed. -/
def execPortTrainingDone (port : Fin 16) (r : PortTraining) (s : State) : Res :=
  let x := s.port port
  if x.state ≠ 1 then .next s
  else if r.rateOk then
    match trainedSpare r.lanes with
    | some sp =>
      let y := { x with laneOk := r.lanes, spareLane := sp, partnerId := r.partnerId.toNat }
      if s.portMode port = 1 ∧ (s.fabricId = 0xFFFFF ∨ r.partnerId.toNat = 0xFFFFF) then .next (s.setPort port y)
      else .next (s.setPort port { ({ y with txNext := 0 } : LinkPort).cleared with trained := true, expect := 0 })
    | none => .next ((s.setPort port { x with laneOk := r.lanes }).toPortState port 4)
  else .next (s.toPortState port 4)

/-- A port begins to train (R305, R311). -/
def State.startTraining (s : State) (p : Nat) : State :=
  if bitAt s.integ.portsFenced p then s
  else (s.setPort p { (s.port p).cleared with trained := false, laneOk := List.replicate 5 false, spareLane := 0xFF, moveLane := none }).toPortState p 1

/-- `PARTNER_SIGNAL_RETURN` (R311): a port that is down retrains. -/
def execPartnerSignalReturn (port : Fin 16) (s : State) : Res :=
  if (s.port port).state = 4 ∧ s.portMode port ≠ 0 then .next (s.startTraining port) else .next s

/-- The part of a burst that a packet carries, and how many parts there are (R317, R319): bits 28 and 29 of AUX (DESIGN CHOICE, log 172). -/
def partOf (aux : Nat) : Nat × Nat := (bitsOf aux 28 1, if bitAt aux 29 then 2 else 1)

/-- The acknowledgement of a burst to its sending context (R317, R319): the E2E_SEQ of the packet that completed it, its number and how it ended. -/
def State.ackBurst (s : State) (b : RemoteBurst) (status : Nat) : State :=
  s.send 2 b.src b.srcCtx b.ctx 0 b.seq.toNat (leBytes b.num 4 ++ leBytes status 1)

/-- A burst leaves the receiver. -/
def State.dropRemote (s : State) (b : RemoteBurst) : State :=
  { s with fabric := { s.fabric with remote := s.fabric.remote.filter fun x => !(x.src == b.src && x.num == b.num) } }

/-- The agent that receives packets and runs the collective engine (R248): R248 gives both hubs one, and this model receives by HUB_0's (DESIGN CHOICE,
log 137). -/
abbrev rxAgent : Nat := hub0Agent

/-- A remote burst with every part commits when every part translates (R319); a fault waits for the package's own node software. -/
def State.commitRemote (s : State) (b : RemoteBurst) : State :=
  let ps := b.parts.map fun e => (accWrite, e.2.1, e.2.2.length)
  match s.prepAllAt rxAgent b.ctx (ps.filter fun e => decide (0 < e.2.2)) with
  | (s1, some (acc, h)) =>
    let f := s1.faultAt b.ctx rxAgent 0 acc h (.remote b.src b.num)
    if h.kind ≤ 5 then f.2 else (f.2.ackBurst b 1).dropRemote b
  | (s1, none) => (((b.parts.foldl (fun (t : State) e => t.wrVAt rxAgent b.ctx e.2.1 e.2.2) s1)).ackBurst b 0).dropRemote b

/-- A burst has all its parts. -/
def RemoteBurst.whole (b : RemoteBurst) : Bool := b.parts.length == b.total

/-- A packet of a burst from another package (R318, R319, R504); one from a sender outside the job is refused and counted. -/
def State.takeRemote (s : State) (pk : Packet) : State :=
  match s.receive pk with
  | (s1, false) => s1
  | (s1, true) =>
    if !s1.jobMember pk.destContext pk.srcId.toNat then
      ({ s1 with fabric := { s1.fabric with refused := s1.fabric.refused + 1 } }).countEv 16 0x204 0 none 1
    else
      let num := bitsOf pk.aux.toNat 0 28
      let p := partOf pk.aux.toNat
      let old := (s1.fabric.remote.find? fun x => x.src == pk.srcId.toNat && x.num == num).getD
        ⟨pk.srcId.toNat, num, pk.destContext, pk.srcContext, p.2, [], pk.e2eSeq⟩
      let b := { old with parts := old.parts ++ [(p.1, pk.addr.toNat, pk.payload)], seq := pk.e2eSeq }
      let s2 := { s1.dropRemote b with fabric := { s1.fabric with remote := (s1.dropRemote b).fabric.remote ++ [b] } }
      if b.whole then s2.commitRemote b else s2

/-- `REMOTE_WRITE`. -/
def execRemoteWrite (pk : Packet) (s : State) : Res := if pk.type = 1 then .next (s.takeRemote pk) else .next s

/-- The parade's parent being fetched from, as a request of a chunk sees it. -/
def State.planNat (s : State) (lo hi : Nat) : Nat := bitsOf (s.effNat 0x8030 1) lo (hi + 1 - lo)
def State.paradeParent (s : State) : Nat := if s.fabric.parade.state = 1 then s.planNat 512 531 else s.planNat 544 563

/-- Changes the parade; a new state raises source 7,956 (R366). -/
def State.setParade (s : State) (x : Parade) : State :=
  let s1 := { s with fabric := { s.fabric with parade := x } }
  if x.state = s.fabric.parade.state then s1 else s1.raise 7956

/-- Requests a chunk from the parent being fetched from (R335): PARADE_ID and CHUNK (DESIGN CHOICE, log 33). -/
def State.requestChunk (s : State) : State :=
  s.send 6 s.paradeParent 0 0 0 0 (leBytes (s.planNat 576 607) 4 ++ leBytes s.fabric.parade.chunks 4)

/-- The member turns to a parent for a chunk (R335, R336); without that parent the parade has failed. -/
def State.turnTo (s : State) (st chunk : Nat) (x : Parade) : State :=
  if st = 2 ∧ s.planNat 544 563 = 0xFFFFF then s.setParade { x with state := 4, pieces := [] }
  else (s.setParade { x with state := st, chunks := chunk, pieces := [], lastAt := s.now }).requestChunk

/-- Chunks of the image, and the bytes of one. -/
def chunkCount (bytes : Nat) : Nat := (bytes + 2 ^ 20 - 1) / 2 ^ 20
def chunkLen (bytes c : Nat) : Nat := min (2 ^ 20) (bytes - 2 ^ 20 * c)

/-- Bytes of a chunk that one packet carries, after 12 bytes of PARADE_ID, CHUNK and offset (log 33). -/
abbrev paradePart : Nat := 4032

/-- The image as it lies at DEST_PA agrees with DIGEST. -/
def State.imageOk (s : State) : Bool := (sha384 (s.rdBytes (s.planNat 448 511) (s.planNat 384 447))).toNat == s.planNat 0 383

/-- A plan takes effect (R334, R335): the root verifies its image, any other member asks its primary parent for chunk 0. -/
def State.startParade (s : State) : State :=
  let z : Parade := ⟨0, 0, chunkCount (s.planNat 384 447), false, s.now, none, [], []⟩
  if s.planNat 512 531 = s.fabricId then
    s.setParade (if s.imageOk then { z with state := 3, chunks := z.total } else { z with state := 4 })
  else s.turnTo 1 0 z

/-- Sends one chunk to a child (R335). -/
def State.serveChunk (s : State) (child c : Nat) : State :=
  let base := s.planNat 448 511 + 2 ^ 20 * c
  let n := chunkLen (s.planNat 384 447) c
  (List.range ((n + paradePart - 1) / paradePart)).foldl (fun (t : State) q =>
    t.send 7 child 0 0 0 0 (leBytes (s.planNat 576 607) 4 ++ leBytes c 4 ++ leBytes (paradePart * q) 4 ++
      t.rdBytes (base + paradePart * q) (min paradePart (n - paradePart * q)))) s

/-- The children being served: those with parade data that they have not acknowledged (R335; DEDUCED, log 150). -/
def State.childrenServed (s : State) : List Nat := ((s.fabric.unacked.filter fun u => u.packet.type == 7).map Unacked.dest).eraseDups

/-- A request that waits can be served: the member holds the chunk, and serves at most 32 children at once (R335). -/
def State.mayServe (s : State) (e : Nat × Nat) : Bool :=
  decide (e.2 < s.fabric.parade.chunks) && (s.childrenServed.contains e.1 || decide (s.childrenServed.length < 32))

/-- Waiting requests are served in order as far as they can be (R335). -/
def State.serveWaiting (s : State) : State :=
  s.fabric.parade.served.foldl (fun (t : State) e =>
    if t.mayServe e then
      let x := t.fabric.parade
      ({ t with fabric := { t.fabric with parade := { x with served := x.served.erase e } } }).serveChunk e.1 e.2
    else t) s

/-- A child's request (R335): it waits until it can be served. -/
def State.takeParadeRequest (s : State) (pk : Packet) : State :=
  match s.receive pk with
  | (s1, false) => s1
  | (s1, true) =>
    let x := s1.fabric.parade
    let c := payloadNat pk 4 4
    if payloadNat pk 0 4 ≠ s1.planNat 576 607 ∨ x.state = 0 ∨ x.state = 4 ∨ x.total ≤ c then s1
    else ({ s1 with fabric := { s1.fabric with parade := { x with served := x.served ++ [(pk.srcId.toNat, c)] } } }).serveWaiting

/-- `PARADE_REQUEST`. -/
def execParadeRequest (pk : Packet) (s : State) : Res := if pk.type = 6 then .next (s.takeParadeRequest pk) else .next s

/-- An end-to-end acknowledgement, or the acknowledgement of a burst (R318, R319); the first may let a child be served (R335). -/
def State.takeAckPacket (s : State) (pk : Packet) : State :=
  if !pk.crcOk ∨ pk.destId.toNat ≠ s.fabricId then s
  else
    let s1 := ({ s with fabric := { s.fabric with unacked := s.fabric.unacked.filter fun u => !(u.dest == pk.srcId.toNat && u.seq == pk.aux) } }).serveWaiting
    if pk.payload.isEmpty then s1 else s1.burstAcked (payloadNat pk 0 4) (payloadNat pk 4 1)

/-- `DELIVERY_ACK`. -/
def execDeliveryAck (pk : Packet) (s : State) : Res := if pk.type = 2 then .next (s.takeAckPacket pk) else .next s

/-- The last chunk has landed (R335): the image is verified, and fetched again from the backup parent after a first mismatch. -/
def State.verifyParade (s : State) : State :=
  let x := s.fabric.parade
  if s.imageOk then s.setParade { x with state := 3 }
  else if x.failedOnce then s.setParade { x with state := 4 }
  else s.turnTo 2 0 { x with failedOnce := true }

/-- A part of the chunk being fetched, from the parent it is fetched from (R335): with its last part the chunk is held, served, and the next one asked
for. -/
def State.takeParadeData (s : State) (pk : Packet) : State :=
  match s.receive pk with
  | (s1, false) => s1
  | (s1, true) =>
    let x := s1.fabric.parade
    let c := payloadNat pk 4 4
    let off := payloadNat pk 8 4
    if payloadNat pk 0 4 ≠ s1.planNat 576 607 ∨ (x.state ≠ 1 ∧ x.state ≠ 2) ∨ c ≠ x.chunks ∨ pk.srcId.toNat ≠ s1.paradeParent then s1
    else
      let n := chunkLen (s1.planNat 384 447) c
      let d := (pk.payload.drop 12).take (n - off)
      let s2 := s1.wrHome (s1.planNat 448 511 + 2 ^ 20 * c + off) d
      let ps := insNat (off / paradePart) x.pieces
      if ps.length < (n + paradePart - 1) / paradePart then s2.setParade { x with pieces := ps }
      else
        let s3 := (s2.setParade { x with chunks := c + 1, pieces := [], lastAt := s.now }).serveWaiting
        if c + 1 = x.total then s3.verifyParade else s3.requestChunk

/-- `PARADE_DATA`. -/
def execParadeData (pk : Packet) (s : State) : Res := if pk.type = 7 then .next (s.takeParadeData pk) else .next s

/-- `PARADE_PARENT_TIMEOUT` (R336): no chunk has come for 10 ms; the silent parent is named at the next tick. -/
def execParadeParentTimeout (s : State) : Res :=
  let x := s.fabric.parade
  if x.state = 1 ∨ x.state = 2 then
    let s1 := s.advance (x.lastAt + 10000000)
    let y := { x with silent := some s.paradeParent }
    if x.state = 1 then .next (s1.turnTo 2 x.chunks y) else .next (s1.setParade { y with state := 4 })
  else .next s

/-- The contexts whose pending collective has a partner of that identifier. -/
def State.runsWith (s : State) (id : Nat) : List Nat :=
  (s.fabric.runs.filter fun e => match e.2 with
    | some r => r.partners.any fun j => memberId (r.members.getD j 0) == id
    | none => false).map Prod.fst

/-- A destination is unreachable (R318): a burst's operation ends with a lost peer (R319), every collective that waits on a partner there ends with
it lost (R331), and a child's place is free (R335). -/
def State.unreachable (s : State) (u : Unacked) : State :=
  let s1 := { s with fabric := { s.fabric with unacked := s.fabric.unacked.filter fun x => !(x.dest == u.dest && x.seq == u.seq) } }
  let s2 := if u.packet.type = 1 then s1.burstUnreachable (bitsOf u.packet.aux.toNat 0 28) u.dest else s1
  ((s2.runsWith u.dest).foldl (fun (t : State) c => t.losePeer c u.dest) s2).serveWaiting

/-- `E2E_RESEND_TIMEOUT` (R318): 200 µs without an acknowledgement: up to three resends by the next port choices, then unreachable. -/
def execE2eResendTimeout (dest : Nat) (seq : BitVec 32) (s : State) : Res :=
  match s.fabric.unacked.find? fun u => u.dest == dest && u.seq == seq with
  | none => .next s
  | some u =>
    let s1 := s.advance (u.sentAt + 200000)
    if 3 ≤ u.resends then .next (s1.unreachable u)
    else
      let s2 := { s1 with fabric := { s1.fabric with unacked := s1.fabric.unacked.map fun (x : Unacked) =>
        if x.dest = dest ∧ x.seq = seq then { x with resends := x.resends + 1, sentAt := s1.now } else x } }
      .next ((s2.countEv 16 0x205 0 (some u.packet.srcContext.val) 1).route u.packet (choiceOf u.packet + u.resends + 1))

/-- A packet reaches the receive engine (R314). -/
def State.deliver (s : State) (pk : Packet) : State :=
  if pk.type = 1 then s.takeRemote pk
  else if pk.type = 2 then s.takeAckPacket pk
  else if pk.type = 3 then s.takeCollective pk
  else if pk.type = 4 then s.takeBeacon pk
  else if pk.type = 5 then s.takeLoss pk
  else if pk.type = 6 then s.takeParadeRequest pk
  else s.takeParadeData pk

/-- The packet that a hub forwards next from a port's input buffer, or from the package's own packets to itself (16). -/
def State.nextIn (s : State) (port vc : Nat) : Option Packet :=
  if port = 16 then s.fabric.own.find? fun pk => packetVc pk == vc else (s.port port).firstIn vc

/-- It leaves its buffer, and an idle flit returns what is owed (R307). -/
def State.takeIn (s : State) (port vc : Nat) (pk : Packet) : State :=
  if port = 16 then { s with fabric := { s.fabric with own := s.fabric.own.erase pk } }
  else (s.setPort port ((s.port port).takeIn vc pk)).returnCredits port

/-- `PACKET_FORWARD` (R312, R314, R315, R317): a package without an identifier routes nothing (log 187); else the first packet of a virtual channel's input buffer is delivered, dropped and counted by the port's hub, or sent on
when its next port has room for it and none of its channel waits there; until then it waits in its buffer. -/
def execPacketForward (port : Fin 17) (cls : Bool) (level : Fin 4) (s : State) : Res :=
  let vc := 4 * b2n cls + level.val
  match s.nextIn port vc with
  | none => .next s
  | some pk =>
    let t := s.takeIn port vc pk
    let hub := port.val % 16 / 8
    if pk.type = 0 ∨ 7 < pk.type ∨ s.fabricId = 0xFFFFF then .next (t.dropPacket hub)
    else if pk.destId.toNat = s.fabricId then .next (t.deliver pk)
    else
      match s.routePort pk.destId.toNat (choiceOf pk) with
      | none => .next (t.dropPacket hub)
      | some p => if (s.port p).takes (s.raised pk) then .next (t.launchPacket p (s.raised pk)) else .next s

/-- How far off a source TimeLocked still holds: the error of R338 and R339 (DEDUCED, log 109). -/
def State.timeBound (s : State) : Nat := if s.effNat 0x8010 1 = 2 then 20 else 1000

/-- Device time steps by `d` ns: what was sent or received on the links, and the start of CYCLE, keep their distance from it (R339, R340, R483). -/
def State.stepTime (s : State) (d : Nat) : State :=
  { s with
    now := s.now + d
    dev := { s.dev with resetAt := s.dev.resetAt + d }
    fabric := { s.fabric with ports := s.fabric.ports.map fun x =>
      { x with timeTx := x.timeTx.map fun t => t + d, timeRx := if x.timeRx = 0 then 0 else x.timeRx + d } } }

/-- `TimeLocked` and the offset measured (R340); a lock that is lost raises its source (R366). -/
def State.noteOffset (s : State) (off slew : Int) (locked : Bool) : State :=
  let s1 := { s with fabric := { s.fabric with timeLocked := locked, timeOffset := off, sourceLost := false, slew := slew } }
  if s.fabric.timeLocked && !locked then s1.raise 7958 else s1

/-- Device time follows a measured offset (R338 to R340, R362): it steps in BOOTING, and in READY or DEGRADED while no context is RUNNABLE or PARKED;
elsewhere, and where the step would take it backward (log 189), the offset is slewed. -/
def State.followTime (s : State) (off : Int) : State :=
  if (s.dev.state == .booting || s.asReady) && decide (0 ≤ off) then (s.stepTime off.toNat).noteOffset off 0 true
  else s.noteOffset off off (decide (off.natAbs ≤ s.timeBound))

/-- Device time takes in what `ns` of slewing allow: 100 ppm (R340). -/
def State.slewBy (s : State) (ns : Nat) : State :=
  let m : Int := ns / 10000
  { s with fabric := { s.fabric with slew := if s.fabric.slew < 0 then min 0 (s.fabric.slew + m) else max 0 (s.fabric.slew - m) } }

/-- The time source is lost (R340, R366): device time holds over, until it is measured again. -/
def State.loseTimeSource (s : State) : State :=
  if s.fabric.sourceLost || s.effNat 0x8010 1 == 0 then s
  else
    let s1 := { s with fabric := { s.fabric with timeLocked := false, sourceLost := true, slew := 0 } }
    (if s.fabric.timeLocked then s1.raise 7958 else s1).postEvent 0x0C06 0xFF (s.effNat 0x8010 1) none

/-- A time parent that is no port in fabric mode counts as lost (R340). -/
def State.checkTimeParent (s : State) : State :=
  if s.effNat 0x8010 1 = 2 ∧ s.portMode (s.effNat 0x8010 2) ≠ 1 then s.loseTimeSource else s

/-- A port's time flit leaves at `at_` with its timestamps (R339). -/
def State.emitTimeFlit (s : State) (p at_ : Nat) : State :=
  let x := s.port p
  let s1 := s.setPort p { x with timeTx := some at_ }
  { s1 with out := { s1.out with timing := (p, at_, x.timeRx) :: s1.out.timing } }

/-- The time flits of a port that are due: the first as its link comes up, and then one each millisecond (R339). Each bears the time at which it was due; the
model sends it with the next flit that the port receives, or at the next tick (DESIGN CHOICE, log 155). -/
def State.timeFlits (s : State) (p : Nat) : State :=
  if !s.portLive p then s
  else
    match (s.port p).timeTx with
    | none => s.emitTimeFlit p s.now
    | some t => (List.range ((s.now - t) / 1000000)).foldl (fun (u : State) i => u.emitTimeFlit p (t + 1000000 * (i + 1))) s

/-- The offset that a time flit gives, over a symmetric path (R339): the partner's clock less this one's. -/
def flitOffset (tx rx : Nat) (t : TimeFlit) (partnerRx : Nat) : Int := (((partnerRx : Int) - tx) + ((t.sentAt : Int) - rx)) / 2

/-- `TIME_FLIT` (R339): the port keeps its time, its own flits leave as they are due, and the port of the time parent gives the offset of its round
trip. -/
def execTimeFlit (port : Fin 16) (t : TimeFlit) (s : State) : Res :=
  if s.portLive port then
    let x := s.port port
    let s0 := s.timeFlits port
    let s1 := s0.setPort port { s0.port port with timeRx := s.now }
    if s.effNat 0x8010 1 = 2 ∧ s.effNat 0x8010 2 = port.val then
      match x.timeTx, t.lastRx with
      | some tx, some rx => .next (s1.followTime (flitOffset tx s.now t rx))
      | _, _ => .next s1
    else .next s1
  else .next s

/-- A Sync whose origin is known is answered with a Delay_Req (R338). -/
def State.askDelay (s : State) (seq syncRx origin : Nat) : State :=
  { s with fabric := { s.fabric with ptp := ⟨seq, syncRx, some origin, some s.now⟩ }, out := { s.out with timing := (16, s.now, seq) :: s.out.timing } }

/-- `PTP_MESSAGE` (R338): the slave's side of the end-to-end delay request–response mechanism, with one-step and two-step masters. -/
def execPtpMessage (m : PtpMessage) (s : State) : Res :=
  let x := s.fabric.ptp
  if s.effNat 0x8010 1 ≠ 1 then .next s
  else
    match m with
    | .sync seq (some origin) => .next (s.askDelay seq s.now origin)
    | .sync seq none => .next { s with fabric := { s.fabric with ptp := ⟨seq, s.now, none, none⟩ } }
    | .followUp seq origin => if seq = x.seq ∧ x.origin = none then .next (s.askDelay seq x.syncRx origin) else .next s
    | .delayResp seq at_ =>
      match x.origin, x.asked with
      | some o, some q =>
        if seq = x.seq then
          .next (({ s with fabric := { s.fabric with ptp := { x with asked := none } } }).followTime ((((o : Int) - x.syncRx) + ((at_ : Int) - q)) / 2))
        else .next s
      | _, _ => .next s

/-- `TIME_SOURCE_LOST` (R340). -/
def execTimeSourceLost (s : State) : Res := .next s.loseTimeSource

end Sys2Proof.Machine
end

