-- ==== Sys2Proof/Machine/Update.lean ====
section
/-! DEFINITION. `UPDATE` (R119 to R125, R135, R136), and saving and loading the Almanac (R141 to R143). -/

namespace Sys2Proof.Machine

def updFields : List (Nat × Nat) :=
  [(128, 191), (192, 255), (256, 319), (320, 383), (384, 447), (448, 511), (512, 575), (576, 607), (608, 639), (640, 687), (688, 735),
   (736, 783), (784, 791), (792, 799), (800, 807), (808, 814), (815, 825), (826, 829), (832, 895), (896, 959), (960, 1023), (1024, 1087),
   (1088, 1151), (1152, 1215), (1216, 1279), (1280, 1343)]

def uRows (d : Descriptor) : Nat := fld d 576 607
def uCols (d : Descriptor) : Nat := fld d 608 639
def uMaster (d : Descriptor) : Nat := fld d 800 807
def uOpt (d : Descriptor) : Nat := fld d 808 809
def uGFmt (d : Descriptor) : Nat := fld d 784 791
def uWqFmt (d : Descriptor) : Nat := fld d 792 799
def uM1 (d : Descriptor) : Nat := fld d 256 319
def uM2 (d : Descriptor) : Nat := fld d 320 383
def uWq (d : Descriptor) : Nat := fld d 448 511

/-- A master tensor at an address. -/
def uState (d : Descriptor) (addr : Nat) : Mat := matRows addr (fld d 640 687) (uMaster d) 0 (uCols d)
def uG (d : Descriptor) : Mat := matOf (fld d 192 255) (fld d 688 735) (uGFmt d) (fld d 384 447) (flag d 811) (uCols d)
def uWqMat (d : Descriptor) : Mat := matOf (uWq d) (fld d 736 783) (uWqFmt d) (fld d 512 575) (flag d 812) (uCols d)

/-- A format for a gradient or a working copy: legal and no integer. -/
def floatFmt (c : Nat) : Bool := fmtLegal c && !fmtInt c

/-- The hyperparameters that OPT reads, by the low bits of their fields (R120). -/
def usedHyper (d : Descriptor) : List Nat :=
  if uOpt d = 0 then [832, 1088, 1280] ++ (if uM1 d = 0 then [] else [896])
  else if uOpt d = 1 then [832, 896, 960, 1024, 1088, 1152, 1216, 1280]
  else if uOpt d = 2 then [832, 896, 960, 1088, 1280]
  else []

/-- A hyperparameter's value as given. -/
def hyper (d : Descriptor) (lo : Nat) : Num := decodeFlt cFp64 false (fld d lo (lo + 63))

/-- A hyperparameter out of its range (R120). -/
def badHyper (d : Descriptor) (lo : Nat) : Bool × Nat :=
  let v := hyper d lo
  (if !v.isFin then true
   else if lo = 896 ∨ lo = 960 then v.lt Num.zero || !v.lt Num.one
   else if lo = 1152 ∨ lo = 1216 then !Num.zero.lt v || Num.one.lt v
   else v.lt Num.zero, lo)

/-- The extents that may not overlap (R120). -/
def updParts (d : Descriptor) : List (List (Nat × Nat)) :=
  [(uState d (fld d 128 191)).whole (uRows d), elemExt (uG d) (uRows d), scaleExt (uG d) (uRows d)] ++
    (if uM1 d = 0 then [] else [(uState d (uM1 d)).whole (uRows d)]) ++ (if uM2 d = 0 then [] else [(uState d (uM2 d)).whole (uRows d)]) ++
    (if uWq d = 0 then [] else [elemExt (uWqMat d) (uRows d), scaleExt (uWqMat d) (uRows d)])

/-- Two parts of a list overlap. -/
def anyMeet : List (List (Nat × Nat)) → Bool
  | [] => false
  | a :: r => r.any (meet a) || anyMeet r

/-- BAD_FIELD of an `UPDATE` (R120); a relation is judged when the fields it reads are in range (R22). -/
def updBadField (d : Descriptor) : Reject :=
  let wq := uWq d != 0
  let master := uMaster d == cFp32 || uMaster d == cFp64
  let known := master && floatFmt (uGFmt d) && (!wq || floatFmt (uWqFmt d)) && !(badDim d 576).1 && !(badDim d 608).1
  badField
    ([(!master, 800), (uOpt d == 3, 808), (!floatFmt (uGFmt d), 784), (wq && !floatFmt (uWqFmt d), 792), badDim d 576, badDim d 608,
      (flag d 814 && decide (1023 < fld d 815 825), 815), badAddr d 128 64, badAddr d 192 64, badAddr d 256 64, badAddr d 320 64,
      badAddr d 384 64, badAddr d 448 64, (wq && (badAddr d 512 64).1, 512), badLd d 640, badLd d 688, (wq && (badLd d 736).1, 736),
      badScale d 384 (uGFmt d), (wq && (badScale d 512 (uWqFmt d)).1, 512), (uOpt d != 0 && uOpt d != 3 && uM1 d == 0, 256),
      (if uOpt d = 1 then uM2 d == 0 else uOpt d != 3 && uM2 d != 0, 320), (flag d 810 && uOpt d != 0, 808)] ++
     (usedHyper d).map (badHyper d) ++
     [((master && decide (fld d 640 687 < rowBytes (uMaster d) (uCols d))) || shortRow (fld d 688 735) (uGFmt d) (uCols d) ||
         (wq && shortRow (fld d 736 783) (uWqFmt d) (uCols d)), 608),
      (known && anyMeet (updParts d), 128)])

/-- What an `UPDATE` reads, and what it writes. -/
def updReads (x : Ctx) (d : Descriptor) : List (Nat × Nat × Nat) :=
  let st := fun (a : Nat) => if a = 0 then [] else (uState d a).readExtents 0 (uRows d) 0 (uCols d)
  (if flag d 814 && histExists x (fld d 815 825) then [(accRead, histAddr x (fld d 815 825) (fld d 826 829), 8)] else []) ++
    (uState d (fld d 128 191)).readExtents 0 (uRows d) 0 (uCols d) ++ st (uM1 d) ++ st (uM2 d) ++
    (uG d).readExtents 0 (uRows d) 0 (uCols d)

def updWrites (d : Descriptor) : List (Nat × Nat × Nat) :=
  let st := fun (a : Nat) => if a = 0 then [] else (uState d a).writeExtents 0 (uRows d)
  (uState d (fld d 128 191)).writeExtents 0 (uRows d) ++ st (uM1 d) ++ st (uM2 d) ++
    (if uWq d = 0 then [] else (uWqMat d).writeExtents 0 (uRows d))

/-- a × b + c rounded once to `p`. -/
def fmaTo (p : Nat) (a b c : Num) : Num := roundTo p ((a.mul b).add c)

/-- sign(c) of R121. -/
def signNum : Num → Num
  | .nan => .nan
  | .inf n => .fin n 1 0
  | .fin n m _ => if m = 0 then Num.zero else .fin n 1 0

/-- One element of R121 from its rounded gradient: w, m and v. -/
def updStep (d : Descriptor) (w m v g : Num) : Num × Num × Num :=
  let p := uMaster d
  let h := fun (lo : Nat) => roundTo p (hyper d lo)
  let b1 := h 896
  let b2 := h 960
  let c1 := roundTo p (Num.one.sub b1)
  let c2 := roundTo p (Num.one.sub b2)
  let nlr := (h 832).negate
  let wd := h 1088
  if uOpt d = 0 then
    let m1 := if uM1 d = 0 then m else fmaTo p b1 m g
    let dd := if uM1 d = 0 then g else if flag d 810 then fmaTo p b1 m1 g else m1
    (fmaTo p nlr (fmaTo p wd w dd) w, m1, v)
  else if uOpt d = 1 then
    let m1 := fmaTo p b1 m (roundTo p (c1.mul g))
    let v1 := fmaTo p b2 v (roundTo p (c2.mul (roundTo p (g.mul g))))
    let mh := roundTo p (Num.div 60 m1 (h 1152))
    let vh := roundTo p (Num.sqrt 60 (roundTo p (Num.div 60 v1 (h 1216))))
    let u := roundTo p (Num.div 60 mh (roundTo p (vh.add (h 1024))))
    (fmaTo p nlr (fmaTo p wd w u) w, m1, v1)
  else
    let cc := fmaTo p b1 m (roundTo p (c1.mul g))
    let u := fmaTo p wd w (signNum cc)
    (fmaTo p nlr u w, fmaTo p b2 m (roundTo p (c2.mul g)), v)

/-- An element of an `UPDATE`: its old values and bits, its gradient, its new values, and what R123 makes of it. -/
structure UpdElem where
  w0 : Num
  m0 : Num
  v0 : Num
  gq : Num
  w1 : Num
  m1 : Num
  v1 : Num
  nonfinite : Bool
  skipped : Bool
  bits : Nat × Nat × Nat

/-- Computes one element (R121 to R123). -/
def updElem (d : Descriptor) (invH w m v gq : Num) (bits : Nat × Nat × Nat) : UpdElem :=
  let p := uMaster d
  let g := roundTo p ((gq.mul (roundTo p (hyper d 1280))).mul invH)
  let skip := !g.isFin && flag d 813
  let n := if skip then (w, m, v) else updStep d w m v g
  ⟨w, m, v, gq, n.1, n.2.1, n.2.2, !g.isFin, skip, bits⟩

/-- The elements of an `UPDATE`, row by row. -/
def State.updElems (s : State) (c : Nat) (d : Descriptor) : List (List UpdElem) :=
  let invH := if flag d 814 then s.invScale c (fld d 815 825) (fld d 826 829) else Num.one
  let cols := uCols d
  let row := fun (a r : Nat) => if a = 0 then List.replicate cols 0 else s.rawRow c (uState d a) r 0 cols
  (List.range (uRows d)).map fun r =>
    let ws := s.rawRow c (uState d (fld d 128 191)) r 0 cols
    let ms := row (uM1 d) r
    let vs := row (uM2 d) r
    let gs := s.readRow c (uG d) r 0 cols
    (List.range cols).map fun j =>
      let b := (ws.getD j 0, ms.getD j 0, vs.getD j 0)
      let val := fun (x : Nat) => decodeFlt (uMaster d) false x
      updElem d invH (val b.1) (val b.2.1) (val b.2.2) (gs.getD j Num.zero) b

/-- FP64 of the exact sum of a block. -/
def sum64 (l : List Num) : W64 := BitVec.ofNat 64 (encodeFlt cFp64 (sumExact l)).1

/-- A sum of R125 over elements in row-major order: exact in blocks of 512 indices, then FP64 additions in ascending order. -/
def ratioSum (f : UpdElem → Num) (l : List UpdElem) : W64 :=
  ((chunks 512 l).map fun b => sum64 (b.map fun u => if u.skipped || !u.w0.isFin || !u.w1.isFin then Num.zero else f u)).foldl addFp64 0#64

/-- SW and SDW (R125). -/
def swOf (l : List UpdElem) : W64 := ratioSum (fun u => u.w0.mul u.w0) l
def sdwOf (l : List UpdElem) : W64 := ratioSum (fun u => (u.w1.sub u.w0).mul (u.w1.sub u.w0)) l

/-- What the elements of one output depend on: W on all, M1 and M2 on their own and the gradient (R103, R107). -/
def updDeps (d : Descriptor) (out : Nat) (u : UpdElem) : List Num :=
  if out = 2 then [u.m0, u.gq] else if out = 3 then [u.v0, u.gq]
  else if u.skipped then [u.w0]
  else [u.w0, u.gq] ++ (if uM1 d = 0 then [] else [u.m0]) ++ (if uM2 d = 0 then [] else [u.v0])

/-- An output element with what it depends on. -/
def updOut (d : Descriptor) (out : Nat) (v : Num) (u : UpdElem) : Elem := ⟨v, (updDeps d out u).any Num.isNan, (updDeps d out u).all Num.isFin⟩

/-- One written master element; a skipped one keeps its bits and is not counted (R123). -/
def updMaster (d : Descriptor) (out : Nat) (v : Num) (keep : Nat) (u : UpdElem) : Written :=
  if u.skipped then ⟨keep, false, .none, false⟩ else writePlain (uMaster d) (updOut d out v u)

/-- The writes of one master tensor. -/
def masterWrites (d : Descriptor) (addr : Nat) (ws : List (List Written)) : List (Nat × List Byte) :=
  (List.range ws.length).map fun i => (addr + i * fld d 640 687, packRow (uMaster d) (ws.getD i []))

/-- The events of R135 for an `UPDATE`. -/
def updEvents (x : Ctx) (ratio nonfinite : Nat) (held high : Bool) : List AlmEvent :=
  (if high && pol x 19 19 == 1 then [⟨1, held, ratio, pol x 192 223⟩] else []) ++
    (if nonfinite != 0 && pol x 23 23 == 1 then [⟨4, held, satTo 32 nonfinite, 0⟩] else [])

/-- Writes an `UPDATE` that is not held. -/
def State.updWrite (s : State) (c : Nat) (d : Descriptor) (es : List (List UpdElem)) : State × Tally :=
  let w := es.map fun r => r.map fun u => updMaster d 1 u.w1 u.bits.1 u
  let m := es.map fun r => r.map fun u => updMaster d 2 u.m1 u.bits.2.1 u
  let v := es.map fun r => r.map fun u => updMaster d 3 u.v1 u.bits.2.2 u
  let q := (uWqMat d).writeRows 0 (es.map fun r => r.map fun u => updOut d 4 u.w1 u)
  let s1 := s.wrVAll c (masterWrites d (fld d 128 191) w)
  let s2 := if uM1 d = 0 then s1 else s1.wrVAll c (masterWrites d (uM1 d) m)
  let s3 := if uM2 d = 0 then s2 else s2.wrVAll c (masterWrites d (uM2 d) v)
  let s4 := if uWq d = 0 then s3 else s3.wrVAll c q.1
  let t := (((tallyRows 1 0 0 w).join (if uM1 d = 0 then Tally.empty else tallyRows 2 0 0 m)).join
    (if uM2 d = 0 then Tally.empty else tallyRows 3 0 0 v)).join (if uWq d = 0 then Tally.empty else tallyRows 4 0 0 q.2)
  (s4, t)

/-- `UPDATE` (R22, R119 to R125, R135, R136). -/
def runUpdate : RunOp := fun s c ix d =>
  let x := s.ctx c
  match ((headerCheck d updFields).orElse (updBadField d)).orElse
      (if (uMaster d == cFp64) != (pol x 0 0 == 1) then some (0x0410, 4) else none) with
  | some r => rejected s r
  | none =>
    match s.prepAll c (updReads x d) with
    | (s1, some (acc, h)) => s1.opFault c ix acc h
    | (s1, none) =>
      let es := s1.updElems c d
      let l := es.flatMap id
      let sw := swOf l
      let sdw := sdwOf l
      let ratio := ratioOf sw sdw
      let nonfinite := l.countP UpdElem.nonfinite
      let on := polPeriod x != 0
      let high := on && (fp32 (pol x 192 223)).lt (fp32 ratio)
      let held := on && ((high && pol x 20 20 == 1) || (nonfinite != 0 && pol x 24 24 == 1))
      let base := fun (a : Aftermath) => { a with
        gradNonfinite := nonfinite, ratioHigh := high, update := some (held, sw, sdw), events := if on then updEvents x ratio nonfinite held high else [] }
      if held then (s1, .computed (endWith 0 0) (base Aftermath.none))
      else
        match s1.prepAll c (updWrites d) with
        | (s2, some (acc, h)) => s2.opFault c ix acc h
        | (s2, none) =>
          let r := s2.updWrite c d es
          (r.1, .computed (r.2.result 0) (base (afterTally x r.2)))

/-- `UPDATE` taken. -/
def execUpdate (p : Fin 8) (s : State) : Res := .next (s.takeOp p 0x08 runUpdate)

/-- Bytes of an Almanac image (R142). -/
def imageBytes (x : Ctx) : Nat := 512 + 8192 * polPeriod x

/-- The header of an Almanac image (R142). -/
def imageHeader (s : State) (c : Nat) (slots : List Byte) : List Byte :=
  let x := s.ctx c
  leBytes (0x4E4D4C41 + 2 ^ 32 + 2 ^ 40 + polPeriod x * 2 ^ 48 + x.cnt.eveCount.toNat * 2 ^ 64 + c * 2 ^ 96 + s.effNat 0x4100 1 % 2 ^ 20 * 2 ^ 108 +
    (sha384 slots).toNat * 2 ^ 512) 512

/-- `ALMANAC_SAVE` (R32, R141, R142). -/
def runAlmanacSave : RunOp := fun s c ix d =>
  let x := s.ctx c
  match ((headerCheck d [(128, 191), (192, 255)]).orElse
      (badField [badAddr d 128 64, (polPeriod x == 0 || decide (fld d 192 255 < imageBytes x), 192)])).orElse
      (if x.atBoundary then none else some (0x0410, 1)) with
  | some r => rejected s r
  | none =>
    match s.prepAll c [(accRead, slotAddr x 0, 8192 * polPeriod x), (accWrite, fld d 128 191, imageBytes x)] with
    | (s1, some (acc, h)) => s1.opFault c ix acc h
    | (s1, none) =>
      let slots := s1.rdV c (slotAddr x 0) (8192 * polPeriod x)
      ended (s1.wrV c (fld d 128 191) (imageHeader s1 c slots ++ slots)) (endWith 0 0)

/-- State condition 6 on an image that was read (R143). -/
def imageOk (x : Ctx) (img : List Byte) : Bool :=
  let h := leNat (img.take 512)
  bitsOf h 0 32 == 0x4E4D4C41 && bitsOf h 32 8 == 1 && bitsOf h 48 11 == polPeriod x &&
    bitsOf h 512 384 == (sha384 (img.drop 512)).toNat

/-- Slot that saved slot `j` becomes (R143). -/
def loadedSlot (x : Ctx) (saved j : Nat) : Nat := ((j : Int) - (saved : Int) + (x.cnt.eveCount.toNat : Int)).emod (polPeriod x : Int) |>.toNat

/-- `ALMANAC_LOAD` (R32, R143). -/
def runAlmanacLoad : RunOp := fun s c ix d =>
  let x := s.ctx c
  match ((headerCheck d [(128, 191), (192, 255)]).orElse (badField [badAddr d 128 64])).orElse
      (if !x.atBoundary then some (0x0410, 1) else if polPeriod x = 0 ∨ fld d 192 255 ≠ imageBytes x then some (0x0410, 6) else none) with
  | some r => rejected s r
  | none =>
    match s.prep c accRead (fld d 128 191) (imageBytes x) with
    | (s1, some h) => s1.opFault c ix accRead h
    | (s1, none) =>
      let img := s1.rdV c (fld d 128 191) (imageBytes x)
      if !imageOk x img then rejected s1 (0x0410, 6)
      else
        match s1.prep c accWrite (polAddr x) (regionBytes (polPeriod x)) with
        | (s2, some h) => s2.opFault c ix accWrite h
        | (s2, none) =>
          let saved := leNat ((img.drop 8).take 4)
          let ws := (List.range (polPeriod x)).map fun j => (slotAddr x (loadedSlot x saved j), (img.drop (512 + 8192 * j)).take 8192)
          let s3 := s2.wrVAll c ((polAddr x, List.replicate 4 0) :: (polAddr x + 64, List.replicate 2048 0) :: ws)
          ended (s3.updCtx c fun y => { y with cnt := { y.cnt with almEvents := 0 } }) (endWith 0 0)

/-- `ALMANAC_SAVE` taken. -/
def execAlmanacSave (p : Fin 8) (s : State) : Res := .next (s.takeOp p 0x28 runAlmanacSave)

/-- `ALMANAC_LOAD` taken. -/
def execAlmanacLoad (p : Fin 8) (s : State) : Res := .next (s.takeOp p 0x29 runAlmanacLoad)

end Sys2Proof.Machine
end

