-- ==== Sys2Proof/Machine/Completion.lean ====
section
/-! DEFINITION. Completions (R19), and the resolution of page faults (R295, R296). -/

namespace Sys2Proof.Machine

/-- How an operation runs, by its opcode (R22). -/
def runOf (op : Nat) : RunOp :=
  if op = 0x04 then runAttention else if op = 0x08 then runUpdate else if op = 0x09 then runConvert else if op = 0x0A then runElementwise
  else if op = 0x0B then runKernel else if op = 0x0C then runStream else if op = 0x10 then runCollective else if op = 0x18 then runCopy
  else if op = 0x19 then runZero else if op = 0x20 then runFence else if op = 0x21 then runEve else if op = 0x22 then runWait
  else if op = 0x23 then runSignal else if op = 0x24 then runTimestamp else if op = 0x28 then runAlmanacSave
  else if op = 0x29 then runAlmanacLoad else runProduct

/-- An operation that stalled runs again (R295): an egress batch, a collective and the outputs of an `ELEMENTWISE` go on from what they hold, and a `WAIT`
keeps its deadline. -/
def State.rerun (s : State) (c opIx : Nat) : State :=
  match (s.ctx c).flights.find? fun f => f.opIndex == opIx with
  | none => s
  | some f =>
    match f.st with
    | .stalled _ =>
      if (s.run c).any fun r => r.opIndex == opIx then s.tryCollective c
      else
        (match (s.ctx c).host.batches.find? fun b => b.opIndex == opIx && b.st == .waiting with
         | some b => s.setFlight c opIx (.egress b.seq)
         | none =>
           let r := runOf (dOpcode f.desc) s.newAccess c opIx f.desc
           (r.1.setFlight c opIx r.2).noteBoundary c f.desc r.2)
    | .launched l =>
      (match s.launch l with
       | some x => if x.total ≤ x.nextBlock ∧ (s.blocksOf l).isEmpty then s.endLaunch l x else s
       | none => s)
    | .waitStalled _ dl =>
      let r := s.newAccess.tryWait c opIx f.desc dl
      (r.1.setFlight c opIx r.2).noteBoundary c f.desc r.2
    | _ => s

/-- What follows a record of a context (R17, R19, R33): the partition that waited for the record of an Eve goes on, and a record that waited is
written. -/
def State.afterRecord (s : State) (c : Nat) (f : Flight) : State :=
  let s1 := s.writeWaiting c
  match s1.holdsPart c with
  | some k =>
    let s2 := s1.countEv (20 + k) 0x406 0 (some c) 1
    if dOpcode f.desc = 0x21 ∧ (s2.part k).phase = .draining ∧ (s2.part k).drain = .none then s2.seatNext k false else s2
  | none => s1

/-- Completes an operation whose result stands (R19). -/
def State.complete (s : State) (c : Nat) (f : Flight) (r : OpResult) : State :=
  let s1 := s.finish c f r
  if (s1.ctx c).flights.any fun g => g.opIndex == f.opIndex then s1 else s1.afterRecord c f

/-- An `EVE` past its latch point completes when its partition has chosen and no idle is left (R33, R399). -/
def State.completeLatched (s : State) (c : Nat) (f : Flight) : State :=
  match s.holdsPart c with
  | some k => if (s.part k).phase = .draining ∧ (s.part k).drain = .none then s.completeEve k c f else s
  | none => s.complete c f (eveResult (s.ctx c))

/-- `OPERATION_COMPLETION` (R19, R25, R26, R130 to R139): the oldest operation in flight of a context completes when it can. Records of the context
that wait on a fault go first (R295). A stopped device completes nothing (R417). -/
def execOperationCompletion (c : Fin 4096) (s : State) : Res :=
  let x := s.ctx c
  match x.flights with
  | [] => .next s
  | f :: _ =>
    if !x.records.isEmpty || !s.powered then .next s
    else
      match f.st with
      | .done r => .next (s.complete c f r)
      | .computed r a =>
        let e := s.settle c f r a
        if (e.1.ctx c).records.isEmpty then .next (e.1.complete c f e.2) else .next (e.1.setFlight c f.opIndex (.done e.2))
      | .atHead =>
        let e := s.actAtHead c f
        (match e.2 with
         | .done r => .next (e.1.complete c f r)
         | st => .next (e.1.setFlight c f.opIndex st))
      | .eveRecord _ => .next (s.completeLatched c f)
      | _ => .next s

/-- The records of a context that wait are written, those of R17 behind the others (R295). -/
def State.redrain (s : State) (c : Nat) : State := (s.drainRecords c (s.ctx c).records).writeWaiting c

/-- A record that stalled is written again, and then those behind it (R295). -/
def State.rewrite (s : State) (c : Nat) : State :=
  (match (s.ctx c).flights with
   | f :: _ =>
     (match f.st with
      | .recordStalled _ r => s.complete c f r
      | _ => s.writeWaiting c)
   | [] => s.writeWaiting c).redrain c

/-- A group no longer waits for a record (R295). -/
def State.wakeGroup (s : State) (g ix : Nat) : State :=
  match s.group g with
  | some x => (s.setGroup g (some { x with stalled := x.stalled.filter fun i => i != ix })).refreshBlock x.blk
  | none => s

/-- A burst replays its accesses; its stall count goes on (R219, R295). -/
def State.wakeBurst (s : State) (i n ix : Nat) : State :=
  match s.inst i with
  | some x => s.setInst i (some { x with indexStall := if x.indexStall = some ix then none else x.indexStall, bursts := x.bursts.map fun (b : Burst) =>
      if b.num == n && b.stalled.contains ix then { b with stalled := b.stalled.filter fun j => j != ix, from_ := b.from_ + (s.now - b.pausedAt) } else b })
  | none => s

/-- A burst of another package that has not committed (R319). -/
def State.remoteAt (s : State) (src num : Nat) : Option RemoteBurst := s.fabric.remote.find? fun b => b.src == src && b.num == num

/-- One waiter of a retried record (R295). -/
def State.retryWaiter (s : State) (ix : Nat) (w : Waiter) : State :=
  match w with
  | .op c op => s.rerun c op
  | .record c => s.rewrite c
  | .take _ => s
  | .eve c => if (s.ctx c).regionDue && ctxActive (s.ctx c) then s.clearRegion c else s
  | .notice c => s.redrain c
  | .group g => s.wakeGroup g ix
  | .burst i n => s.wakeBurst i n ix
  | .remote src num =>
    (match s.remoteAt src num with
     | some b => s.commitRemote b
     | none => s)
  | .qp key => s.qpRetry key

/-- A resume that names no pending record (R295). -/
def State.ignoreResume (s : State) : State := { s with fq := { s.fq with resumesIgnored := satInc 32 s.fq.resumesIgnored } }

/-- The pending record with an INDEX. -/
def State.pendingAt (s : State) (ix : Nat) : Option PendingFault := s.fq.pending.find? fun p => p.ix == ix

/-- A record is resolved. -/
def State.dropPending (s : State) (ix : Nat) : State := { s with fq := { s.fq with pending := s.fq.pending.filter fun p => p.ix != ix } }

/-- A resume with retry (R295): the faulting page leaves every translation cache of the context, and each joined access is made again. -/
def State.retryFault (s : State) (ix : Nat) : State :=
  match s.pendingAt ix with
  | none => s.ignoreResume
  | some p =>
    p.waiters.foldl (fun (t : State) w => t.retryWaiter p.ix w) ((s.dropPending p.ix).uncache p.ctx (p.page * 65536) (p.page * 65536 + 65536))

/-- `FAULT_RETRY` (R295): every joined access is made again. -/
def execFaultRetry (ix : BitVec 32) (s : State) : Res := .next (s.retryFault ix.toNat)

/-- A record of a context is lost (R295): the context halts, or its Eve completes with the failed status first. -/
def State.loseRecord (s : State) (c status ix : Nat) : State :=
  let s1 := s.updCtx c fun x => { x with lost := some (status, ix) }
  if inEve (s1.ctx c) then s1 else s1.halt c status (runningOp (s1.ctx c))

/-- A completion record that could not be written is lost, and its context halts (R295). -/
def State.dropRecord (s : State) (c ix : Nat) : State :=
  match (s.ctx c).flights with
  | f :: _ =>
    (match f.st with
     | .recordStalled _ _ =>
       let s1 := (s.dropFlight c f.opIndex).halt c 0x0201 f.opIndex
       (match s1.holdsPart c with
        | some k => if (s1.part k).phase = .draining ∧ (s1.part k).drain = .none then s1.seatNext k false else s1
        | none => s1)
     | _ => (s.updCtx c fun x => { x with waiting := x.waiting.drop 1 }).loseRecord c 0x0201 ix)
  | [] => (s.updCtx c fun x => { x with waiting := x.waiting.drop 1 }).loseRecord c 0x0201 ix

/-- The posted record that a context's fault stalled is not written (R295). -/
def State.loseFirst (s : State) (c : Nat) : State :=
  match (s.ctx c).records with
  | (_, _, src) :: rest => (s.lostRecord c src).updCtx c fun x => { x with records := rest }
  | [] => s

/-- A declined access of an Eve (R295): what it would have written is lost, and the Eve goes on. A new region that could not be zeroed stays as it
is. -/
def State.declineEve (s : State) (c acc page ix : Nat) : State :=
  let due := (s.ctx c).regionDue
  (s.updCtx c fun x => { x with regionDue := false, declined := if due then x.declined else x.declined ++ [(acc, page)] }).loseRecord c 0x0201 ix

/-- One waiter of a declined record (R170, R214, R295, R319). -/
def State.declineWaiter (s : State) (p : PendingFault) (w : Waiter) : State :=
  let ix := p.ix
  match w with
  | .op c op =>
    (match (s.ctx c).flights.find? fun f => f.opIndex == op with
     | some f =>
       (match f.st with
        | .stalled _ | .waitStalled _ _ =>
          let s1 := (s.setRun c (match s.run c with
            | some r => if r.opIndex = op then none else some r
            | none => none)).updHost c fun h => { h with batches := h.batches.filter fun b => !(b.opIndex == op && b.st == .waiting) }
          let st := FlightSt.done (endWith 0x0201 ix)
          (s1.setFlight c op st).noteBoundary c f.desc st
        | .launched l => s.stopLaunch l (endWith 0x0201 ix)
        | .streaming => s.stopStream c op (endWith 0x0201 ix)
        | _ => s)
     | none => s)
  | .record c => (s.dropRecord c ix).redrain c
  | .take c => s.halt c 0x0201 (s.ctx c).cnt.nextOp
  | .eve c => s.declineEve c p.access p.page ix
  | .notice c => ((s.loseRecord c 0x0201 ix).loseFirst c).redrain c
  | .group g =>
    (match s.group g with
     | some x =>
       (match s.block x.blk with
        | some b => s.accessFault b.launch 0x0201 ix x.blk
        | none => s)
     | none => s)
  | .burst i _ =>
    (match s.inst i with
     | some x => s.stopStream x.ctx x.opIndex (endWith 0x0201 ix)
     | none => s)
  | .remote src num =>
    (match s.remoteAt src num with
     | some b => (s.ackBurst b 1).dropRemote b
     | none => s)
  | .qp key => s.qpDecline key

/-- The linear block number of a waiting group, and its number in the block. -/
def State.groupRank (s : State) : Waiter → Option (Nat × Nat)
  | .group g => (s.group g).map fun x => (((s.block x.blk).map Block.num).getD 0, x.num)
  | _ => none

/-- The waiters in the order in which they fail: groups after all others, by block and then by group (R171). -/
def State.declineOrder (s : State) (l : List Waiter) : List Waiter :=
  (l.filter fun w => (s.groupRank w).isNone) ++
    sortBy (fun a b => match s.groupRank a, s.groupRank b with
      | some x, some y => decide (x.1 < y.1) || (x.1 == y.1 && decide (x.2 < y.2))
      | _, _ => false) (l.filter fun w => (s.groupRank w).isSome)

/-- A resume with decline (R295). -/
def State.declineFault (s : State) (ix : Nat) : State :=
  match s.pendingAt ix with
  | none => s.ignoreResume
  | some p => ((s.declineOrder p.waiters).foldl (fun (t : State) w => t.declineWaiter p w) (s.dropPending p.ix))

/-- `FAULT_DECLINE` (R295): every joined access fails. -/
def execFaultDecline (ix : BitVec 32) (s : State) : Res := .next (s.declineFault ix.toNat)

/-- `FAULT_RECORD_WRITE` (R296): waiting records go to the fault queue as far as it takes them. -/
def execFaultRecordWrite (s : State) : Res := .next s.tryFq

end Sys2Proof.Machine
end

