-- ==== Sys2Proof/Machine/Contexts.lean ====
section
/-! DEFINITION. Context banks: the commands (R11 to R14, R467, R471), the three blocks of a context register set (R117, R118, R299, R344, R468)
and translation invalidation (R474). -/

namespace Sys2Proof.Machine

/-- Context bank CB_b. -/
def State.bank (s : State) (b : Nat) : CtxBank := tabGet CtxBank.reset s.banks.ctx b

/-- Replaces a context bank. -/
def State.setBank (s : State) (b : Nat) (x : CtxBank) : State := { s with banks := { s.banks with ctx := tabPut CtxBank.reset s.banks.ctx b x } }

/-- RESULT of a bank after a command (R470). -/
def State.told (s : State) (b op code : Nat) : State := let x := s.bank b; s.setBank b { x with op := op, code := code, ctx := x.sel }

/-- CREATE (R471): a FREE context becomes STOPPED and bound, with every field at its reset value. -/
def State.createCtx (s : State) (b k : Nat) : State :=
  let c := (s.bank b).sel
  if (s.ctx c).st ≠ .free then s.told b 1 2
  else if !s.partExists k then s.told b 1 3
  else (s.setCtx c { Ctx.free with st := .stopped, part := some k }).told b 1 0

/-- START (R471): held for the partition's next latch point. -/
def State.startCtx (s : State) (b : Nat) : State :=
  let c := (s.bank b).sel
  let x := s.ctx c
  if x.st ≠ .stopped ∨ x.part.isNone then s.told b 2 2
  else if qAddr x = 0 ∨ cAddr x = 0 then s.told b 2 3
  else (s.setCtx c { x with pendStart := true }).told b 2 1

/-- STOP (R471): held for a latch point at which the context stands at a boundary position. -/
def State.stopCtx (s : State) (b : Nat) : State :=
  let c := (s.bank b).sel
  if ctxActive (s.ctx c) then (s.updCtx c fun x => { x with pendStop := true }).told b 3 1 else s.told b 3 2

/-- RESUME (R13, R471): a HALTED context is RUNNABLE and goes on from its next unconsumed operation; a `WAIT` still in flight parks it again when it is next
evaluated false (DEDUCED, log 60). -/
def State.resumeCtx (s : State) (b : Nat) : State :=
  let c := (s.bank b).sel
  let x := s.ctx c
  if x.st ≠ .halted ∨ x.part.isNone ∨ !x.waiting.isEmpty then s.told b 4 2
  else
    let s1 := s.setCtx c { x with st := .runnable, deficit := 0 }
    ((s1.clearRegion c).refreshRun).told b 4 0

/-- KILL (R14, R471). -/
def State.killCmd (s : State) (b : Nat) : State :=
  let c := (s.bank b).sel
  let x := s.ctx c
  if x.st == .free || x.st == .killed then s.told b 5 2 else (s.killCtx c).told b 5 0

/-- The fault records of a context wait no longer (R295): what its queue pairs waited to do fails. -/
def State.dropWaits (s : State) (c : Nat) : State :=
  ({ s with fq := { s.fq with pending := s.fq.pending.filter fun p => p.ctx != c } }).dropQpWaits c

/-- A context is freed (R295, R438, R471): nothing waits on it any more, and its hamper programs and cached translations end with its tables. A partition that drains after it
gave it up drains on without it. -/
def State.freeCtx (s : State) (c : Nat) : State :=
  let s1 := (((s.launchesOf c).foldl (fun (t : State) l => t.clearLaunch l) s).dropCtxInsts c).uncache c 0 (2 ^ 56)
  let s2 := ((s1.setRun c none).setCtx c Ctx.free).dropWaits c
  { s2 with
    host := { s2.host with fenceReads := s2.host.fenceReads.filter fun e => e.1 != c }
    parts := s2.parts.map fun (p : PartSt) => if p.running = some c then { p with running := none } else p }

/-- DESTROY (R471): a STOPPED, HALTED or KILLED context that is not granted becomes FREE. -/
def State.destroyCtx (s : State) (b : Nat) : State :=
  let c := (s.bank b).sel
  let x := s.ctx c
  if x.st == .free || ctxActive x || granted x then s.told b 6 2 else (s.freeCtx c).told b 6 0

/-- REBIND (R11, R58, R471): held for the partition that the context leaves, and at once for an unbound one. -/
def State.rebindCmd (s : State) (b k : Nat) : State :=
  let c := (s.bank b).sel
  let x := s.ctx c
  if x.st == .free || x.st == .killed then s.told b 7 2
  else if !s.partExists k then s.told b 7 3
  else if x.part.isNone then (s.setCtx c { x with part := some k, pendRebind := none }).told b 7 0
  else (s.setCtx c { x with pendRebind := some k }).told b 7 1

/-- A write of CMD (R470, R471). -/
def State.ctxCommand (s : State) (b v : Nat) : State :=
  let op := bitsOf v 0 4
  let k := bitsOf v 8 3
  if op = 1 then s.createCtx b k else if op = 2 then s.startCtx b else if op = 3 then s.stopCtx b else if op = 4 then s.resumeCtx b
  else if op = 5 then s.killCmd b else if op = 6 then s.destroyCtx b else if op = 7 then s.rebindCmd b k else s.told b op 3

/-- `CREATE`. -/
def execCreate (b : Fin 128) (k : Fin 8) (s : State) : Res := s.whenPowered fun t => t.createCtx b k

/-- `START`. -/
def execStart (b : Fin 128) (s : State) : Res := s.whenPowered fun t => t.startCtx b

/-- `STOP`. -/
def execStop (b : Fin 128) (s : State) : Res := s.whenPowered fun t => t.stopCtx b

/-- `RESUME`. -/
def execResume (b : Fin 128) (s : State) : Res := s.whenPowered fun t => t.resumeCtx b

/-- `KILL`. -/
def execKill (b : Fin 128) (s : State) : Res := s.whenPowered fun t => t.killCmd b

/-- `DESTROY`. -/
def execDestroy (b : Fin 128) (s : State) : Res := s.whenPowered fun t => t.destroyCtx b

/-- `REBIND`. -/
def execRebind (b : Fin 128) (k : Fin 8) (s : State) : Res := s.whenPowered fun t => t.rebindCmd b k

/-- A write to a context register set that is refused is counted (R470). -/
def State.refuseWrite (s : State) (c : Nat) : State :=
  s.updCtx c fun x => { x with cnt := { x.cnt with writesRefused := satInc 16 x.cnt.writesRefused } }

/-- The staged word of a bank at an offset (R468). -/
def CtxBank.word (x : CtxBank) (off : Nat) : Option W64 := (x.staged.find? fun e => e.1 == off).map Prod.snd

/-- A word is staged (R468). -/
def State.stageWord (s : State) (b off : Nat) (w : W64) : State :=
  let x := s.bank b
  s.setBank b { x with staged := (x.staged.filter fun e => e.1 != off) ++ [(off, w)] }

/-- A staged block of `n` words from `off` whose last word is `w`; a word that was not written takes the last accepted value's (R468). -/
def stagedBlock (x : CtxBank) (off n acc : Nat) (w : W64) : Nat :=
  (List.range n).foldl (fun v i =>
    let word := if i + 1 = n then w.toNat else match x.word (off + 8 * i) with
      | some y => y.toNat
      | none => bitsOf acc (64 * i) 64
    v + word * 2 ^ (64 * i)) 0

/-- The staged words of a block are used up by its commit (R468). -/
def State.unstage (s : State) (b off n : Nat) : State :=
  let x := s.bank b
  s.setBank b { x with staged := x.staged.filter fun e => !(decide (off ≤ e.1) && decide (e.1 < off + 8 * n)) }

/-- The fields of a policy block that a write holds (R117). -/
def policyFields (v : Nat) : Nat := bitsOf v 0 25 + bitsOf v 64 224 * 2 ^ 64

/-- An FP32 encoding that is a NaN, or negative: nonzero with its sign 1 (R118). -/
def badThreshold (v : Nat) : Bool := decide (0x7F800000 < v % 2 ^ 31) || decide (2 ^ 31 < v)

/-- A policy block is refused (R118). -/
def badPolicy (v : Nat) : Bool :=
  let alm := bitsOf v 64 64
  let trap := bitsOf v 128 64
  decide (1024 < bitsOf v 8 11) || alm % 4096 != 0 || trap % 2048 != 0 || decide (2 ^ 56 ≤ alm) || decide (2 ^ 56 ≤ trap) ||
    badThreshold (bitsOf v 192 32) || badThreshold (bitsOf v 224 32) || (bitsOf v 8 11 != 0 && alm == 0)

/-- The commit of a numeric policy block (R117, R118): refused it sets POLICY_REJECTED; accepted it is held, and bit 31 clears POLICY_REJECTED. -/
def State.commitPolicy (s : State) (b : Nat) (w : W64) : State :=
  let c := (s.bank b).sel
  let x := s.ctx c
  let v := stagedBlock (s.bank b) 0x180 8 x.regs.policy.acc.toNat w
  let s1 := s.unstage b 0x180 8
  if x.st = .free then s1
  else if badPolicy v then (s1.setCtx c { x with regs := { x.regs with policyRejected := true } }).refuseWrite c
  else
    s1.setCtx c { x with regs := { x.regs with
      policy := { x.regs.policy with acc := BitVec.ofNat 512 (policyFields v), waits := true },
      policyRejected := x.regs.policyRejected && !bitAt v 31 } }

/-- The commit of a translation block (R299). -/
def State.commitTranslation (s : State) (b : Nat) (w : W64) : State :=
  let c := (s.bank b).sel
  let x := s.ctx c
  let v := stagedBlock (s.bank b) 0x1C0 2 x.regs.xlate.acc.toNat w
  let s1 := s.unstage b 0x1C0 2
  if x.st = .free then s1
  else if bitsOf v 0 16 ≠ 0 then s1.refuseWrite c
  else
    let f := bitsOf v 0 52 + bitsOf v 63 33 * 2 ^ 63
    s1.setCtx c { x with regs := { x.regs with xlate := { x.regs.xlate with acc := BitVec.ofNat 128 f, waits := true } } }

/-- An address of 56 bits, aligned to `n` bytes. -/
def badVa (a n : Nat) : Bool := decide (2 ^ 56 ≤ a) || a % n != 0

/-- A host block is refused (R344). -/
def badHost (x : Ctx) (v : Nat) : Bool :=
  let m := bitsOf v 8 5
  let dl := bitsOf v 32 32
  let e := bitsOf v 192 6
  decide (m < 7) || decide (20 < m) || decide (dl < 200) || decide (e < 12) || decide (36 < e) || badVa (bitsOf v 64 64) (2 ^ (m + 8)) ||
    badVa (bitsOf v 128 64) (2 ^ e) || (bitAt v 0 && decide (qLog2 x < 7))

/-- The fields of a host block that a write holds (R344). -/
def hostFields (v : Nat) : Nat := bitsOf v 0 1 + bitsOf v 8 5 * 2 ^ 8 + bitsOf v 32 166 * 2 ^ 32

/-- The commit of a host block (R344). -/
def State.commitHost (s : State) (b : Nat) (w : W64) : State :=
  let c := (s.bank b).sel
  let x := s.ctx c
  let v := stagedBlock (s.bank b) 0x1E0 4 x.regs.hostBlk.acc.toNat w
  let s1 := s.unstage b 0x1E0 4
  if x.st = .free then s1
  else if badHost x v then s1.refuseWrite c
  else s1.setCtx c { x with regs := { x.regs with hostBlk := { x.regs.hostBlk with acc := BitVec.ofNat 256 (hostFields v), waits := true } } }

/-- A write of INVAL_PAGES (R474): a range joins one that is held. -/
def State.submitInval (s : State) (b : Nat) (pages : Nat) : State :=
  let c := (s.bank b).sel
  let x := s.ctx c
  if x.st = .free then s
  else
    let va := bitsOf x.regs.invalVa.toNat 16 40 * 2 ^ 16
    let r : Nat × Nat := if pages = 0 then (0, 2 ^ 56) else (va, va + 65536 * pages)
    let m := match x.regs.invalHeld with
      | some h => (min h.1 r.1, max h.2 r.2)
      | none => r
    s.setCtx c { x with regs := { x.regs with invalHeld := some m, invalDone := false } }

/-- `POLICY_BLOCK_COMMIT`. -/
def execPolicyBlockCommit (b : Fin 128) (w : BitVec 64) (s : State) : Res := s.whenPowered fun t => t.commitPolicy b w

/-- `TRANSLATION_BLOCK_COMMIT`. -/
def execTranslationBlockCommit (b : Fin 128) (w : BitVec 64) (s : State) : Res := s.whenPowered fun t => t.commitTranslation b w

/-- `HOST_BLOCK_COMMIT`. -/
def execHostBlockCommit (b : Fin 128) (w : BitVec 64) (s : State) : Res := s.whenPowered fun t => t.commitHost b w

/-- `TRANSLATION_INVALIDATE`. -/
def execTranslationInvalidate (b : Fin 128) (pages : BitVec 32) (s : State) : Res := s.whenPowered fun t => t.submitInval b pages.toNat

/-- A write of a ring's address and size (R15, R472): only while STOPPED, 4 to 16, aligned to the ring's own size. -/
def State.writeRingWord (s : State) (c : Nat) (queue : Bool) (w : Nat) : State :=
  let x := s.ctx c
  let lg := bitsOf w 56 5
  let f := BitVec.ofNat 64 (bitsOf w 0 61)
  if x.st ≠ .stopped ∨ lg < 4 ∨ 16 < lg ∨ bitsOf w 0 56 % (2 ^ lg * (if queue then 256 else 32)) ≠ 0 then s.refuseWrite c
  else s.setCtx c { x with regs := if queue then { x.regs with queueWord := f } else { x.regs with complWord := f } }

/-- A write to the register set of the bank's context, from offset 0x108 on (R470, R472). A FREE context refuses it. -/
def State.writeCtxReg (s : State) (b off : Nat) (w : W64) : State :=
  let c := (s.bank b).sel
  let x := s.ctx c
  let v := w.toNat
  let hold := fun (f : CtxRegs → CtxRegs) => s.setCtx c { x with regs := f x.regs }
  if x.st = .free then s
  else if off = 0x108 then hold fun r => { r with prio := { r.prio with acc := BitVec.ofNat 64 (bitsOf v 0 4), waits := true } }
  else if off = 0x110 then s.writeRingWord c true v
  else if off = 0x118 then s.writeRingWord c false v
  else if off = 0x130 then s.freeRecords c (w.setWidth 32)
  else if off = 0x138 then
    (if bitsOf v 0 12 ≠ 0 then s.refuseWrite c
     else hold fun r => { r with groupFault := { r.groupFault with acc := BitVec.ofNat 64 (bitsOf v 0 56), waits := true } })
  else if off = 0x140 then
    (if bitsOf v 0 11 ≠ 0 then s.refuseWrite c
     else hold fun r => { r with eventLog := { r.eventLog with acc := BitVec.ofNat 64 (bitsOf v 0 56), waits := true } })
  else if off = 0x148 then
    hold fun r => { r with sources := { r.sources with acc := w &&& 0x9FFF9FFF#64, waits := true } }
  else if off = 0x1B8 then s.commitPolicy b w
  else if off = 0x1C8 then s.commitTranslation b w
  else if off = 0x1F8 then s.commitHost b w
  else if off = 0x1D0 then hold fun r => { r with invalVa := BitVec.ofNat 64 (bitsOf v 16 40 * 2 ^ 16) }
  else if off = 0x1D8 then s.submitInval b (bitsOf v 0 32)
  else if (0x180 ≤ off ∧ off < 0x1C8) ∨ (0x1E0 ≤ off ∧ off < 0x1F8) then s.stageWord b off w
  else s

/-- A write to a context bank (R467, R470). -/
def State.writeBank (s : State) (b off : Nat) (w : W64) : State :=
  if off = 0 then
    let x := s.bank b
    let c := bitsOf w.toNat 0 12
    if x.sel = c then s else s.setBank b { x with sel := c, staged := [] }
  else if off = 8 then s.ctxCommand b w.toNat
  else s.writeCtxReg b off w

/-- CTX_INFO (R470). -/
def ctxInfo (x : Ctx) : Nat :=
  ctxStateCode x.st + (x.part.getD 0) * 2 ^ 4 + ctxClass x * 2 ^ 7 + b2n (haltOnReject x) * 2 ^ 10 + b2n x.pendStart * 2 ^ 11 + b2n x.pendStop * 2 ^ 12 +
    b2n x.pendRebind.isSome * 2 ^ 13 + b2n x.part.isNone * 2 ^ 14

/-- What a read of a context register set returns (R468, R470). -/
def ctxReg (x : Ctx) (off : Nat) : Nat :=
  let r := x.regs
  let n := x.cnt
  if x.st = .free then 0
  else if off = 0x100 then ctxInfo x
  else if off = 0x108 then r.prio.acc.toNat
  else if off = 0x110 then r.queueWord.toNat
  else if off = 0x118 then r.complWord.toNat
  else if off = 0x120 then n.queueConsumed.toNat
  else if off = 0x128 then n.complProduced.toNat
  else if off = 0x130 then n.complConsumed.toNat
  else if off = 0x138 then r.groupFault.acc.toNat
  else if off = 0x140 then r.eventLog.acc.toNat
  else if off = 0x148 then r.sources.acc.toNat
  else if 0x180 ≤ off ∧ off < 0x1C0 then
    bitsOf (r.policy.acc.toNat + b2n r.policyRejected * 2 ^ 31 + n.trapCount.toNat * 2 ^ 288) (8 * (off - 0x180)) 64
  else if off = 0x1C0 ∨ off = 0x1C8 then bitsOf (r.xlate.acc.toNat + r.pagesPlaced % 2 ^ 32 * 2 ^ 96) (8 * (off - 0x1C0)) 64
  else if off = 0x1D0 then r.invalVa.toNat
  else if off = 0x1D8 then b2n r.invalDone * 2 ^ 62 + b2n r.invalHeld.isSome * 2 ^ 63
  else if 0x1E0 ≤ off ∧ off < 0x200 then bitsOf r.hostBlk.acc.toNat (8 * (off - 0x1E0)) 64
  else if off = 0x200 then n.energyMj % 2 ^ 64
  else if off = 0x208 then n.nextOp % 2 ^ 64
  else if off = 0x210 then n.eveCount.toNat
  else if off = 0x218 then n.noticeCount.toNat
  else if off = 0x220 then n.doorbellsIgnored + n.writesRefused * 2 ^ 16 + n.lastHalt * 2 ^ 32
  else 0

/-- What a read of a context bank returns (R470). -/
def State.readBank (s : State) (b off : Nat) : Nat :=
  let x := s.bank b
  if off = 0 then x.sel
  else if off = 0x10 then x.op + x.code * 2 ^ 4 + x.ctx * 2 ^ 16
  else if off < 0x100 then 0
  else ctxReg (s.ctx x.sel) off

/-- What a read of a doorbell page returns (R469). -/
def State.readBell (s : State) (c off : Nat) : Nat :=
  let x := s.ctx c
  if off = 8 then x.cnt.queueConsumed.toNat
  else if off = 0x10 then x.cnt.complProduced.toNat
  else if off = 0x18 then x.cnt.complConsumed.toNat
  else if off = 0x20 then ctxStateCode x.st
  else 0

/-- A write to a doorbell page (R469). -/
def State.writeBell (s : State) (c off : Nat) (w : W64) : State :=
  if off = 0 then s.ringBell c (w.setWidth 32) else if off = 0x18 then s.freeRecords c (w.setWidth 32) else s

end Sys2Proof.Machine
end

