-- ==== Sys2Proof/Machine/Detect.lean ====
section
/-! DEFINITION. What the diagnostics of R411 detect that no other command stands for (R241 to R243, R276, R415, R417, R422, R423): lockstep pairs, residue
errors with their repeat, parity errors of clean data, symbol-code errors of arrays, CRC retries, paired sensors and clock monitors. -/

namespace Sys2Proof.Machine

/-- The safety monitor's own pair disagrees (R411): a trip. The manual gives that trip no cause code (free value), and drives `PWR_TRIP_N` only for
the trips of R404 (R417; DEDUCED, log 70). -/
def State.monitorTrip (s : State) : State :=
  let f := s.free
  let low := s.power.tripLow
  let s1 := f.2.tripNow (f.1 % 256) (bitsOf f.1 8 8) (bitsOf f.1 16 32)
  { s1 with power := { s1.power with tripLow := low } }

/-- The unit of a lockstep pair is contained; a firewall's site is fenced, and the guest report of the cut-off has no violation to name (R411, R417; free
values, log 152). -/
def State.lockstepFails (s : State) : FaultUnit → State
  | .sequencer n => if s.integ.computeFenced.getD n false then s else s.fenceDie n 0x08 0x04 s.now (s.spanOfDie n)
  | .streamUnit v => if s.fenced (v / 16) 0x0A (v % 16) then s else (s.countError 0x0A (v / 16) (v % 16) id).fenceStreamUnit v 0x08 0x04
  | .home n => s.packageFault 0x08 0 (8 + n.val) 0
  | .hubSwitch h => s.packageFault 0x08 0 (16 + h.val) 0
  | .firewall g =>
    let f := s.free
    if hasGuests s.dev.variant then ((f.2.cutGuest g (bitsOf f.1 0 3) (bitsOf f.1 3 61)).addFence (16 + g) 0xF1 g 0x04).degrade.unitReport 0x08 0xF1 (16 + g) g false false true s.now [] else s
  | .irqSlice m => if m.val = 0 ∨ hasPd1 s.dev.variant then s.fencePd m 0x08 0x04 else s
  | .safetyMonitor => s.monitorTrip

/-- A tile of CS_n, by physical number, is in use or is the spare. -/
def State.tileLive (s : State) (n tile : Nat) : Bool :=
  !(s.integ.computeFenced.getD n false) && ((s.integ.tiles.getD n []).contains tile || (tile == 8 && s.integ.spare.getD n false))

/-- The tile that checks another outside a sentinel window: TILE_8 while it is a spare, else the tile half the logical positions on (R90, R416; the manual
names none there, DESIGN CHOICE, log 144). -/
def State.checkerOf (s : State) (n tile : Nat) : Nat :=
  let ts := s.integ.tiles.getD n []
  if s.integ.spare.getD n false && tile != 8 then 8 else ts.getD ((ts.idxOf tile + ts.length / 2) % ts.length) tile

/-- A residue error of a tile (R415): the row is repeated; a repeat that fails again enters the mismatch procedure of R413. -/
def State.tileResidue (s : State) (n tile : Nat) (again : Option SentinelResult) : State :=
  if !s.tileLive n tile then s
  else
    match again with
    | none => s.tileEvent n tile 0x02
    | some r => s.mismatch n tile (s.checkerOf n tile) r

/-- A residue error of a thread unit or of its fragment multiplier (R415): the instruction is replayed; a replay that fails again fences the unit, the
fragment multiplier with it (DEDUCED, log 180). -/
def State.unitResidue (s : State) (u : Nat) (again : Bool) : State :=
  if s.fenced (u / 64) 0x09 (u % 64) || s.integ.computeFenced.getD (u / 64) false then s
  else if again then s.fenceThreadUnit u 0x03 0x04
  else s.countError 0x09 (u / 64) (u % 64) fun t => t.fenceThreadUnit u 0x03 0x03

/-- A residue error of a stream unit's adders (R411, R423): its bucket fences the unit at the first. -/
def State.streamResidue (s : State) (v : Nat) : State :=
  if s.fenced (v / 16) 0x0A (v % 16) || s.integ.computeFenced.getD (v / 16) false then s
  else s.countError 0x0A (v / 16) (v % 16) fun t => t.fenceStreamUnit v 0x03 0x03

/-- A core is fenced (R417, R423): with the last core of the package it is a package fault. -/
def State.fenceCore (s : State) (k diag cause : Nat) : State :=
  let m := k / 48
  let s1 := s.addFence (18 + m) 0x0B (k % 48) cause
  let s2 := { s1 with integ := { s1.integ with cores := s1.integ.cores.set m (s1.integ.cores.getD m 0 - 1) } }
  let left := s2.integ.cores.getD 0 0 + (if hasPd1 s2.dev.variant then s2.integ.cores.getD 1 0 else 0)
  if left = 0 then s2.packageFault diag 0x0B (18 + m) (k % 48)
  else s2.degrade.unitReport diag 0x0B (18 + m) (k % 48) false false true s.now []

/-- Core `k` is present and not fenced (R1, R417). -/
def State.coreLive (s : State) (k : Nat) : Bool :=
  corePresent s.dev.variant k && !s.fenced (18 + k / 48) 0x0B (k % 48) && s.integ.cores.getD (k / 48) 0 != 0

/-- A residue error of a core (R415), or a parity error in its L1 caches, whose line is refetched (R242): counted on the core (R423). -/
def State.coreError (s : State) (k diag : Nat) : State :=
  if s.coreLive k then s.countError 0x0B (18 + k / 48) (k % 48) fun t => t.fenceCore k diag 0x03 else s

/-- A parity error in a line of a hamper (R242): the line is invalidated and read again, so it stays; its way is counted (R423). The hamper's ways lie
behind those of the stack cache (DESIGN CHOICE, log 140). -/
def State.hamperParity (s : State) (n ln : Nat) : State :=
  if s.inHamper n ln then
    let way := s.nearWays n + (s.geometry (128 * n + 64)).1
    s.countError 5 (8 + n) way fun t => t.fenceWay n way 0x05 0x03
  else s

/-- A symbol-code error in a block of a cache, as an access of its own agent meets it (R241, R243): the consuming context is refused. -/
def State.cacheBlock (s : State) (a ln : Nat) (uncorrectable : Bool) : State :=
  match s.copyOf a ln with
  | none => s
  | some _ => if uncorrectable then ((s.loseBlock a ln).refuse a ln 0 7 .demand).goOn else s.cacheError a ln

/-- A symbol-code error in a local store or in the registers of a group (R241, R243): an uncorrectable one fails the operation with 0x0203. The manual
has no class for these arrays; both kinds count on the unit (DESIGN CHOICE, log 144). The access has no address (free value, log 54). -/
def State.unitStore (s : State) (g : Nat) (uncorrectable : Bool) : State :=
  match s.group g with
  | none => s
  | some x =>
    match s.block x.blk with
    | none => s
    | some b =>
      let u := b.unit
      let s1 := s.countError 0x09 (u / 64) (u % 64) fun t => t.fenceThreadUnit u 0x04 0x03
      match s1.launch b.launch, uncorrectable with
      | some l, true =>
        let w := s1.postIndexed (integrityWord 0x04 0x09 (u / 64) (u % 64) 1 false false false s.now s.now 0 s1.integ.generation)
        let v := (w.1.notify 3 0 (leBytes w.2 64) none).free
        let r := v.2.hardFault l.ctx (unitAgent u) l.opIndex 0 ⟨7, 7, v.1 % 2 ^ 56, 0⟩
        r.2.stopLaunch b.launch (endWith 0x0203 r.1)
      | _, _ => s1

/-- A lane of a bridge or a bond fails (R423): two spare lanes for each link and direction, which are 256 lane numbers (DESIGN CHOICE, log 153), and then
a package fault. -/
def State.failLane (s : State) (die lane diag : Nat) : State :=
  let k := bucketKey 4 die (lane / 256 * 256)
  if s.sparesUsed k < 2 then s.useSpare k else s.packageFault diag 4 die lane

/-- A CRC retry on a lane of a bridge or a bond (R411, R423). -/
def State.bridgeRetry (s : State) (die lane : Nat) : State := s.countError 4 die lane fun t => t.failLane die lane 0x06

/-- What a detection leads to. -/
def State.detect (s : State) : Detection → State
  | .lockstep u => s.lockstepFails u
  | .residueTile n tile again => s.tileResidue n tile again
  | .residueThreadUnit u again => s.unitResidue u again
  | .residueFragment u again => s.unitResidue u again
  | .residueStreamUnit v => s.streamResidue v
  | .residueCore k again => if again then (if s.coreLive k then s.fenceCore k 0x03 0x04 else s) else s.coreError k 0x03
  | .residueCollective h again => if again then s.packageFault 0x03 0 (16 + h.val) 0 else s
  | .parityWeight _ _ => s
  | .parityHamper n ln => s.hamperParity n ln
  | .parityCore k _ _ => s.coreError k 0x05
  | .cacheBlock a ln uncorrectable => s.cacheBlock a ln uncorrectable
  | .memoryBlock ln =>
    if (homeOf (ln * 128)).isSome && s.backed (ln * 128) && (s.dirOf ln).st != .l && !s.bad.contains ln then { s with bad := s.bad ++ [ln] } else s
  | .directoryRow home row ln uncorrectable => s.directoryRow home row ln uncorrectable
  | .unitStore g uncorrectable => s.unitStore g uncorrectable
  | .bridgeRetry die lane => s.bridgeRetry die lane
  | .sensors die => s.sensorsDisagree die
  | .clock die => s.packageFault 0x0B 0 die 0

/-- DIAG of a detection and the logic die it names (R411, R418); the home of a line stands for memory. -/
def detectedAt : Detection → Nat × Nat
  | .lockstep u => (0x08, match u with
    | .sequencer n => n.val
    | .streamUnit v => v.val / 16
    | .home n => 8 + n.val
    | .hubSwitch h => 16 + h.val
    | .firewall g => 16 + g.val
    | .irqSlice m => 18 + m.val
    | .safetyMonitor => 63)
  | .residueTile n _ _ => (0x02, n.val)
  | .residueThreadUnit u _ | .residueFragment u _ => (0x03, u.val / 64)
  | .residueStreamUnit v => (0x03, v.val / 16)
  | .residueCore k _ => (0x03, 18 + k.val / 48)
  | .residueCollective h _ => (0x03, 16 + h.val)
  | .parityWeight n _ => (0x05, n.val)
  | .parityHamper n _ => (0x05, 8 + n.val)
  | .parityCore k _ _ => (0x05, 18 + k.val / 48)
  | .cacheBlock a _ _ => (0x04, dieOfAgent a)
  | .memoryBlock ln => (0x04, 8 + (homeOf (ln * 128)).getD 0)
  | .directoryRow home _ _ _ => (0x04, 8 + home.val)
  | .unitStore g _ => (0x04, g)
  | .bridgeRetry die _ => (0x06, die.val)
  | .sensors die => (0x0D, die.val)
  | .clock die => (0x0B, die.val)

/-- One detection comes before another of the same cycle: in ascending DIAG, then DIE (R420). -/
def detectedBefore (a b : Detection) : Bool :=
  let x := detectedAt a
  let y := detectedAt b
  decide (x.1 < y.1) || (x.1 == y.1 && decide (x.2 < y.2))

/-- A trip of the safety monitor, which overrides every other reaction of its cycle (R420). -/
def isTrip (d : Detection) : Bool := d == .lockstep .safetyMonitor

/-- `LOCKSTEP_MISMATCH` (R411, R415 to R417, R420, R242, R243): lockstep pairs disagree, or other diagnostics of R411 that have no row of their own detect
errors, in one fabric cycle (DESIGN CHOICE, log 144). Each is handled, in the order of R420, but for those that a trip overrides. A repeat that agrees leaves
the result as it was, and a tile whose weight register fails parity reloads it (R242). -/
def execLockstepMismatch (ds : List Detection) (s : State) : Res :=
  .next (((if ds.any isTrip then ds.filter isTrip else sortBy detectedBefore ds)).foldl (fun (t : State) d => t.detect d) s)

end Sys2Proof.Machine
end

