-- ==== Sys2Proof/Machine/Cores.lean ====
section
/-! DEFINITION. Processor cores as the package sees them: sleep and wake (R364, R365, R373), timers (R362, R380), and the registers of the
interrupt controller (R369, R377 to R380), and a core's own timer, interrupt and counter registers (R362, R364, R494). -/

namespace Sys2Proof.Machine

/-- Every copy of an agent goes home and leaves its cache: written back and invalidated (R364). -/
def State.flushAgent (s : State) (a : Nat) : State := (s.copiesWhere fun x => x == a).foldl (fun (t : State) e => t.withdraw e.1 e.2.1 e.2.2 false) s

/-- Every present core of PD_m sleeps at depth 2. -/
def State.dieAsleep (s : State) (m : Nat) : Bool := (List.range 48).all fun i => !s.coreLive (48 * m + i) || (s.irq.coreOf (48 * m + i)).sleep == 3

/-- DIE_OFF_OK of a slice in effect (R379). -/
def State.dieOffOk (s : State) (m : Nat) : Bool := bitAt (s.irq.sliceOf m).control.eff.toNat 16

/-- A die enters die off (R364, R365): its L3 is written back and invalidated, and a last Heartbeat parks its agents. -/
def State.enterDieOff (s : State) (m : Fin 2) : State :=
  let s1 := s.flushAgent (1056 + 64 * m)
  { s1 with
    irq := s1.irq.setSlice m { s1.irq.sliceOf m with dieOff := true }
    coh := { s1.coh with sent := s1.coh.sent ++ [⟨.pd m, [], true⟩] } }

/-- A die whose present cores all sleep at depth 2 and whose DIE_OFF_OK is 1 enters die off (R364). -/
def State.tryDieOff (s : State) (m : Fin 2) : State :=
  if s.dieLive (.pd m) && s.dieAsleep m && s.dieOffOk m && !(s.irq.sliceOf m).dieOff then s.enterDieOff m else s

/-- A core's L1 data cache is invalidated; it holds nothing dirty (R234, R364). -/
def State.dropL1Data (s : State) (k : Nat) : State := { s with coh := { s.coh with l1 := s.coh.l1.filter fun e => e.1 / 2 ^ 48 != 2 * k + 1 } }

/-- A core goes to sleep at its depth (R364): depth 1 or 2 empties its L1 data cache, and depth 2 of both cores of a pair the pair's L2. -/
def State.sleepCore (s : State) (k : Nat) : State :=
  let d := (s.irq.coreOf k).depth.eff
  let s0 := if d = 0 then s else s.dropL1Data k
  let s1 := { s0 with irq := s0.irq.setCore k { s0.irq.coreOf k with sleep := d + 1, wokenAt := none } }
  let mate := k / 2 * 4 + 1 - k
  if d = 2 ∧ ((s1.irq.coreOf mate).sleep = 3 ∨ !s1.coreLive mate) then s1.flushAgent (1024 + 64 * (k / 48) + k % 48 / 2) else s1

/-- When the first of the sources presented to a core was presented. -/
def Irq.shownSince (q : Irq) (k : Nat) : Option Nat :=
  q.src.foldl (fun m e =>
    match e.2.shown with
    | some (j, _) => if j = k then (match m with
        | some t => some (min t e.2.shownAt)
        | none => some e.2.shownAt) else m
    | none => m) none

/-- A local interrupt of a core is pending and enabled in `mie` (R364): bit 3 software, 5 and 6 supervisor and guest timer, 7 machine timer. -/
def State.localWake (s : State) (k : Nat) (bits : List Nat) : Bool := bits.any fun b => bitAt (s.mip k) b && bitAt (s.irq.coreOf k).mie.toNat b

/-- `WFI` (R364, R373): a core to which something is presented, or for which an enabled local interrupt is pending, does not sleep. -/
def execWfi (k : Fin 96) (s : State) : Res :=
  if !s.coreLive k || (s.irq.coreOf k).sleep != 0 || (s.irq.shownSince k).isSome || s.localWake k [3, 5, 6, 7] then .next s
  else
    .next ((s.sleepCore k).tryDieOff (if k.val < 48 then 0 else 1))

/-- Wake latency in ns (R364). -/
def wakeNs (sleep : Nat) (off : Bool) : Nat := if off then 200000 else if sleep = 2 then 2000 else if sleep = 3 then 10000 else 0

/-- What the debug access port can reach (R439). -/
inductive DapTarget where
  | idcode | bypass | coreDebug | aoRead | scan | memRaw
deriving DecidableEq, Repr

/-- The debug access port answers IDCODE and BYPASS, and what an open scope opens (R439): the debug module of the cores, the always-on logs and raw sensor
readings, the scan chains and tile test access, and physical memory. -/
def State.dapOpen (s : State) : DapTarget → Bool
  | .idcode | .bypass => true
  | .coreDebug => s.sec.scopes.getLsbD 0
  | .aoRead => s.sec.scopes.getLsbD 1
  | .scan => s.sec.scopes.getLsbD 2
  | .memRaw => s.sec.scopes.getLsbD 3

/-- The condition of a wake holds, or held while the core slept (R364, R373). A debug request reaches a core through the debug access port (R439). -/
def State.wakes (s : State) (k : Nat) (cause : WakeCause) : Bool :=
  (s.irq.coreOf k).wokenAt.isSome || (match cause with
  | .presentation => false
  | .timer => s.localWake k [5, 6, 7]
  | .software => s.localWake k [3]
  | .debug => s.dapOpen .coreDebug)

/-- `CORE_WAKE` (R364, R365): a core wakes, after its die where that is off; the die's Heartbeats resume first. -/
def execCoreWake (k : Fin 96) (cause : WakeCause) (s : State) : Res :=
  let c := s.irq.coreOf k
  if c.sleep = 0 ∨ !s.wakes k cause then .next s
  else
    let m : Fin 2 := if k.val < 48 then 0 else 1
    let off := (s.irq.sliceOf m).dieOff
    let from_ := c.wokenAt.getD s.now
    let s1 := s.advance (from_ + wakeNs c.sleep off)
    let s2 := { s1 with irq := s1.irq.setCore k { c with sleep := 0, wokenAt := none } }
    if off then
      .next { s2 with
        irq := s2.irq.setSlice m { s2.irq.sliceOf m with dieOff := false }
        coh := { s2.coh with sent := s2.coh.sent ++ [⟨.pd m, (dieAgents (.pd m)).filter fun a => s2.agentLive a, false⟩] } }
    else .next s2

/-- A compare register of a core (R360, R380). -/
def compareOf (c : CoreSt) : CoreTimer → W64
  | .mtimecmp => c.mtimecmp
  | .stimecmp => c.stimecmp
  | .vstimecmp => c.vstimecmp

/-- `TIMER_COMPARE_REACHED` (R364, R380): device time reaches a compare register, so that its interrupt is pending (`State.mip`); one of all ones is
never reached. -/
def execTimerCompareReached (k : Fin 96) (which : CoreTimer) (s : State) : Res :=
  let t := compareOf (s.irq.coreOf k) which
  if !corePresent s.dev.variant k || t == 0xFFFFFFFFFFFFFFFF#64 then .next s else .next (s.advance t.toNat)

/-- The last accepted value of a held word of the controller, or the one in effect. -/
def Irq.accepted (q : Irq) (kind n : Nat) (eff : BitVec 128) : BitVec 128 :=
  match q.held.find? fun h => h.kind == kind && h.n == n with
  | some h => h.v
  | none => eff

/-- A write of a source's configuration (R369, R378), through slice `m`. -/
def State.writeSource (s : State) (m n : Nat) (v : Nat) : State :=
  if bitsOf v 16 16 = 0 ∨ 65000 < bitsOf v 32 16 then { s with irq := s.irq.ignore m }
  else { s with irq := s.irq.hold 0 n (BitVec.ofNat 128 (bitsOf v 0 12 + bitsOf v 16 32 * 2 ^ 16)) s.now }

/-- The cores that an affinity set may name (R367, R369). -/
def affinityAllowed (v : Variant) (a : Nat) : Nat := if a < 32 then 2 ^ 48 - 1 else if hasPd1 v then (2 ^ 48 - 1) * 2 ^ 48 else 0

/-- A write of one half of an affinity set (R369). -/
def State.writeAffinity (s : State) (m a half v : Nat) : State :=
  let w := (if half = 0 then v else v % 2 ^ 32) * 2 ^ (64 * half)
  if w &&& affinityAllowed s.dev.variant a ≠ w then { s with irq := s.irq.ignore m }
  else
    let old := (s.irq.accepted 1 a (s.irq.aff.getD a 0)).toNat
    { s with irq := s.irq.hold 1 a (BitVec.ofNat 128 (setBits old (64 * half) 64 (w / 2 ^ (64 * half)))) s.now }

/-- A local interrupt that wakes a sleeping core keeps its wake, also when it is withdrawn before the core runs (R364). -/
def State.keepWake (s : State) (k : Nat) : State :=
  let c := s.irq.coreOf k
  if c.sleep ≠ 0 ∧ c.wokenAt.isNone ∧ s.localWake k [3, 5, 6, 7] then { s with irq := s.irq.setCore k { c with wokenAt := some s.now } } else s

/-- A write to a core block (R380). -/
def State.writeCore (s : State) (k off : Nat) (w : W64) : State :=
  if !corePresent s.dev.variant k then s
  else if off = 0 then s.setThreshold k .s w
  else if off = 0x10 then s.completeWrite k .s w
  else if off = 0x40 then s.setThreshold k .m w
  else if off = 0x50 then s.completeWrite k .m w
  else if off = 0x60 then
    (if bitsOf w.toNat 0 2 = 3 then { s with irq := s.irq.ignore (sliceOfCore k) }
     else { s with irq := s.irq.hold 3 k (BitVec.ofNat 128 (bitsOf w.toNat 0 2)) s.now })
  else if off = 0x70 then
    let t := s.keepWake k
    { t with irq := t.irq.setCore k { t.irq.coreOf k with mtimecmp := w } }
  else if off = 0x78 then
    let t := s.keepWake k
    { t with irq := t.irq.setCore k { t.irq.coreOf k with msip := bitAt w.toNat 0 } }
  else s

/-- What a read of a core block returns (R380); CLAIM is a read of its own. -/
def State.readCore (s : State) (k off : Nat) : Nat :=
  let c := s.irq.coreOf k
  let prio := fun lv => (s.irq.curPrio k lv + 31) % 32
  if !corePresent s.dev.variant k then 0
  else if off = 0 then c.thrS
  else if off = 0x40 then c.thrM
  else if off = 0x60 then (s.irq.accepted 3 k (BitVec.ofNat 128 c.depth.eff)).toNat
  else if off = 0x68 then prio .s + prio .m * 2 ^ 8 + c.sleep * 2 ^ 16
  else if off = 0x70 then c.mtimecmp.toNat
  else if off = 0x78 then b2n c.msip
  else 0

/-- A write to slice block `m` (R377). -/
def State.writeSlice (s : State) (m off : Nat) (w : W64) : State :=
  if m = 1 ∧ !hasPd1 s.dev.variant then s
  else if off < 0x10000 then s.writeSource m (off / 8) w.toNat
  else if off < 0x20000 then s.maskSource ((off - 0x10000) / 8) w
  else if off < 0x20400 then s.writeAffinity m ((off - 0x20000) / 16) (off / 8 % 2) w.toNat
  else if off = 0x20400 then s.setPendWrite m w
  else if off = 0x20408 then { s with irq := s.irq.hold 2 m (BitVec.ofNat 128 (bitsOf w.toNat 0 17)) s.now }
  else if 0x30000 ≤ off ∧ off < 0x31800 then s.writeCore (48 * m + (off - 0x30000) / 128) (off % 128) w
  else s

/-- A source's state word (R378). -/
def Irq.stateWord (q : Irq) (n : Nat) : Nat :=
  let x := q.srcOf n
  let core := match x.shown with
    | some (k, _) => k % 48
    | none => 127
  b2n x.pend + b2n x.service.isSome * 2 + b2n x.mask * 4 + core * 2 ^ 16 + x.count * 2 ^ 32

/-- What a read of slice block `m` returns (R377 to R380). -/
def State.readSlice (s : State) (m off : Nat) : Nat :=
  if m = 1 ∧ !hasPd1 s.dev.variant then 0
  else if off < 0x10000 then (s.irq.accepted 0 (off / 8) (BitVec.ofNat 128 (s.irq.cfgOf (off / 8)))).toNat
  else if off < 0x20000 then s.irq.stateWord ((off - 0x10000) / 8)
  else if off < 0x20400 then
    bitsOf (s.irq.accepted 1 ((off - 0x20000) / 16) (s.irq.aff.getD ((off - 0x20000) / 16) 0)).toNat (64 * (off / 8 % 2)) 64
  else if off = 0x20408 then
    let x := s.irq.sliceOf m
    bitsOf (s.irq.accepted 2 m (x.control.eff.setWidth 128)).toNat 0 17 + x.reroutes * 2 ^ 32 + x.ignored * 2 ^ 48
  else if 0x30000 ≤ off ∧ off < 0x31800 then s.readCore (48 * m + (off - 0x30000) / 128) (off % 128)
  else 0

/-- The exception of a read of a counter in a mode, by its bit of the `counteren` registers: 1 `time`, 3 + i `hpmcounter3 + i` (R494; the causes are
those of the RISC-V architecture, PRESUMED, log 145). -/
def counterDenied (c : CoreSt) (mode : CoreMode) (i : Nat) : Option Nat :=
  match mode with
  | .m => none
  | .hs => if bitAt c.mcounteren.toNat i then none else some 2
  | .u => if bitAt c.mcounteren.toNat i && bitAt c.scounteren.toNat i then none else some 2
  | .vs => if !bitAt c.mcounteren.toNat i then some 2 else if bitAt c.hcounteren.toNat i then none else some 22
  | .vu => if !bitAt c.mcounteren.toNat i then some 2 else if bitAt c.hcounteren.toNat i && bitAt c.scounteren.toNat i then none else some 22

/-- The exception of an access to one of these registers by its number: machine registers in mode M, `hcounteren` and `vstimecmp` in HS and above,
`scounteren` and `stimecmp` in every supervisor mode, `time` and `hpmcounter` read-only and by the enables (R494; PRESUMED, log 145). -/
def csrDenied (c : CoreSt) (x : CsrAccess) : Option Nat :=
  let guest := x.mode = .vs ∨ x.mode = .vu
  if x.csr = 0xC01 ∨ (0xC03 ≤ x.csr ∧ x.csr < 0xC0B) then (if x.write.isSome then some 2 else counterDenied c x.mode (x.csr - 0xC00))
  else if x.csr = 0x606 ∨ x.csr = 0x24D then (if x.mode = .m ∨ x.mode = .hs then none else if guest then some 22 else some 2)
  else if x.csr = 0x106 ∨ x.csr = 0x14D then (if x.mode = .u then some 2 else if x.mode = .vu then some 22 else none)
  else if x.mode = .m then (if x.csr = 0xF14 ∧ x.write.isSome then some 2 else none)
  else some 2

/-- Replaces one counter of a core. -/
def CoreSt.setHpm (c : CoreSt) (i : Nat) (h : Hpm) : CoreSt := { c with hpm := c.hpm.set i h }

/-- One counter of a core. -/
def CoreSt.hpmOf (c : CoreSt) (i : Nat) : Hpm := c.hpm.getD i ⟨settled 0, 0⟩

/-- What one of a core's registers reads: `time` device time (R362), `mhartid` the core's number (R360), an event register the value last written (R494). In VS mode `stimecmp` is
`vstimecmp` (PRESUMED, log 145). -/
def State.csrValue (s : State) (k : Nat) (mode : CoreMode) (csr : Nat) : Option W64 :=
  let c := s.irq.coreOf k
  if 0x323 ≤ csr ∧ csr < 0x32B then some (c.hpmOf (csr - 0x323)).event.acc
  else if 0xB03 ≤ csr ∧ csr < 0xB0B then some (c.hpmOf (csr - 0xB03)).count
  else if 0xC03 ≤ csr ∧ csr < 0xC0B then some (c.hpmOf (csr - 0xC03)).count
  else if csr = 0xC01 then some (BitVec.ofNat 64 s.now)
  else if csr = 0x14D then some (if mode = .vs then c.vstimecmp else c.stimecmp)
  else if csr = 0x24D then some c.vstimecmp
  else if csr = 0x304 then some c.mie
  else if csr = 0x344 then some (BitVec.ofNat 64 (s.mip k))
  else if csr = 0x306 then some (c.mcounteren.setWidth 64)
  else if csr = 0x606 then some (c.hcounteren.setWidth 64)
  else if csr = 0x106 then some (c.scounteren.setWidth 64)
  else if csr = 0xF14 then some (BitVec.ofNat 64 k)
  else none

/-- A write of one of a core's registers (R364, R494): a new event is held for the next tick boundary. Bit 13 of `mip` is the overflow interrupt of
Sscofpmf. -/
def csrWrite (c : CoreSt) (mode : CoreMode) (csr : Nat) (v : W64) : CoreSt :=
  if 0x323 ≤ csr ∧ csr < 0x32B then
    let h := c.hpmOf (csr - 0x323)
    c.setHpm (csr - 0x323) { h with event := { h.event with acc := v, waits := true } }
  else if 0xB03 ≤ csr ∧ csr < 0xB0B then c.setHpm (csr - 0xB03) { c.hpmOf (csr - 0xB03) with count := v }
  else if csr = 0x14D then (if mode = .vs then { c with vstimecmp := v } else { c with stimecmp := v })
  else if csr = 0x24D then { c with vstimecmp := v }
  else if csr = 0x304 then { c with mie := v }
  else if csr = 0x306 then { c with mcounteren := v.setWidth 32 }
  else if csr = 0x606 then { c with hcounteren := v.setWidth 32 }
  else if csr = 0x106 then { c with scounteren := v.setWidth 32 }
  else if csr = 0x344 then { c with lcofi := bitAt v.toNat 13 }
  else c

/-- A core's access to one of those registers (R362, R364, R494): a read leaves the package as a core's, at 2^60 + 4,096 × core + register; a refused access
raises the core's exception with a trap value of its own (free value, log 145). -/
def State.csrAccess (s : State) (x : CsrAccess) : State :=
  let c := s.irq.coreOf x.core
  if !s.coreLive x.core then s
  else
    match csrDenied c x, x.write with
    | some cause, _ => { (s.free).2 with irq := s.irq.setCore x.core { c with cause := cause, tval := BitVec.ofNat 64 (s.free).1 } }
    | none, some v => { s with irq := s.irq.setCore x.core (csrWrite c x.mode x.csr v) }
    | none, none =>
      match s.csrValue x.core x.mode x.csr with
      | some v => s.answer (2 ^ 60 + 4096 * x.core.val + x.csr) (leBytes v.toNat 8)
      | none => s

/-- The codes that an event register may hold (R494): L1 data miss to branch mispredictions. -/
def hpmCounts (event : W64) : Bool := decide (0x500 ≤ bitsOf event.toNat 0 16) && decide (bitsOf event.toNat 0 16 ≤ 0x507)

/-- A counter has counted `n` (R494): an overflow sets OF, bit 63 of its event register, and where that was clear raises the overflow interrupt of
Sscofpmf. -/
def CoreSt.countHpm (c : CoreSt) (i n : Nat) : CoreSt :=
  let h := c.hpmOf i
  if !hpmCounts h.event.eff then c
  else
    let v := h.count.toNat + n
    if v < 2 ^ 64 then c.setHpm i { h with count := BitVec.ofNat 64 v }
    else
      let of := 0x8000000000000000#64
      let c1 := c.setHpm i { event := { h.event with acc := h.event.acc ||| of, eff := h.event.eff ||| of }, count := BitVec.ofNat 64 v }
      { c1 with lcofi := c.lcofi || !bitAt h.event.eff.toNat 63 }

/-- The event registers of a core at a tick boundary: counting under a new code starts (R40, R494). -/
def CoreSt.latchHpm (c : CoreSt) : CoreSt := { c with hpm := c.hpm.map fun h => { h with event := settled h.event.acc } }

/-- The counters of the cores at a tick boundary (R494). -/
def State.tickCores (s : State) (m : TickMeasure) : State :=
  let s1 := m.csrs.foldl (fun (t : State) x => t.csrAccess x) s
  let s2 := m.hpm.foldl (fun (t : State) e => { t with irq := t.irq.setCore e.1 ((t.irq.coreOf e.1).countHpm e.2.1 e.2.2) }) s1
  { s2 with irq := (s2.irq.cores.map Prod.fst).foldl (fun (q : Irq) k => q.setCore k (q.coreOf k).latchHpm) s2.irq }

end Sys2Proof.Machine
end

