-- ==== Sys2Proof/WellFormed.lean ====
section
/-! DEFINITION. Which commands are well formed. An operand that names a unit is a `Fin`; what is checked here are the relations
the manual states between operands: lengths, alignment, and how many readings one event carries. -/

namespace Sys2Proof

/-- Lines of the 52-bit physical map (R53, R235). -/
def lineOk (ln : Nat) : Bool := decide (ln < 2 ^ 45)

/-- A measure taken at a latch point names five levels for each signature (R83) and 17 grid points (R397). -/
def LatchMeasure.wf (m : LatchMeasure) : Bool :=
  m.sigs.all (fun g => g.levels.length == 5 && decide (g.arrayPct ≤ 100) && g.levels.all (fun x => decide (x ≤ 100)))
    && m.predictW.length == 17

/-- A measure taken at a tick names both processor dies, each with 25 grid points (R397), and eight partitions (R456). -/
def TickMeasure.wf (m : TickMeasure) : Bool :=
  m.othersW.length == 2 && m.predictW.length == 2 && m.predictW.all (fun l => l.length == 25) && m.parts.length == 8 &&
    m.parts.all LatchMeasure.wf

/-- Packets carry at most 4,064 bytes of payload (R317). -/
def Packet.wf (pk : Packet) : Bool := decide (pk.payload.length ≤ 4064)

/-- A flit holds 512 bytes and reports on the five lanes of its port (R304, R307). -/
def Flit.wf (f : Flit) : Bool := f.corrected.length == 5 && f.data.length == 512

/-- Byte offsets of a partial write lie in the line, none twice (R255). -/
def PartialWrite.wf (w : PartialWrite) : Bool := w.bytes.all (fun e => decide (e.1 < 128)) && decide ((w.bytes.map Prod.fst).Nodup)

/-- An atomic covers 4 or 8 naturally aligned bytes of its line (R195, R262). -/
def AtomicReq.wf (w : AtomicReq) : Bool := (w.size == 4 || w.size == 8) && w.offset % w.size == 0 && decide (w.offset + w.size ≤ 128)

/-- A header's length field names the data that follow it (R449). -/
def UleelMsg.wf (m : UleelMsg) : Bool := decide (m.data.length ≤ 1024)

/-- A configuration access covers 1, 2 or 4 naturally aligned bytes (R481). -/
def ConfigAcc.wf (a : ConfigAcc) : Bool := (a.size == 1 || a.size == 2 || a.size == 4) && a.offset % a.size == 0

/-- An access to the register space names an offset in its 16 GiB (R465). -/
def RegAccess.wf (r : RegAccess) : Bool := decide (r.offset < 2 ^ 34)

/-- A request for a processor core comes from the L2 of its pair (R248). -/
def ReqCause.wf (y : ReqCause) (a : Nat) : Bool :=
  match y with
  | .core k _ _ => a == 1024 + 64 * (k / 48) + k % 48 / 2
  | _ => true

/-- The well-formed commands. -/
def Instr.wf : Instr → Bool
  | .eveLatchPoint _ m | .releasePoint _ m | .quiesceDrain _ m => m.wf
  | .tickBoundary m => m.wf
  | .registerWrite r => r.wf
  | .readShared q ln _ | .readExclusive q ln _ | .ownNoData q ln => lineOk ln && q.why.wf q.agent
  | .upgrade _ ln _ | .readOnce _ ln _ | .notHeld _ ln _ => lineOk ln
  | .inval _ ln | .data _ ln
  | .dataOnce _ ln | .ack _ ln | .invalAck _ ln | .wbAck _ ln => lineOk ln
  | .fwdShared _ ln h | .fwdOwn _ ln h | .fwdOnce _ ln h | .fwdRecall _ ln h => lineOk ln && h.w.wf
  | .wbDirty _ ln x => lineOk ln && x.w.wf
  | .dirtyNotice _ ln w => lineOk ln && w.wf
  | .writeLine _ ln d => lineOk ln && d.length == 128
  | .writePartial _ ln w _ => lineOk ln && w.wf
  | .atomicAtHome _ ln w _ => lineOk ln && w.wf
  | .scrubRead _ ln _ => lineOk ln
  | .ingressQueueWrite _ _ d | .ingressDataWrite _ _ d | .hostDoorbell _ _ d | .egressAck _ _ d | .egressRegistration _ _ d =>
    decide (d.length ≤ 512)
  | .dramTempReading t => t.length == 16
  | .stackTempReading t => t.length == 20
  | .flitReceive _ f => f.wf
  | .portTrainingDone _ r => r.lanes.length == 5
  | .remoteWrite pk | .deliveryAck pk | .collectiveData pk | .paceBeacon pk | .lossNotice pk
  | .paradeRequest pk | .paradeData pk => pk.wf
  | .configAccess _ a => a.wf
  | .fetchResponse m | .fenceRecordFetch m | .read _ m | .write _ m | .readSegment _ m | .writeSegment _ m => m.wf
  | .ownerDebugKeyHash _ d => d.length == 48
  | _ => true

end Sys2Proof
end

