-- ==== Sys2Proof/Machine/Guests.lean ====
section
/-! DEFINITION. Guest dies behind the hub firewall (R381 to R387) and what comes through PE1 (R388 to R390, R481). -/

namespace Sys2Proof.Machine

/-- The first guest or endpoint address of a window (R385). -/
def winBase (w : Nat) : Nat := bitsOf w 16 32 * 2 ^ 16

/-- The bytes of a window (R385). -/
def winBytes (w : Nat) : Nat := 2 ^ bitsOf w 8 6

/-- The physical address a window starts at (R385). -/
def winPa (w : Nat) : Nat := bitsOf w 80 36 * 2 ^ 16

/-- A valid window holds `n` bytes from `a` (R385). -/
def winHolds (w a n : Nat) : Bool := bitAt w 0 && decide (winBase w ≤ a) && decide (a + n ≤ winBase w + winBytes w)

/-- The 16 windows of an index in effect (R385, R390). -/
def State.windows (s : State) (ix : Nat) : List Nat := (List.range 16).map fun w => s.effNat ix (w + 1)

/-- A value is refused as a window of an index (R385), valid or not: a base off its size, or a physical range outside the stacked DRAM, near memory and CXL
ranges; a valid one also when it overlaps another valid window. SIZE_LOG2 is 16 to 42, but a window that is not valid may leave it at its reset value
0 (DEDUCED, log 182). -/
def badWindow (others : List Nat) (w : Nat) : Bool :=
  let n := winBytes w
  let first := regionOf (winPa w)
  let last := regionOf (winPa w + n - 1)
  let mem := fun (r : Region) => match r with
    | .dram _ | .near _ | .cxl => true
    | _ => false
  (decide (bitsOf w 8 6 < 16) && (bitAt w 0 || bitsOf w 8 6 != 0)) || decide (42 < bitsOf w 8 6) || winBase w % n != 0 || winPa w % n != 0 || !mem first ||
    !mem last || (bitAt w 0 && others.any fun o => bitAt o 0 && decide (winBase o < winBase w + n) && decide (winBase w < winBase o + winBytes o))

/-- A request's address. -/
def busAddr : BusRequest → Nat
  | .read a _ | .write a _ | .atomic a _ _ _ _ | .malformed a => a

/-- A request's bytes. -/
def busLen : BusRequest → Nat
  | .read _ n => n
  | .write _ d => d.length
  | .atomic _ n _ _ _ => n
  | .malformed _ => 0

/-- A request that no port accepts as formed (R381): an AtomicOp is FetchAdd, Swap or CAS of 4 or 8 aligned bytes. -/
def busBad : BusRequest → Bool
  | .atomic a n op _ _ => !(n == 4 || n == 8) || a % n != 0 || !(op == .add || op == .exch || op == .cas)
  | .malformed _ => true
  | q => (busLen q) == 0

/-- The rights a request needs of its window (R385). -/
def busAllowed (q : BusRequest) (w : Nat) : Bool :=
  match q with
  | .read _ _ => bitAt w 1
  | .write _ _ => bitAt w 2
  | .atomic _ _ _ _ _ => bitAt w 1 && bitAt w 2 && bitAt w 3
  | .malformed _ => false

/-- A request of guest `dst`, or below port `dst - 2`, wakes the site or PE1 (R408). -/
def State.busWake (s : State) (dst : Nat) : State := s.ungate (if dst < 2 then .guestSite (Fin.ofNat 2 dst) else .pcie 1)

/-- An answer to guest `dst`, or to the endpoints of port `dst - 2`: data, or none for an abort. -/
def State.busReply (s : State) (dst : Nat) (d : Option (List Byte)) : State :=
  { s.busWake dst with out := { s.out with replies := (dst, d) :: s.out.replies } }

/-- The class of a request's access (R298). -/
def busAcc : BusRequest → Nat
  | .read _ _ | .malformed _ => accRead
  | .write _ _ => accWrite
  | .atomic _ _ _ _ _ => accAtomic

/-- What a passed request does at the home (R262, R263, R386): its data, or a record with CONTEXT 0xFFF and an abort. -/
def State.busPerform (s : State) (agent dst : Nat) (q : BusRequest) (pa : Nat) : State :=
  match (s.busWake dst).checkPa (busAcc q) (busAddr q) pa (busLen q) with
  | (s1, some h) =>
    let s2 := if h.kind = 7 then s1.lineReport (h.pa / 128) 1 else s1
    let i := s2.takeIndex
    (i.2.postFq (faultRecord h.kind (busAcc q) false h.level agent 0xFFF 0 h.va h.pa i.1 i.2.now)).busReply dst none
  | (s1, none) =>
    match q with
    | .read _ n => s1.busReply dst (some (s1.rdBytes pa n))
    | .write _ d => s1.wrBytes pa d
    | .atomic _ n op v cmp =>
      let old := s1.rdNat pa n
      (s1.wrBytes pa (leBytes (atomNew op n old (v.toNat % 2 ^ (8 * n)) (cmp.toNat % 2 ^ (8 * n))) n)).busReply dst (some (leBytes old n))
    | .malformed _ => s1

/-- The violation of a guest's request, when it is one (R387). -/
def State.violation (s : State) (g : Nat) (q : BusRequest) : Option Nat :=
  if busBad q then some 3
  else if (busAddr q) / 128 ≠ ((busAddr q) + (busLen q) - 1) / 128 then some 2
  else
    match (s.windows (0x4210 + g)).find? fun w => winHolds w (busAddr q) (busLen q) with
    | none => some 0
    | some w => if busAllowed q w then none else some 1

/-- The tokens of a guest's bucket now (R386). -/
def State.tokensNow (s : State) (g : Nat) : Nat :=
  let x := s.guest g
  min 65536 (x.tokens + s.effNat 0x4203 (g + 1) * (s.now - x.filledAt))

/-- A request waits until the bucket holds its bytes, and takes them (R386). -/
def State.takeTokens (s : State) (g n : Nat) : State :=
  let r := s.effNat 0x4203 (g + 1)
  let s1 := if n ≤ s.tokensNow g ∨ r = 0 then s else s.advance (s.now + (n - s.tokensNow g + r - 1) / r)
  { s1 with guests := s1.guests.set g { s1.guest g with tokens := s1.tokensNow g - n, filledAt := s1.now } }

/-- `GUEST_REQUEST` (R385 to R387): a request of an admitted guest at the firewall. -/
def execGuestRequest (g : Fin 2) (q : BusRequest) (s : State) : Res :=
  if (s.guest g).state ≠ 5 then .next s
  else
    match s.violation g q with
    | some c => .next (s.cutGuest g c (busAddr q))
    | none =>
      match (s.windows (0x4210 + g)).find? fun w => winHolds w (busAddr q) (busLen q) with
      | some w => .next ((s.takeTokens g (busLen q)).busPerform (1160 + g) g q (winPa w + ((busAddr q) - winBase w)))
      | none => .next s

/-- `GUEST_BRINGUP_STEP` (R382, R383): training or attestation ends. -/
def execGuestBringupStep (g : Fin 2) (r : BringupResult) (s : State) : Res :=
  let x := s.guest g
  let anchor := s.accNat 0x4205 (g + 1)
  if x.state = 2 then .next { s with guests := s.guests.set g { x with state := if r.ok then 3 else 7 } }
  else if x.state = 3 then
    if r.ok && r.signed && anchor != 0 && r.rootDigest.toNat == anchor then
      .next { s with guests := s.guests.set g { x with state := 4, barBase := r.barBase, barBytes := r.barBytes, measurements := r.measurements } }
    else .next { s with guests := s.guests.set g { x with state := 7 } }
  else .next s

/-- A write of `GuestControl` (R384): admission in state 4, reset in states 4 to 7; it acts at the next tick boundary. -/
def State.askGuest (s : State) (g v : Nat) : State × Nat :=
  let x := s.guest g
  if (v = 1 ∧ x.state = 4) ∨ (v = 2 ∧ 4 ≤ x.state) then ({ s with guests := s.guests.set g { x with control := v } }, 0) else (s, abState)

/-- What waits for a guest acts at a tick boundary (R384): a reset cuts the guest off under R387, whose report names no cause and no address of a reset (free
values, log 152), and starts again at training, at the rate it then holds. -/
def State.guestTick (s : State) (g : Nat) : State :=
  let x := s.guest g
  let s1 := { s with guests := s.guests.set g { x with control := 0, tokens := s.tokensNow g, filledAt := s.now } }
  if x.control = 1 ∧ x.state = 4 then { s1 with guests := s1.guests.set g { s1.guest g with state := 5 } }
  else if x.control = 2 then
    let v := s1.free
    let c := v.2.cutGuest g (v.1 % 8) (v.1 / 8)
    let s2 := { c with guests := c.guests.set g { c.guest g with state := 2, barBase := 0, barBytes := 0, measurements := [] } }
    if s2.isHeld 0x4202 (g + 1) then s2.applyEntry (entryKey 0x4202 (g + 1)) else s2
  else s1

/-- The bus address of the endpoints' message page (R481). -/
abbrev messagePage : Nat := 0x00FFFFFFF000

/-- An endpoint's message counts an event on the source in its data (R379, R390). -/
def State.endpointMessage (s : State) (port : Nat) (d : List Byte) : State :=
  if d.length = 4 then (s.busWake (2 + port)).raise (bitsOf (leNat d) 0 13) else s.busReply (2 + port) none

/-- A PE1 port carries endpoint requests (R388, R390). -/
def State.rootPort (s : State) (port : Nat) : Bool := s.pe1Mode port == 2 && (s.pe1Port port).linkUp

/-- A DMA request is refused and counted (R390). -/
def State.refuseDma (s : State) (port : Nat) : State :=
  let x := s.pe1Port port
  (({ s with pe1 := s.pe1.set port { x with refusedDma := x.refusedDma + 1 } }).countEv 17 0x209 0 none 1).busReply (2 + port) none

/-- `PE1_DMA_REQUEST` (R385, R390): checked against the port's windows, which serve every requester. -/
def execPe1DmaRequest (port : Fin 2) (_requester : BitVec 16) (q : BusRequest) (s : State) : Res :=
  if !s.rootPort port then .next s
  else if (busAddr q) / 4096 = messagePage / 4096 ∧ (busAcc q) = accWrite then
    match q with
    | .write a d => .next (if a = messagePage then s.endpointMessage port d else s.busReply (2 + port.val) none)
    | _ => .next s
  else if busBad q then .next (s.refuseDma port)
  else
    match (s.windows (0x4310 + port)).find? fun w => winHolds w (busAddr q) (busLen q) with
    | some w => if busAllowed q w then .next (s.busPerform 1153 (2 + port.val) q (winPa w + ((busAddr q) - winBase w))) else .next (s.refuseDma port)
    | none => .next (s.refuseDma port)

/-- `PE1_MESSAGE_WRITE` (R390, R481). -/
def execPe1MessageWrite (port : Fin 2) (d : List Byte) (s : State) : Res :=
  if s.rootPort port then .next (s.endpointMessage port d) else .next s

/-- `CXL_LINK_DROP` (R389): the expander's range becomes unbacked. -/
def execCxlLinkDrop (port : Fin 2) (s : State) : Res :=
  if s.pe1Mode port = 1 then .next { s with pe1 := s.pe1.set port { s.pe1Port port with linkUp := false } } else .next s

/-- The offset of a configuration window in the register space (R465). -/
def configBase (port : Nat) : Nat := 0x10000000 * (port + 1)

/-- A PE1 port is on: it exists in the present bifurcation and its mode is not 0 (R388, R481). -/
def State.pe1On (s : State) (port : Nat) : Bool := hasPd1 s.dev.variant && (port == 0 || s.effNat 0x4300 1 == 1) && s.pe1Mode port != 0

/-- What an access reads of the root port's own configuration space (R481; free values, log 183). -/
def Pe1Port.configBytes (x : Pe1Port) (off n : Nat) : List Byte := (List.range n).map fun i => Config.rootPortByte x.config (off + i)

/-- A configuration access of 1, 2 or 4 aligned bytes (R466, R481): bus 0, device 0, function 0 is the root port itself, and every other function is reached
over the link; all ones when nothing answers, and while the port is off or absent. -/
def State.configAccess (s : State) (port : Nat) (a : ConfigAcc) : State :=
  let off := configBase port + a.offset
  if !a.wf then
    let s1 := { s with fq := { s.fq with accessErrors := satInc 32 s.fq.accessErrors } }
    if a.isWrite then s1 else s1.answer off (leBytes 0 a.size)
  else
    let x := s.pe1Port port
    if !s.pe1On port then (if a.isWrite then s else s.answer off (List.replicate a.size 0xFF))
    else if a.offset < 4096 then
      (if a.isWrite then { s with pe1 := s.pe1.set port { x with config := tabPutList 0 x.config a.offset (leBytes a.value.toNat a.size) } }
       else s.answer off (x.configBytes a.offset a.size))
    else
      let t := s.ungate (.pcie 1)
      if a.isWrite then (if x.linkUp then { t with out := { t.out with io := (off, leBytes a.value.toNat a.size) :: t.out.io } } else t)
      else
        t.answer off (match a.response with
          | some v => if x.linkUp then leBytes v.toNat a.size else List.replicate a.size 0xFF
          | none => List.replicate a.size 0xFF)

/-- `CONFIG_ACCESS` (R481). -/
def execConfigAccess (port : Fin 2) (a : ConfigAcc) (s : State) : Res := s.whenPowered fun t => t.configAccess port a

end Sys2Proof.Machine
end

