-- ==== Sys2Proof/Machine/Values.lean ====
section
/-! DEFINITION. What a read of each entry of the dictionary returns (R444, R446), which entries are absent on a part (R1, R2), and the identity
of a part (R1, R463). -/

namespace Sys2Proof.Machine

/-- The bytes of ASCII text. -/
def textBytes (t : String) : List Byte := t.toList.map fun c => BitVec.ofNat 8 c.toNat

/-- The order code (R1, R463). -/
def orderCode : Variant → String
  | .a1024g0 => "IVS-A1024-G0" | .a1024g2 => "IVS-A1024-G2" | .a768g0 => "IVS-A768-G0" | .b1024 => "IVS-B1024"

/-- `UnitsPresent` (R463). -/
def unitsPresent (v : Variant) : Nat :=
  (2 ^ 25 - 1) + b2n (hasPd1 v) * 2 ^ 25 + b2n (hasPd1 v) * 2 ^ 26 + b2n (hasGuests v) * (3 * 2 ^ 27) + 0xFFFF * 2 ^ 29

/-- The entry belongs to a unit that the part lacks (R1, R2, R444). Subindex 0 is absent with every entry of its index. -/
def entryAbsent (v : Variant) (ix sub : Nat) : Bool :=
  (!hasPd1 v &&
    ((ix == 0x2111 && sub == 2) || (ix == 0x2120 && sub == 20) || (ix == 0x9012 && decide (2 < sub % 16)) || ix == 0x9113 || ix == 0x4300 || ix == 0x4301 ||
      ix == 0x4302 || ix == 0x4310 || ix == 0x4311 || (ix == 0x4020 && decide (2 ≤ sub)))) ||
  (!hasGuests v && ((decide (0x4200 ≤ ix) && decide (ix ≤ 0x4206)) || ix == 0x4210 || ix == 0x4211))

/-- An F32 value of `v` tenths (R445). -/
def f32Tenths (v : Nat) : List Byte := leBytes (toFp32 (Num.div 24 (ofInt (v : Int) 0 false) (ofInt 10 0 false))) 4

/-- KEY_REVOKED as read (R427). -/
def State.keyRevoked (s : State) : BitVec 32 := Config.keyRevokedFused ||| s.sec.keyRevoked

/-- The running image of a kind. -/
def State.image (s : State) (k : Nat) : Option Image := s.sec.images.getD k none

/-- `BootStatus` (R443). -/
def State.bootStatus (s : State) : Nat := b2n s.sec.done + s.sec.kind * 2 ^ 4 + s.sec.source * 2 ^ 8 + satTo 22 s.sec.fetches * 2 ^ 10

/-- The fuses DEVICE_CERT (R427): the certificate, zero-padded to 1,024 bytes. -/
def deviceCertFuses : List Byte := (Config.deviceCertificate ++ List.replicate 1024 0).take 1024

/-- The three links of the certificate chain (R429): the Atvenil root, the Ivvas product, and the device certificate. -/
def certLinks : List (List Byte) := [Config.rootCertificate, Config.productCertificate, Config.deviceCertificate]

/-- The SPDM certificate chain of slot 0 (R429). -/
def certChain : List Byte := certLinks.flatten

/-- The serial number (R463): "AV" and ten characters, each a digit or an upper-case letter, as the subject of DEVICE_CERT has them. -/
def serialText : List Byte :=
  textBytes "AV" ++ (List.range 10).map fun i =>
    let v := Config.subjectChar deviceCertFuses i % 36
    BitVec.ofNat 8 (if v < 10 then 48 + v else 55 + v)

/-- The management port's address in transmission order (R464): unicast and universally administered, so that the two low bits of its first byte are clear. -/
def macBytes : List Byte := leBytes (setBits Config.macAddress.toNat 0 2 0) 6

/-- The value of a counter SVN_k (R428): the bits that read as 1. -/
def svnValue (w : W64) : Nat := (List.range 64).countP fun i => w.getLsbD i

/-- SVN_k as fused (R427). -/
def State.svnOf (s : State) (k : Nat) : Nat := svnValue (s.sec.svn.getD k 0)

/-- `JoinStatus` (R501). -/
def State.joinStatus (s : State) : Nat :=
  b2n (s.effNat 0x4100 1 != 0xFFFFF) + b2n s.dev.routeCommitted * 2 + b2n s.fabric.timeLocked * 4 +
    b2n ((List.range 16).any fun p => s.effNat 0x4010 (p + 1) == 1 && ((s.port p).state == 2 || (s.port p).state == 3)) * 8 + b2n s.sec.signedSince * 16

/-- One entry of `SignatureTable` (R491). -/
def sigRecord (e : SigEntry) : Nat :=
  e.opcode + e.fmt % 256 * 2 ^ 8 + e.m512 / 512 % 2 ^ 32 * 2 ^ 16 + e.n512 / 512 % 2 ^ 32 * 2 ^ 48 + e.k512 / 512 % 2 ^ 32 * 2 ^ 80 + e.arrayPct % 256 * 2 ^ 112 +
    (List.range 5).foldl (fun a i => a + e.levels.getD i 0 % 256 * 2 ^ (120 + 8 * i)) 0 + b2n e.pinned * 2 ^ 160 + e.changedEve % 2 ^ 32 * 2 ^ 192

/-- `SignatureTable` of P_k (R491). -/
def State.sigTable (s : State) (k : Nat) : List Byte :=
  let t := (s.part k).sigs
  (t.take 256).flatMap (fun e => leBytes (sigRecord e) 32) ++ List.replicate (32 * (256 - t.length)) 0

/-- The event log (R461). -/
def State.logBytes (s : State) : List Byte := (List.range 256).flatMap fun i => leBytes (tabGet 0#256 s.dict.log i).toNat 32

/-- The identity entries (R463). -/
def State.identity (s : State) (ix sub : Nat) : List Byte :=
  let v := s.dev.variant
  if ix = 0x1010 then leBytes (unitsPresent v) 8
  else if ix = 0x1011 then leBytes (dramGiB v + s.dev.dramSets.getD (sub - 1) 0 * 2 ^ 8) 4
  else if sub = 1 then textBytes "Atvenil"
  else if sub = 2 then textBytes "Ivvas"
  else if sub = 3 then textBytes (orderCode v)
  else if sub = 4 then serialText
  else leBytes 1 1

/-- The identity area, in ascending INDEX and SUBINDEX (R1). -/
def State.identityArea (s : State) : List Byte :=
  ((List.range 6).flatMap fun i => s.identity 0x1000 (i + 1)) ++ s.identity 0x1010 1 ++ (List.range 16).flatMap fun i => s.identity 0x1011 (i + 1)

/-- The entries whose value is the state of the power, heat and interface units; none where the entry holds what was accepted. -/
def State.liveUnit (s : State) (ix sub : Nat) : Option (List Byte) :=
  let i := sub - 1
  if ix = 0x2060 then some (f32Tenths (s.dram.temps.getD i 0))
  else if ix = 0x2061 then some (leBytes (s.dram.steps.getD i 0) 1)
  else if ix = 0x2100 then
    (if sub = 1 ∨ sub = 2 then some (leBytes (Config.freeWord s.freeIx).toNat 4)
     else if sub = 4 then some (leBytes s.powerStatus 4)
     else if sub = 5 then some (leBytes s.power.energyMj 8)
     else if sub = 6 then some (leBytes s.power.unattributedMj 8)
     else none)
  else if ix = 0x2110 then some (leBytes (s.stackClock i) 2)
  else if ix = 0x2111 then some (leBytes (s.power.procClock.getD i 0) 2)
  else if ix = 0x2120 then some (f32Tenths (s.power.dieTemps.getD i 0))
  else if ix = 0x2121 then some (leBytes (s.power.steps.getD i 0) 1)
  else if ix = 0x2130 then some s.power.lastTrip
  else if ix = 0x4012 then some (leBytes (s.port i).state 1)
  else if ix = 0x4013 then some (leBytes (s.port i).spareLane 1)
  else if ix = 0x4200 then some (leBytes (s.guest i).state 1)
  else if ix = 0x4201 then some (leBytes (s.guest i).control 1)
  else if ix = 0x4204 then some (s.guest i).measurements
  else if ix = 0x4206 then some (leBytes (guestBacked (s.guest i)) 8)
  else if ix = 0x4302 then some (leBytes (if s.pe1Mode i = 1 ∧ (s.pe1Port i).linkUp then s.cxlMapped i else 0) 4)
  else if ix = 0x4400 ∧ sub = 1 then some macBytes
  else if ix = 0x5080 then
    some ((List.range 4160).map (activationByte sub))
  else if ix = 0x5081 then some ((List.range 4096).map (Config.approxTableByte sub))
  else none

/-- The entries of integrity, security, the job and diagnostics whose value is state. -/
def State.liveRest (s : State) (ix sub : Nat) : Option (List Byte) :=
  let i := sub - 1
  if 0x6101 ≤ ix ∧ ix ≤ 0x610C ∧ sub = 4 then some (leBytes (tabGet 0 s.integ.lasting (ix - 0x6100)) 4)
  else if ix = 0x6200 then
    some (if sub = 1 then leBytes s.capRecord 64 else if sub = 2 then leBytes s.integ.generation 4
      else if sub = 3 then leBytes (b2n s.integ.trayReplace) 1 else s.integ.fences.flatMap fun f => leBytes f.toNat 8)
  else if ix = 0x7000 then some (leBytes s.bootStatus 4)
  else if ix = 0x7001 then some (leBytes (if sub ≤ 8 then s.svnOf i else match s.image (sub - 0x11) with
    | some m => m.svn
    | none => 0) 1)
  else if ix = 0x7002 then some (leBytes s.keyRevoked.toNat 4)
  else if ix = 0x7003 then some certChain
  else if ix = 0x7010 then some (leBytes s.sec.ownerHash.toNat 48)
  else if ix = 0x7030 then
    (if sub = 1 then some (leBytes (Config.nonceValue s.sec.nonceIx).toNat 32) else if sub = 3 then some (leBytes s.sec.scopes.toNat 4)
     else if sub = 4 then some (leBytes s.sec.tokensRefused 1) else none)
  else if ix = 0x8000 then
    some (if sub = 1 then leBytes (devStateCode s.dev.state) 1 else if sub = 2 then leBytes s.dev.since 8 else leBytes s.dev.requestedBy 1)
  else if ix = 0x8010 ∧ sub = 3 then some (leBytes (b2n s.fabric.timeLocked) 1)
  else if ix = 0x8010 ∧ sub = 4 then some (leBytes (s.fabric.timeOffset % (2 ^ 32 : Int)).toNat 4)
  else if ix = 0x8010 ∧ sub = 5 then some (leBytes s.now 8)
  else if ix = 0x8030 ∧ sub = 2 then some (leBytes (s.fabric.parade.state + s.fabric.parade.chunks % 2 ^ 24 * 16) 4)
  else if ix = 0x8040 ∧ sub = 1 then some (leBytes s.dev.straps 1)
  else if ix = 0x8060 then some (leBytes s.joinStatus 1)
  else if ix = 0x8063 ∧ sub = 2 then some (leBytes s.dev.quiesceReport.toNat 32)
  else if ix = 0x9000 then some (if sub = 1 then leBytes s.dict.logCount 4 else s.logBytes)
  else if ix = 0x9041 then some ((List.range 2275).flatMap fun j => leBytes (tabGet 0#64 s.dram.results (2275 * i + j)).toNat 8)
  else if ix = 0x9042 then some (leBytes (s.dram.rowRepairs.getD i 0) 4)
  else if ix = 0x9043 then some (leBytes (s.dram.spare.getD i 0xFF) 1)
  else if 0x9100 ≤ ix ∧ ix < 0x911C ∧ sub = 11 then some (leBytes (s.blockRecord (ix - 0x9100)) 128)
  else if ix = 0x9161 then some (leBytes (s.ctrs.produced.getD i 0).toNat 4)
  else if ix = 0x9163 then some (leBytes (s.ctrs.skipped.getD i 0).toNat 4)
  else if ix = 0x9171 then some (s.sigTable i)
  else none

/-- The state that the reads of entries sample: where units sleep, what they showed last (R455). -/
def State.awake (s : State) : State :=
  match s.asleep with
  | some a => { s with
      parts := a.parts
      fabric := a.fabric
      guests := a.guests
      pe1 := a.pe1
      power := { s.power with graceUntil := a.graceUntil, brakedDies := a.brakedDies, procClock := a.procClock }
      dram := { s.dram with spare := a.spare }
      ctrs := a.ctrs }
  | none => s

/-- What a read of an entry returns: the number of subindices for subindex 0 (R444), zeros for a WO entry, the state of a unit, or the last value
accepted (R446). -/
def State.entryValue (s : State) (ix sub : Nat) : List Byte :=
  if sub = 0 then leBytes (highestSub ix) 1
  else if 0x1000 ≤ ix ∧ ix ≤ 0x1011 then s.identity ix sub
  else
    match s.awake.liveUnit ix sub, s.awake.liveRest ix sub, findEntry ix sub with
    | some d, _, _ => d
    | _, some d, _ => d
    | _, _, some e => if e.acc == .wo then List.replicate e.size 0 else s.accBytes ix sub
    | _, _, none => []

end Sys2Proof.Machine
end

