-- ==== Sys2Proof/Machine/Security.lean ====
section
/-! DEFINITION. The security root (R427 to R443): the fetch and check of images (R430 to R433, R462), the fence record (R500), the end of power-up
with its commit (R426, R434, R498, R499), the SPDM responder (R435 to R437) and debug tokens (R439 to R442). -/

namespace Sys2Proof.Machine

/-- The number that big-endian bytes hold (R429). -/
def beNat (l : List Byte) : Nat := leNat l.reverse

/-- `n` bytes of a message from offset `lo`. -/
def slice (l : List Byte) (lo n : Nat) : List Byte := (l.drop lo).take n

/-- The fields of an image header hold what R431 allows for kind `k`. A field outside the range of its row counts as a header that does not
pass (DEDUCED, log 64). -/
def headerOk (h k len : Nat) : Bool :=
  bitsOf h 0 32 == 0x41564D49 && bitsOf h 32 8 == 1 && bitsOf h 40 8 == k && bitsOf h 96 32 == 0 && bitsOf h 224 32 == 0 && bitsOf h 640 384 == 0 &&
    bitsOf h 1045 1003 == 0 && bitsOf h 2816 1280 == 0 && (k == 0 || bitsOf h 64 32 == 0) && decide (bitsOf h 48 8 ≤ 64) &&
    decide (0 < bitsOf h 192 32) && decide (bitsOf h 192 32 ≤ 67108864) && decide (0 < bitsOf h 1024 16) && decide (bitsOf h 1024 16 ≤ 2048) &&
    len == 512 + roundUp (bitsOf h 1024 16) 64 + bitsOf h 192 32

/-- The check of R432 on the bytes fetched for kind `k`: the image, or none when some step refuses it. -/
def State.checkImage (s : State) (k : Nat) (bytes : List Byte) : Option Image :=
  let h := leNat (bytes.take 512)
  let certLen := bitsOf h 1024 16
  let payload := bytes.drop (512 + roundUp certLen 64)
  if !headerOk h k bytes.length then none
  else
    match Config.signerCertificate (slice bytes 512 certLen) with
    | none => none
    | some (key, serial) =>
      let keyId := bitsOf h 1040 5
      let svn := bitsOf h 48 8
      let floor := bitsOf h 56 8
      let digest := BitVec.ofNat 384 (bitsOf h 256 384)
      if serial ≠ keyId ∨ bitAt s.keyRevoked.toNat keyId ∨
          Config.ecdsaVerifies .brainpoolP384r1 key (sha384 (bytes.take 256)) (BitVec.ofNat 384 (beNat (slice bytes 256 48)))
            (BitVec.ofNat 384 (beNat (slice bytes 304 48))) = false ∨
          svn < s.svnOf k ∨ svn < floor ∨ sha384 payload ≠ digest then none
      else some ⟨svn, floor, BitVec.ofNat 32 (bitsOf h 64 32), digest⟩

/-- The fence record is the next thing to fetch (R500). -/
def State.wantsFences (s : State) : Bool := s.sec.kind == 1 && !s.sec.fenceAsked

/-- A response carries the TRANSACTION of the FETCH sent last (R449). -/
def State.answersFetch (s : State) (m : UleelMsg) : Bool := m.transaction == BitVec.ofNat 16 s.sec.fetches

/-- The ROM waits for an answer (R433). -/
def State.fetching (s : State) : Bool := s.dev.state == .booting && s.dev.aoUp && s.sec.waitUntil.isNone && !s.sec.done

/-- The FETCH the ROM sends next (R462, R500). -/
def State.sendFetch (s : State) : State :=
  let m : UleelMsg := ⟨1, 6, BitVec.ofNat 16 s.sec.fetches, BitVec.ofNat 16 (if s.wantsFences then 0x80 else s.sec.kind), 0, 0,
    BitVec.ofNat 32 s.sec.bytes.length, 1024, 0, 0, []⟩
  let s1 := { s with sec := { s.sec with askedAt := s.now } }
  s1.reply (if s.sec.source = 1 then .management else .host) m

/-- A refusal (R433): after three of one kind from one source the ROM changes source; it waits 1 s. -/
def State.refuseImage (s : State) : State :=
  let n := s.sec.refusals + 1
  { s with sec := { s.sec with
      fetches := s.sec.fetches + 1, bytes := [], waitUntil := some (s.now + 1000000000),
      refusals := if 3 ≤ n then 0 else n, source := if 3 ≤ n then 3 - s.sec.source else s.sec.source } }

/-- The reference clock of a link port's hub is qualified (R520). -/
def State.linkRef (s : State) (p : Nat) : Bool := s.dev.clocks.getD (p / 8) false

/-- The HUB image runs. -/
def State.hubUp (s : State) : Bool := (s.image 1).isSome && (s.isUp || s.dev.state == .booting)

/-- The link ports that `p` selects begin training once the hub's reference is qualified (R498, R520). -/
def State.trainPorts (s : State) (p : Nat → Bool) : State :=
  ((List.range 16).filter fun i => p i && s.linkRef i && s.portMode i != 0 && (s.port i).state == 0).foldl (fun (t : State) i => t.startTraining i) s

/-- An image is accepted (R432, R433): its digest is the kind's measurement, and the source stays. -/
def State.acceptImage (s : State) (m : Image) : State :=
  let k := s.sec.kind
  let s1 := { s with sec := { s.sec with
      images := s.sec.images.set k (some m), lastSource := s.sec.source, refusals := 0, bytes := [], fetches := s.sec.fetches + 1,
      kind := min 4 (k + 1), done := k == 4 } }
  let s2 := if k = 1 then s1.trainPorts fun _ => true else s1
  if s2.sec.done then s2 else s2.sendFetch

/-- `FETCH_RESPONSE` (R432, R433, R462): one answer of up to 1,024 bytes; LAST ends the image, which is then checked. -/
def execFetchResponse (m : UleelMsg) (s : State) : Res :=
  if !s.fetching || s.wantsFences || m.version != 1 || m.op != 6 || !m.flags.getLsbD 0 || m.index.toNat != s.sec.kind || !s.answersFetch m then .next s
  else if m.status ≠ 0 ∨ m.offset.toNat ≠ s.sec.bytes.length ∨ m.length.toNat ≠ m.data.length ∨ m.data = [] ∨ 1024 < m.data.length then .next s.refuseImage
  else
    let bytes := s.sec.bytes ++ m.data
    if m.flags.getLsbD 1 then
      match s.checkImage s.sec.kind bytes with
      | some x => .next (s.acceptImage x)
      | none => .next s.refuseImage
    else .next ({ s with sec := { s.sec with bytes := bytes } }).sendFetch

/-- The record, if it has the right MAGIC, COUNT and serial (R500). -/
def fenceEntries (d : List Byte) : List W64 :=
  let n := leNat (slice d 4 2)
  if leNat (slice d 0 4) = 0x44434546 ∧ n ≤ 1024 ∧ d.length = 16 + 8 * n ∧
      slice d 6 10 = (leBytes (sha384 serialText).toNat 48).take 10 then
    (List.range n).map fun i => BitVec.ofNat 64 (leNat (slice d (16 + 8 * i) 8))
  else []

/-- A row that the fence record names is out of use: the record does not say of which pseudo-channel (free value, log 178), and a spare row or that
pseudo-channel's failure follows (R278, R426). -/
def State.fenceRow (s : State) (d row cause : Nat) : State :=
  let f := (s.addFence (20 + d) 0x01 row cause).free
  f.2.failRow d (f.1 % 64) row cause

/-- The unit of a fence entry is fenced by the rule of its class (R417, R423, R425); an entry that names no unit of the part does nothing. -/
def State.fenceNamed (s : State) (die cls ix cause : Nat) : State :=
  if s.fenced die cls ix then s
  else if cls = 0xF0 then
    (if die < 8 then s.fenceDie die 0 cause s.now [] else if die = 18 ∨ (die = 19 ∧ hasPd1 s.dev.variant) then s.fencePd (die - 18) 0 cause else s)
  else if cls = 0x08 ∧ die < 8 ∧ ix < 9 then s.fenceTile die ix 0 cause
  else if cls = 0x09 ∧ die < 8 ∧ ix < 64 then s.fenceThreadUnit (64 * die + ix) 0 cause
  else if cls = 0x0A ∧ die < 8 ∧ ix < 16 then s.fenceStreamUnit (16 * die + ix) 0 cause
  else if cls = 0x05 ∧ 8 ≤ die ∧ die < 16 ∧ ix < 28 then s.fenceWay (die - 8) ix 0 cause
  else if cls = 0x0B ∧ (die = 18 ∨ (die = 19 ∧ hasPd1 s.dev.variant)) ∧ ix < 48 then s.fenceCore (48 * (die - 18) + ix) 0 cause
  else if cls = 0x0C ∧ die < 36 ∧ ix = 0 then s.fenceSensor die 0 cause
  else if cls = 0x01 ∧ 20 ≤ die ∧ die < 36 then s.fenceRow (die - 20) ix cause
  else if cls = 0x04 ∧ die < 36 then (s.addFence die cls ix cause).failLane die ix 0
  else if cls = 0x07 ∧ 8 ≤ die ∧ die < 16 then (s.addFence die cls ix cause).failDirRow (die - 8) ix 0
  else if cls = 0x03 ∧ (die = 16 ∨ die = 17) ∧ ix < 40 then (s.addFence die cls ix cause).fencePort (8 * (die - 16) + ix / 5) (ix % 5)
  else if cls = 0x02 ∧ 20 ≤ die ∧ die < 36 ∧ ix < 65 then s.fencePc (die - 20) ix ix cause
  else if cls = 0xF1 ∧ die = 16 + ix ∧ ix < 2 ∧ hasGuests s.dev.variant then
    (({ s with guests := s.guests.set ix { s.guest ix with state := 6 } }).addFence die cls ix cause).degrade
  else if 0 < cls ∧ cls ≤ 0x0C ∧ die < 36 then (s.addFence die cls ix cause).degrade
  else s

/-- A unit is fenced during power-up (R426, R500): no report, notice or interrupt leaves, as nothing ran that it could concern (DEDUCED, log 66);
what R425 changes stays, and the last core of the package is a package fault. -/
def State.bootFence (s : State) (die cls ix cause : Nat) : State :=
  let t := s.fenceNamed die cls ix cause
  if t.dev.state == .fault then t else { t with fq := s.fq, irq := s.irq, dict := s.dict, out := s.out }

/-- Every entry of a list names a unit to fence. -/
def State.bootFences (s : State) (l : List W64) (cause : Option Nat) : State :=
  l.foldl (fun (t : State) e => t.bootFence (bitsOf e.toNat 0 8) (bitsOf e.toNat 8 8) (bitsOf e.toNat 16 16) (cause.getD (bitsOf e.toNat 32 8))) s

/-- The fence record is settled, and the ROM goes on to HUB (R500). -/
def State.fencesDone (s : State) (l : List W64) : State :=
  let s1 := s.bootFences l (some 0x05)
  if s1.dev.state == .booting then ({ s1 with sec := { s1.sec with fenceAsked := true } }).sendFetch else s1

/-- `FENCE_RECORD_FETCH` (R500): the answer to the one FETCH of INDEX 0x0080. -/
def execFenceRecordFetch (m : UleelMsg) (s : State) : Res :=
  if !s.fetching || !s.wantsFences || m.version != 1 || m.op != 6 || !m.flags.getLsbD 0 || m.index.toNat != 0x80 || !s.answersFetch m then .next s
  else .next (s.fencesDone (if m.status = 0 ∧ m.length.toNat = m.data.length then fenceEntries m.data else []))

/-- `FETCH_TIMEOUT` (R433): no answer for 2 s changes the source; a source that does not answer for the fence record has none (DEDUCED, log 65). -/
def execFetchTimeout (s : State) : Res :=
  if !s.fetching then .next s
  else
    let s1 := s.advance (s.sec.askedAt + 2000000000)
    if s1.wantsFences then .next (s1.fencesDone [])
    else .next ({ s1 with sec := { s1.sec with source := 3 - s1.sec.source, refusals := 0, bytes := [], fetches := s1.sec.fetches + 1 } }).sendFetch

/-- `FETCH_RETRY` (R433): 1 s after a refusal. -/
def execFetchRetry (s : State) : Res :=
  match s.sec.waitUntil with
  | some t => if s.dev.state == .booting && s.dev.aoUp then .next ({ s.advance t with sec := { s.sec with waitUntil := none } }).sendFetch else .next s
  | none => .next s

/-- Pseudo-channels that failed margining at power-up are replaced by PC_64 without a copy (R499). -/
def State.replaceFailed (s : State) : State :=
  let l := s.dram.copyDue
  l.foldl (fun (t : State) e => let u := t.setPc e.1 e.2 2; { u with dram := { u.dram with spare := u.dram.spare.set e.1 e.2 } })
    { s with dram := { s.dram with copyDue := [] } }

/-- The bits that commit programs, in their order (R428, R434): each SVN_k up to the FLOOR of its running image, in ascending order, and then, as 8, the
REVOKE bits of the running ALWAYS_ON image. -/
def State.commitBits (s : State) : List (Nat × Nat) :=
  ((List.range 8).flatMap fun k => match s.image k with
    | some m => ((List.range m.floor).filter fun i => !(s.sec.svn.getD k 0).getLsbD i).map fun i => (k, i)
    | none => []) ++
  match s.image 0 with
  | some m => ((List.range 32).filter fun i => m.revoke.getLsbD i && !s.keyRevoked.getLsbD i).map fun i => (8, i)
  | none => []

/-- One fuse bit is programmed, and verified (R428). -/
def programBit (x : Security) (b : Nat × Nat) : Security :=
  if b.1 = 8 then { x with keyRevoked := x.keyRevoked ||| BitVec.ofNat 32 (2 ^ b.2) }
  else { x with svn := x.svn.set b.1 (x.svn.getD b.1 0 ||| BitVec.ofNat 64 (2 ^ b.2)) }

/-- Commit (R434), once in a boot. It counts as under way until the next tick boundary (DESIGN CHOICE, log 193): `commitFrom` keeps the fuses as they were. -/
def State.commitSvn (s : State) : State :=
  if s.sec.committed then s
  else { s with sec := { s.commitBits.foldl programBit s.sec with committed := true, commitFrom := some (s.sec.svn, s.sec.keyRevoked) } }

/-- The power fails (R428, R434): of a commit under way only the first bits were programmed; how many is not said (free value, log 193). -/
def State.breakCommit (s : State) : State :=
  match s.sec.commitFrom with
  | none => s
  | some (v, r) =>
    let f := ({ s with sec := { s.sec with svn := v, keyRevoked := r, commitFrom := none } } : State).free
    let l := f.2.commitBits
    { f.2 with sec := (l.take (f.1 % (l.length + 1))).foldl programBit f.2.sec }

/-- Every tile in use or in reserve passed the known-answer test of power-up (R414, R426), which counts as passed when power-up ends (DESIGN CHOICE, log
161). -/
def State.tilesPassed (s : State) : State :=
  (List.range 72).foldl (fun (t : State) i => if t.tileLive (i / 9) (i % 9) then t.tilePassed (i / 9) (i % 9) else t) s

/-- `BOOT_COMPLETE` (R278, R426, R434, R498, R499): soft row repairs become permanent, units that failed their tests are fenced, and the device enters READY, or DEGRADED with any fenced
unit. -/
def execBootComplete (r : BootResult) (s : State) : Res :=
  if s.dev.state ≠ .booting ∨ s.sec.done = false then .next s
  else
    let s1 := s.hardRepair.bootFences r.failed none
    if s1.dev.state == .fault then .next s1
    else
      let fence := fun (t : State) (d : Fin 16) => let u := t.fenceStack d; { u with irq := t.irq, dict := t.dict, out := t.out }
      let s2 := r.deadStacks.foldl fence s1.tilesPassed
      let s3 := r.eyes.foldl (fun (t : State) e => let u := t.marginStack e.1 e.2; { u with irq := t.irq, dict := t.dict, out := t.out }) s2
      let s4 := s3.replaceFailed.commitSvn
      if s4.integ.fences.isEmpty && s4.integ.dramDegraded == 0 then .next (s4.toDevState .ready)
      else
        let s5 := { s4 with integ := { s4.integ with trayReplace := true } }
        .next (((s5.toDevState .degraded).raise 7961).notify 4 0 (leBytes s5.capRecord 64) none)

/-- An SPDM response leaves (R436): none before ALWAYS_ON is accepted; with `wait`, Busy until commit. -/
def State.spdm (s : State) (wait : Bool) (r : SpdmResponse) : State :=
  if !s.dev.aoUp || (s.image 0).isNone then s
  else { s with out := { s.out with spdm := some (if wait && !s.sec.committed then .busy else r) } }

/-- What the responder supports, and nothing else (R435): certificates in slot 0, challenges and signed measurements. -/
def spdmCaps : SpdmCaps :=
  { certificates := true, challenge := true, signedMeasurements := true, slots := [0], keyExchange := false, psk := false, secured := false,
    setCertificate := false, mutualAuth := false }

/-- The algorithms of R435: SHA-384, and the extended asymmetric algorithm 0x0001 of Atvenil under the registry of IANA (its number in SPDM is 4: PRESUMED,
log 67). -/
def spdmAlgs : SpdmAlgs := ⟨384, 4, Config.enterpriseNumber, 1⟩

/-- `GET_VERSION` (R435, R436): SPDM 1.3. -/
def execGetVersion (s : State) : Res := .next (s.spdm false (.version 0x13))

/-- `GET_CAPABILITIES` (R435, R436). -/
def execGetCapabilities (s : State) : Res := .next (s.spdm false (.capabilities spdmCaps))

/-- `NEGOTIATE_ALGORITHMS` (R435, R436): a requester must offer the extended algorithm. -/
def execNegotiateAlgorithms (offersExt : Bool) (s : State) : Res := .next (s.spdm false (.algorithms (if offersExt then some spdmAlgs else none)))

/-- A signature of the identity key over a digest (R429, R437): r and s, each 48 bytes, big-endian. -/
def identitySignature (digest : BitVec 384) : List Byte :=
  let e := Config.ecdsaSign .brainpoolP384r1 (Config.identityKey Config.deviceSeed) digest
  (leBytes e.1.toNat 48).reverse ++ (leBytes e.2.toNat 48).reverse

/-- `GET_DIGESTS` (R435): the digest of the chain of slot 0. -/
def execGetDigests (s : State) : Res := .next (s.spdm true (.digests (sha384 certChain)))

/-- `GET_CERTIFICATE` (R435): a portion of the chain, and how much of it is left. -/
def execGetCertificate (slot : Fin 8) (off : Nat) (len : Nat) (s : State) : Res :=
  if slot.val ≠ 0 ∨ certChain.length < off then .next (s.spdm true .invalid)
  else
    let d := slice certChain off len
    .next (s.spdm true (.certificate d (certChain.length - off - d.length)))

/-- `CHALLENGE` (R435): signed over the chain's digest and the nonce (what the transcript holds is SPDM's, PRESUMED, log 67). -/
def execChallenge (slot : Fin 8) (nonce : BitVec 256) (s : State) : Res :=
  if slot.val ≠ 0 then .next (s.spdm true .invalid)
  else .next (s.spdm true (.challengeAuth (identitySignature
    (sha384 (leBytes (sha384 certChain).toNat 48 ++ leBytes nonce.toNat 32)))))

/-- The measurement blocks (R437). -/
def State.measurement (s : State) (i : Nat) : BitVec 384 :=
  if i = 1 then Config.romDigest
  else if i ≤ 6 then (match s.image (i - 2) with
    | some m => m.digest
    | none => 0)
  else if i = 7 then sha384 (((List.range 8).flatMap fun k => leBytes (s.svnOf k) 1) ++ leBytes s.keyRevoked.toNat 4)
  else if i = 8 then sha384 (s.identityArea ++ s.integ.fences.flatMap fun f => leBytes f.toNat 8)
  else sha384 (leBytes s.sec.scopes.toNat 4 ++ leBytes (b2n s.sec.ownerSet) 1 ++ leBytes s.sec.tokensRefused 1)

/-- The DMTF value type of a block (R437). -/
def measurementType (i : Nat) : Nat := if i = 1 then 0x00 else if i ≤ 6 then 0x01 else if i = 7 then 0x07 else if i = 8 then 0x02 else 0x05

/-- The blocks that an index asks for: 0 none, the count alone; 0xFF all (PRESUMED from SPDM, log 67). -/
def askedBlocks (ix : Nat) : Option (List Nat) :=
  if ix = 0 then some [] else if ix = 0xFF then some ((List.range 9).map (· + 1)) else if ix ≤ 9 then some [ix] else none

/-- `GET_MEASUREMENTS` (R437, R501). -/
def execGetMeasurements (ix : Nat) (signed : Bool) (nonce : BitVec 256) (s : State) : Res :=
  match askedBlocks ix with
  | none => .next (s.spdm true .invalid)
  | some l =>
    let blocks := l.map fun i => (i, measurementType i, s.measurement i)
    let text := (blocks.flatMap fun b => leBytes b.1 1 ++ leBytes b.2.1 1 ++ leBytes b.2.2.toNat 48) ++ leBytes nonce.toNat 32
    let sig := if signed then identitySignature (sha384 text) else []
    let s1 := s.spdm true (.measurements blocks sig)
    .next (if signed && s.dev.aoUp && (s.image 0).isSome && s.sec.committed then { s1 with sec := { s1.sec with signedSince := true } } else s1)

/-- The fields of a debug token are well formed and its reserved bits zero (R440). -/
def tokenOk (t : Nat) : Bool :=
  bitsOf t 0 32 == 0x4B544744 && bitsOf t 32 8 == 1 && bitsOf t 41 7 == 0 && bitsOf t 53 11 == 0 && bitsOf t 68 28 == 0 && bitsOf t 96 32 == 0 &&
    (!bitAt t 40 || bitsOf t 48 5 == 0)

/-- The token is for this device and its signature verifies (R441). -/
def State.tokenSigned (s : State) (t : Nat) (d : List Byte) : Bool :=
  let keyId := bitsOf t 48 5
  let key := if bitAt t 40 then s.sec.ownerHash else Config.debugKeyHash keyId
  let who := if bitAt t 40 then s.sec.ownerSet else !bitAt s.keyRevoked.toNat keyId
  bitsOf t 128 384 == (sha384 (Config.publicKeyOf Config.deviceCertificate)).toNat && bitsOf t 512 256 == (Config.nonceValue s.sec.nonceIx).toNat && who &&
    Config.ecdsaVerifies .brainpoolP384r1 key (sha384 (d.take 96)) (BitVec.ofNat 384 (beNat (slice d 96 48))) (BitVec.ofNat 384 (beNat (slice d 144 48)))

/-- A debug token is written (R441, R442, R452): while an earlier one is still being verified it changes nothing; how long that takes is not said (free value,
log 82). Else the nonce changes, and an accepted token's scopes open at the next tick. Answers the status. -/
def State.writeToken (s : State) (d : List Byte) : State × Nat :=
  let t := leNat d
  let scope := bitsOf t 64 4
  let f := s.free
  let s1 := { f.2 with sec := { s.sec with nonceIx := s.sec.nonceIx + 1, verifyUntil := s.now + f.1 % 2 ^ 32 } }
  let refused := { s1 with sec := { s1.sec with tokensRefused := satInc 8 s1.sec.tokensRefused } }
  if s.now < s.sec.verifyUntil then (s, abState)
  else if 8 ≤ s.sec.tokensRefused ∨ tokenOk t = false ∨ s.tokenSigned t d = false ∨ (bitAt t 40 ∧ 4 ≤ scope) then (refused, abValue)
  else if (4 ≤ scope ∧ s.dev.state ≠ .quiesced) ∨ !(s.isUp || s.dev.state == .fault) then (refused, abState)
  else ({ s1 with sec := { s1.sec with scopesDue := s1.sec.scopesDue ||| BitVec.ofNat 4 scope } }, 0)

/-- SCAN or MEM_RAW is open (R442). -/
def State.rawOpen (s : State) : Bool := decide (4 ≤ s.sec.scopes.toNat)

/-- The owner's key hash is programmed (R443). -/
def State.programOwner (s : State) (d : List Byte) : State × Nat :=
  if s.sec.ownerSet then (s, abState)
  else ({ s with sec := { s.sec with ownerHash := BitVec.ofNat 384 (leNat d), ownerSet := true } }, 0)

end Sys2Proof.Machine
end

