-- ==== Sys2Proof/Machine/Lifecycle.lean ====
section
/-! DEFINITION. The life of the package (R453 to R458, R498 to R521): quiesce, standby, power-up and reset, the supply, the reference clocks, the
resets of the PCI Express ports, and the addresses of the management interfaces. -/

namespace Sys2Proof.Machine

/-- The origin of a command that changed state (R458). -/
def State.requestBy (s : State) (o : Origin) : State := { s with dev := { s.dev with requestedBy := originCode o } }

/-- P_k begins its quiesce drain (R505); one that is in an Eve or at a release point goes on to its latch point first. -/
def drainForQuiesce (now : Nat) (p : PartSt) : PartSt :=
  let q := { p with intervalFrom := none }
  if p.phase = .idle ∨ p.phase = .running then { q with phase := .draining, drain := .quiesce, drainFrom := now } else q

/-- `Quiesce` (R458, R505). -/
def State.beginQuiesce (s : State) (o : Origin) : State × Nat :=
  if !s.live then (s, abState)
  else
    let s1 := s.requestBy o
    let s2 := { s1 with
      dev := { s1.dev with quiesceAt := s1.now, quiesceKilled := 0, degradedLater := s1.dev.state == DevState.degraded }
      parts := s1.parts.mapIdx fun k (p : PartSt) => if s1.partExists k && s1.seqLive k then drainForQuiesce s1.now p else p }
    (s2.toDevState .draining, 0)

/-- P_k has drained for a quiesce: it has no sequencer, or it stands past its latch point (R417, R505). -/
def State.quietPart (s : State) (k : Nat) : Bool :=
  let p := s.part k
  !s.partExists k || !s.seqLive k || ((p.phase == .idle || p.phase == .running) && p.drain == .none)

/-- `QUIESCE_N` (R505, R517): held low for 10 µs, once in each low period, with origin MANAGEMENT. -/
def execQuiesceN (low : Bool) (s : State) : Res :=
  let s1 := { s with dev := { s.dev with qnLow := low } }
  if low && !s.dev.qnLow then .next (s1.beginQuiesce .management).1 else .next s1

/-- `QUIESCE_DEADLINE` (R506): a partition that has not drained kills its running context and drains. -/
def execQuiesceDeadline (p : Fin 8) (s : State) : Res :=
  if s.dev.state ≠ .draining ∨ s.quietPart p then .next s
  else
    let s1 := s.advance (s.dev.quiesceAt + 1000000 * s.effNat 0x8063 1)
    match (s1.part p).running with
    | none => .next s1
    | some c =>
      let s2 := s1.killCtx c
      let s3 := { s2 with dev := { s2.dev with quiesceKilled := satInc 16 s2.dev.quiesceKilled } }
      .next (s3.updPart p fun q => if q.phase = .layoutWait then q else { q with phase := .draining, drain := .quiesce })

/-- The quiesce report (R506). -/
def quiesceReport (asked now killed lines lost : Nat) : Nat :=
  asked % 2 ^ 64 + now % 2 ^ 64 * 2 ^ 64 + satTo 16 killed * 2 ^ 128 + satTo 32 (lines / 1024) * 2 ^ 144 + satTo 32 lost * 2 ^ 176

/-- `ENTER_QUIESCED` (R506): every partition has drained; dirty lines of the unit L1s and the stack caches go home and stay as clean copies. -/
def execEnterQuiesced (s : State) : Res :=
  if s.dev.state = .draining ∧ (List.range 8).all (fun k => s.quietPart k) then
    let r := s.cleanCaches fun a => decide (a < 1024)
    let lost := r.1.coh.dir.countP fun e => e.2.st == .l
    let w := quiesceReport s.dev.quiesceAt s.now s.dev.quiesceKilled r.2 lost
    let s1 := { r.1 with dev := { r.1.dev with quiesceReport := BitVec.ofNat 256 w } }
    .next (s1.toDevState .quiesced)
  else .next s

/-- `Resume` (R442, R458): READY or DEGRADED; the Eve intervals run again (R505). -/
def State.resumeDevice (s : State) (o : Origin) : State × Nat :=
  if s.dev.state ≠ .quiesced ∨ s.rawOpen then (s, abState)
  else
    let s1 := s.requestBy o
    let s2 := { s1 with parts := s1.parts.map fun (p : PartSt) => if p.running.isSome then { p with intervalFrom := some s1.now, overdue := 0 } else p }
    let s3 := { s2 with dev := { s2.dev with degradedLater := false } }
    (if s.dev.degradedLater then (s3.toDevState .degraded, 0) else ((s3.toDevState .ready).refreshRun, 0))

/-- `Standby` (R458, R506): every domain but the always-on domain is gated. -/
def State.standbyNow (s : State) (o : Origin) : State × Nat :=
  if s.dev.state ≠ .quiesced ∨ s.rawOpen then (s, abState) else (((s.dropDomains.requestBy o).toDevState .standby), 0)

/-- Power-up by command: BOOTING, and the images are fetched again (R458, R433). `PowerUp` is no reset: what only a reset clears stays (R442, R453). -/
def State.rebootNow (s : State) (o : Origin) : State := (((s.restart.requestBy o).toDevState .booting)).sendFetch

/-- `PowerUp` (R458). -/
def State.powerUpNow (s : State) (o : Origin) : State × Nat := if s.dev.state ≠ .standby then (s, abState) else (s.rebootNow o, 0)

/-- `Reset` (R458). -/
def State.resetNow (s : State) (o : Origin) : State × Nat := if s.dev.state = .off then (s, abState) else (s.clearSince.rebootNow o, 0)

/-- `VIN_PRESENT` (R498, R516, R521): BOOTING from here; the always-on domain leaves reset when its reference is present. -/
def execVinPresent (straps : Fin 4) (s : State) : Res :=
  if s.dev.vin then .next s
  else
    let s1 := { s with dev := { s.dev with vin := true, aoUp := s.dev.clocks.getD 4 false, straps := straps, resetAt := s.now } }
    let s2 := s1.toDevState .booting
    .next (if s2.dev.aoUp then s2.sendFetch else s2)

/-- `VIN_ABSENT` (R434, R453, R508). -/
def execVinAbsent (s : State) : Res := if s.dev.vin then .next s.breakCommit.goOff else .next s

/-- `AO_REF_25M_PRESENT` (R521): the always-on domain leaves reset. -/
def execAoRef25mPresent (s : State) : Res :=
  let s1 := { s with dev := { s.dev with clocks := s.dev.clocks.set 4 true } }
  if s.dev.vin && !s.dev.aoUp then .next ({ s1 with dev := { s1.dev with aoUp := true, resetAt := s1.now } }).sendFetch else .next s1

/-- `PE0_PERST` (R519, R357): assertion counts as DL_Down. -/
def execPe0Perst (asserted : Bool) (s : State) : Res :=
  if asserted then
    let s1 := s.detach
    .next { s1 with host := { s1.host with perst := true, linkUp := false } }
  else .next { s with host := { s.host with perst := false } }

/-- Whether a PE1 port exists in the present bifurcation: PE1A always, PE1B as one of two ×8 ports (R388, R519). -/
def State.pe1Exists (s : State) (port : Nat) : Bool := hasPd1 s.dev.variant && (port == 0 || s.effNat 0x4300 1 == 1)

/-- Replaces a PE1 port. -/
def State.setPe1 (s : State) (port : Nat) (x : Pe1Port) : State := { s with pe1 := s.pe1.set port x }

/-- `PE1_PERST_RELEASE` (R519): 100 ms after the reference is valid and the mode in effect. -/
def execPe1PerstRelease (port : Fin 2) (s : State) : Res :=
  let x := s.pe1Port port
  if s.pe1Exists port && s.pe1Mode port != 0 && s.dev.clocks.getD 3 false && s.hubUp && !x.perstReleased then
    .next ((s.advance (x.modeSince + 100000000)).setPe1 port { x with perstReleased := true })
  else .next s

/-- `PCIE_LINK_UP` (R3, R342, R388, R389, R519): PE0, at one of its widths, PE1A or PE1B finishes training at a generation it is set to or a lower one;
CXL mode has no 128 GT/s. -/
def execPcieLinkUp (port : Fin 3) (r : PcieLink) (s : State) : Res :=
  if !s.hubUp || decide (s.effNat 0x4020 (port + 1) < r.generation) then .next s
  else if port.val = 0 then
    (if s.dev.clocks.getD 2 false && !s.host.perst && ([16, 8, 4, 1] : List Nat).contains r.width then
       .next { s with host := { s.host with linkUp := true, width := r.width, generation := r.generation } }
     else .next s)
  else
    let i := port.val - 1
    let x := s.pe1Port i
    if s.pe1Exists i && x.perstReleased && s.pe1Mode i != 0 && (s.pe1Mode i == 2 || decide (r.generation ≤ 6)) then
      .next (s.setPe1 i { x with linkUp := true, capacityGiB := if s.pe1Mode i = 1 then r.capacityBytes / 2 ^ 30 else 0 })
    else .next s

/-- The place of a reference clock in `Device.clocks`. -/
def clockIx : RefClock → Nat
  | .link0 => 0 | .link1 => 1 | .pe0 => 2 | .pe1 => 3 | .ao25 => 4

/-- The die a clock monitor's report names (R418): the hub of the reference; the manual names none for the always-on domain (free value). -/
def State.clockDie (s : State) (k : RefClock) : Nat × State :=
  match k with
  | .link0 | .pe0 => (16, s)
  | .link1 | .pe1 => (17, s)
  | .ao25 => ((s.free).1 % 64, (s.free).2)

/-- `CLOCK_MONITOR_FAULT` (R521): a package fault. -/
def execClockMonitorFault (k : RefClock) (s : State) : Res :=
  if s.dev.state = .off ∨ s.dev.aoUp = false ∨ (k = .pe1 ∧ hasPd1 s.dev.variant = false) then .next s
  else
    let s1 := { s with dev := { s.dev with clocks := s.dev.clocks.set (clockIx k) false } }
    let d := s1.clockDie k
    .next (d.2.packageFault 0x0B 0 d.1 0)

/-- `REFCLOCK_QUALIFIED` (R520): the hub may train its ports. -/
def execRefclockQualified (k : RefClock) (s : State) : Res :=
  if k = .ao25 ∨ s.dev.aoUp = false then .next s
  else
    let s1 := { s with dev := { s.dev with clocks := s.dev.clocks.set (clockIx k) true } }
    .next (if s1.hubUp then s1.trainPorts fun p => p / 8 == clockIx k else s1)

/-- `MGMT_ADDRESS_LEASE` (R464): the address leased, while addresses are not static. -/
def execMgmtAddressLease (v6 : Bool) (d : List Byte) (s : State) : Res :=
  if s.dev.aoUp && s.effNat 0x4400 2 == 0 && d.length == (if v6 then 16 else 4) then .next (s.putEntry 0x4400 (if v6 then 4 else 3) d) else .next s

/-- `ENTDAA` (R447, R464). -/
def execEntdaa (addr : BitVec 7) (s : State) : Res :=
  if s.dev.aoUp then .next (s.putEntry 0x4400 6 (leBytes addr.toNat 1)) else .next s

end Sys2Proof.Machine
end

