-- ==== Sys2Proof/Machine/Uleel.lean ====
section
/-! DEFINITION. The dictionary's requests (R444 to R461): checks in the order of R452, segments and sessions, the rules of each entry's values, the
commands, and the acknowledgement of notifications. -/

namespace Sys2Proof.Machine

/-- The first failing check of a list in order, 0 when none fails (R452). -/
def firstCode : List (Bool × Nat) → Nat
  | [] => 0
  | (b, c) :: r => if b then c else firstCode r

/-- The transports of requests (R447): datagrams and MCTP on the management port, I3C, PE0's messages, and the node mailbox. -/
inductive Transport where
  | udp | mctpUdp | i3c | vdm | mailbox
deriving DecidableEq, Repr

/-- The origin of what comes over a transport (R447): the origin that a request's command names. -/
def Transport.origin : Transport → Origin
  | .udp | .mctpUdp | .i3c => .management
  | .vdm => .host
  | .mailbox => .node

/-- The UDP port of a transport of the management port (R447, R464). -/
def State.udpPort (s : State) : Transport → Option Nat
  | .udp => some (s.effNat 0x4400 5)
  | .mctpUdp => some (s.effNat 0x4400 5 + 1)
  | _ => none

/-- Nothing answers: OFF, the always-on domain in reset, or ALWAYS_ON not accepted (R455). -/
def State.mute (s : State) : Bool := s.dev.state == .off || !s.dev.aoUp || (s.image 0).isNone

/-- A header that R449 does not allow in a request of this OP (R452). -/
def badHeader (op : Nat) (m : UleelMsg) : Bool :=
  m.version != 1 || m.op.toNat != op || m.flags.toNat / 8 != 0 || m.reserved != 0 || m.status != 0 || m.length.toNat != m.data.length || decide (1024 < m.data.length)

/-- The entry is not in this manual (R444). -/
def unknownEntry (ix sub : Nat) : Bool := if sub = 0 then highestSub ix == 0 else (findEntry ix sub).isNone

/-- `DeviceState`, `BootStatus`, or an entry of area 0x1000. -/
def alwaysRead (ix sub : Nat) : Bool := ix / 0x1000 == 1 || (ix == 0x8000 && sub == 1) || (ix == 0x7000 && sub == 1)

/-- The state lets the entry be read (R455). -/
def State.readState (s : State) (ix sub : Nat) : Bool :=
  match s.dev.state with
  | .off => false
  | .booting => alwaysRead ix sub
  | .standby => ix / 0x1000 == 1 || ix / 0x1000 == 2 || ix / 0x1000 == 7 || ix / 0x1000 == 8
  | _ => true

/-- Checks that every access has in common, up to the origin's right (R452). -/
def State.accessChecks (s : State) (op : Nat) (m : UleelMsg) (busy mayAccess : Bool) : List (Bool × Nat) :=
  [(badHeader op m, abBadMessage), (busy, abBusy), (unknownEntry m.index.toNat m.sub.toNat, abUnknown),
   (entryAbsent s.dev.variant m.index.toNat m.sub.toNat, abAbsent), (!mayAccess, abNotAuthorised)]

/-- The last value accepted of an RWB entry is not in effect in every domain it governs (R39, R446). -/
def State.entryPending (s : State) (ix sub : Nat) : Bool :=
  ((findEntry ix sub).any fun e => e.acc == .rwb) && (s.isHeld ix sub ||
    (ix == 0x2100 && sub == 3 && s.partNums.any fun k => (s.part k).capW != s.capNow) ||
    (ix == 0x3020 && sub == 1 && s.partNums.any fun k => (s.part k).quantumUs != s.accNat 0x3020 1))

/-- A measured value was read: the next reading is another one (R396). -/
def State.readOnce (s : State) (ix sub : Nat) : State := if ix = 0x2100 ∧ (sub = 1 ∨ sub = 2) then { s with freeIx := s.freeIx + 1 } else s

/-- A counter block is sampled when its snapshot is read (R484). -/
def State.sampled (s : State) (ix sub : Nat) : State := if 0x9100 ≤ ix ∧ ix < 0x911C ∧ sub = 11 then s.gather (ix - 0x9100) else s

/-- The host reads little (R448). -/
def mayRead (o : Origin) (ix sub : Nat) : Bool := o != .host || alwaysRead ix sub

/-- A message that is a request and that something answers. -/
def State.asks (s : State) (m : UleelMsg) : Bool := !s.mute && !m.flags.getLsbD 0

/-- A read request is handled (R446, R450 to R452). -/
def State.handleRead (s : State) (o : Origin) (m : UleelMsg) : State :=
  let ix := m.index.toNat
  let sub := m.sub.toNat
  if !s.asks m then s
  else
    let t := s.sampled ix sub
    let d := t.entryValue ix sub
    let c := firstCode (s.accessChecks 1 m (s.overrun o) (mayRead o ix sub) ++ [(decide (1024 < d.length), abLength), (!s.readState ix sub, abState)])
    if c ≠ 0 then s.respond o (response m c 0 false false [])
    else (t.readOnce ix sub).respond o (response m 0 0 false (s.entryPending ix sub) d)

/-- `READ` (R446, R450, R452). -/
def execRead (o : Origin) (m : UleelMsg) (s : State) : Res := .next (s.handleRead o m)

/-- A segmented read is handled (R450 to R452). -/
def State.handleReadSegment (s : State) (o : Origin) (m : UleelMsg) : State :=
  let ix := m.index.toNat
  let sub := m.sub.toNat
  let off := m.offset.toNat
  if !s.asks m then s
  else
    let t := s.sampled ix sub
    let v := t.entryValue ix sub
    let c := firstCode (s.accessChecks 3 m (s.overrun o) (mayRead o ix sub) ++
      [(decide (v.length < off) || (off == v.length && off != 0), abSegment), (!s.readState ix sub, abState)])
    if c ≠ 0 then s.respond o (response m c off false false [])
    else
      let d := slice v off 1024
      (t.readOnce ix sub).respond o (response m 0 off (decide (v.length ≤ off + d.length)) (s.entryPending ix sub) d)

/-- `READ_SEGMENT` (R450). -/
def execReadSegment (o : Origin) (m : UleelMsg) (s : State) : Res := .next (s.handleReadSegment o m)

/-- The bits of `v` in the given runs, lowest bit and width: reserved bits read as zero (R8). -/
def keepBits (v : Nat) (runs : List (Nat × Nat)) : Nat := runs.foldl (fun a r => a + bitsOf v r.1 r.2 * 2 ^ r.1) 0

/-- The value that an entry holds of what was written: its reserved bits are zero (R8; DEDUCED, log 68). -/
def cleanValue (ix sub : Nat) (d : List Byte) : List Byte :=
  let v := leNat d
  let keep := fun runs => leBytes (keepBits v runs) d.length
  if ix = 0x4210 ∨ ix = 0x4211 ∨ ix = 0x4310 ∨ ix = 0x4311 then keep [(0, 4), (8, 6), (16, 32), (80, 36)]
  else if ix = 0x4410 then keep [(0, 4), (8, 8), (16, 16), (32, 128), (160, 16)]
  else if ix = 0x4110 then (List.range 512).flatMap fun i => leBytes (bitsOf (leNat (slice d (8 * i) 8)) 0 35) 8
  else if ix = 0x8030 then keep [(0, 512), (512, 20), (544, 20), (576, 32)]
  else if ix = 0x8061 then keep [(0, 34), (64, 21), (128, 52), (192, 384)]
  else if 0x9100 ≤ ix ∧ ix < 0x911C ∧ sub = 9 then keep [(0, 8)]
  else if 0x9100 ≤ ix ∧ ix < 0x911C ∧ sub = 10 then keep [(0, 13), (15, 1)]
  else if ix = 0x9160 then keep [(0, 6), (8, 13), (24, 5), (32, 13), (47, 1), (64, 52), (128, 32)]
  else d

/-- The positions, in partition order, of the stacks that a layout gives to P_k. -/
def layoutPositions (map k : Nat) : List Nat := (List.range 8).filter fun i => layoutOf map (partOrder.getD i 0) == k

/-- A layout of legal partitions (R55). -/
def layoutLegal (map : Nat) : Bool :=
  ((List.range 8).all fun n => decide (layoutOf map n < 8) || layoutOf map n == 15) &&
    (List.range 8).all fun k =>
      let l := layoutPositions map k
      let z := l.length
      z == 0 || ((z == 1 || z == 2 || z == 4 || z == 8) && k % z == 0 && l == (List.range z).map fun i => k + i)

/-- A layout the device refuses (R56). -/
def State.badLayout (s : State) (map : Nat) : Bool :=
  !layoutLegal map || (List.range 8).any fun n => s.integ.computeFenced.getD n false && layoutOf map n != 15

/-- A range of stacked DRAM. -/
def inDram (pa n : Nat) : Bool :=
  match regionOf pa, regionOf (pa + n - 1) with
  | .dram _, .dram _ => decide (0 < n)
  | _, _ => false

/-- A range of stacked DRAM or of one near-memory window. -/
def inDramOrNear (pa n : Nat) : Bool :=
  inDram pa n || match regionOf pa, regionOf (pa + n - 1) with
    | .near a, .near b => a == b
    | _, _ => false

/-- A parade plan the device refuses (R334). -/
def State.badPlan (s : State) (v : Nat) : Bool :=
  let n := bitsOf v 384 64
  let pa := bitsOf v 448 64
  let backup := bitsOf v 544 20
  n == 0 || decide (2 ^ 36 < n) || pa % 65536 != 0 || !inDram pa n || backup == bitsOf v 512 20 || (backup == s.fabricId && backup != 0xFFFFF)

/-- A member table in ascending order without repeats, whose entries are zero above the identifier (R503). -/
def tableOrdered (l : List Nat) : Bool := l.all (fun x => decide (x < 2 ^ 20)) && (l.zip (l.drop 1)).all fun p => decide (p.1 < p.2)

/-- A job record the device refuses (R503). -/
def State.badJob (s : State) (v : Nat) : Bool :=
  let st := bitsOf v 32 2
  let n := bitsOf v 64 21
  let pa := bitsOf v 128 52
  st == 3 || (st != 0 &&
    (n == 0 || decide (1048576 < n) || pa % 64 != 0 || !inDram pa (4 * n) || (s.lostIn (pa / 128) ((pa + 4 * n - 1) / 128 + 1)).isSome ||
      (s.badIn (pa / 128) ((pa + 4 * n - 1) / 128 + 1)).isSome || (s.firstUnbacked pa (4 * n)).isSome ||
      (let d := s.rdBytes pa (4 * n)
       let l := (List.range n).map fun i => leNat (slice d (4 * i) 4)
       sha384 d != BitVec.ofNat 384 (bitsOf v 192 384) || !tableOrdered l || !l.contains s.fabricId)))

/-- A `SampleControl` out of its ranges (R495); a partition that does not sample needs none (DEDUCED, log 72). -/
def badSample (v : Nat) : Bool :=
  bitAt v 0 && (decide (bitsOf v 1 5 < 8) || decide (24 < bitsOf v 1 5) || decide (bitsOf v 24 5 < 6) || decide (20 < bitsOf v 24 5) ||
    bitsOf v 64 52 % 4096 != 0 || !inDramOrNear (bitsOf v 64 52) (64 * 2 ^ bitsOf v 24 5))

/-- The value lies outside the type, the range or the rule of its entry (R452). -/
def State.badValue (s : State) (ix sub : Nat) (d : List Byte) : Bool :=
  let v := leNat d
  let range := match findEntry ix sub with
    | some e => e.vhi != 0 && (decide (v < e.vlo) || decide (e.vhi < v))
    | none => false
  let others := fun (n : Nat) => ((List.range n).filter fun j => j + 1 != sub).map fun j => s.accNat ix (j + 1)
  range ||
    (if ix = 0x3010 then s.badLayout v
     else if ix = 0x3030 then decide (28 < v + s.accNat 0x3031 sub)
     else if ix = 0x3031 then decide (28 < v + s.accNat 0x3030 sub)
     else if ix = 0x4010 then
       v == 2 && decide (2 ≤ (List.range 8).countP fun i => let p := (sub - 1) / 8 * 8 + i; p + 1 != sub && s.accNat 0x4010 (p + 1) == 2)
     else if ix = 0x4210 ∨ ix = 0x4211 ∨ ix = 0x4310 ∨ ix = 0x4311 then badWindow (others 16) v
     else if ix = 0x4301 then sub == 2 && v != 0 && s.accNat 0x4300 1 == 0
     else if ix = 0x4030 then !s.dramSupports (sub - 1) v
     else if ix = 0x4410 then decide (4 < bitsOf v 0 4)
     else if ix = 0x8030 then s.badPlan v
     else if ix = 0x8061 then s.badJob v
     else if ix = 0x8062 then d.any fun b => decide (15 < b.toNat) && b.toNat != 255
     else if ix = 0x8100 then v != 0
     else if 0x9100 ≤ ix ∧ ix < 0x911C ∧ sub ≤ 8 then !selectorOk (ix - 0x9100) v
     else if ix = 0x9150 then v != 0 && (v % 4096 != 0 || !inDramOrNear v 3584)
     else if ix = 0x9160 then badSample v
     else false)

/-- The state of the device, or of the partition that the subindex names, does not take the write (R231, R334, R454, R455). The commands and the
entries that act by themselves say so in their own meaning. -/
def State.wrongState (s : State) (ix sub : Nat) : Bool :=
  let part := decide (0x3030 ≤ ix) && decide (ix ≤ 0x3061) && !s.partExists (sub - 1)
  if ix = 0x8100 then false
  else if ix = 0x7030 then false
  else if ix = 0x8030 then !s.live
  else if ix = 0x4201 then !(s.live || s.dev.state == .quiesced)
  else
    match findEntry ix sub with
    | some e => if e.acc = .rws then !(s.asReady || s.dev.state == .quiesced) else !s.isUp || part
    | none => true

/-- The epoch that `HostAttach` returns (R358): that of the granted contexts. With none, or with epochs that differ, the manual names none (free
value, log 69). -/
def State.newEpoch (s : State) : Nat × State :=
  let l := ((s.ctxs.filter fun e => granted e.2).map fun e => e.2.host.epoch.toNat).eraseDups
  match l with
  | [e] => (e, s)
  | _ => ((s.free).1 % 65536, (s.free).2)

/-- `HostAttach` (R358, R458). -/
def State.hostAttach (s : State) : State × Nat × List Byte :=
  if !s.isUp then (s, abState, [])
  else
    let e := s.attach.newEpoch
    (e.2, 0, leBytes e.1 2)

/-- One of the commands of R458. -/
def State.command (s : State) (o : Origin) (sub : Nat) : State × Nat × List Byte :=
  let plain := fun (r : State × Nat) => (r.1, r.2, ([] : List Byte))
  if sub = 1 then s.hostAttach
  else if sub = 2 then plain (s.beginQuiesce o)
  else if sub = 3 then plain (s.resumeDevice o)
  else if sub = 4 then plain (s.standbyNow o)
  else if sub = 5 then plain (s.powerUpNow o)
  else plain (s.resetNow o)

/-- A value that passed its checks is accepted (R38, R446): it acts at once, is held, or does what its entry's rule says. -/
def State.acceptValue (s : State) (o : Origin) (ix sub : Nat) (d : List Byte) : State × Nat × List Byte :=
  let plain := fun (r : State × Nat) => (r.1, r.2, ([] : List Byte))
  if ix = 0x8100 then s.command o sub
  else if ix = 0x7030 then plain (s.writeToken d)
  else if ix = 0x7010 then plain (s.programOwner d)
  else if ix = 0x4201 then plain (s.askGuest (sub - 1) (leNat d))
  else if ix = 0x3010 then ((s.holdEntry ix sub d).acceptLayout, 0, [])
  else if ix = 0x2100 then ((s.holdEntry ix sub d).capAccepted s.capNow (leNat d), 0, [])
  else
    match findEntry ix sub with
    | some e => if e.dom = .now then (s.putEntry ix sub d, 0, []) else (s.holdEntry ix sub d, 0, [])
    | none => (s, abUnknown, [])

/-- Another origin or transaction writes the entry in segments (R450), or the origin has too many requests unanswered (R451). -/
def State.sessionBusy (s : State) (o : Origin) (m : UleelMsg) : Bool :=
  s.overrun o || s.dict.sessions.any fun x => x.key == entryKey m.index.toNat m.sub.toNat && !(x.origin == o && x.transaction == m.transaction)

/-- The checks of a write but for its segment (R452). -/
def State.writeChecks (s : State) (op : Nat) (o : Origin) (m : UleelMsg) : List (Bool × Nat) :=
  let ix := m.index.toNat
  let sub := m.sub.toNat
  let ro := sub == 0 || match findEntry ix sub with
    | some e => e.acc == .ro
    | none => false
  s.accessChecks op m (s.sessionBusy o m) (mayWrite o ix sub) ++ [(ro, abReadOnly)]

/-- A written value has the wrong length (R445). A command takes no byte; a nonzero one is an invalid value by R458 (DEDUCED, log 71). -/
def wrongLength (ix sub : Nat) (d : List Byte) : Bool :=
  match findEntry ix sub with
  | some e => d.length != e.size && !(ix == 0x8100 && leNat d != 0)
  | none => false

/-- A whole value is written: the checks of the value, and its acceptance. -/
def State.takeValue (s : State) (o : Origin) (m : UleelMsg) (before : List (Bool × Nat)) (d : List Byte) : State :=
  let ix := m.index.toNat
  let sub := m.sub.toNat
  let c := firstCode (before ++ [(s.badValue ix sub d, abValue), (s.wrongState ix sub, abState)])
  if c ≠ 0 then s.respond o (response m c 0 false false [])
  else
    let r := s.acceptValue o ix sub (cleanValue ix sub d)
    r.1.respond o (response m r.2.1 (if m.op = 4 then m.offset.toNat else 0) false (r.2.1 == 0 && r.1.entryPending ix sub) r.2.2)

/-- A write request is handled (R450 to R458). -/
def State.handleWrite (s : State) (o : Origin) (m : UleelMsg) : State :=
  if !s.asks m then s else s.takeValue o m (s.writeChecks 2 o m ++ [(wrongLength m.index.toNat m.sub.toNat m.data, abLength)]) m.data

/-- `WRITE` (R450, R452). -/
def execWrite (o : Origin) (m : UleelMsg) (s : State) : Res := .next (s.handleWrite o m)

/-- The session of a write goes. -/
def State.endSession (s : State) (k : Nat) (o : Origin) (tr : BitVec 16) : State :=
  { s with dict := { s.dict with sessions := s.dict.sessions.filter fun x => !(x.key == k && x.origin == o && x.transaction == tr) } }

/-- A segmented write is handled (R450): the segment with LAST commits the whole value. -/
def State.handleWriteSegment (s : State) (o : Origin) (m : UleelMsg) : State :=
  let key := entryKey m.index.toNat m.sub.toNat
  if !s.asks m then s
  else
    let mine := s.dict.sessions.find? fun x => x.key == key && x.origin == o && x.transaction == m.transaction
    let got := match mine with
      | some x => x.bytes
      | none => []
    let d := got ++ m.data
    let last := m.flags.getLsbD 1
    let order := m.offset.toNat != got.length
    let before := s.writeChecks 4 o m ++ [(last && wrongLength m.index.toNat m.sub.toNat d && !order, abLength), (order, abSegment)]
    let c := firstCode before
    let s1 := s.endSession key o m.transaction
    if c = abSegment ∨ c = abLength then s1.respond o (response m c m.offset.toNat false false [])
    else if c ≠ 0 then s.respond o (response m c m.offset.toNat false false [])
    else if last then s1.takeValue o m before d
    else
      let s2 := { s1 with dict := { s1.dict with sessions := s1.dict.sessions ++ [(⟨key, o, m.transaction, d, s1.now⟩ : Session)] } }
      s2.respond o (response m 0 m.offset.toNat false false [])

/-- `WRITE_SEGMENT` (R450). -/
def execWriteSegment (o : Origin) (m : UleelMsg) (s : State) : Res := .next (s.handleWriteSegment o m)

/-- `SEGMENT_SESSION_TIMEOUT` (R450): the session that has waited longest is discarded after 1 s without a segment. -/
def execSegmentSessionTimeout (s : State) : Res :=
  match sortBy (fun (a b : Session) => decide (a.since < b.since)) s.dict.sessions with
  | x :: _ => .next ((s.advance (x.since + 1000000000)).endSession x.key x.origin x.transaction)
  | [] => .next s

/-- `NOTIFY_ACK` (R460). -/
def execNotifyAck (sub : Fin 4) (tr : BitVec 16) (s : State) : Res :=
  .next { s with dict := { s.dict with outstanding := s.dict.outstanding.filter fun n => !(n.sub == sub.val && n.transaction == tr) } }

/-- `NOTIFY_RESEND` (R460): every 100 ms up to 10 times; then it is dropped and logged, and the record's own notification is not sent to that
subscriber. -/
def execNotifyResend (sub : Fin 4) (tr : BitVec 16) (s : State) : Res :=
  match s.dict.outstanding.find? fun n => n.sub == sub.val && n.transaction == tr with
  | none => .next s
  | some n =>
    let s1 := s.advance (n.since + 100000000)
    let rest := s1.dict.outstanding.filter fun x => !(x.sub == sub.val && x.transaction == tr)
    if n.resends < 10 then
      .next (({ s1 with dict := { s1.dict with outstanding := rest ++ [{ n with resends := n.resends + 1, since := s1.now }] } }).emitNotify sub n.data)
    else .next (({ s1 with dict := { s1.dict with outstanding := rest } }).postEvent 0x0C09 0xFF sub (some sub.val))

/-- `DRAM_MARGIN_REQUEST` (R282). -/
def execDramMarginRequest (o : Origin) (v : BitVec 16) (s : State) : Res := .next (s.handleWrite o (writeMsg 0x9040 1 (leBytes v.toNat 2)))

/-- `DEBUG_TOKEN` (R439 to R442). -/
def execDebugToken (o : Origin) (d : List Byte) (s : State) : Res := .next (s.handleWrite o (writeMsg 0x7030 2 d))

/-- `OWNER_DEBUG_KEY_HASH` (R443). -/
def execOwnerDebugKeyHash (o : Origin) (d : List Byte) (s : State) : Res := .next (s.handleWrite o (writeMsg 0x7010 1 d))

/-- `GUEST_ADMIT` (R384). -/
def execGuestAdmit (o : Origin) (g : Fin 2) (s : State) : Res := .next (s.handleWrite o (writeMsg 0x4201 (g + 1) [1]))

/-- `GUEST_RESET` (R384). -/
def execGuestReset (o : Origin) (g : Fin 2) (s : State) : Res := .next (s.handleWrite o (writeMsg 0x4201 (g + 1) [2]))

/-- `HOST_ATTACH` (R358, R458). -/
def execHostAttach (o : Origin) (s : State) : Res := .next (s.handleWrite o (writeMsg 0x8100 1 []))

/-- `QUIESCE` (R458, R505). -/
def execQuiesce (o : Origin) (s : State) : Res := .next (s.handleWrite o (writeMsg 0x8100 2 []))

/-- `RESUME_DEVICE` (R458). -/
def execResumeDevice (o : Origin) (s : State) : Res := .next (s.handleWrite o (writeMsg 0x8100 3 []))

/-- `STANDBY` (R458, R508). -/
def execStandby (o : Origin) (s : State) : Res := .next (s.handleWrite o (writeMsg 0x8100 4 []))

/-- `POWER_UP` (R458, R498). -/
def execPowerUp (o : Origin) (s : State) : Res := .next (s.handleWrite o (writeMsg 0x8100 5 []))

/-- `RESET` (R458, R498). -/
def execReset (o : Origin) (s : State) : Res := .next (s.handleWrite o (writeMsg 0x8100 6 []))

end Sys2Proof.Machine
end

