-- ==== Sys2Proof/Machine/Registers.lean ====
section
/-! DEFINITION. The register space (R465 to R480): the global block, partition status, link and DRAM banks, node mailboxes, and the access rules
of R466. -/

namespace Sys2Proof.Machine

/-- An access that R466 or R475 refuses is counted in REG_ACCESS_ERRORS. -/
def State.regError (s : State) : State := { s with fq := { s.fq with accessErrors := satInc 32 s.fq.accessErrors } }

/-- A write of a ring's base or size (R475): only while the ring is empty, and a size within its range. -/
def ringSetup (r : Ring) (size fq : Bool) (v : Nat) : Option Ring :=
  let lg := bitsOf v 0 5
  if r.producer ≠ r.consumer then none
  else if !size then some { r with base := bitsOf v 12 40 * 4096, unusable := false }
  else if (if fq then decide (6 ≤ lg) && decide (lg ≤ 16) else lg == 0 || (decide (4 ≤ lg) && decide (lg ≤ 20))) then some { r with log2 := lg }
  else none

/-- A write of a ring's producer count by node software (R475). -/
def ringProduce (r : Ring) (v : W32) : Option Ring :=
  if r.used ≤ w32Diff v r.consumer ∧ w32Diff v r.consumer ≤ r.cap then some { r with producer := v } else none

/-- A write of a ring's consumer count by node software (R475). -/
def ringConsume (r : Ring) (v : W32) : Option Ring := if w32Diff v r.consumer ≤ r.used then some { r with consumer := v } else none

/-- The new ring, or a refusal that is counted. -/
def State.ringWrite (s : State) (r : Option Ring) (put : State → Ring → State) : State :=
  match r with
  | some x => put s x
  | none => s.regError

/-- A write to the global block (R475); one of FQ_BASE, FQ_LOG2 or FQ_CONSUMED tries the waiting fault records again (R296). -/
def State.writeGlobal (s : State) (off : Nat) (w : W64) : State :=
  let v := w.toNat
  let cnt : W32 := w.setWidth 32
  let putFq := fun (t : State) (r : Ring) => { t with fq := { t.fq with ring := r } }
  if off = 0 ∨ off = 8 then (s.ringWrite (ringSetup s.fq.ring (off == 8) true v) putFq).tryFq
  else if off = 0x18 then (s.ringWrite (ringConsume s.fq.ring cnt) putFq).tryFq
  else if off = 0x20 then (if bitAt v 32 then s.declineFault (v % 2 ^ 32) else s.retryFault (v % 2 ^ 32))
  else if 0x100 ≤ off ∧ off < 0x320 then
    let p := (off - 0x100) / 32
    let put := fun (t : State) (r : Ring) => t.setPool p r
    if off % 32 = 0 ∨ off % 32 = 8 then s.ringWrite (ringSetup (s.pool p) (off % 32 == 8) false v) put
    else if off % 32 = 16 then s.ringWrite (ringProduce (s.pool p) cnt) put
    else s
  else if 0x400 ≤ off ∧ off < 0x440 then
    let i := (off - 0x400) / 32
    let r := s.fq.releases.getD i Ring.reset
    let put := fun (t : State) (x : Ring) => { t with fq := { t.fq with releases := t.fq.releases.set i x } }
    if off % 32 = 0 ∨ off % 32 = 8 then s.ringWrite (ringSetup r (off % 32 == 8) false v) put
    else if off % 32 = 24 then s.ringWrite (ringConsume r cnt) put
    else s
  else s

/-- One register of a ring: base, size, producer, consumer. -/
def ringReg (r : Ring) (i : Nat) : Nat := if i = 0 then r.base else if i = 8 then r.log2 else if i = 16 then r.producer.toNat else r.consumer.toNat

/-- What a read of the global block returns (R475). -/
def State.readGlobal (s : State) (off : Nat) : Nat :=
  if off < 0x20 then ringReg s.fq.ring off
  else if off = 0x28 then satTo 32 s.fq.resumesIgnored
  else if off = 0x30 then satTo 32 s.fq.accessErrors
  else if 0x100 ≤ off ∧ off < 0x320 then ringReg (s.pool ((off - 0x100) / 32)) (off % 32)
  else if 0x400 ≤ off ∧ off < 0x440 then ringReg (s.fq.releases.getD ((off - 0x400) / 32) Ring.reset) (off % 32)
  else 0

/-- STATE of a partition's status (R476). -/
def phaseCode : Phase → Nat
  | .idle => 1 | .running => 2 | .draining => 3 | .idleInserted => 4 | .layoutWait => 5

/-- What a read of partition status returns (R476). -/
def State.readPart (s : State) (off : Nat) : Nat :=
  let k := off / 64
  let p := s.part k
  if 8 ≤ k ∨ !s.partExists k then 0
  else if off % 64 = 0 then phaseCode p.phase + p.running.getD 0 * 2 ^ 16
  else if off % 64 = 8 then p.latchCount
  else if off % 64 = 16 then p.lastLatch
  else 0

/-- The select word of a link bank. -/
def State.linkSel (s : State) (b : Nat) : Nat := (tabGet 0#64 s.banks.link b).toNat

/-- The key of the queue pair that a link bank selects. -/
def State.qpKey (s : State) (b : Nat) : Nat := 1024 * bitsOf (s.linkSel b) 0 4 + bitsOf (s.linkSel b) 16 10

/-- The steps that QP_STATE accepts (R477). In RESET a write may name RESET, since the word's other fields are written there (DEDUCED, log 74). -/
def qpStep (old new : Nat) : Bool := (old == 0 && new == 0) || (decide (old < 3) && new == old + 1) || new == 4 || (old == 4 && new == 0)

/-- The fields of 0x200 but the state. -/
def qpFields (v : Nat) : Nat := bitsOf v 16 12 * 2 ^ 16 + bitsOf v 32 24 * 2 ^ 32

/-- A write changes a field of the word that holds QP_STATE which only RESET lets it write (R477; DEDUCED, log 74). -/
def QueuePair.fieldsKept (x : QueuePair) (v : Nat) : Bool := x.state == 0 || qpFields v == qpFields x.word0.toNat

/-- A write of the word that holds QP_STATE (R477): a pair that enters RESET starts its sequence anew. -/
def QueuePair.withState (x : QueuePair) (v : Nat) : QueuePair :=
  let y := if bitsOf v 0 3 = 0 ∧ x.state ≠ 0 then { x with sent := 0, expect := none, waiting := [] } else x
  { y with word0 := BitVec.ofNat 64 (bitsOf v 0 3 + qpFields (if x.state = 0 then v else x.word0.toNat)) }

/-- A write to a queue pair's other fields: only in RESET, the counts among them, as the rule says of every other field (DEDUCED, log 74). -/
def QueuePair.write (x : QueuePair) (off : Nat) (w : W64) : QueuePair :=
  let v := w.toNat
  let ringWord := BitVec.ofNat 64 (bitsOf v 0 61)
  if off = 0x208 then { x with word1 := BitVec.ofNat 64 (bitsOf v 0 56) }
  else if off = 0x210 then { x with sq := ringWord }
  else if off = 0x218 then { x with rq := ringWord }
  else if off = 0x220 then { x with cq := ringWord }
  else if off = 0x228 then { x with sqProducer := BitVec.ofNat 32 v, rqProducer := BitVec.ofNat 32 (v / 2 ^ 32) }
  else if off = 0x230 then { x with cqConsumer := BitVec.ofNat 32 v }
  else
    let staged := BitVec.ofNat 256 (setBits x.peerStage.toNat (8 * (off - 0x240)) 64 v)
    if off = 0x258 then
      { x with peer := BitVec.ofNat 256 (keepBits staged.toNat [(0, 129), (144, 56)]), peerStage := staged }
    else { x with peerStage := staged }

/-- A LOG2 of a queue-pair ring lies in 4 to 16 (R477). -/
def qpRangeOk (off : Nat) (w : W64) : Bool :=
  !(off == 0x210 || off == 0x218 || off == 0x220) || (decide (4 ≤ bitsOf w.toNat 56 5) && decide (bitsOf w.toNat 56 5 ≤ 16))

/-- A register of a queue pair as read. -/
def QueuePair.read (x : QueuePair) (off : Nat) : Nat :=
  if off = 0x200 then x.word0.toNat
  else if off = 0x208 then x.word1.toNat
  else if off = 0x210 then x.sq.toNat
  else if off = 0x218 then x.rq.toNat
  else if off = 0x220 then x.cq.toNat
  else if off = 0x228 then x.sqProducer.toNat + x.rqProducer.toNat * 2 ^ 32
  else if off = 0x230 then x.cqConsumer.toNat
  else if 0x240 ≤ off ∧ off < 0x260 then bitsOf x.peer.toNat (8 * (off - 0x240)) 64
  else 0

/-- A write of the word that holds QP_STATE (R477). -/
def State.writeQpState (s : State) (b : Nat) (v : Nat) : State :=
  let key := s.qpKey b
  let x := s.qp key
  if s.portMode (key / 1024) ≠ 2 then s
  else if !qpStep x.state (bitsOf v 0 3) || !x.fieldsKept v then s.regError
  else if bitsOf v 0 3 = 4 then s.errorQp key
  else s.setQp key (x.withState v)

/-- `QP_STATE_WRITE` (R477): a write through a link bank. -/
def execQpStateWrite (lb : Fin 64) (v : BitVec 64) (s : State) : Res := s.whenPowered fun t => t.writeQpState lb v.toNat

/-- A write to a link bank (R477). -/
def State.writeLink (s : State) (b off : Nat) (w : W64) : State :=
  if off = 0 then { s with banks := { s.banks with link := tabPut 0#64 s.banks.link b (BitVec.ofNat 64 (keepBits w.toNat [(0, 4), (16, 10)])) } }
  else if off = 0x200 then s.writeQpState b w.toNat
  else if (0x208 ≤ off ∧ off ≤ 0x230) ∨ (0x240 ≤ off ∧ off ≤ 0x258) then
    let key := s.qpKey b
    if s.portMode (key / 1024) ≠ 2 then s
    else if (s.qp key).state ≠ 0 ∨ qpRangeOk off w = false then s.regError
    else s.setQp key ((s.qp key).write off w)
  else s

/-- What a read of a link bank returns (R477). -/
def State.readLink (s : State) (b off : Nat) : Nat :=
  let p := bitsOf (s.linkSel b) 0 4
  let x := s.port p
  if off = 0 then s.linkSel b
  else if off = 0x100 then x.state + (List.range 5).foldl (fun a i => a + b2n (x.laneOk.getD i false) * 2 ^ (8 + i)) 0
  else if off = 0x108 then x.flitsResent + x.flitsFailed * 2 ^ 32
  else if 0x110 ≤ off ∧ off < 0x138 then x.corrected.getD ((off - 0x110) / 8) 0
  else if 0x200 ≤ off ∧ s.portMode p = 2 then (s.qp (s.qpKey b)).read off
  else 0

/-- The select word of a DRAM bank. -/
def State.dramSel (s : State) (b : Nat) : Nat := (tabGet 0#64 s.banks.dram b).toNat

/-- What a read of a DRAM bank returns (R479). How many reads and writes are queued now is the memory controller's own: none at reset, and free values once
a read has shown them (log 90). -/
def State.readDram (s : State) (b off : Nat) : State × Nat :=
  let d := bitsOf (s.dramSel b) 0 4
  let c := bitsOf (s.dramSel b) 16 7
  let key := pcKey d c
  if off = 0 then (s, s.dramSel b)
  else if 64 < c then (s, 0)
  else if off = 0x100 then (s, s.dram.pc d c)
  else if off = 0x108 then (s, satTo 32 (tabGet 0 s.dram.corrected key) + satTo 32 (tabGet 0 s.dram.uncorrectable key) * 2 ^ 32)
  else if off = 0x110 then (s, satTo 16 (s.bucketLevel 2 (20 + d) c) + tabGet 0 s.dram.pcRepairs key * 2 ^ 16)
  else if off = 0x118 then
    let f := s.free
    ({ f.2 with dram := { s.dram with queues := tabPut 0 s.dram.queues key (f.1 % 2 ^ 7 + bitsOf f.1 8 20 % 65 * 2 ^ 8) } }, tabGet 0 s.dram.queues key)
  else (s, 0)

/-- The dictionary handles a request of a node mailbox (R451, R480). The mailbox is a requester of its own toward the limit of R451, and has one request at
most. -/
def State.runMail (s : State) (i : Nat) (m : UleelMsg) : State :=
  let s0 := { s with dict := { s.dict with unanswered := [] } }
  let t0 := if m.op = 1 then s0.handleRead .node m else if m.op = 2 then s0.handleWrite .node m
    else if m.op = 3 then s0.handleReadSegment .node m else s0.handleWriteSegment .node m
  let t := { t0 with dict := { t0.dict with unanswered := s.dict.unanswered } }
  match (t.out.responses.take (t.out.responses.length - s.out.responses.length)).find? fun e => e.1 == .node with
  | some e => t.deliverMail i e.2
  | none => t

/-- A GO write (R480): DONE clears, and the request is taken and handled. What is no request of R449 is answered at once. -/
def State.submitMail (s : State) (i : Nat) (v : Nat) : State :=
  let x := s.mail i
  if x.busy then s.setMail i { x with ignored := satInc 16 x.ignored }
  else if !bitAt v 0 then s.setMail i { x with goWord := BitVec.ofNat 64 (keepBits v [(16, 13), (31, 1)]) }
  else
    let y := { x with goWord := BitVec.ofNat 64 (keepBits v [(16, 13), (31, 1)]), done := false, busy := true }
    let m := y.asked
    let s1 := s.setMail i y
    if m.op = 0 ∨ 4 < m.op.toNat ∨ m.flags.getLsbD 0 then
      let r := response m abBadMessage 0 false false []
      (s1.reply .node r).deliverMail i r
    else s1.runMail i m

/-- `MAILBOX_GO` (R480). -/
def execMailboxGo (mb : Fin 16) (v : BitVec 64) (s : State) : Res := s.whenPowered fun t => t.submitMail mb v.toNat

/-- A write to a node mailbox (R480). Offset 0xC00 is the GO register, though RESPONSE would reach over it (R480 gives both; DEDUCED, log 76). -/
def State.writeMail (s : State) (i off : Nat) (w : W64) : State :=
  let x := s.mail i
  if off < 0x418 then
    (if x.busy then s.setMail i { x with ignored := satInc 16 x.ignored }
     else s.setMail i { x with request := tabPutList 0 x.request off (leBytes w.toNat 8) })
  else if off = 0xC00 then s.submitMail i w.toNat
  else if off = 0xC08 then (if bitAt w.toNat 1 then s.setMail i { x with done := false } else s)
  else s

/-- What a read of a node mailbox returns (R480). -/
def Mailbox.read (x : Mailbox) (off : Nat) : Nat :=
  if off < 0x418 then leNat (tabGetList 0 x.request off 8)
  else if 0x800 ≤ off ∧ off < 0xC00 then leNat (slice x.response (off - 0x800) 8)
  else if off = 0xC00 then x.goWord.toNat
  else if off = 0xC08 then b2n x.busy + b2n x.done * 2 + x.ignored * 2 ^ 16
  else if 0xC10 ≤ off ∧ off < 0xC18 then leNat (slice x.response (off - 0x800) 8)
  else 0

/-- A write of a register, by its offset in the register space (R465). -/
def State.regWrite (s : State) (o : Nat) (w : W64) : State :=
  if o < 0x1000000 then s.writeBell (o / 4096) (o % 4096) w
  else if o < 0x1080000 then s.writeBank ((o - 0x1000000) / 4096) (o % 4096) w
  else if o < 0x1800000 then s
  else if o < 0x1840000 then s.writeLink ((o - 0x1800000) / 4096) (o % 4096) w
  else if o < 0x1C00000 then s
  else if o < 0x1C40000 then
    (if o % 4096 = 0 then
       { s with banks := { s.banks with dram := tabPut 0#64 s.banks.dram ((o - 0x1C00000) / 4096) (BitVec.ofNat 64 (keepBits w.toNat [(0, 4), (16, 7)])) } }
     else s)
  else if o < 0x2000000 then s
  else if o < 0x2010000 then s.writeGlobal (o - 0x2000000) w
  else if o < 0x2020000 then s
  else if o < 0x2030000 then s.writeMail ((o - 0x2020000) / 4096) (o % 4096) w
  else if 0x2100000 ≤ o ∧ o < 0x2140000 then s.writeSlice 0 (o - 0x2100000) w
  else if 0x2140000 ≤ o ∧ o < 0x2180000 then s.writeSlice 1 (o - 0x2140000) w
  else s

/-- The CLAIM register of a core that an offset names (R377, R380). -/
def claimOf (o : Nat) : Option (Nat × IrqLevel) :=
  if 0x2100000 ≤ o ∧ o < 0x2180000 then
    let m := (o - 0x2100000) / 0x40000
    let off := (o - 0x2100000) % 0x40000
    if 0x30000 ≤ off ∧ off < 0x31800 then
      let k := 48 * m + (off - 0x30000) / 128
      if off % 128 = 0x08 then some (k, .s) else if off % 128 = 0x48 then some (k, .m) else none
    else none
  else none

/-- A read of a register, by its offset in the register space (R465). -/
def State.regRead (s : State) (o : Nat) : State × Nat :=
  if o < 0x1000000 then (s, s.readBell (o / 4096) (o % 4096))
  else if o < 0x1080000 then (s, s.readBank ((o - 0x1000000) / 4096) (o % 4096))
  else if 0x1800000 ≤ o ∧ o < 0x1840000 then (s, s.readLink ((o - 0x1800000) / 4096) (o % 4096))
  else if 0x1C00000 ≤ o ∧ o < 0x1C40000 then s.readDram ((o - 0x1C00000) / 4096) (o % 4096)
  else if 0x2000000 ≤ o ∧ o < 0x2010000 then (s, s.readGlobal (o - 0x2000000))
  else if 0x2010000 ≤ o ∧ o < 0x2020000 then (s, s.readPart (o - 0x2010000))
  else if 0x2020000 ≤ o ∧ o < 0x2030000 then (s, (s.mail ((o - 0x2020000) / 4096)).read (o % 4096))
  else if 0x2100000 ≤ o ∧ o < 0x2140000 then (s, s.readSlice 0 (o - 0x2100000))
  else if 0x2140000 ≤ o ∧ o < 0x2180000 then (s, s.readSlice 1 (o - 0x2140000))
  else (s, 0)

/-- An access that R466 does not allow: a read returns zero, a write is discarded, and either is counted. -/
def State.badAccess (s : State) (r : RegAccess) : State :=
  if r.isRead then s.regError.answer r.offset (List.replicate r.size 0) else s.regError

/-- An access that falls in a configuration window (R481): what a port with its link up answers to a read, or that nothing answers, is the
endpoint's (free values, log 126). -/
def State.windowAccess (s : State) (r : RegAccess) : State :=
  let port := r.offset / 0x10000000 - 1
  let answer := if (s.free).1 % 2 = 0 then none else some (BitVec.ofNat 32 ((s.free).1 / 2))
  (if r.isRead then (s.free).2 else s).configAccess port ⟨r.offset % 0x10000000, r.size, !r.isRead, r.value.setWidth 32, answer⟩

/-- `REGISTER_WRITE` (R465, R466): one access to the register space, with the behaviour of the register it names. An access that is not a core's is
refused as unbacked. -/
def execRegisterWrite (r : RegAccess) (s : State) : Res :=
  if !s.powered then .next s
  else
  match r.other with
  | some a => .next (s.refuse a ((0xF00000000000 + r.offset) / 128) (if r.isRead then accRead else accWrite) 4 .demand)
  | none =>
    if 0x10000000 ≤ r.offset ∧ r.offset < 0x30000000 then
      .next (s.windowAccess r)
    else if r.size ≠ 8 ∨ r.offset % 8 ≠ 0 then .next (s.badAccess r)
    else if r.isRead then
      match claimOf r.offset with
      | some (k, lv) => .next (s.claimRead k lv)
      | none =>
        let v := s.regRead r.offset
        .next (v.1.answer r.offset (leBytes v.2 8))
    else .next (s.regWrite r.offset r.value)

end Sys2Proof.Machine
end

