-- ==== Sys2Proof/Machine/Rdma.lean ====
section
/-! DEFINITION. RoCE on an Ethernet-mode port (R306, R477, R478): send-queue entries, inbound requests, and the answers that end an entry. -/

namespace Sys2Proof.Machine

/-- `SEND` (R478). -/
def execSend (port : Fin 16) (qp : Fin 1024) (s : State) : Res := .next (s.qpDo (qpOf port qp) (.wqe 1))

/-- `RDMA_WRITE` (R478). -/
def execRdmaWrite (port : Fin 16) (qp : Fin 1024) (s : State) : Res := .next (s.qpDo (qpOf port qp) (.wqe 2))

/-- `RDMA_READ` (R478). -/
def execRdmaRead (port : Fin 16) (qp : Fin 1024) (s : State) : Res := .next (s.qpDo (qpOf port qp) (.wqe 3))

/-- `INBOUND_RDMA` (R306, R477): a request in sequence is performed; one taken before is acknowledged again, and one ahead is answered with a sequence
error. ECN-marked packets are answered with a congestion notification. -/
def execInboundRdma (port : Fin 16) (qp : Fin 1024) (q : RdmaInbound) (s : State) : Res :=
  let key := qpOf port qp
  let x := s.qp key
  if !s.etherUp port || !(x.state == 2 || x.state == 3) then .next s
  else
    let s1 := if q.marked then s.roceAnswer key 0x14 0 [] else s
    match seqPlace x.expect q.psn with
    | .taken => .next (s1.roceAnswer key 0x10 q.psn.toNat [])
    | .ahead => .next (s1.roceAnswer key 0x13 q.psn.toNat [])
    | .next =>
      let s2 := s1.setQp key { x with expect := some (q.psn + BitVec.ofNat 24 (inboundParts q.req)) }
      .next (s2.qpDo key (.inbound q))

/-- An answer ends the oldest entry in flight. -/
def State.endOldest (s : State) (key ix e : Nat) (rest : List (Nat × BitVec 512)) (status : Nat) : State :=
  let x := s.qp key
  (s.setQp key { x with flying := rest }).endWqe key ix e status

/-- The data of a read that ends the oldest entry in flight land. -/
def State.endRead (s : State) (key ix : Nat) (w : BitVec 512) (rest : List (Nat × BitVec 512)) (d : List Byte) : State :=
  let x := s.qp key
  (s.setQp key { x with flying := rest }).qpDo key (.landing ix w d)

/-- The two priorities on which ports take flow control (R306): which they are is the part's. -/
def pfcPrio (i : Nat) : Nat := Config.freeNat (2 ^ 62 + i) % 8

/-- A congestion notification arrives: how it slows a port is timing (R306). -/
def State.congested (s : State) (port : Nat) : State := s.setPort port { s.port port with congested := (s.port port).congested + 1 }

/-- A priority is paused or released (R306). -/
def State.pausePrio (s : State) (port p : Nat) (on : Bool) : State :=
  if p = pfcPrio 0 ∨ p = pfcPrio 1 then
    s.setPort port { s.port port with paused := ((s.port port).paused.filter fun x => x != p) ++ if on then [p] else [] }
  else s

/-- `RDMA_RESPONSE` (R306, R478): an acknowledgement, the data of a read, a remote access error or the retry limit; a congestion notification or a pause of
the port. -/
def execRdmaResponse (port : Fin 16) (qp : Fin 1024) (r : RdmaResult) (s : State) : Res :=
  let key := qpOf port qp
  match r, (s.qp key).flying with
  | .congestion, _ => .next (if s.etherUp port then s.congested port else s)
  | .pause p on, _ => .next (if s.etherUp port then s.pausePrio port p on else s)
  | _, [] => .next s
  | .ack, (ix, w) :: rest => if wqeOp w.toNat = 3 then .next s else .next (s.endOldest key ix w.toNat rest 0)
  | .readData d, (ix, w) :: rest => if wqeOp w.toNat = 3 ∧ d.length = wqeLen w.toNat then .next (s.endRead key ix w rest d) else .next s
  | .remoteError, (ix, w) :: rest => .next (s.endOldest key ix w.toNat rest 2)
  | .retryExceeded, (ix, w) :: rest => .next (s.endOldest key ix w.toNat rest 3)

end Sys2Proof.Machine
end

