-- ==== Sys2Proof/Machine/Tick.lean ====
section
/-! DEFINITION. The tick boundary (R38 to R40, R456): what takes effect outside partitions when device time reaches a multiple of 2^20 ns, and the
partitions for which the tick is a latch point. -/

namespace Sys2Proof.Machine

/-- The next multiple of 2^20 ns after `now` (R38). -/
def nextTick (now : Nat) : Nat := (now / 2 ^ 20 + 1) * 2 ^ 20

/-- The staged routes as entries of the table in use (R312, R314). -/
def State.stagedRoutes (s : State) : Tab W64 :=
  (List.range 128).flatMap fun b =>
    match tabGet [] s.dict.acc (entryKey 0x4110 (b + 1)) with
    | [] => []
    | d => (List.range 512).filterMap fun i =>
      let w := leNat (slice d (8 * i) 8)
      if w = 0 then none else some (512 * b + i, BitVec.ofNat 64 w)

/-- A route commit that was accepted takes effect, and the entry reads 0 (R312). -/
def State.commitRoutes (s : State) : State :=
  if s.effNat 0x4100 3 = 1 then
    let s1 := { s with fabric := { s.fabric with table := s.stagedRoutes, shift := s.accNat 0x4100 2 }, dev := { s.dev with routeCommitted := true } }
    s1.putEntry 0x4100 3 (leBytes 0 1)
  else s

/-- The queue pairs of a port that leaves Ethernet mode are in ERROR (R477). -/
def State.closePairs (s : State) (p : Nat) : State :=
  (List.range 1024).foldl (fun (t : State) q => t.errorQp (1024 * p + q)) s

/-- A port's new mode or rate takes effect (R305): it retrains, or it is off. -/
def State.resetPort (s : State) (p oldMode : Nat) : State :=
  let s1 := if oldMode = 2 ∧ s.portMode p ≠ 2 then s.closePairs p else s
  if s1.portMode p = 0 then (s1.setPort p { (s1.port p).cleared with trained := false, moveLane := none, laneOk := List.replicate 5 false }).toPortState p 0
  else if s1.hubUp && s1.linkRef p then (s1.ungate (.linkPort (Fin.ofNat 16 p))).startTraining p
  else s1

/-- What waits on a link port for the tick (R305, R310): the return to service after training, and the move of a lane to LANE_4. -/
def State.tickPort (s : State) (p : Nat) : State :=
  let x := s.port p
  if x.state = 1 ∧ x.trained then ((s.setPort p { x with trained := false }).toPortState p (if x.spareLane = 0xFF then 2 else 3)).timeFlits p
  else if x.state = 2 ∨ x.state = 3 then
    match x.moveLane with
    | some l => (s.setPort p { x with moveLane := none, spareLane := l }).toPortState p 3
    | none => s
  else s

/-- PE1 at a tick boundary (R388, R390, R519): a port whose mode, bifurcation or generation changes retrains with its reset low, and one with a changed DMA
window retrains. `old` is the state before the entries took effect; an entry that keeps its value changes nothing. -/
def State.tickPe1 (s old : State) : State :=
  let ch := fun (ix sub : Nat) => old.effNat ix sub != s.effNat ix sub
  let f := fun (i : Nat) (x : Pe1Port) =>
    if ch 0x4300 1 || ch 0x4301 (i + 1) || ch 0x4020 (i + 2) then (⟨0, false, x.refusedDma, false, s.now, []⟩ : Pe1Port)
    else if ((List.range 16).any fun w => ch (0x4310 + i) (w + 1)) then { x with linkUp := false }
    else x
  { s with pe1 := s.pe1.mapIdx f }

/-- The stacks whose new timing set takes effect retrain (R464). -/
def State.tickTiming (s : State) (keys : List Nat) : State :=
  let ds := (keys.filter fun k => k / 256 == 0x4030).map fun k => k % 256 - 1
  { s with dram := { s.dram with retraining := s.dram.retraining ++ ds.filter fun d => !s.dram.retraining.contains d } }

/-- A straggler's report leaves (R332). -/
def State.sendStraggler (s : State) (r : BitVec 256) : State :=
  ((s.putEntry 0x8021 2 (leBytes r.toNat 32)).raise 7957).notify 5 0 (leBytes r.toNat 32) none

/-- The straggler reports that wait, at most one for each communicator (R332). -/
def State.tickStragglers (s : State) : State :=
  s.fabric.straggler.foldl (fun (t : State) e => t.sendStraggler e.2) { s with fabric := { s.fabric with straggler := [] } }

/-- The notification of a silent parade parent (R336, R460). -/
def State.tickParade (s : State) : State :=
  match s.fabric.parade.silent with
  | some id =>
    let s1 := { s with fabric := { s.fabric with parade := { s.fabric.parade with silent := none } } }
    s1.notify 6 0 (leBytes (id % 2 ^ 20 + s1.planNat 576 607 * 2 ^ 32) 8) none
  | none => s

/-- Scopes of accepted debug tokens open (R442), and a commit under way is complete (log 193). -/
def State.openScopes (s : State) : State := { s with sec := { s.sec with scopes := s.sec.scopes ||| s.sec.scopesDue, scopesDue := 0, commitFrom := none } }

/-- The partitions at a tick boundary (R57, R456): one without a sequencer counts as having reached a latch point. -/
def State.tickPart (s : State) (k : Nat) (m : LatchMeasure) : State :=
  if s.touched k && !s.seqLive k then s.updPart k fun p => { p with reached := true }
  else if s.tickLatches k then s.tickLatch k m
  else s

/-- A measure for a partition that a tick's measure does not name. -/
def noMeasure : LatchMeasure := ⟨0, [], 0, [], 0⟩

/-- A layout that touches no present partition takes effect at a tick (R57). -/
def State.tickLayout (s : State) : State := if s.dev.layoutDue && !s.anyTouched && tickDue s.now s.dev.layoutSince then s.changeLayout else s

/-- The device's own settings at a tick boundary: controller words, entries of the dictionary, the processor dies, stacked DRAM, routes, ports, PE1,
guests and the parade. -/
def State.tickSettings (s : State) (m : TickMeasure) : State :=
  let c := s.tickCores m
  let s0 := (({ c with irq := c.irq.tick s.now }).tryDieOff 0).tryDieOff 1
  let keys := s0.tickKeys
  let s1 := (s0.applyKeys keys).powerTick m (keys.contains (entryKey 0x2100 3))
  let s2 := ((s1.tickTiming keys).dramTick.openScopes.tickPe1 s0).commitRoutes
  let moved := (List.range 16).filter fun p => s2.portMode p != s.portMode p || s2.effNat 0x4011 (p + 1) != s.effNat 0x4011 (p + 1)
  let s3 := moved.foldl (fun (t : State) p => t.resetPort p (s.portMode p)) s2
  let s4 := ((List.range 16).filter fun p => !moved.contains p).foldl (fun (t : State) p => t.tickPort p) s3
  let s5 := if hasGuests s4.dev.variant then (s4.guestTick 0).guestTick 1 else s4
  let s6 := ((List.range 16).foldl (fun (t : State) p => t.timeFlits p) (s5.slewBy (2 ^ 20))).checkTimeParent
  if keys.contains (entryKey 0x8030 1) then s6.startParade else s6

/-- `TICK_BOUNDARY` (R38 to R40, R312, R332, R336, R442, R456, R492): device time reaches the next multiple of 2^20 ns. -/
def execTickBoundary (m : TickMeasure) (s : State) : Res :=
  let s0 := s.advance (nextTick s.now)
  if !s0.dev.aoUp || s0.dev.state == .off then .next s0
  else
    let s1 := (s0.tickSettings m).tickStragglers.tickParade
    let s2 := (List.range 8).foldl (fun (t : State) k => t.tickPart k (m.parts.getD k noMeasure)) s1
    .next ((List.range 28).foldl (fun (t : State) b => t.mirrorBlock b) s2.tickLayout)

end Sys2Proof.Machine
end

