-- ==== Sys2Proof/Machine/Dispatch.lean ====
section
/-! DEFINITION. The dispatch: one arm per command of the operation and event table, each one direct call of its meaning. -/

namespace Sys2Proof.Machine

def exec (i : Instr) (s : State) : Host.Outcome State Fault Refusal :=
  match i with
  | .matmul p => Sys2Proof.Machine.execMatmul p s
  | .batchedMatmul p => Sys2Proof.Machine.execBatchedMatmul p s
  | .raggedMatmul p => Sys2Proof.Machine.execRaggedMatmul p s
  | .attention p => Sys2Proof.Machine.execAttention p s
  | .update p => Sys2Proof.Machine.execUpdate p s
  | .convert p => Sys2Proof.Machine.execConvert p s
  | .elementwise p => Sys2Proof.Machine.execElementwise p s
  | .kernel p => Sys2Proof.Machine.execKernel p s
  | .stream p => Sys2Proof.Machine.execStream p s
  | .collective p => Sys2Proof.Machine.execCollective p s
  | .copy p => Sys2Proof.Machine.execCopy p s
  | .zero p => Sys2Proof.Machine.execZero p s
  | .fence p => Sys2Proof.Machine.execFence p s
  | .eve p => Sys2Proof.Machine.execEve p s
  | .wait p => Sys2Proof.Machine.execWait p s
  | .signal p => Sys2Proof.Machine.execSignal p s
  | .timestamp p => Sys2Proof.Machine.execTimestamp p s
  | .almanacSave p => Sys2Proof.Machine.execAlmanacSave p s
  | .almanacLoad p => Sys2Proof.Machine.execAlmanacLoad p s
  | .operationCompletion c => Sys2Proof.Machine.execOperationCompletion c s
  | .pendingRecordWrite c => Sys2Proof.Machine.execPendingRecordWrite c s
  | .doorbell c producer => Sys2Proof.Machine.execDoorbell c producer s
  | .waitReevaluate c => Sys2Proof.Machine.execWaitReevaluate c s
  | .waitTimeout c => Sys2Proof.Machine.execWaitTimeout c s
  | .eveLatchPoint p m => Sys2Proof.Machine.execEveLatchPoint p m s
  | .dutyCycleIdleEnd p idleW => Sys2Proof.Machine.execDutyCycleIdleEnd p idleW s
  | .releasePoint p m => Sys2Proof.Machine.execReleasePoint p m s
  | .idlePartitionChoose p => Sys2Proof.Machine.execIdlePartitionChoose p s
  | .eveOverdue p => Sys2Proof.Machine.execEveOverdue p s
  | .tickBoundary m => Sys2Proof.Machine.execTickBoundary m s
  | .layoutChange => Sys2Proof.Machine.execLayoutChange s
  | .create b k => Sys2Proof.Machine.execCreate b k s
  | .start b => Sys2Proof.Machine.execStart b s
  | .stop b => Sys2Proof.Machine.execStop b s
  | .resume b => Sys2Proof.Machine.execResume b s
  | .kill b => Sys2Proof.Machine.execKill b s
  | .destroy b => Sys2Proof.Machine.execDestroy b s
  | .rebind b k => Sys2Proof.Machine.execRebind b k s
  | .complConsumedWrite c v => Sys2Proof.Machine.execComplConsumedWrite c v s
  | .policyBlockCommit b w => Sys2Proof.Machine.execPolicyBlockCommit b w s
  | .translationBlockCommit b w => Sys2Proof.Machine.execTranslationBlockCommit b w s
  | .hostBlockCommit b w => Sys2Proof.Machine.execHostBlockCommit b w s
  | .translationInvalidate b pages => Sys2Proof.Machine.execTranslationInvalidate b pages s
  | .registerWrite r => Sys2Proof.Machine.execRegisterWrite r s
  | .shl g => Sys2Proof.Machine.execShl g s
  | .shr g => Sys2Proof.Machine.execShr g s
  | .sar g => Sys2Proof.Machine.execSar g s
  | .rotl g => Sys2Proof.Machine.execRotl g s
  | .and g => Sys2Proof.Machine.execAnd g s
  | .or g => Sys2Proof.Machine.execOr g s
  | .xor g => Sys2Proof.Machine.execXor g s
  | .lop3 g => Sys2Proof.Machine.execLop3 g s
  | .iadd g => Sys2Proof.Machine.execIadd g s
  | .isub g => Sys2Proof.Machine.execIsub g s
  | .imul g => Sys2Proof.Machine.execImul g s
  | .imulhiS g => Sys2Proof.Machine.execImulhiS g s
  | .imad g => Sys2Proof.Machine.execImad g s
  | .smin g => Sys2Proof.Machine.execSmin g s
  | .umin g => Sys2Proof.Machine.execUmin g s
  | .smax g => Sys2Proof.Machine.execSmax g s
  | .umax g => Sys2Proof.Machine.execUmax g s
  | .iabs g => Sys2Proof.Machine.execIabs g s
  | .idot8 g => Sys2Proof.Machine.execIdot8 g s
  | .imulhiU g => Sys2Proof.Machine.execImulhiU g s
  | .fadd g => Sys2Proof.Machine.execFadd g s
  | .fmul g => Sys2Proof.Machine.execFmul g s
  | .ffma g => Sys2Proof.Machine.execFfma g s
  | .fmin g => Sys2Proof.Machine.execFmin g s
  | .fmax g => Sys2Proof.Machine.execFmax g s
  | .rcp g => Sys2Proof.Machine.execRcp g s
  | .rsqrt g => Sys2Proof.Machine.execRsqrt g s
  | .exp2 g => Sys2Proof.Machine.execExp2 g s
  | .log2 g => Sys2Proof.Machine.execLog2 g s
  | .mov g => Sys2Proof.Machine.execMov g s
  | .sel g => Sys2Proof.Machine.execSel g s
  | .icmpEq g => Sys2Proof.Machine.execIcmpEq g s
  | .icmpNe g => Sys2Proof.Machine.execIcmpNe g s
  | .icmpSlt g => Sys2Proof.Machine.execIcmpSlt g s
  | .icmpSle g => Sys2Proof.Machine.execIcmpSle g s
  | .icmpUlt g => Sys2Proof.Machine.execIcmpUlt g s
  | .icmpUle g => Sys2Proof.Machine.execIcmpUle g s
  | .fcmpEq g => Sys2Proof.Machine.execFcmpEq g s
  | .fcmpNe g => Sys2Proof.Machine.execFcmpNe g s
  | .fcmpLt g => Sys2Proof.Machine.execFcmpLt g s
  | .fcmpLe g => Sys2Proof.Machine.execFcmpLe g s
  | .cvt g => Sys2Proof.Machine.execCvt g s
  | .cvtx g => Sys2Proof.Machine.execCvtx g s
  | .sclx g => Sys2Proof.Machine.execSclx g s
  | .ld g => Sys2Proof.Machine.execLd g s
  | .st g => Sys2Proof.Machine.execSt g s
  | .zeroLine g => Sys2Proof.Machine.execZeroLine g s
  | .prefetch g => Sys2Proof.Machine.execPrefetch g s
  | .mfence g => Sys2Proof.Machine.execMfence g s
  | .atomAdd g => Sys2Proof.Machine.execAtomAdd g s
  | .atomSmin g => Sys2Proof.Machine.execAtomSmin g s
  | .atomUmin g => Sys2Proof.Machine.execAtomUmin g s
  | .atomSmax g => Sys2Proof.Machine.execAtomSmax g s
  | .atomUmax g => Sys2Proof.Machine.execAtomUmax g s
  | .atomAnd g => Sys2Proof.Machine.execAtomAnd g s
  | .atomOr g => Sys2Proof.Machine.execAtomOr g s
  | .atomXor g => Sys2Proof.Machine.execAtomXor g s
  | .atomExch g => Sys2Proof.Machine.execAtomExch g s
  | .atomCas g => Sys2Proof.Machine.execAtomCas g s
  | .atomFadd g => Sys2Proof.Machine.execAtomFadd g s
  | .bra g => Sys2Proof.Machine.execBra g s
  | .jmp g => Sys2Proof.Machine.execJmp g s
  | .exit g => Sys2Proof.Machine.execExit g s
  | .bar g => Sys2Proof.Machine.execBar g s
  | .nop g => Sys2Proof.Machine.execNop g s
  | .saluAdd g => Sys2Proof.Machine.execSaluAdd g s
  | .saluSub g => Sys2Proof.Machine.execSaluSub g s
  | .saluMul g => Sys2Proof.Machine.execSaluMul g s
  | .saluAnd g => Sys2Proof.Machine.execSaluAnd g s
  | .saluOr g => Sys2Proof.Machine.execSaluOr g s
  | .saluXor g => Sys2Proof.Machine.execSaluXor g s
  | .saluShl g => Sys2Proof.Machine.execSaluShl g s
  | .saluShr g => Sys2Proof.Machine.execSaluShr g s
  | .saluSar g => Sys2Proof.Machine.execSaluSar g s
  | .saluMov g => Sys2Proof.Machine.execSaluMov g s
  | .movp g => Sys2Proof.Machine.execMovp g s
  | .pmov g => Sys2Proof.Machine.execPmov g s
  | .readlane g => Sys2Proof.Machine.execReadlane g s
  | .scmp g => Sys2Proof.Machine.execScmp g s
  | .mma g => Sys2Proof.Machine.execMma g s
  | .barrierTimeout blk => Sys2Proof.Machine.execBarrierTimeout blk s
  | .blockPlace c u => Sys2Proof.Machine.execBlockPlace c u s
  | .sampleRecordWrite u m => Sys2Proof.Machine.execSampleRecordWrite u m s
  | .xfer ix => Sys2Proof.Machine.execXfer ix s
  | .gather ix => Sys2Proof.Machine.execGather ix s
  | .loop ix => Sys2Proof.Machine.execLoop ix s
  | .add ix => Sys2Proof.Machine.execAdd ix s
  | .madd ix => Sys2Proof.Machine.execMadd ix s
  | .wrap ix => Sys2Proof.Machine.execWrap ix s
  | .sync ix => Sys2Proof.Machine.execSync ix s
  | .burstCommit ix => Sys2Proof.Machine.execBurstCommit ix s
  | .streamStall ix n => Sys2Proof.Machine.execStreamStall ix n s
  | .streamStarved ix n => Sys2Proof.Machine.execStreamStarved ix n s
  | .readShared q ln e => Sys2Proof.Machine.execReadShared q ln e s
  | .readExclusive q ln e => Sys2Proof.Machine.execReadExclusive q ln e s
  | .upgrade a ln e => Sys2Proof.Machine.execUpgrade a ln e s
  | .ownNoData q ln => Sys2Proof.Machine.execOwnNoData q ln s
  | .readOnce a ln e => Sys2Proof.Machine.execReadOnce a ln e s
  | .writeLine a ln d => Sys2Proof.Machine.execWriteLine a ln d s
  | .writePartial a ln w e => Sys2Proof.Machine.execWritePartial a ln w e s
  | .atomicAtHome a ln w e => Sys2Proof.Machine.execAtomicAtHome a ln w e s
  | .fwdShared a ln h => Sys2Proof.Machine.execFwdShared a ln h s
  | .fwdOwn a ln h => Sys2Proof.Machine.execFwdOwn a ln h s
  | .fwdOnce a ln h => Sys2Proof.Machine.execFwdOnce a ln h s
  | .fwdRecall a ln h => Sys2Proof.Machine.execFwdRecall a ln h s
  | .inval a ln => Sys2Proof.Machine.execInval a ln s
  | .data a ln => Sys2Proof.Machine.execData a ln s
  | .dataOnce a ln => Sys2Proof.Machine.execDataOnce a ln s
  | .ack a ln => Sys2Proof.Machine.execAck a ln s
  | .invalAck a ln => Sys2Proof.Machine.execInvalAck a ln s
  | .notHeld a ln e => Sys2Proof.Machine.execNotHeld a ln e s
  | .wbAck a ln => Sys2Proof.Machine.execWbAck a ln s
  | .wbDirty a ln x => Sys2Proof.Machine.execWbDirty a ln x s
  | .dirtyNotice a ln w => Sys2Proof.Machine.execDirtyNotice a ln w s
  | .heartbeat h => Sys2Proof.Machine.execHeartbeat h s
  | .heartbeatLoss d => Sys2Proof.Machine.execHeartbeatLoss d s
  | .declare a fatal => Sys2Proof.Machine.execDeclare a fatal s
  | .reclaimSweep home a => Sys2Proof.Machine.execReclaimSweep home a s
  | .reclaimReport a => Sys2Proof.Machine.execReclaimReport a s
  | .dramTempReading t => Sys2Proof.Machine.execDramTempReading t s
  | .stackTempReading t => Sys2Proof.Machine.execStackTempReading t s
  | .pseudoChannelCopyEnd d bad => Sys2Proof.Machine.execPseudoChannelCopyEnd d bad s
  | .dramMarginRequest o v => Sys2Proof.Machine.execDramMarginRequest o v s
  | .marginingDone r => Sys2Proof.Machine.execMarginingDone r s
  | .scrubRead t ln e => Sys2Proof.Machine.execScrubRead t ln e s
  | .bucketLeak k => Sys2Proof.Machine.execBucketLeak k s
  | .faultRetry ix => Sys2Proof.Machine.execFaultRetry ix s
  | .faultDecline ix => Sys2Proof.Machine.execFaultDecline ix s
  | .faultRecordWrite => Sys2Proof.Machine.execFaultRecordWrite s
  | .flitReceive port f => Sys2Proof.Machine.execFlitReceive port f s
  | .retryTimeout port => Sys2Proof.Machine.execRetryTimeout port s
  | .portDown port => Sys2Proof.Machine.execPortDown port s
  | .portTrainingDone port r => Sys2Proof.Machine.execPortTrainingDone port r s
  | .packetForward port cls level => Sys2Proof.Machine.execPacketForward port cls level s
  | .remoteWrite pk => Sys2Proof.Machine.execRemoteWrite pk s
  | .deliveryAck pk => Sys2Proof.Machine.execDeliveryAck pk s
  | .collectiveData pk => Sys2Proof.Machine.execCollectiveData pk s
  | .paceBeacon pk => Sys2Proof.Machine.execPaceBeacon pk s
  | .lossNotice pk => Sys2Proof.Machine.execLossNotice pk s
  | .paradeRequest pk => Sys2Proof.Machine.execParadeRequest pk s
  | .paradeData pk => Sys2Proof.Machine.execParadeData pk s
  | .e2eResendTimeout dest seq => Sys2Proof.Machine.execE2eResendTimeout dest seq s
  | .beaconTimer c => Sys2Proof.Machine.execBeaconTimer c s
  | .peerTimeout c rank => Sys2Proof.Machine.execPeerTimeout c rank s
  | .paradeParentTimeout => Sys2Proof.Machine.execParadeParentTimeout s
  | .timeFlit port t => Sys2Proof.Machine.execTimeFlit port t s
  | .ptpMessage m => Sys2Proof.Machine.execPtpMessage m s
  | .timeSourceLost => Sys2Proof.Machine.execTimeSourceLost s
  | .ingressQueueWrite c off d => Sys2Proof.Machine.execIngressQueueWrite c off d s
  | .ingressDataWrite c off d => Sys2Proof.Machine.execIngressDataWrite c off d s
  | .windowARead p off n => Sys2Proof.Machine.execWindowARead p off n s
  | .hostDoorbell c off d => Sys2Proof.Machine.execHostDoorbell c off d s
  | .egressAck c off d => Sys2Proof.Machine.execEgressAck c off d s
  | .egressRegistration c off d => Sys2Proof.Machine.execEgressRegistration c off d s
  | .ingressIncomplete c => Sys2Proof.Machine.execIngressIncomplete c s
  | .ingressExpired c => Sys2Proof.Machine.execIngressExpired c s
  | .egressBatchIssue c => Sys2Proof.Machine.execEgressBatchIssue c s
  | .egressReadTimeout c => Sys2Proof.Machine.execEgressReadTimeout c s
  | .hostDetach cause => Sys2Proof.Machine.execHostDetach cause s
  | .msixCoalesceTimeout v => Sys2Proof.Machine.execMsixCoalesceTimeout v s
  | .interruptEvent n => Sys2Proof.Machine.execInterruptEvent n s
  | .coalesceTimeout n => Sys2Proof.Machine.execCoalesceTimeout n s
  | .rerouteTimeout n => Sys2Proof.Machine.execRerouteTimeout n s
  | .claim k lv => Sys2Proof.Machine.execClaim k lv s
  | .complete k lv v => Sys2Proof.Machine.execComplete k lv v s
  | .setPend die v => Sys2Proof.Machine.execSetPend die v s
  | .maskWrite n v => Sys2Proof.Machine.execMaskWrite n v s
  | .thresholdWrite k lv v => Sys2Proof.Machine.execThresholdWrite k lv v s
  | .wfi k => Sys2Proof.Machine.execWfi k s
  | .coreWake k cause => Sys2Proof.Machine.execCoreWake k cause s
  | .timerCompareReached k which => Sys2Proof.Machine.execTimerCompareReached k which s
  | .guestRequest g q => Sys2Proof.Machine.execGuestRequest g q s
  | .guestBringupStep g r => Sys2Proof.Machine.execGuestBringupStep g r s
  | .guestAdmit o g => Sys2Proof.Machine.execGuestAdmit o g s
  | .guestReset o g => Sys2Proof.Machine.execGuestReset o g s
  | .pe1DmaRequest port requester q => Sys2Proof.Machine.execPe1DmaRequest port requester q s
  | .pe1MessageWrite port d => Sys2Proof.Machine.execPe1MessageWrite port d s
  | .cxlLinkDrop port => Sys2Proof.Machine.execCxlLinkDrop port s
  | .configAccess port a => Sys2Proof.Machine.execConfigAccess port a s
  | .powerBrake avg1ms capAvg => Sys2Proof.Machine.execPowerBrake avg1ms capAvg s
  | .graceEnd => Sys2Proof.Machine.execGraceEnd s
  | .hardwareTrip t => Sys2Proof.Machine.execHardwareTrip t s
  | .energyAttribution e => Sys2Proof.Machine.execEnergyAttribution e s
  | .unitPowerGate u => Sys2Proof.Machine.execUnitPowerGate u s
  | .unitWake u pass => Sys2Proof.Machine.execUnitWake u pass s
  | .sentinelWindow cs w r => Sys2Proof.Machine.execSentinelWindow cs w r s
  | .lockstepMismatch d => Sys2Proof.Machine.execLockstepMismatch d s
  | .transactionWatchdog d => Sys2Proof.Machine.execTransactionWatchdog d s
  | .clockMonitorFault k => Sys2Proof.Machine.execClockMonitorFault k s
  | .refclockQualified k => Sys2Proof.Machine.execRefclockQualified k s
  | .counterWrap blk ix v => Sys2Proof.Machine.execCounterWrap blk ix v s
  | .fetchResponse m => Sys2Proof.Machine.execFetchResponse m s
  | .fetchTimeout => Sys2Proof.Machine.execFetchTimeout s
  | .fetchRetry => Sys2Proof.Machine.execFetchRetry s
  | .fenceRecordFetch m => Sys2Proof.Machine.execFenceRecordFetch m s
  | .bootComplete r => Sys2Proof.Machine.execBootComplete r s
  | .getVersion => Sys2Proof.Machine.execGetVersion s
  | .getCapabilities => Sys2Proof.Machine.execGetCapabilities s
  | .negotiateAlgorithms offersExt => Sys2Proof.Machine.execNegotiateAlgorithms offersExt s
  | .getDigests => Sys2Proof.Machine.execGetDigests s
  | .getCertificate slot off len => Sys2Proof.Machine.execGetCertificate slot off len s
  | .challenge slot nonce => Sys2Proof.Machine.execChallenge slot nonce s
  | .getMeasurements ix signed nonce => Sys2Proof.Machine.execGetMeasurements ix signed nonce s
  | .debugToken o d => Sys2Proof.Machine.execDebugToken o d s
  | .ownerDebugKeyHash o d => Sys2Proof.Machine.execOwnerDebugKeyHash o d s
  | .read o m => Sys2Proof.Machine.execRead o m s
  | .write o m => Sys2Proof.Machine.execWrite o m s
  | .readSegment o m => Sys2Proof.Machine.execReadSegment o m s
  | .writeSegment o m => Sys2Proof.Machine.execWriteSegment o m s
  | .segmentSessionTimeout => Sys2Proof.Machine.execSegmentSessionTimeout s
  | .notifyAck sub tr => Sys2Proof.Machine.execNotifyAck sub tr s
  | .notifyResend sub tr => Sys2Proof.Machine.execNotifyResend sub tr s
  | .hostAttach o => Sys2Proof.Machine.execHostAttach o s
  | .quiesce o => Sys2Proof.Machine.execQuiesce o s
  | .quiesceN low => Sys2Proof.Machine.execQuiesceN low s
  | .quiesceDrain p m => Sys2Proof.Machine.execQuiesceDrain p m s
  | .quiesceDeadline p => Sys2Proof.Machine.execQuiesceDeadline p s
  | .enterQuiesced => Sys2Proof.Machine.execEnterQuiesced s
  | .resumeDevice o => Sys2Proof.Machine.execResumeDevice o s
  | .standby o => Sys2Proof.Machine.execStandby o s
  | .powerUp o => Sys2Proof.Machine.execPowerUp o s
  | .reset o => Sys2Proof.Machine.execReset o s
  | .vinPresent straps => Sys2Proof.Machine.execVinPresent straps s
  | .vinAbsent => Sys2Proof.Machine.execVinAbsent s
  | .pe0Perst asserted => Sys2Proof.Machine.execPe0Perst asserted s
  | .pe1PerstRelease port => Sys2Proof.Machine.execPe1PerstRelease port s
  | .mailboxGo mb v => Sys2Proof.Machine.execMailboxGo mb v s
  | .qpStateWrite lb v => Sys2Proof.Machine.execQpStateWrite lb v s
  | .send port qp => Sys2Proof.Machine.execSend port qp s
  | .rdmaWrite port qp => Sys2Proof.Machine.execRdmaWrite port qp s
  | .rdmaRead port qp => Sys2Proof.Machine.execRdmaRead port qp s
  | .inboundRdma port qp q => Sys2Proof.Machine.execInboundRdma port qp q s
  | .partnerSignalReturn port => Sys2Proof.Machine.execPartnerSignalReturn port s
  | .heartbeatSend d => Sys2Proof.Machine.execHeartbeatSend d s
  | .aoRef25mPresent => Sys2Proof.Machine.execAoRef25mPresent s
  | .dramRetrainDone d ok => Sys2Proof.Machine.execDramRetrainDone d ok s
  | .pcieLinkUp port r => Sys2Proof.Machine.execPcieLinkUp port r s
  | .mgmtAddressLease v6 d => Sys2Proof.Machine.execMgmtAddressLease v6 d s
  | .entdaa addr => Sys2Proof.Machine.execEntdaa addr s
  | .msixMaskWrite off d => Sys2Proof.Machine.execMsixMaskWrite off d s
  | .rdmaResponse port qp r => Sys2Proof.Machine.execRdmaResponse port qp r s

end Sys2Proof.Machine
end

