-- ==== Sys2Proof/Safety.lean ====
section
/-! DEFINITION. What the claims speak of: a safe step, an operation that its partition takes, and the forms in which a command's effect is stated. -/

namespace Sys2Proof.Machine

/-- A step that neither stops nor leaves the canonical form of memory. -/
def safeStep (s : State) : Prop := ∃ t, step s = .next t ∧ (memWf s.mem = true → memWf t.mem = true)

/-- The command answers a next state that `P` holds of. -/
def Answers (i : Instr) (s : State) (P : State → Prop) : Prop := ∃ t, exec i s = .next t ∧ P t

/-- P_k's context `c` takes its next operation, the one with index `ix`, whose descriptor `d` has opcode `op`; `s2` is the state in which it is
consumed (R16, R18, R20, R22), and no unit that it needs is power-gated (R82). -/
structure Taken (s : State) (k op c ix : Nat) (d : Descriptor) (s2 : State) : Prop where
  turn : s.mayTake k = some c
  fetched : (s.fetchOp c).2.toOption = some d
  legal : alien d = false
  opcode : dOpcode d = op
  awake : s.opAsleep k op = false
  index : ix = ((s.fetchOp c).1.ctx c).cnt.nextOp
  after : s2 = (s.fetchOp c).1.consume c d

/-- The state in which the operation `ix` of context `c` stands at `st`. -/
def landed (s : State) (c ix : Nat) (d : Descriptor) (st : FlightSt) : State := (s.setFlight c ix st).noteBoundary c d st

/-- The accesses of a list that agent `a` makes for context `c` were prepared, none refused, and leave `t`. -/
def PreparedBy (s : State) (a c : Nat) (l : List (Nat × Nat × Nat)) (t : State) : Prop := s.prepAllAt a c l = (t, none)

/-- The accesses of an operation were prepared, reads by its feeds and the others by its sequencer, none refused, and leave `t` (R225, R236). -/
def PreparedOp (s : State) (c : Nat) (l : List (Nat × Nat × Nat)) (t : State) : Prop := s.prepAll c l = (t, none)

/-- The accesses of a list that a context's sequencer makes were prepared, none refused, and leave `t`. -/
def Prepared (s : State) (c : Nat) (l : List (Nat × Nat × Nat)) (t : State) : Prop := PreparedBy s (s.seqAgent c) c l t

/-- The operation commands with the opcode each takes and how it runs (R22). -/
def operationRows : List ((Fin 8 → Instr) × Nat × RunOp) :=
  [(.matmul, 0x01, runProduct), (.batchedMatmul, 0x02, runProduct), (.raggedMatmul, 0x03, runProduct), (.attention, 0x04, runAttention),
   (.update, 0x08, runUpdate), (.convert, 0x09, runConvert), (.elementwise, 0x0A, runElementwise), (.kernel, 0x0B, runKernel),
   (.stream, 0x0C, runStream), (.collective, 0x10, runCollective), (.copy, 0x18, runCopy), (.zero, 0x19, runZero), (.fence, 0x20, runFence),
   (.eve, 0x21, runEve), (.wait, 0x22, runWait), (.signal, 0x23, runSignal), (.timestamp, 0x24, runTimestamp),
   (.almanacSave, 0x28, runAlmanacSave), (.almanacLoad, 0x29, runAlmanacLoad)]

/-- A core's registers with `t` as its threshold at a level. -/
def atThreshold (x : CoreSt) (lv : IrqLevel) (t : Nat) : CoreSt :=
  match lv with
  | .s => { x with thrS := t }
  | .m => { x with thrM := t }

/-- What a lane operation does to one element of `w` bits, given its word. -/
abbrev ElemFn := Nat → (w : Nat) → BitVec w → BitVec w → BitVec w → BitVec w

/-- An operand read as signed, or as unsigned when SAT is 0b10 (R181). -/
def readInt {w : Nat} (sat : Nat) (v : BitVec w) : Int := if sat = 2 then (v.toNat : Int) else v.toInt

/-- The low `w` bits of an exact result, or the result clamped once to the signed or unsigned range (R181). -/
def writeInt (w sat : Nat) (r : Int) : BitVec w :=
  if sat = 0 then BitVec.ofInt w r
  else if sat = 2 then BitVec.ofInt w (max 0 (min (2 ^ w - 1) r))
  else BitVec.ofInt w (max (-(2 ^ (w - 1))) (min (2 ^ (w - 1) - 1) r))

/-- An integer operation formed exactly and written once (R181). -/
def exactInt (f : Int → Int → Int → Int) : ElemFn := fun wd w a b c =>
  writeInt w (vSat wd) (f (readInt (vSat wd) a) (readInt (vSat wd) b) (readInt (vSat wd) c))

/-- A bit-by-bit function of three inputs, as the sum of the terms its table holds: bit 4a + 2b + c of the table (R180). -/
def tableFn : ElemFn := fun wd w a b c =>
  (List.range 8).foldl (fun r j => if bitAt (lopTable wd) j then
    r ||| ((if bitAt j 2 then a else ~~~a) &&& (if bitAt j 1 then b else ~~~b) &&& (if bitAt j 0 then c else ~~~c)) else r) 0#w

/-- A floating-point operation on operands read through MOD, rounded once to its element format (R182). -/
def floatFn (f : Num → Num → Num → Num) : ElemFn := fun wd w a b c =>
  BitVec.ofNat w (encodeFlt (typeFmt (vTy wd)) (f (fltA wd a.toNat) (fltB wd b.toNat) (fltC wd c.toNat))).1

/-- The element-wise vector instructions: opcode, how an immediate widens, and what each does to an element (R180 to R184). -/
def vectorRows : List ((Nat → Instr) × Nat × Nat × ElemFn) :=
  [(.shl, 0x01, 1, fun _ w a b _ => a <<< (b.toNat % w)), (.shr, 0x02, 1, fun _ w a b _ => a >>> (b.toNat % w)),
   (.sar, 0x03, 1, fun _ w a b _ => a.sshiftRight (b.toNat % w)), (.rotl, 0x04, 1, fun _ w a b _ => a.rotateLeft (b.toNat % w)),
   (.and, 0x08, 1, fun _ _ a b _ => a &&& b), (.or, 0x09, 1, fun _ _ a b _ => a ||| b), (.xor, 0x0A, 1, fun _ _ a b _ => a ^^^ b),
   (.lop3, 0x0B, 1, tableFn),
   (.iadd, 0x10, 0, exactInt fun a b _ => a + b), (.isub, 0x11, 0, exactInt fun a b _ => a - b), (.imul, 0x12, 0, exactInt fun a b _ => a * b),
   (.imulhiS, 0x13, 0, fun _ w a b _ => BitVec.ofInt w (a.toInt * b.toInt / 2 ^ w)), (.imad, 0x14, 0, exactInt fun a b c => a * b + c),
   (.smin, 0x15, 0, fun _ _ a b _ => if a.slt b then a else b), (.umin, 0x16, 0, fun _ _ a b _ => if a.ult b then a else b),
   (.smax, 0x17, 0, fun _ _ a b _ => if a.slt b then b else a), (.umax, 0x18, 0, fun _ _ a b _ => if a.ult b then b else a),
   (.iabs, 0x19, 0, fun wd w a _ _ => writeInt w (vSat wd) a.toInt.natAbs),
   (.imulhiU, 0x1B, 0, fun _ w a b _ => BitVec.ofNat w (a.toNat * b.toNat / 2 ^ w)),
   (.fadd, 0x20, 2, floatFn fun a b _ => a.add b), (.fmul, 0x21, 2, floatFn fun a b _ => a.mul b),
   (.ffma, 0x22, 2, floatFn fun a b c => (a.mul b).add c), (.fmin, 0x23, 2, floatFn fun a b _ => a.min b),
   (.fmax, 0x24, 2, floatFn fun a b _ => a.max b),
   (.rcp, 0x38, 2, fun wd w a _ _ => BitVec.ofNat w (laneRcp (toFp32 (fltA wd a.toNat)))),
   (.rsqrt, 0x39, 2, fun wd w a _ _ => BitVec.ofNat w (laneRsqrt (toFp32 (fltA wd a.toNat)))),
   (.exp2, 0x3A, 2, fun wd w a _ _ => BitVec.ofNat w (laneExp2 (toFp32 (fltA wd a.toNat)))),
   (.log2, 0x3B, 2, fun wd w a _ _ => BitVec.ofNat w (laneLog2 (toFp32 (fltA wd a.toNat)))),
   (.mov, 0x3C, 3, fun _ _ _ b _ => b)]

/-- The compares: opcode, how an immediate widens, and the condition on A and B (R184). -/
def compareRows : List ((Nat → Instr) × Nat × Nat × (Nat → (w : Nat) → BitVec w → BitVec w → Bool)) :=
  [(.icmpEq, 0x30, 0, fun _ _ a b => a == b), (.icmpNe, 0x31, 0, fun _ _ a b => a != b), (.icmpSlt, 0x32, 0, fun _ _ a b => a.slt b),
   (.icmpSle, 0x33, 0, fun _ _ a b => a.sle b), (.icmpUlt, 0x34, 0, fun _ _ a b => a.ult b), (.icmpUle, 0x35, 0, fun _ _ a b => a.ule b),
   (.fcmpEq, 0x29, 2, fun wd _ a b => (fltA wd a.toNat).eq (fltB wd b.toNat)),
   (.fcmpNe, 0x2A, 2, fun wd _ a b => !(fltA wd a.toNat).eq (fltB wd b.toNat)),
   (.fcmpLt, 0x2B, 2, fun wd _ a b => (fltA wd a.toNat).lt (fltB wd b.toNat)),
   (.fcmpLe, 0x2C, 2, fun wd _ a b => (fltA wd a.toNat).lt (fltB wd b.toNat) || (fltA wd a.toNat).eq (fltB wd b.toNat))]

/-- The scalar operations on two 64-bit values: SOP, whether an immediate is sign-extended, and the result (R197). -/
def scalarRows : List ((Nat → Instr) × Nat × Bool × (BitVec 64 → BitVec 64 → BitVec 64)) :=
  [(.saluAdd, 0, true, fun a b => a + b), (.saluSub, 1, true, fun a b => a - b), (.saluMul, 2, true, fun a b => a * b),
   (.saluAnd, 3, false, fun a b => a &&& b), (.saluOr, 4, false, fun a b => a ||| b), (.saluXor, 5, false, fun a b => a ^^^ b),
   (.saluShl, 6, false, fun a b => a <<< (b.toNat % 64)), (.saluShr, 7, false, fun a b => a >>> (b.toNat % 64)),
   (.saluSar, 8, false, fun a b => a.sshiftRight (b.toNat % 64)), (.saluMov, 9, true, fun _ b => b)]

/-- The memory instructions of lanes: which words each takes, the address of a thread's access, and one thread's part (R190 to R193). -/
def memoryRows : List ((Nat → Instr) × (Nat → Bool) × (Lane → Nat → Nat) × (Lane → ThreadRun)) :=
  [(.ld, fun w => wOp w == 0x50, fun x t => memAddr x.grp x.w t (2 ^ bitsOf x.w 8 3), ldThread),
   (.st, fun w => wOp w == 0x51, fun x t => memAddr x.grp x.w t (2 ^ bitsOf x.w 8 3), stThread),
   (.zeroLine, fun w => wOp w == 0x52, fun x t => memAddr x.grp x.w t 128, zeroThread)] ++
  ([(.atomAdd, 0), (.atomSmin, 1), (.atomUmin, 2), (.atomSmax, 3), (.atomUmax, 4), (.atomAnd, 5), (.atomOr, 6), (.atomXor, 7), (.atomExch, 8),
    (.atomCas, 9), (.atomFadd, 10)] : List ((Nat → Instr) × Nat)).map fun e =>
      (e.1, fun w => wOp w == 0x58 && bitsOf w 59 4 == e.2, fun x t => atomAddr x.grp x.w t (2 ^ bitsOf x.w 8 3), atomThread)

/-- The conversions: opcode and the register value each gives, from the source value (R186 to R189). -/
def conversionRows : List ((Nat → Instr) × Nat × (Lane → Nat → Num → Nat)) :=
  [(.cvt, 0x40, fun x _ v => convWriteReg (convDst x.w) v), (.cvtx, 0x41, fun x t v => convWriteReg (convDst x.w) (v.scale (cvtxExp x t))),
   (.sclx, 0x42, fun x _ v => (BitVec.ofInt 32 (sclxExp (convDst x.w) v)).toNat)]

/-- The new value an atomic leaves, on values of `w` bits, but for the floating-point addition (R192). -/
def atomicFn (w : Nat) (op : AtomOp) (old v cmp : BitVec w) : Option (BitVec w) :=
  match op with
  | .add => some (old + v)
  | .smin => some (if v.slt old then v else old)
  | .umin => some (if v.ult old then v else old)
  | .smax => some (if old.slt v then v else old)
  | .umax => some (if old.ult v then v else old)
  | .and => some (old &&& v)
  | .or => some (old ||| v)
  | .xor => some (old ^^^ v)
  | .exch => some v
  | .cas => some (if old = cmp then v else old)
  | .fadd => none

/-- The lane instructions that touch only their group's registers. -/
def registerLaneCommands (g : Nat) : List Instr :=
  vectorRows.map (fun e => e.1 g) ++ compareRows.map (fun e => e.1 g) ++ scalarRows.map (fun e => e.1 g) ++ conversionRows.map (fun e => e.1 g) ++
    [.idot8 g, .sel g, .bra g, .jmp g, .exit g, .nop g, .mfence g, .movp g, .pmov g, .readlane g, .scmp g]

/-- A command is a request that its home takes now: the agent may make it and has one left, no cache on the way serves a read, the line has a home and is
backed, no earlier request for it waits, and `s1` is the state after its lookup, its unit awake (R54, R236, R248, R250 to R252, R256, R265, R408). -/
structure Admitted (s : State) (q : Instr) (r : Request) (s1 : State) : Prop where
  asks : requestOf q = some r
  mayAsk : s.mayRequest r = true
  home : (homeOf (r.line * 128)).isSome = true
  backed : s.backed (r.line * 128) = true
  left : s.agentFull r.agent = false
  first : s.lineAwaited r.line = false
  away : r.acc = accRead → s.onTheWay r.agent r.line = none
  goesOn : (s.wakeFor (r.line * 128)).letIn r.agent r.line r.caches = (s1, true)

/-- The home can read a line from memory (R277). -/
def Readable (s : State) (ln : Nat) (e : Ecc) : Prop := e ≠ .uncorrectable ∧ s.bad.contains ln = false

/-- An agent receives a message of a kind for a line and acts on it now (R257, R259). -/
def Received (s : State) (k : MsgKind) (a ln : Nat) (m : CohMsg) : Prop := s.takeFwd k a ln = (s, some m)

end Sys2Proof.Machine
end

