-- ==== Sys2Proof/Certificates/Slice0/Obligations.lean ====
section
/-! DEFINITION. The statements handed to the provers. -/

open Sys2Proof Sys2Proof.Machine

/-- The block's own queue: a step with `c` in front is `exec c` on the rest. The model's choice (log 2): an empty queue lets one nanosecond of device time pass and
changes nothing else. -/
def Obligations.StepRunsFront : Prop :=
  (∀ (c : Instr) (q : List Instr) (s : State), step { s with pending := c :: q } = exec c { s with pending := q }) ∧
    ∀ s : State, s.pending = [] → step s = .next { s with now := s.now + 1 }

/-- The commands of the opcode table, in its order, with their operands at every value: each has an effect in every state. -/
def Obligations.EveryCommandCompletes : Prop := ∀ (i : Instr) (s : State), ∃ t : State, exec i s = .next t

/-- R16, R18, R20, R22: an operation taken is consumed and runs as its opcode says. -/
def Obligations.TakenOperationRuns : Prop :=
  ∀ e ∈ operationRows, ∀ (s s2 : State) (p : Fin 8) (c ix : Nat) (d : Descriptor), Taken s p e.2.1 c ix d s2 →
    exec (e.1 p) s = .next (landed (e.2.2 s2 c ix d).1 c ix d (e.2.2 s2 c ix d).2)

/-- R16, R20: one descriptor is consumed, and no other context's counts or flights change. -/
def Obligations.TakingConsumesOneDescriptor : Prop :=
  ∀ (s s1 : State) (c c' : Nat) (d : Descriptor), s1 = s.consume c d →
    (s1.ctx c).cnt.queueConsumed = (s.ctx c).cnt.queueConsumed + 1 ∧ (s1.ctx c).cnt.nextOp = (s.ctx c).cnt.nextOp + 1 ∧
      (s1.ctx c).flights = (s.ctx c).flights ++ [⟨(s.ctx c).cnt.nextOp, d, .atHead⟩] ∧
      (c' ≠ c → s1.ctx c' = s.ctx c') ∧ s1.mem = s.mem ∧ s1.parts = s.parts

/-- R23 to R27, R33, R353: the plain operations at the taking. -/
def Obligations.PlainOperationsRun : Prop :=
  ∀ (s s2 s3 : State) (p : Fin 8) (c ix : Nat) (d : Descriptor),
    (Taken s p 0x19 c ix d s2 → (headerCheck d zeroFields).orElse (badField [badAddr d 128 1, badLength d 192]) = none →
      PreparedOp s2 c (zeroParts (fld d 128 191) (fld d 192 255)) s3 →
      exec (.zero p) s =
        .next (landed ((zeroParts (fld d 128 191) (fld d 192 255)).foldl (fun t q => t.zeroPart c q) s3) c ix d (.done (endWith 0 0)))) ∧
    (Taken s p 0x18 c ix d s2 → copyCheck s2 c d = none → flag d 320 = false →
      PreparedOp s2 c [(accRead, fld d 128 191, fld d 256 319), (accWrite, fld d 192 255, fld d 256 319)] s3 →
      exec (.copy p) s =
        .next (landed (s3.outV c (fld d 192 255) (s3.rdV c (fld d 128 191) (fld d 256 319))) c ix d (.done (endWith 0 0)))) ∧
    (Taken s p 0x18 c ix d s2 → copyCheck s2 c d = none → flag d 320 = true →
      Answers (.copy p) s fun t => ∃ q,
        (t.ctx c).host.batches = (s2.ctx c).host.batches ++ [⟨q, fld d 192 255, fld d 256 319, ix, fld d 128 191, .waiting⟩] ∧ t.mem = s2.mem) ∧
    (Taken s p 0x20 c ix d s2 → headerCheck d [(128, 128), (129, 129), (130, 130), (131, 131)] = none →
      exec (.fence p) s =
        .next (landed (if flag d 130 && !s2.host.detached then
            { s2 with host := { s2.host with fenceReads := s2.host.fenceReads ++ [(c, s2.now)] } } else s2) c ix d .atHead)) ∧
    (Taken s p 0x21 c ix d s2 → (headerCheck d [(128, 191), (192, 192)]).orElse (badField [badAddr d 128 64]) = none →
      s2.holdsPart c = some p.val →
      exec (.eve p) s =
        .next (landed ((s2.updPart p fun q => { q with phase := .draining, drain := .eve, drainFrom := s2.now, intervalFrom := none }).updCtx c
          fun x => { x with yielded := flag d 192 }) c ix d (.eve s2.now none))) ∧
    (Taken s p 0x22 c ix d s2 →
      (headerCheck d [(128, 191), (192, 255), (256, 257), (288, 319)]).orElse (badField [badAddr d 128 8, (fld d 256 257 == 3, 256)]) = none →
      Prepared s2 c [(accRead, fld d 128 191, 8)] s3 →
      exec (.wait p) s =
        .next (if waitHolds (fld d 256 257) (s3.rdVNat c (fld d 128 191) 8) (fld d 192 255) then landed (s3.unpark c) c ix d (.done (endWith 0 0))
          else landed (if (s3.ctx c).atBoundary then s3.park c else s3) c ix d
            (.waiting (if fld d 288 319 = 0 then none else some (s2.now + 1000 * fld d 288 319))))) ∧
    (Taken s p 0x23 c ix d s2 →
      (headerCheck d [(128, 191), (192, 255), (256, 257), (258, 258), (272, 284)]).orElse
        (badField [badAddr d 128 8, (fld d 256 257 == 3, 256)]) = none →
      exec (.signal p) s = .next (landed s2 c ix d .atHead)) ∧
    (Taken s p 0x24 c ix d s2 → (headerCheck d [(128, 191)]).orElse (badField [badAddr d 128 16]) = none →
      exec (.timestamp p) s = .next (landed s2 c ix d .atHead))

/-- R19, R23, R25, R29: `SIGNAL` and `TIMESTAMP` act at the head and complete; which status goes with which flag. -/
def Obligations.SignalActsAtTheHead : Prop :=
  (∀ (s s1 : State) (c : Fin 4096) (f : Flight) (r : List Flight), s.powered = true → (s.ctx c).flights = f :: r → f.st = .atHead → (s.ctx c).records = [] →
    (dOpcode f.desc = 0x23 → Prepared s c [(accAtomic, fld f.desc 128 191, 8)] s1 →
      exec (.operationCompletion c) s = .next
        (let s2 := s1.wrV c (fld f.desc 128 191)
            (leBytes (signalNew (fld f.desc 256 257) (s1.rdVNat c (fld f.desc 128 191) 8) (fld f.desc 192 255)) 8)
         (if flag f.desc 258 then s2.raise (fld f.desc 272 284) else s2).complete c f (endWith 0 0))) ∧
    (dOpcode f.desc = 0x24 → Prepared s c [(accWrite, fld f.desc 128 191, 16)] s1 →
      exec (.operationCompletion c) s = .next
        ((s1.wrV c (fld f.desc 128 191) (leBytes (s.now % 2 ^ 64 + f.opIndex % 2 ^ 64 * 2 ^ 64) 16)).complete c f (endWith 0 0)))) ∧
  (∀ (spread overflow : Bool) (n sl : Nat) (r : OpResult), r = flagged spread overflow n sl →
    (r.status = 0 → r.spread = false ∧ r.overflow = false) ∧ (r.spread = true ∨ r.overflow = true → r.status = 1) ∧
      r.spread = spread ∧ r.overflow = overflow)

/-- R19, R28: where a record goes, with which PHASE, and what a SILENT `OK` leaves. -/
def Obligations.RecordTakesTheNextSlot : Prop :=
  ∀ (s s1 : State) (c : Nat) (f : Flight) (r : OpResult) (w : Nat),
    (Prepared s c [(accWrite, recordSlot (s.ctx c), 32)] s1 →
      ∃ t, s.writeRecord c w = (t, none) ∧ t.mem = (s1.wrV c (recordSlot (s.ctx c)) (leBytes (w + phaseBit (s.ctx c) * 2 ^ 152) 32)).mem ∧
        (t.ctx c).cnt.complProduced = ((s1.wrV c (recordSlot (s.ctx c)) (leBytes (w + phaseBit (s.ctx c) * 2 ^ 152) 32)).ctx c).cnt.complProduced + 1) ∧
    (dSilent f.desc = true → r.status = 0 → s.finish c f r = s.dropFlight c f.opIndex)

/-- R12, R16, R17, R18, R469, R472: a doorbell and a consumer count. -/
def Obligations.DoorbellsAndConsumerCounts : Prop :=
  (∀ (s : State) (c : Fin 4096) (v : BitVec 32), s.powered = false →
    exec (.doorbell c v) s = .next s ∧ exec (.complConsumedWrite c v) s = .next s) ∧
  ∀ (s : State) (c : Fin 4096) (v : BitVec 32), s.powered = true →
    ((s.ctx c).st ≠ .free → granted (s.ctx c) = false → (s.ctx c).st ≠ .killed → ¬((s.ctx c).st = .stopped ∧ qLog2 (s.ctx c) = 0) →
      (bellBad (s.ctx c) v = false →
        exec (.doorbell c v) s = .next (s.updCtx c fun y => { y with cnt := { y.cnt with queueProducer := v } })) ∧
      (bellBad (s.ctx c) v = true → exec (.doorbell c v) s = .next (s.haltRecord c 0x0106 v.toNat))) ∧
    ((s.ctx c).st ≠ .free → granted (s.ctx c) = true ∨ (s.ctx c).st = .killed ∨ ((s.ctx c).st = .stopped ∧ qLog2 (s.ctx c) = 0) →
      exec (.doorbell c v) s =
        .next (s.updCtx c fun y => { y with cnt := { y.cnt with doorbellsIgnored := satInc 16 y.cnt.doorbellsIgnored } })) ∧
    ((s.ctx c).st = .free →
      exec (.doorbell c v) s = .next { s with fq := { s.fq with accessErrors := satInc 32 s.fq.accessErrors } } ∧
      exec (.complConsumedWrite c v) s = .next s) ∧
    ((s.ctx c).st ≠ .free →
      (w32Diff v (s.ctx c).cnt.complConsumed ≤ w32Diff (s.ctx c).cnt.complProduced (s.ctx c).cnt.complConsumed →
        exec (.complConsumedWrite c v) s =
          .next ((s.updCtx c fun y => { y with cnt := { y.cnt with complConsumed := v } }).writeWaiting c)) ∧
      (w32Diff (s.ctx c).cnt.complProduced (s.ctx c).cnt.complConsumed < w32Diff v (s.ctx c).cnt.complConsumed →
        exec (.complConsumedWrite c v) s =
          .next (s.updCtx c fun y => { y with cnt := { y.cnt with writesRefused := satInc 16 y.cnt.writesRefused } })))

/-- R17, R19, R27, R31, R37, R42: the events that follow a taken operation. -/
def Obligations.ContractEventsComplete : Prop :=
  (∀ (s : State) (c : Fin 4096) (f : Flight) (fs : List Flight) (r : OpResult), (s.ctx c).flights = f :: fs → f.st = .done r →
    s.powered = true → (s.ctx c).records = [] → exec (.operationCompletion c) s = .next (s.complete c f r)) ∧
  (∀ (s s1 : State) (c : Fin 4096) (w : WaitingRecord) (ws : List WaitingRecord), (s.ctx c).waiting = w :: ws → (s.ctx c).flights = [] →
    (s.ctx c).records = [] → complSpace (s.ctx c) = true → s.recordsWait c = false →
    s.writeRecord c (recordWord (s.ctx c).cnt.nextOp 0 w.status 0 (endWith w.status w.detail) (s.ctx c).cnt.eveCount.toNat) = (s1, none) →
    exec (.pendingRecordWrite c) s = .next (s1.writeEach c ws)) ∧
  (∀ (s s1 : State) (c : Fin 4096) (f : Flight) (fs : List Flight) (dl : Option Nat), (s.ctx c).flights = f :: fs → f.st = .waiting dl →
    (Prepared s c [(accRead, fld f.desc 128 191, 8)] s1 →
      exec (.waitReevaluate c) s =
        .next (if waitHolds (fld f.desc 256 257) (s1.rdVNat c (fld f.desc 128 191) 8) (fld f.desc 192 255) then
            (s1.unpark c).setFlight c f.opIndex (.done (endWith 0 0))
          else (if (s1.ctx c).atBoundary then s1.park c else s1).setFlight c f.opIndex (.waiting dl))) ∧
    (∀ t, dl = some t → exec (.waitTimeout c) s = .next ((s.advance t).setFlight c f.opIndex (.done (endWith 0x0413 0))))) ∧
  (∀ (s : State) (p : Fin 8) (c : Nat), s.partExists p = true → s.seqLive p = true → (s.part p).phase = .idle → s.taking = true →
    (s.choose p).2 = some c → exec (.idlePartitionChoose p) s = .next ((s.choose p).1.seat p (some c))) ∧
  (∀ (s : State) (p : Fin 8) (c t : Nat), (s.part p).running = some c → (s.part p).intervalFrom = some t → (s.part p).phase = .running →
    s.live = true → exec (.eveOverdue p) s = .next (((s.advance (t + 50000000 * ((s.part p).overdue + 1))).updPart p
      fun y => { y with overdue := y.overdue + 1 }).postNotice c 0x0C01 0))

/-- R27, R340: what the deadline of a `WAIT` leaves alone. -/
def Obligations.WaitTimeoutFrame : Prop :=
  ∀ (s t : State) (c : Fin 4096) (c' : Nat), exec (.waitTimeout c) s = .next t →
    t.mem = s.mem ∧ t.parts = s.parts ∧ s.now ≤ t.now ∧ t = { s with now := t.now, ctxs := t.ctxs } ∧ (c' ≠ c → t.ctx c' = s.ctx c') ∧
      ((s.ctx c).flights ≠ [] → (t.ctx c).st = (s.ctx c).st ∧ (t.ctx c).cnt = (s.ctx c).cnt)

/-- R33, R40, R42, R57, R399, R505, R527: the boundaries of a partition. -/
def Obligations.BoundariesComplete : Prop :=
  (∀ (s s1 : State) (p : Fin 8) (m : LatchMeasure) (c a l : Nat) (f : Flight), s.eveReady p = some (c, f, a, l) →
    s.closeOrStall c f.opIndex = (s1, true) →
    Answers (.eveLatchPoint p m) s fun t => ∃ (s2 : State) (r : State × LatchDid) (s3 : State),
      s2 = (s1.updCtx c fun x => { x with cnt := { x.cnt with eveCount := x.cnt.eveCount + 1 }, atBoundary := true }).charge c m.arrayNs ∧
      r = s2.latchSteps p (some c) m ∧ s3 = r.1.updCtx c (fun y => { y with cnt := { y.cnt with eveEnergyMj := 0, eveArrayNs := 0 } }) ∧
      t = ((s3.setFlight c f.opIndex (.eveRecord (endWith 0 0))).updPart p fun q => { q with
        report := eveReport l f.opIndex (s2.ctx c).cnt.eveCount.toNat (l - a) (s2.ctx c).cnt.eveEnergyMj ((s2.ctx c).cnt.eveArrayNs + m.arrayNs) r.2,
        running := some c, drain := .eve }).afterLatch p) ∧
  (∀ (s : State) (p : Fin 8) (m : LatchMeasure), (s.part p).phase = .draining → (s.part p).drain = .release → s.drained p = true →
    exec (.releasePoint p m) s = .next (((match (s.part p).running with
      | some c => (s.charge c m.arrayNs).updCtx c fun x => { x with cnt := { x.cnt with eveArrayNs := x.cnt.eveArrayNs + m.arrayNs } }
      | none => s).latchSteps p none m).1.afterLatch p)) ∧
  (∀ (s : State) (p : Fin 8) (m : LatchMeasure), (s.part p).phase = .draining → (s.part p).drain = .quiesce → s.drained p = true →
    exec (.quiesceDrain p m) s = .next ((s.latchSteps p none m).1.afterLatch p)) ∧
  (∀ (s : State) (p : Fin 8) (w : Nat), (s.part p).phase = .idleInserted →
    Answers (.dutyCycleIdleEnd p w) s fun t => ∃ s1 : State,
      s1 = ((s.advance (s.part p).idleUntil).countSpan (20 + p) 0x407 0 (s.part p).running ((s.part p).idleUntil - (s.part p).lastLatch)).updPart p (fun y => { y with idleUntil := 0, idleAvgW := some w, phase := .draining }) ∧
      ((s.part p).running = none → t = s1.seatNext p true) ∧
      (∀ c, (s.part p).running = some c →
        (eveFlight (s1.ctx c) = none → t = s1.seatNext p false) ∧
        (∀ f, eveFlight (s1.ctx c) = some f → (s1.ctx c).records = [] → t = s1.completeEve p c f))) ∧
  (∀ s : State, s.dev.layoutDue = true → s.anyTouched = true → s.allReached = true → exec .layoutChange s = .next s.changeLayout) ∧
  (∀ (s : State) (m : TickMeasure), s.dev.aoUp = true → s.dev.state ≠ .off →
    exec (.tickBoundary m) s = .next
      ((List.range 28).foldl (fun t b => t.mirrorBlock b)
        ((List.range 8).foldl (fun t k => t.tickPart k (m.parts.getD k noMeasure))
          (((s.advance (nextTick s.now)).tickSettings m).tickStragglers.tickParade)).tickLayout))

/-- R11, R13, R14, R409, R471: the context commands where they are legal, and in any other state, where they change nothing. -/
def Obligations.ContextCommandsAct : Prop :=
  ∀ (s : State) (b : Fin 128) (k : Fin 8) (c : Nat) (x : Ctx), c = (s.bank b).sel → x = s.ctx c →
    (s.powered = false → ∀ i ∈ [Instr.create b k, .start b, .stop b, .resume b, .kill b, .destroy b, .rebind b k], exec i s = .next s) ∧
    (s.powered = true →
      (x.st = .free → s.partExists k = true →
        exec (.create b k) s = .next ((s.setCtx c { Ctx.free with st := .stopped, part := some k.val }).told b 1 0)) ∧
      (x.st = .stopped → x.part.isSome = true → qAddr x ≠ 0 → cAddr x ≠ 0 →
        exec (.start b) s = .next ((s.setCtx c { x with pendStart := true }).told b 2 1)) ∧
      (x.st = .runnable ∨ x.st = .parked → exec (.stop b) s = .next ((s.setCtx c { x with pendStop := true }).told b 3 1)) ∧
      (x.st = .halted → x.part.isSome = true → x.waiting = [] →
        exec (.resume b) s = .next ((((s.setCtx c
          { x with st := .runnable, deficit := 0 }).clearRegion c).refreshRun).told b 4 0)) ∧
      (x.st ≠ .free → x.st ≠ .killed → exec (.kill b) s = .next ((s.killCtx c).told b 5 0)) ∧
      (x.st = .stopped ∨ x.st = .halted ∨ x.st = .killed → granted x = false → exec (.destroy b) s = .next ((s.freeCtx c).told b 6 0)) ∧
      (x.st ≠ .free → x.st ≠ .killed → s.partExists k = true →
        exec (.rebind b k) s = .next (if x.part.isNone then (s.setCtx c { x with part := some k.val, pendRebind := none }).told b 7 0
          else (s.setCtx c { x with pendRebind := some k.val }).told b 7 1)) ∧
      (x.st ≠ .free → exec (.create b k) s = .next (s.told b 1 2)) ∧
      (x.st = .free → s.partExists k = false → exec (.create b k) s = .next (s.told b 1 3)) ∧
      (x.st ≠ .stopped → exec (.start b) s = .next (s.told b 2 2)) ∧
      (x.st ≠ .runnable → x.st ≠ .parked → exec (.stop b) s = .next (s.told b 3 2)) ∧
      (x.st ≠ .halted → exec (.resume b) s = .next (s.told b 4 2)) ∧
      (x.st = .free ∨ x.st = .killed → exec (.kill b) s = .next (s.told b 5 2) ∧ exec (.rebind b k) s = .next (s.told b 7 2)) ∧
      (x.st = .free ∨ x.st = .runnable ∨ x.st = .parked → exec (.destroy b) s = .next (s.told b 6 2)) ∧
      (x.st ≠ .free → x.st ≠ .killed → s.partExists k = false → exec (.rebind b k) s = .next (s.told b 7 3)))

/-- R117, R118, R299, R344, R468, R474: block commits and invalidations of a created context. -/
def Obligations.BlockCommitsHold : Prop :=
  ∀ (s : State) (b : Fin 128) (w : W64) (pages : BitVec 32) (c : Nat) (x : Ctx), c = (s.bank b).sel → x = s.ctx c → x.st ≠ .free → s.powered = true →
    (∀ v, v = stagedBlock (s.bank b) 0x180 8 x.regs.policy.acc.toNat w →
      exec (.policyBlockCommit b w) s = .next (if badPolicy v then ((s.unstage b 0x180 8).setCtx c { x with regs := { x.regs with policyRejected := true } }).refuseWrite c
        else (s.unstage b 0x180 8).setCtx c { x with regs := { x.regs with
          policy := ⟨BitVec.ofNat 512 (policyFields v), x.regs.policy.eff, true⟩, policyRejected := x.regs.policyRejected && !bitAt v 31 } })) ∧
    (∀ v, v = stagedBlock (s.bank b) 0x1C0 2 x.regs.xlate.acc.toNat w →
      exec (.translationBlockCommit b w) s = .next (if bitsOf v 0 16 ≠ 0 then (s.unstage b 0x1C0 2).refuseWrite c
        else (s.unstage b 0x1C0 2).setCtx c { x with regs := { x.regs with
          xlate := ⟨BitVec.ofNat 128 (bitsOf v 0 52 + bitsOf v 63 33 * 2 ^ 63), x.regs.xlate.eff, true⟩ } })) ∧
    (∀ v, v = stagedBlock (s.bank b) 0x1E0 4 x.regs.hostBlk.acc.toNat w →
      exec (.hostBlockCommit b w) s = .next (if badHost x v then (s.unstage b 0x1E0 4).refuseWrite c
        else (s.unstage b 0x1E0 4).setCtx c { x with regs := { x.regs with
          hostBlk := ⟨BitVec.ofNat 256 (hostFields v), x.regs.hostBlk.eff, true⟩ } })) ∧
    (∀ va, va = bitsOf x.regs.invalVa.toNat 16 40 * 2 ^ 16 →
      exec (.translationInvalidate b pages) s = .next (s.setCtx c { x with regs := { x.regs with
        invalHeld := some (match x.regs.invalHeld with
          | some h => if pages.toNat = 0 then (min h.1 0, max h.2 (2 ^ 56)) else (min h.1 va, max h.2 (va + 65536 * pages.toNat))
          | none => if pages.toNat = 0 then (0, 2 ^ 56) else (va, va + 65536 * pages.toNat)),
        invalDone := false } }))

/-- R467, R471: the frame of the context bank's commands. -/
def Obligations.ContextCommandsFrame : Prop :=
  ∀ (s t : State) (b : Fin 128) (k : Fin 8) (w : W64) (pages : BitVec 32) (i : Instr) (c' : Nat),
    i ∈ [Instr.create b k, .start b, .stop b, .rebind b k, .policyBlockCommit b w, .translationBlockCommit b w, .hostBlockCommit b w,
      .translationInvalidate b pages] → exec i s = .next t →
    t = { s with ctxs := t.ctxs, banks := { s.banks with ctx := t.banks.ctx } } ∧ (c' ≠ (s.bank b).sel → t.ctx c' = s.ctx c') ∧
      (∀ b' : Fin 128, b' ≠ b → t.bank b' = s.bank b') ∧ (t.bank b).sel = (s.bank b).sel

/-- R374: a read of `CLAIM`. -/
def Obligations.ClaimReadsTheHighestSource : Prop :=
  ∀ (s : State) (k : Fin 96) (lv : IrqLevel), corePresent s.dev.variant k = true → s.powered = true →
    (s.irq.shownAtCore k lv = [] →
      ∃ t, exec (.claim k lv) s = .next t ∧ t.out.reads = (claimOffset k lv, leBytes 0 8) :: s.out.reads ∧
        t = { s with out := { s.out with reads := t.out.reads } }) ∧
    (s.irq.shownAtCore k lv ≠ [] →
      ∃ p n t, (p, n) ∈ s.irq.shownAtCore k lv ∧ (∀ e ∈ s.irq.shownAtCore k lv, e.1 < p ∨ (e.1 = p ∧ n ≤ e.2)) ∧
        exec (.claim k lv) s = .next t ∧
        t.out.reads = (claimOffset k lv, leBytes (n + (s.irq.srcOf n).count * 2 ^ 32 + 2 ^ 63) 8) :: s.out.reads ∧
        (t.irq.srcOf n).service = some (k.val, lv) ∧ (t.irq.srcOf n).count = 0 ∧ (t.irq.srcOf n).first = none) ∧
    (∀ n : Fin 8192, cfgEnable (s.irq.cfgOf n) = true → n.val ≤ 7961 → ∃ t, exec (.interruptEvent n) s = .next t ∧
      (t.irq.srcOf n).count = min 65535 ((s.irq.srcOf n).count + 1) ∧ (t.irq.srcOf n).service = (s.irq.srcOf n).service) ∧
    (∀ (n j : Nat) (l : IrqLevel), (s.irq.srcOf n).service = some (k.val, lv) → (s.irq.srcOf n).service = some (j, l) → j = k.val ∧ l = lv)

/-- R369 to R372, R375, R378 to R380: the commands of the interrupt controller. -/
def Obligations.InterruptCommandsAct : Prop :=
  ∀ (s : State) (n : Fin 8192) (die : Fin 2) (k : Fin 96) (lv : IrqLevel) (v : BitVec 64),
    (s.powered = false → ∀ i ∈ [Instr.setPend die v, .maskWrite n v, .thresholdWrite k lv v, .complete k lv v, .claim k lv], exec i s = .next s) ∧
    (∀ q : Irq, (cfgEnable (s.irq.cfgOf n) = true ∧ n.val ≤ 7961 → q = (s.irq.setSrc n { s.irq.srcOf n with
          count := min 65535 ((s.irq.srcOf n).count + 1),
          first := if (s.irq.srcOf n).first.isSome then (s.irq.srcOf n).first else some s.now }).route s.now n) →
        (cfgEnable (s.irq.cfgOf n) = false ∨ 7961 < n.val → q = s.irq) →
      exec (.interruptEvent n) s = .next { s with irq := q } ∧
      (s.powered = true → die = 0 ∨ hasPd1 s.dev.variant = true → bitsOf v.toNat 0 13 = n.val → exec (.setPend die v) s = .next { s with irq := q })) ∧
    (s.powered = true →
      exec (.maskWrite n v) s = .next { s with irq := (s.irq.setSrc n { s.irq.srcOf n with mask := bitAt v.toNat 2 }).route s.now n }) ∧
    (corePresent s.dev.variant k = true → s.powered = true →
      (bitsOf v.toNat 0 5 ≤ 16 → exec (.thresholdWrite k lv v) s = .next { s with irq := (s.irq.setCore k (atThreshold (s.irq.coreOf k) lv (bitsOf v.toNat 0 5))).routeAll s.now }) ∧
      (16 < bitsOf v.toNat 0 5 → exec (.thresholdWrite k lv v) s = .next { s with irq := s.irq.ignore (k.val / 48) }) ∧
      ((s.irq.srcOf (bitsOf v.toNat 0 13)).service = some (k.val, lv) → exec (.complete k lv v) s = .next { s with
        irq := (s.irq.setSrc (bitsOf v.toNat 0 13) { s.irq.srcOf (bitsOf v.toNat 0 13) with service := none }).routeAll s.now }) ∧
      ((s.irq.srcOf (bitsOf v.toNat 0 13)).service ≠ some (k.val, lv) →
        exec (.complete k lv v) s = .next { s with irq := s.irq.ignore (k.val / 48) })) ∧
    (∀ t, (s.irq.srcOf n).first = some t → cfgEnable (s.irq.cfgOf n) = true → 0 < (s.irq.srcOf n).count → 0 < cfgUs (s.irq.cfgOf n) →
      exec (.coalesceTimeout n) s = .next { (s.advance (t + 1000 * cfgUs (s.irq.cfgOf n))) with
        irq := s.irq.route (max s.now (t + 1000 * cfgUs (s.irq.cfgOf n))) n }) ∧
    (∀ j l us, (s.irq.srcOf n).shown = some (j, l) → us = bitsOf (s.irq.sliceOf (j / 48)).control.eff.toNat 0 16 → us ≠ 0 →
      exec (.rerouteTimeout n) s = .next { (s.advance ((s.irq.srcOf n).shownAt + 1000 * us)) with
        irq := ((s.irq.setSrc n { s.irq.srcOf n with shown := none, excluded := [j] }).setSlice (j / 48)
          { s.irq.sliceOf (j / 48) with reroutes := satInc 16 (s.irq.sliceOf (j / 48)).reroutes }).route
            (max s.now ((s.irq.srcOf n).shownAt + 1000 * us)) n })

/-- R367, R370, R374, R375: the frame of the interrupt controller's commands. -/
def Obligations.InterruptCommandsFrame : Prop :=
  ∀ (s t : State) (n : Fin 8192) (die : Fin 2) (k : Fin 96) (lv : IrqLevel) (v : BitVec 64) (i : Instr), exec i s = .next t →
    (i ∈ [Instr.interruptEvent n, .setPend die v, .maskWrite n v, .thresholdWrite k lv v, .complete k lv v] → t = { s with irq := t.irq }) ∧
    (i = .claim k lv → t = { s with irq := t.irq, out := { s.out with reads := t.out.reads } }) ∧
    (i ∈ [Instr.coalesceTimeout n, .rerouteTimeout n] → t = { s with now := t.now, irq := t.irq } ∧ s.now ≤ t.now)

/-- R364, R365, R373: sleep and wake. -/
def Obligations.CoresSleepAndWake : Prop :=
  ∀ (s : State) (k : Fin 96) (m : Fin 2) (cause : WakeCause), m = (if k.val < 48 then 0 else 1) →
    (s.coreLive k = true → (s.irq.coreOf k).sleep = 0 → s.irq.shownSince k = none → s.localWake k [3, 5, 6, 7] = false →
      exec (.wfi k) s = .next ((s.sleepCore k).tryDieOff m)) ∧
    (s.coreLive k = false ∨ (s.irq.coreOf k).sleep ≠ 0 ∨ s.irq.shownSince k ≠ none ∨ s.localWake k [3, 5, 6, 7] = true → exec (.wfi k) s = .next s) ∧
    ((s.irq.coreOf k).sleep ≠ 0 → s.wakes k cause = true → (s.irq.sliceOf m).dieOff = false →
      exec (.coreWake k cause) s = .next { s with
        now := max s.now ((s.irq.coreOf k).wokenAt.getD s.now + wakeNs (s.irq.coreOf k).sleep false)
        irq := s.irq.setCore k { s.irq.coreOf k with sleep := 0, wokenAt := none } }) ∧
    ((s.irq.coreOf k).sleep ≠ 0 → s.wakes k cause = true → (s.irq.sliceOf m).dieOff = true →
      exec (.coreWake k cause) s = .next { s with
        now := max s.now ((s.irq.coreOf k).wokenAt.getD s.now + wakeNs (s.irq.coreOf k).sleep true)
        irq := (s.irq.setCore k { s.irq.coreOf k with sleep := 0, wokenAt := none }).setSlice m { s.irq.sliceOf m with dieOff := false }
        coh := { s.coh with sent := s.coh.sent ++ [⟨.pd m, (dieAgents (.pd m)).filter fun a => s.agentLive a, false⟩] } }) ∧
    ((s.irq.coreOf k).sleep = 0 ∨ s.wakes k cause = false → exec (.coreWake k cause) s = .next s) ∧
    (∀ stamp now : Nat, (s.irq.coreOf k).sleep ≠ 0 → ((s.irq.coreOf k).presented now stamp).wokenAt = some ((s.irq.coreOf k).wokenAt.getD now))

/-- R362, R364, R380: the timers of the processor cores. -/
def Obligations.TimersAreReached : Prop :=
  ∀ (s : State) (k : Fin 96) (which : CoreTimer) (v : W64), v = compareOf (s.irq.coreOf k) which → corePresent s.dev.variant k = true →
    (v ≠ 0xFFFFFFFFFFFFFFFF#64 → exec (.timerCompareReached k which) s = .next { s with now := max s.now v.toNat } ∧
      bitAt (({ s with now := max s.now v.toNat } : State).mip k) (match which with | .mtimecmp => 7 | .stimecmp => 5 | .vstimecmp => 6) = true) ∧
    (v = 0xFFFFFFFFFFFFFFFF#64 → exec (.timerCompareReached k which) s = .next s)

/-- R176 to R184: each element of the destination, and the frame. -/
def Obligations.VectorInstructionsComputeElements : Prop :=
  ∀ e ∈ vectorRows, ∀ (s : State) (g : Nat) (x : Lane), s.laneAt g = some x → wOp x.w = e.2.1 →
    ∃ h : Group, exec (e.1 g) s = .next (s.retire x h 0 (maskOf (x.grp.covered x.w))) ∧ h = { x.past with v := h.v } ∧
      (∀ t ∈ x.grp.covered x.w, ∀ k < typeN (vTy x.w),
        BitVec.ofNat (typeW (vTy x.w)) (elemOf (vTy x.w) (h.val (typePair (vTy x.w)) (vD x.w) t) k) =
          e.2.2.2 x.w (typeW (vTy x.w)) (BitVec.ofNat _ (elemOf (vTy x.w) (x.srcA t) k)) (BitVec.ofNat _ (elemOf (vTy x.w) (x.srcB e.2.2.1 t) k))
            (BitVec.ofNat _ (elemOf (vTy x.w) (x.srcC (vTy x.w) t) k))) ∧
      (∀ r t, t < 64 → (t ∉ x.grp.covered x.w ∨ (r ≠ vD x.w ∧ (typePair (vTy x.w) = true → r ≠ vD x.w + 1))) → h.reg r t = x.grp.reg r t)

/-- R184: the bits a compare writes, and its frame. -/
def Obligations.ComparesWriteCoveredBits : Prop :=
  ∀ e ∈ compareRows, ∀ (s : State) (g : Nat) (x : Lane), s.laneAt g = some x → wOp x.w = e.2.1 → typeN (vTy x.w) = 1 →
    ∃ h : Group, exec (e.1 g) s = .next (s.retire x h 0 (maskOf (x.grp.covered x.w))) ∧ h = { x.past with preg := h.preg } ∧
      (∀ i, i ≠ bitsOf x.w 20 3 → h.pr i = x.grp.pr i) ∧
      (∀ t < 64, bitAt (h.pr (bitsOf x.w 20 3)) t =
        if t ∈ x.grp.covered x.w then
          e.2.2.2 x.w (typeW (vTy x.w)) (BitVec.ofNat _ (x.srcA t)) (BitVec.ofNat _ (x.srcB e.2.2.1 t))
        else bitAt (x.grp.pr (bitsOf x.w 20 3)) t)

/-- R165, R166, R181, R184, R186 to R189: the other register instructions of format V, C and G. -/
def Obligations.OtherVectorInstructionsRun : Prop :=
  ∀ (s : State) (g : Nat) (x : Lane), s.laneAt g = some x →
    (wOp x.w = 0x3D → exec (.sel g) s = .next (s.retire x (x.putVec x.past (typePair (vTy x.w)) (vD x.w) fun t =>
        if bitAt (x.grp.pr (bitsOf x.w 44 3)) t then x.srcA t else x.srcB 3 t) 0 (maskOf (x.grp.covered x.w)))) ∧
    (wOp x.w = 0x1A → exec (.idot8 g) s = .next (s.retire x (x.putVec x.past true (vD x.w) fun t =>
        dot8 (vSat x.w) (x.srcA t) (x.srcB 0 t) (x.srcC 3 t) 0 + 2 ^ 32 * dot8 (vSat x.w) (x.srcA t) (x.srcB 0 t) (x.srcC 3 t) 1)
          0 (maskOf (x.grp.covered x.w)))) ∧
    (∀ e ∈ conversionRows, wOp x.w = e.2.1 → exec (e.1 g) s = .next (s.retire x
        (x.putVec x.past (fmtPair (convDst x.w) && e.2.1 != 0x42) (bitsOf x.w 20 8) fun t =>
          e.2.2 x t (convValue (bitsOf x.w 8 8) (x.grp.val (fmtPair (bitsOf x.w 8 8)) (bitsOf x.w 28 8) t))) 0 (maskOf (x.grp.covered x.w)))) ∧
    (wOp x.w = 0x70 →
      (x.grp.active.toNat = allThreads → exec (.mma g) s = .next (s.retire x (mmaGroup x x.past) 0 allThreads)) ∧
      (x.grp.active.toNat ≠ allThreads → exec (.mma g) s = .next (s.groupFault x.blk.launch x.lch x.blk 0x0701
        (groupFaultRecord x.lch x.blk 1 x.grp.num x.grp.pc 0 x.grp.active.toNat 0 s.now
          [(x.grp.num, allThreads - (x.grp.active ||| x.grp.exited).toNat)]))))

/-- R197: what the scalar instructions write, and their frame. -/
def Obligations.ScalarInstructionsWriteOneRegister : Prop :=
  ∀ (s : State) (g : Nat) (x : Lane), s.laneAt g = some x →
    (∀ e ∈ scalarRows, wOp x.w = 0x68 → bitsOf x.w 8 4 = e.2.1 →
      ∃ h : Group, exec (e.1 g) s = .next (s.retire x h 0 (maskOf (x.grp.covered x.w))) ∧ h = { x.past with sreg := h.sreg } ∧
        h.sc (bitsOf x.w 12 6) = (e.2.2.2 (BitVec.ofNat 64 (x.grp.sc (bitsOf x.w 18 6))) (BitVec.ofNat 64 (scalB x e.2.2.1))).toNat ∧
        ∀ i, i ≠ bitsOf x.w 12 6 → h.sc i = x.grp.sc i) ∧
    (∀ i : Instr, wOp x.w = 0x68 → ∀ v, ((i = .movp g ∧ bitsOf x.w 8 4 = 10 ∧ v = x.grp.pr (bitsOf x.w 18 3)) ∨
        (i = .readlane g ∧ bitsOf x.w 8 4 = 12 ∧ v = x.grp.reg (bitsOf x.w 32 8) (x.grp.sc (bitsOf x.w 24 6) % 64))) →
      ∃ h : Group, exec i s = .next (s.retire x h 0 (maskOf (x.grp.covered x.w))) ∧ h = { x.past with sreg := h.sreg } ∧
        h.sc (bitsOf x.w 12 6) = v ∧ ∀ j, j ≠ bitsOf x.w 12 6 → h.sc j = x.grp.sc j) ∧
    (∀ (i : Instr) (d v : Nat), ((i = .pmov g ∧ wOp x.w = 0x68 ∧ bitsOf x.w 8 4 = 11 ∧ d = bitsOf x.w 12 3 ∧ v = x.grp.sc (bitsOf x.w 18 6)) ∨
        (i = .scmp g ∧ wOp x.w = 0x69 ∧ d = bitsOf x.w 40 3 ∧
          v = if scmpCond (bitsOf x.w 8 4) (x.grp.sc (bitsOf x.w 18 6)) (scalB x true) then 2 ^ 64 - 1 else 0)) →
      ∃ h : Group, exec i s = .next (s.retire x h 0 (maskOf (x.grp.covered x.w))) ∧ h = { x.past with preg := h.preg } ∧ h.pr d = v ∧
        ∀ j, j ≠ d → h.pr j = x.grp.pr j)

/-- R164, R167, R194, R196: the control instructions. -/
def Obligations.ControlInstructionsRun : Prop :=
  ∀ (s : State) (g : Nat) (x : Lane), s.laneAt g = some x → ∀ m : Nat, m = maskOf (x.grp.covered x.w) →
    (wOp x.w = 0x60 → ∀ (t n j : Nat), t = (x.grp.active.toNat &&& predMask x.grp x.w) → n = x.grp.active.toNat - t → j = 8 * xJoin x.w →
      (n = 0 → exec (.bra g) s = .next (s.retire x { x.past with pc := 8 * xTarget x.w } 0 m)) ∧
      (n ≠ 0 → t = 0 → exec (.bra g) s = .next (s.retire x x.past 0 m)) ∧
      (n ≠ 0 → t ≠ 0 → exec (.bra g) s = .next (s.retire x { x.past with
        stack := (if x.grp.pc + 8 != j then [⟨x.grp.pc + 8, BitVec.ofNat 64 n, j⟩] else []) ++
          (if j != x.grp.join then [⟨j, x.grp.active, x.grp.join⟩] else []) ++ x.grp.stack,
        pc := 8 * xTarget x.w, active := BitVec.ofNat 64 t, join := j } 0 m))) ∧
    (wOp x.w = 0x61 → exec (.jmp g) s = .next (s.retire x { x.past with pc := 8 * xTarget x.w } 0 m)) ∧
    (wOp x.w = 0x62 → exec (.exit g) s = .next (s.retire x (x.past.exitThreads (x.grp.active.toNat &&& predMask x.grp x.w)) 0 m)) ∧
    (wOp x.w = 0x64 → exec (.nop g) s = .next (s.retire x x.past 0 m)) ∧
    (wOp x.w = 0x54 → exec (.mfence g) s = .next (s.retire x x.past 0 m)) ∧
    (wOp x.w = 0x63 → exec (.bar g) s = .next (s.arrive x))

/-- R190 to R193, R195: a memory instruction whose accesses are served. -/
def Obligations.MemoryInstructionsRun : Prop :=
  ∀ (s : State) (g : Nat) (x : Lane), s.laneAt g = some x → x.grp.replay = none →
    (∀ e ∈ memoryRows, e.2.1 x.w = true → ∀ r : MemRun, r = (x.grp.covered x.w).foldl (memStep x (e.2.2.2 x)) ⟨s, x.grp, [], [], none⟩ →
      r.failed = [] → r.dead = none →
      exec (e.1 g) s = .next (((r.st.noteIssue x (match x.grp.covered x.w with
        | t :: _ => e.2.2.1 x t
        | [] => 0) (maskOf (x.grp.covered x.w))).setGroup g (some ({ r.grp with pc := x.next, replay := none }.settle x.lch.codeEnd 34))).refreshBlock
          x.grp.blk)) ∧
    (wOp x.w = 0x53 → ∀ u : State, u = (x.grp.covered x.w).foldl (fun a t => (prefetchThread x a x.grp t).1) s →
      exec (.prefetch g) s = .next (((u.noteIssue x (match x.grp.covered x.w with
        | t :: _ => memAddr x.grp x.w t 1
        | [] => 0) (maskOf (x.grp.covered x.w))).setGroup g (some ({ x.grp with pc := x.next, replay := none }.settle x.lch.codeEnd 34))).refreshBlock
          x.grp.blk))

/-- R154, R190 to R193: one thread's part. -/
def Obligations.ThreadAccessActs : Prop :=
  ∀ (s s1 : State) (x : Lane) (h : Group) (t n : Nat), n = 2 ^ bitsOf x.w 8 3 →
    (isLocal x.w = true → x.lch.localBytes ≤ memAddr x.grp x.w t n → stThread x s h t = (s, h, none)) ∧
    (isLocal x.w = true → ∀ s2 h2 q, stThread x s h t = (s2, h2, q) → q = none ∧ h2 = h ∧ s2 = { s with threads := { s.threads with blocks := s2.threads.blocks } }) ∧
    (isLocal x.w = false → PreparedBy s.newAccess x.agent x.lch.ctx [(accRead, memAddr x.grp x.w t n, n)] s1 →
      ldThread x s h t = (s1, loadInto h x.w t (leNat (s1.rdVAt x.agent x.lch.ctx (memAddr x.grp x.w t n) n)), none)) ∧
    (x.lineDone t = true → zeroThread x s h t = (s, h, none) ∧ prefetchThread x s h t = (s, h, none)) ∧
    (x.lineDone t = false → PreparedBy s.newAccess x.agent x.lch.ctx [(accFull, memAddr x.grp x.w t 128, 128)] s1 →
      zeroThread x s h t = (s1.zeroVFrom x.agent x.lch.ctx 1 2 (memAddr x.grp x.w t 128) 128, h, none)) ∧
    (∀ pf, pf = s.newAccess.prefetchPa x.lch.ctx (memAddr x.grp x.w t 1) (bitAt x.w 9) → x.lineDone t = false → prefetchThread x s h t = (match pf with
      | some pa => (s.newAccess.countPage (if bitAt x.w 8 then stackCacheOf x.agent else x.agent) x.lch.ctx (memAddr x.grp x.w t 1) pa 1).prefetchLine
          (if bitAt x.w 8 then stackCacheOf x.agent else x.agent) (pa / 128) (if bitAt x.w 10 then 3 else 1) (bitAt x.w 9)
      | none => s.newAccess, h, none)) ∧
    (isLocal x.w = false → PreparedBy s.newAccess x.agent x.lch.ctx [(accWrite, memAddr x.grp x.w t n, n)] s1 →
      stThread x s h t = (s1.wrVAt x.agent x.lch.ctx (memAddr x.grp x.w t n) (storeBytes x.grp x.w t), h, none)) ∧
    (isLocal x.w = false → bitsOf x.w 8 3 ≤ 3 → 2 ≤ bitsOf x.w 8 3 → ∀ (a : Nat) (w : Nat) (old v cmp nv : BitVec w), a = atomAddr x.grp x.w t n → w = 8 * n →
      old = BitVec.ofNat w (leNat (s1.rdBytes (s1.tr x.lch.ctx a) n)) → v = BitVec.ofNat w (x.grp.val (n == 8) (bitsOf x.w 20 8) t) →
      cmp = BitVec.ofNat w (x.grp.val (n == 8) (bitsOf x.w 28 8) t) → atomicFn w (aopOf (bitsOf x.w 59 4)) old v cmp = some nv →
      PreparedBy s.newAccess x.agent x.lch.ctx [(accAtomic, a, n)] s1 →
      ∃ h2, atomThread x s h t = (s1.wrVAt x.agent x.lch.ctx a (leBytes nv.toNat n), h2, none) ∧
        (bitAt x.w 11 = false → h2 = h) ∧ (bitAt x.w 11 = true → h2.val (n == 8) (bitsOf x.w 36 8) t = old.toNat))

/-- R150, R159, R176, R496: the frame of the register instructions. -/
def Obligations.RegisterInstructionsFrame : Prop :=
  ∀ (s t : State) (g : Nat) (x : Lane), s.laneAt g = some x → x.lch.isElem = false →
    ∀ i ∈ registerLaneCommands g, exec i s = .next t →
      t = { s with threads := t.threads, ctxs := t.ctxs, ctrs := { t.ctrs with produced := s.ctrs.produced }, irq := t.irq } ∧
        ((∀ j < 8, ∀ n ∈ [0x011, 0x012, 0x013], bitAt (s.eventSel (x.blk.unit / 64) j) 22 = true → bitsOf (s.eventSel (x.blk.unit / 64) j) 0 12 ≠ n) →
          t.ctrs.blocks = s.ctrs.blocks ∧ t.irq = s.irq) ∧
        ∀ c, c ≠ x.lch.ctx → t.ctx c = s.ctx c

/-- R159, R168, R169, R171, R497: the events of blocks and samplers. -/
def Obligations.BlockEventsRun : Prop :=
  (∀ (s : State) (blk t due : Nat) (b0 : Block) (l : Launch), s.block blk = some b0 → s.launch b0.launch = some l → b0.firstAt = some t → b0.pausedAt = none →
    due = t + 1000 * l.deadlineUs + b0.pausedNs →
    (∀ (b : Block) (at_ : Nat) (miss : List (Nat × Nat)), (b, at_) = s.firstExpired l b0 due →
      miss = ((s.groupsOf b).filter fun e => e.2.missing != 0).map (fun e => (e.2.num, e.2.missing)) →
      exec (.barrierTimeout blk) s = .next ((s.advance at_).groupFault b.launch l b 0x0702
        (groupFaultRecord l b 2 ((miss.map Prod.fst).headD 0) b.firstPc l.deadlineUs 0 (miss.foldl (fun a e => a ||| 2 ^ e.1) 0) (max s.now at_) miss))) ∧
    ((∀ y ∈ s.threads.blocks.filterMap Prod.snd, y.launch = b0.launch → ∀ u, y.expiresAt l = some u → due < u ∨ (due = u ∧ b0.num ≤ y.num)) →
      s.firstExpired l b0 due = (b0, due))) ∧
  (∀ (s : State) (c : Fin 4096) (u : Fin 512) (ix k split : Nat) (l : Launch), launchOf (s.ctx c) = some ix → s.launch ix = some l →
    split = (if l.isElem then tabGet 1 s.threads.splits u else fld l.desc 224 227) → l.nextBlock < l.total → s.holdsPart c = some k →
    s.partOfStack (u / 64) = some k → s.unitLive u = true → s.power.gated.contains (.threadUnit u) = false → s.roomOn u l split = true →
    (l.isElem = false → exec (.blockPlace c u) s = .next (s.placeBlock ix u split l)) ∧
    (l.isElem = true → s.waitsOn (.op l.ctx l.opIndex) = false →
      ∀ s1, PreparedBy s.newAccess (128 * (u / 64) + 64) l.ctx (elemReads l l.nextBlock) s1 →
      exec (.blockPlace c u) s = .next (s1.placeBlock ix u split l))) ∧
  (∀ (s : State) (u : Fin 512) (m : SampleMeasure) (y : Sampler) (x : Tagged) (k n size : Nat), s.sampler u = some y → y.tagged = some x →
    k = s.partOfUnit u → n = w32Diff (s.ctrs.produced.getD k 0) (BitVec.ofNat 32 (s.effNat 0x9162 (k + 1))) → size = 2 ^ s.sampleCtl k 24 28 →
    (n = size → exec (.sampleRecordWrite u m) s = .next ((s.setSampler u (some { y with tagged := none })).skipSample k)) ∧
    (n ≠ size → Answers (.sampleRecordWrite u m) s fun t =>
      t.ctrs.produced = s.ctrs.produced.set k (s.ctrs.produced.getD k 0 + 1) ∧
        t.mem = ((s.setSampler u (some { y with tagged := none })).wrHome
          (s.sampleCtl k 64 115 + 64 * ((s.ctrs.produced.getD k 0).toNat % size)) (leBytes (sampleRecord u x m s.now) 64)).mem))

/-- R207, R209, R211: the words that move no data. -/
def Obligations.StreamRegisterWordsRun : Prop :=
  ∀ (s : State) (i w : Nat) (x : Instance), s.liveInst i = some x → x.pc < x.words.length → w = (x.words.getD x.pc 0).toNat →
    (xOp w = 0x10 → exec (.add i) s = .next (s.putInst i
      ({ x with a := x.a.set (bitsOf w 8 3) (x.a.getD (bitsOf w 11 3) 0 + BitVec.ofInt 64 (immS w)) } : Instance).past)) ∧
    (xOp w = 0x11 → exec (.madd i) s = .next (s.putInst i
      ({ x with a := x.a.set (bitsOf w 8 3) (x.a.getD (bitsOf w 11 3) 0 +
          (x.c.getD (bitsOf w 14 3) 0).setWidth 64 * BitVec.ofInt 64 (immS w)) } : Instance).past)) ∧
    (xOp w = 0x12 → exec (.wrap i) s = .next (s.putInst i
      ({ x with a := x.a.set (bitsOf w 8 3) (x.init.getD (bitsOf w 8 3) 0 +
          BitVec.ofNat 64 ((x.a.getD (bitsOf w 11 3) 0 - x.init.getD (bitsOf w 8 3) 0).toNat % bitsOf w 24 40)) } : Instance).past)) ∧
    (xOp w = 0x18 → exec (.sync i) s = .next (s.putInst i ({ x with syncing := true } : Instance).past)) ∧
    (xOp w = 0x08 → ∀ n, n = (if bitAt w 16 then (x.a.getD (bitsOf w 17 3) 0).toNat % 2 ^ 32 else bitsOf w 32 32) →
      exec (.loop i) s = .next (s.putInst i (if n = 0 then { x with c := x.c.set (lCtr w) 0, pc := lEnd w + 1 }
        else ({ x with c := x.c.set (lCtr w) 0, loops := ⟨lCtr w, x.pc, lEnd w, n⟩ :: x.loops } : Instance).past))) ∧
    (∀ y : Instance, y.over = false →
      s.putInst i y = { s with streams := { s.streams with insts := (s.putInst i y).streams.insts } } ∧
        (s.putInst i y).inst i = some { y with syncing := y.syncing && !y.bursts.isEmpty })

/-- R208, R212, R213, R219, R220, R222, R224, R227: bursts, their commits and their deadlines. -/
def Obligations.StreamTransfersRun : Prop :=
  (∀ (s : State) (i w : Nat) (x : Instance), s.liveInst i = some x →
    (x.pc < x.words.length → w = (x.words.getD x.pc 0).toNat → x.mayIssue = true →
      (xOp w = 0x01 → exec (.xfer i) s = .next (s.issueBurst i
        (if bitAt w 22 then x.setAr (bitsOf w 8 3) (x.ar (bitsOf w 8 3) + 2 ^ xLen w) else x) w (x.ar (bitsOf w 8 3)) (x.ar (xDstAr w)))) ∧
      (xOp w = 0x02 → ∀ (n ia : Nat) (y : Instance) (go : State → State), n = (if bitAt w 13 then 8 else 4) → ia = x.ar (bitsOf w 8 3) →
        y = x.setAr (bitsOf w 8 3) (ia + n) → (∀ t, go t = t.issueBurst i y w
          ((y.ar (bitsOf w 14 3) + leNat (t.rdVAt (streamAgent x.unit) x.ctx ia n) * 2 ^ bitsOf w 28 6) % 2 ^ 64) (y.ar (xDstAr w))) →
        (x.hamper = false → ∀ s1, PreparedBy s (streamAgent x.unit) x.ctx [(accRead, ia, n)] s1 → exec (.gather i) s = .next (go s1)) ∧
        (x.hamper = true → exec (.gather i) s = .next (if s.readable x.ctx ia n then go (s.walkFor x.unit x.ctx ia n) else (s.countDrop x.unit (some x.ctx)).putInst i y.past)))) ∧
    (∀ (b : Burst) (r : List Burst) (k : Nat), x.bursts = b :: r → b.stalled = [] → b.sent = false → k = epKind (x.eps.getD b.dstSlot 0) →
      (x.hamper = true → (∀ u, s.newAccess.placePrefetch x b = some u → exec (.burstCommit i) s = .next (u.dropHead i x)) ∧
        (s.newAccess.placePrefetch x b = none → exec (.burstCommit i) s = .next s)) ∧
      (x.hamper = false → ∀ (s1 : State) (d : List Byte),
        PreparedBy s.newAccess (streamAgent x.unit) x.ctx ((accRead, b.src, b.len) :: (if k = 1 then [(accWrite, b.dst, b.len)] else [])) s1 →
        d = s1.rdVAt (streamAgent x.unit) x.ctx b.src b.len →
        exec (.burstCommit i) s = .next (
          if k = 3 then (s1.sendBurst x b d).setInst i (some { x with bursts := { b with sent := true } :: r })
          else if k = 1 then (s1.wrVAt (streamAgent x.unit) x.ctx b.dst d).dropHead i x
          else match s1.placePrefetch x b with
            | some u => u.dropHead i x
            | none => s)))) ∧
  (∀ (s s1 : State) (i n us f : Nat) (x : Instance) (b : Burst), i < seqBursts → s.liveInst i = some x → findBurst x n = some b → b.stalled = [] → b.sent = false →
    s1 = (s.free).2 → f = b.from_ + (s.free).1 → us = (if s.external x.ctx b then x.hardExt else x.hardInt) →
    (b.noticed = false → exec (.streamStall i n) s = .next (((s1.advance (f + 1000 * x.softUs)).setInst i (some { x with
      bursts := x.bursts.map fun e => if e.num = n then { e with noticed := true, from_ := f } else e })).postNotice x.ctx 0x0C02 x.unit)) ∧
    (us ≠ 0xFFFFFFFF → exec (.streamStarved i n) s = .next (if x.hamper then
        ((({ (s1.advance (f + 1000 * us)) with streams := { s.streams with cancelled := s.streams.cancelled + 1 } }).countEv (x.unit / 16) 0x023 (x.unit % 16)
          (some x.ctx) 1).dropInsts x.ctx x.opIndex)
      else (s1.advance (f + 1000 * us)).stopStream x.ctx x.opIndex (endWith 0x0501 x.unit)))) ∧
  (∀ (s : State) (i u op c : Nat) (f : Flight), seqBursts ≤ i → u = seqUnit i → s.seqProgram u op = some (c, f) →
    ((∃ e ∈ (s.workOf c).stalls, e.1 = i) → exec (.streamStall i op) s = .next s) ∧
    ((∀ e ∈ (s.workOf c).stalls, e.1 ≠ i) → Answers (.streamStall i op) s fun t => ∃ (from_ : Nat) (s1 : State),
      (s.workOf c).at_ ≤ from_ ∧ (s1.workOf c).stalls = (s.workOf c).stalls ++ [(i, from_)] ∧
        s1 = { s with now := max s.now (from_ + 1000 * s.seqDeadline u 0x3040), freeIx := s1.freeIx, streams := { s.streams with work := s1.streams.work } } ∧
        t = s1.postNotice c 0x0C02 u) ∧
    (s.seqDeadline u 0x3041 = 0xFFFFFFFF → s.seqDeadline u 0x3042 = 0xFFFFFFFF → exec (.streamStarved i op) s = .next s) ∧
    (s.seqDeadline u 0x3041 ≠ 0xFFFFFFFF → s.seqDeadline u 0x3042 ≠ 0xFFFFFFFF → Answers (.streamStarved i op) s fun t =>
      ∃ (kept from_ us n : Nat) (s1 : State), (us = s.seqDeadline u 0x3041 ∨ us = s.seqDeadline u 0x3042) ∧
        s1 = ({ s with now := max s.now (from_ + 1000 * us), freeIx := n } : State).discardOutput (s.workOf c) kept ∧
        t = (match f.st with
          | .launched l => s1.stopLaunch l (endWith 0x0501 u)
          | _ => s1.setFlight c op (.done (endWith 0x0501 u)))))

/-- R225, R236, R250, R253, R257, R262, R267, R277: reads at the home. -/
def Obligations.ReadsAtTheHome : Prop :=
  ∀ (s s1 s2 : State) (a : Fin 2048) (ln : Nat) (e : Ecc) (why : ReqCause) (r : Request) (d : DirEntry),
    (Admitted s (.readShared ⟨a, why⟩ ln e) r s1 → s2 = s1.countLine a ln → d = s2.dirOf ln →
      (d.st = .i → Readable s2 ln e → exec (.readShared ⟨a, why⟩ ln e) s = .next
        (((s2.noteEcc ln e).setDir ln (firstReader a)).post ⟨.data, a, a, ln, s2.memLine ln, if isHamper a then .s else .e, why⟩)) ∧
      (d.st = .i ∨ d.st = .s → ¬ Readable s2 ln e → exec (.readShared ⟨a, why⟩ ln e) s = .next ((s2.loseStored ln).refuse a ln 0 7 why)) ∧
      (d.st = .s → Readable s2 ln e → exec (.readShared ⟨a, why⟩ ln e) s = .next
        (((s2.noteEcc ln e).setDir ln (d.addSharer a)).post ⟨.data, a, a, ln, s2.memLine ln, .s, why⟩)) ∧
      (∀ o, d.owner = some o → o ≠ a.val →
        (d.st = .e → exec (.readShared ⟨a, why⟩ ln e) s =
          .next ((s2.setDir ln ⟨.s, none, [o, a.val], []⟩).post ⟨.fwdShared, o, a, ln, [], .s, why⟩)) ∧
        (d.st = .m → exec (.readShared ⟨a, why⟩ ln e) s =
          .next ((s2.setDir ln ⟨.o, some o, [a.val], []⟩).post ⟨.fwdShared, o, a, ln, [], .s, why⟩)) ∧
        (d.st = .o → exec (.readShared ⟨a, why⟩ ln e) s = .next ((s2.setDir ln (d.addSharer a)).post ⟨.fwdShared, o, a, ln, [], .s, why⟩))) ∧
      (d.st = .l → exec (.readShared ⟨a, why⟩ ln e) s = .next (s2.refuse a ln 0 6 why))) ∧
    (Admitted s (.readOnce a ln e) r s1 → s2 = s1.countLine a ln → d = s2.dirOf ln →
      (d.st = .l → exec (.readOnce a ln e) s = .next (s2.refuse a ln 0 6 .demand)) ∧
      (d.st ≠ .l → ∀ o, d.owner = some o → exec (.readOnce a ln e) s = .next (s2.post ⟨.fwdOnce, o, a, ln, [], .s, .demand⟩)) ∧
      (d.st ≠ .l → d.owner = none → Readable s2 ln e → exec (.readOnce a ln e) s =
        .next ((s2.noteEcc ln e).post ⟨.dataOnce, a, a, ln, s2.memLine ln, .s, .demand⟩))) ∧
    (∀ (i : Instr) (v : Served), i = .readShared ⟨a, why⟩ ln e ∨ i = .readOnce a ln e → requestOf i = some r → s.mayRequest r = true →
      (homeOf (r.line * 128)).isSome = true → s.onTheWay r.agent r.line = some v →
      exec i s = .next (s.serveNear r.line v) ∧ (s.serveNear r.line v).coh.dir = s.coh.dir ∧ (s.serveNear r.line v).mem = s.mem)

/-- R226, R251, R253, R257: grants for writing. -/
def Obligations.WriteGrantsLeaveOneOwner : Prop :=
  ∀ (s s1 : State) (a : Fin 2048) (ln : Nat) (e : Ecc) (why : ReqCause) (r : Request) (d : DirEntry) (i : Instr), Admitted s i r s1 → d = s1.dirOf ln →
    ((i = .readExclusive ⟨a, why⟩ ln e ∧ d.st ≠ .l ∧ d.owner ≠ some a.val ∧ Readable s1 ln e) ∨
      (i = .upgrade a ln e ∧ (d.st = .s ∨ d.st = .o) ∧ s1.stillRecorded a ln = true) ∨ i = .ownNoData ⟨a, why⟩ ln) →
    Answers i s fun t => t.dirOf ln = ⟨.m, some a.val, [], []⟩ ∧
      (e ≠ .corrected → d.st = .s ∨ d.st = .o → ∀ h ∈ d.holders, h ≠ a.val → d.owner ≠ some h → agentExists s1.dev.variant h = true → s1.agentDead h = false →
        ⟨.inval, h, a, ln, [], .s, .demand⟩ ∈ t.coh.msgs) ∧
      (∀ o, i = .readExclusive ⟨a, why⟩ ln e → d.owner = some o → d.st = .e ∨ d.st = .m ∨ d.st = .o → ⟨.fwdOwn, o, a, ln, [], .m, why⟩ ∈ t.coh.msgs)

/-- R262, R268: `WRITE_LINE`. -/
def Obligations.WholeLineWriteReplacesTheLine : Prop :=
  ∀ (s s1 : State) (a : Fin 2048) (ln : Nat) (d : List Byte) (r : Request), Admitted s (.writeLine a ln d) r s1 → d.length = 128 →
    Answers (.writeLine a ln d) s fun t =>
      t.dirOf ln = DirEntry.none ∧ t.memLine ln = d ∧ (∀ pa, pa / 128 ≠ ln → tabGet memDefault t.mem pa = tabGet memDefault s1.mem pa) ∧
        t.streams.hamper.all (fun h => h.line != ln) = true

/-- R251, R257, R262: writes. -/
def Obligations.WritesAtTheHome : Prop :=
  ∀ (s s1 : State) (a : Fin 2048) (ln : Nat) (e : Ecc) (why : ReqCause) (w : PartialWrite) (q : AtomicReq) (r : Request) (d : DirEntry) (s2 : State), s2 = s1.countLine a ln → d = s2.dirOf ln →
    (∀ (i : Instr) (f : List Byte → List Byte), (i = .writePartial a ln w e ∧ (∀ l, f l = mergePartial l w)) ∨
        (i = .atomicAtHome a ln q e ∧ (∀ l, f l = atomicLine q l)) → Admitted s i r s1 → d.st ≠ .l →
      (∀ o, d.owner = some o → s2.ownerHolds ln o = true →
        exec i s = .next ((s2.takeLine ln).memWrite (ln * 128) (f ((s2.takeLine ln).memLine ln)))) ∧
      ((∀ o, d.owner = some o → s2.ownerHolds ln o = false) → Readable s2 ln e →
        exec i s = .next (((s2.noteEcc ln e).takeLine ln).memWrite (ln * 128) (f (s2.memLine ln))))) ∧
    (Admitted s (.readExclusive ⟨a, why⟩ ln e) r s1 →
      (d.st = .e ∨ d.st = .m ∨ d.st = .o → ∀ o, d.owner = some o → o ≠ a.val →
        exec (.readExclusive ⟨a, why⟩ ln e) s = .next (let t := (s2.setDir ln (ownedBy a)).post ⟨.fwdOwn, o, a, ln, [], .m, why⟩
          if d.st = .o then t.invalidate ln a (d.holders.filter fun h => h != o) else t)) ∧
      (d.st = .i ∨ d.st = .s → Readable s2 ln e → exec (.readExclusive ⟨a, why⟩ ln e) s = .next
        ((((s2.noteEcc ln e).setDir ln (ownedBy a)).post ⟨.data, a, a, ln, s2.memLine ln, .m, why⟩).invalidate ln a d.holders)) ∧
      (d.st = .l → exec (.readExclusive ⟨a, why⟩ ln e) s = .next (s2.refuse a ln 1 6 why))) ∧
    (Admitted s (.upgrade a ln e) r s1 → ((s1.dirOf ln).st = .s ∨ (s1.dirOf ln).st = .o) → s1.stillRecorded a ln = true → exec (.upgrade a ln e) s = .next
      (((s1.setDir ln (ownedBy a)).post ⟨.ack, a, a, ln, [], .m, .demand⟩).invalidate ln a (s1.dirOf ln).holders)) ∧
    (Admitted s (.ownNoData ⟨a, why⟩ ln) r s1 → exec (.ownNoData ⟨a, why⟩ ln) s = .next
      (((({ s2 with bad := s2.bad.filter fun l => l != ln } : State).setDir ln (ownedBy a)).post
        ⟨.ack, a, a, ln, List.replicate 128 0, .m, why⟩).invalidate ln a d.holders))

/-- R226, R243, R251, R252, R257, R258, R262: forwards. -/
def Obligations.ForwardsAtTheHolder : Prop :=
  ∀ (s u : State) (a : Fin 2048) (ln : Nat) (w : PartialWrite) (e : Ecc) (m : CohMsg) (d : List Byte) (x : Copy),
    u = (if e = .corrected then s.cacheError a ln else s).unpost m → s.heldData a ln w = some (d, some x) →
    (e ≠ .uncorrectable →
      (Received s .fwdShared a ln m → exec (.fwdShared a ln ⟨w, e⟩) s = .next
        ((u.post ⟨.data, m.requester, m.requester, ln, d, .s, m.why⟩).setCopy a ln
          (some { x with data := d, st := if x.st = .m ∨ x.st = .o then .o else .s })).goOn) ∧
      (Received s .fwdOwn a ln m → exec (.fwdOwn a ln ⟨w, e⟩) s = .next
        ((u.setCopy a ln none).post ⟨.data, m.requester, m.requester, ln, d, .m, m.why⟩).goOn) ∧
      (Received s .fwdOnce a ln m → exec (.fwdOnce a ln ⟨w, e⟩) s = .next
        ((u.post ⟨.dataOnce, m.requester, m.requester, ln, d, .s, m.why⟩).setCopy a ln (some { x with data := d })).goOn) ∧
      (Received s .fwdRecall a ln m → exec (.fwdRecall a ln ⟨w, e⟩) s = .next (((u.setCopy a ln none).memWrite (ln * 128) d).endRecall ln).goOn)) ∧
    (e = .uncorrectable → ∀ (k : MsgKind) (i : Instr),
      (k, i) ∈ [(MsgKind.fwdShared, Instr.fwdShared a ln ⟨w, e⟩), (.fwdOwn, .fwdOwn a ln ⟨w, e⟩), (.fwdOnce, .fwdOnce a ln ⟨w, e⟩), (.fwdRecall, .fwdRecall a ln ⟨w, e⟩)] →
      Received s k a ln m → ∀ v : State, v = (s.loseBlock a ln).unpost m →
      exec i s = .next (if m.requester = homeAgent then v.endRecall ln
        else (if (v.dirOf ln).st = .l then v else v.setDir ln DirEntry.none).refuse m.requester ln 0 7 m.why).goOn) ∧
    (Received s .inval a ln m → isHamper a = false → exec (.inval a ln) s = .next (
      if m.requester = homeAgent then ((s.unpost m).dropCopy a ln).endRecall ln
      else ((s.unpost m).dropCopy a ln).post ⟨.invalAck, m.requester, m.requester, ln, [], .s, m.why⟩).goOn) ∧
    (s.msgFor .inval a ln = some m → isHamper a = true → s.agentDead a = false → ∀ v : State, v = ((s.unpost m).dropCopy a ln).dropHamperLine (a / 128) ln →
      exec (.inval a ln) s = .next (if m.requester = homeAgent then v.endRecall ln
        else v.post ⟨.invalAck, m.requester, m.requester, ln, [], .s, m.why⟩).goOn)

/-- R257 to R259, R262: answers, writebacks and notices. -/
def Obligations.AnswersAtTheRequester : Prop :=
  ∀ (s : State) (a : Fin 2048) (ln : Nat) (w : PartialWrite) (m : CohMsg) (c : Copy) (d : List Byte) (e : Ecc) (why : WbReason),
    (s.agentDead a = false → s.msgFor .data a ln = some m → exec (.data a ln) s =
      .next ((if (s.unpost m).keepsGrant a ln = false then s.unpost m
        else if isHamper a then (s.unpost m).fillHamper (a / 128) ln
        else ((s.unpost m).fill a ln m.grant (ageOf m.why) (grantedLine m.why m.data)).fillCore a ln m.why).grantDone a ln).goOn) ∧
    (s.msgFor .dataOnce a ln = some m → exec (.dataOnce a ln) s = .next ((s.unpost m).answer (ln * 128) m.data).goOn) ∧
    (s.agentDead a = false → s.msgFor .ack a ln = some m → s.copyOf a ln = some c → m.data = [] → exec (.ack a ln) s =
      .next (((s.unpost m).fillGrant a ln m c.data).grantDone a ln).goOn) ∧
    (s.msgFor .invalAck a ln = some m → Answers (.invalAck a ln) s fun t => ∃ s1 : State, t = (s1.grantDone a ln).goOn ∧
      s1 = { s.unpost m with coh := { (s.unpost m).coh with owedAcks := s1.coh.owedAcks } } ∧
        ∀ n, (a.val, ln, n + 2) ∈ s.coh.owedAcks → (a.val, ln, n + 1) ∈ s1.coh.owedAcks) ∧
    (s.agentDead a = false → why = .evict ∨ 1024 ≤ a.val → e ≠ .uncorrectable → s.copyOf a ln = none → s.wbOf a ln = some d → s.msgFor .wbAck a ln = none →
      exec (.wbDirty a ln ⟨w, e, why⟩) s = .next
        ((if (s.dirOf ln).owner == some a.val && ((s.dirOf ln).st == .m || (s.dirOf ln).st == .o) then
            (s.memWrite (ln * 128) d).setDir ln (writtenBack (s.dirOf ln) a (why == .clean))
          else s).post ⟨.wbAck, a, a, ln, [], .s, .demand⟩)) ∧
    (s.agentDead a = false → s.copyOf a ln = some c → c.st = .m ∨ c.st = .o → c.stale = false → s.grantDue a ln = false → s.coh.notices.contains (a.val, ln) = false →
      exec (.wbDirty a ln ⟨w, .clean, .evict⟩) s = .next
        (((s.setCopy a ln none).toWb a ln (if c.st = .m then mergePartial c.data w else c.data)).homeWriteback a ln false)) ∧
    ((s.coh.msgs.find? fun y => (y.kind == .wbAck || y.kind == .noticeAck) && y.dest == a.val && y.line == ln) = some m → ∀ v : State, v = s.unpost m →
      (m.kind = .noticeAck → exec (.wbAck a ln) s =
        .next (({ v with coh := { v.coh with notices := v.coh.notices.filter fun y => y != (a.val, ln) } } : State).releaseFwds a ln).goOn) ∧
      (m.kind = .wbAck → ((s.coh.msgs ++ s.coh.heldFwds).any fun y => isFwd y.kind && y.dest == a.val && y.line == ln) = false → exec (.wbAck a ln) s =
        .next (({ v with coh := { v.coh with wb := v.coh.wb.filter fun y => !(y.1 == a.val && y.2.1 == ln) } } : State).releaseFwds a ln).goOn)) ∧
    (s.copyOf a ln = some c → c.st = .e → c.stale = false → s.agentDead a = false → ∀ s1 s2 : State,
      s1 = s.setCopy a ln (some { c with st := .m, data := mergePartial c.data w, age := 0 }) →
      s2 = { s1 with coh := { s1.coh with notices := s1.coh.notices ++ [(a.val, ln)] } } →
      exec (.dirtyNotice a ln w) s = .next ((s2.setDir ln (noticed (s2.dirOf ln) a
        ((s1.coh.msgs ++ s1.coh.heldFwds).any fun y => y.kind == .fwdShared && y.dest == a.val && y.line == ln))).post ⟨.noticeAck, a, a, ln, [], .s, .demand⟩)) ∧
    (s.agentDead a = false → s.grantDue a ln = false → s.heldData a ln ⟨[]⟩ = none →
      (s.coh.msgs.find? fun y => isFwd y.kind && y.dest == a.val && y.line == ln) = some m →
      exec (.notHeld a ln e) s = .next (if m.kind = .fwdRecall then (s.unpost m).endRecall ln else (s.unpost m).serve m a e).goOn)

/-- R264, R365: Heartbeats. -/
def Obligations.HeartbeatsAct : Prop :=
  ∀ (s : State) (d : DieName) (h : HeartbeatMsg),
    (s.dieLive d = true → (∀ m, d = .pd m → (s.irq.sliceOf m).dieOff = false) → exec (.heartbeatSend d) s =
      .next { s with coh := { s.coh with sent := s.coh.sent ++ [⟨d, (dieAgents d).filter fun b => s.agentLive b, false⟩] } }) ∧
    (s.dieLive h.die = true → ∀ s1 : State, s1 = ({ s with coh := { s.coh with sent := s.coh.sent.erase h } } : State).heard h.die →
      (h.parked = true → exec (.heartbeat h) s =
        .next { s1 with coh := { s1.coh with parked := (s1.coh.parked.filter fun y => y != h.die) ++ [h.die] } }) ∧
      (h.parked = false → ∀ (s2 : State) (missing : List Nat), s2 = { s1 with coh := { s1.coh with parked := s1.coh.parked.filter fun y => y != h.die } } →
        missing = ((dieAgents h.die).filter fun a => !h.live.contains a && !s2.agentDead a) →
        exec (.heartbeat h) s = .next ((missing.foldl (fun (t : State) a => (t.declareDead a false).fenceAgent a 0x0A) s2).goOn))) ∧
    (s.dieLive d = true → s.coh.parked.contains d = false → ∀ s1 s2 : State,
      s1 = (match s.coh.beats.find? fun b => b.1 == d with
        | some b => { s with now := max s.now (b.2 + 1000000) }
        | none => s) → s2 = (dieAgents d).foldl (fun t b => t.declareDead b false) s1 →
      exec (.heartbeatLoss d) s = .next (State.goOn (match d with
        | .cs n => s2.heartbeatCause.2.fenceDie n 0x0A s2.heartbeatCause.1 s2.now (s2.spanOfDie n)
        | .pd m => s2.heartbeatCause.2.fencePd m 0x0A s2.heartbeatCause.1))) ∧
    (s.dieLive d = false ∨ s.coh.parked.contains d = true → exec (.heartbeatLoss d) s = .next s) ∧
    (s.dieLive h.die = false → exec (.heartbeat h) s = .next s)

/-- R264 to R266: dead agents. -/
def Obligations.DeadAgentsAreReclaimed : Prop :=
  ∀ (s : State) (a : Fin 2048) (fatal : Bool) (hm : Fin 8) (x : DeadAgent),
    (agentExists s.dev.variant a = true → agentCaching a = true → s.agentDead a = false →
      exec (.declare a fatal) s = .next ((s.declareDead a fatal).fenceAgent a 0x0A).goOn ∧ (s.declareDead a fatal).agentDead a = true) ∧
    ((s.coh.dead.find? fun y => y.agent == a.val) = some x → hm.val ∉ x.swept → ∀ s1 : State,
      s1 = (((s.coh.dir.map Prod.fst).filter fun l => homeOf (l * 128) == some hm.val).foldl (fun (u : State) l => u.reclaimLine l a) s).goOn →
      exec (.reclaimSweep hm a) s = .next { s1 with coh := { s1.coh with dead := s1.coh.dead.map fun y =>
        if y.agent = a.val then { y with swept := y.swept ++ [hm.val], doneAt := if y.swept.length = 7 then s.now else y.doneAt } else y } }) ∧
    ((s.coh.dead.find? fun y => y.agent == a.val) = some x →
      (x.reported = false → 8 ≤ x.swept.length → exec (.reclaimReport a) s = .next (({ s with coh := { s.coh with
        dead := s.coh.dead.map fun y => if y.agent = a.val then { y with reported := true } else y } } : State).postFq (BitVec.ofNat 512 (reclaimReport x)))) ∧
      (x.reported = true ∨ x.swept.length < 8 → exec (.reclaimReport a) s = .next s))

/-- R343 to R351, R354, R355, R359: what a granted page takes from the host. -/
def Obligations.HostAccessesAct : Prop :=
  ∀ (s : State) (c : Fin 4096) (off n : Nat) (d : List Byte) (x : Ctx), x = s.ctx c →
    (s.hostMay c = true → off + d.length ≤ 0x8000 →
      exec (.ingressQueueWrite c off d) s = .next ((s.ingressWrite c true 129 off d).advanceHost c) ∧
      exec (.ingressDataWrite c off d) s = .next ((s.ingressWrite c false 129 off d).advanceHost c)) ∧
    (s.hostMay c = false → exec (.ingressQueueWrite c off d) s = .next (s.discardWrite c) ∧
      exec (.ingressDataWrite c off d) s = .next (s.discardWrite c) ∧ exec (.egressAck c off d) s = .next (s.discardWrite c) ∧
      exec (.egressRegistration c off d) s = .next (s.discardWrite c)) ∧
    (granted x = true → x.st ≠ .free → x.st ≠ .killed → s.host.detached = false → d.length = 16 → bitsOf (leNat d) 64 16 = x.host.epoch.toNat →
      ∀ q dt : W32, q = BitVec.ofNat 32 (bitsOf (leNat d) 0 32) → dt = BitVec.ofNat 32 (bitsOf (leNat d) 32 32) →
      (hostBellBad x q dt = true → exec (.hostDoorbell c 0 d) s = .next ((s.ungate (.pcie 0)).haltRecord c 0x0106 q.toNat)) ∧
      (hostBellBad x q dt = false → exec (.hostDoorbell c 0 d) s = .next ((s.updCtx c fun y => { y with
        cnt := { y.cnt with queueProducer := q },
        host := { y.host with accQueue := q, accData := dt, bells := y.host.bells ++ [⟨q, dt, s.now⟩] } }).advanceHost c))) ∧
    (s.hostMay c = true → d.length = 8 → x.host.egressAcked ≤ leNat d → leNat d ≤ x.host.egressWritten →
      exec (.egressAck c 16 d) s = .next ((s.ungate (.pcie 0)).updHost c fun h => { h with
        egressAcked := leNat d, batches := h.batches.filter fun b => decide (leNat d < b.seq) })) ∧
    (s.hostMay c = true → 24 ≤ off → off ≤ 58 → 58 < off + d.length →
      ∀ v, v = (mergeBytes x.host.regStage (off - 32) (d.drop (32 - off))).toNat → bitAt v 208 = true → bitsOf v 192 16 = x.host.epoch.toNat →
      badReg v (holdLog2 x) = false → x.host.reg = none →
      exec (.egressRegistration c off d) s = .next
        ((sortBy (fun (a b : Batch) => decide (a.seq < b.seq)) (x.host.batches.filter fun b => b.st == .unconfirmed)).foldl
          (fun t b => (t.emitBatch c (stagedReg v) b).countBatch (stagedReg v))
          (((s.ungate (.pcie 0)).updHost c fun h => { h with regStage := BitVec.ofNat 256 (setBits v 208 1 0) }).updHost c fun h => { h with reg := some (stagedReg v) }))) ∧
    (Answers (.windowARead (.a c) off n) s fun t => t.host.readsA = s.host.readsA + 1 ∧
      t.out.reads = (c * 65536 + off, List.replicate n (if granted x then 0xFF else 0)) :: s.out.reads ∧ t.mem = s.mem) ∧
    exec (.windowARead (.b c) off n) s = .next ((s.ungate (.pcie 0)).answer (c * 4096 + off) (leBytes (if granted x then s.statusPage c / 2 ^ (8 * off) else 0) n)) ∧
    exec (.windowARead .bar4 off n) s = .next ((s.ungate (.pcie 0)).answer off
      ((List.range n).map fun i => BitVec.ofNat 8 (bitsOf (s.bar4Word ((off + i) / 4)) (8 * ((off + i) % 4)) 8)))

/-- R352, R353, R356, R357: the events of PE0. -/
def Obligations.HostEventsAct : Prop :=
  ∀ (s : State) (c : Fin 4096) (v : Fin 2048) (off : Fin 65536) (w : BitVec 32) (x : Ctx), x = s.ctx c →
    (∀ (b : Batch) (r : EgressReg) (s1 : State), nextBatch x.host = some b → x.host.reg = some r → s.host.detached = false → batchMay x.host r b = true →
      (x.flights.any fun f => f.opIndex == b.opIndex && f.st == .egress b.seq) = true → s.holdBatch c b = (s1, none) →
      exec (.egressBatchIssue c) s = .next (((s1.emitBatch c r b).countBatch r).setFlight c b.opIndex (.done (endWith 0 0)))) ∧
    (∀ (b : Bell) (r : List Bell), x.host.bells = b :: r →
      (x.host.noticed = false → exec (.ingressIncomplete c) s =
        .next (((s.advance (b.since + 100000)).updHost c fun h => { h with noticed := true }).postNotice c 0x0C03 (firstMissing x.host))) ∧
      (ingressDeadlineUs x ≠ 0xFFFFFFFF → exec (.ingressExpired c) s =
        .next (((s.advance (b.since + 1000 * ingressDeadlineUs x)).updCtx c fallBack).haltRecord c 0x0802 (firstMissing x.host)))) ∧
    (∀ e, (s.host.fenceReads.find? fun e => e.1 == c.val) = some e → exec (.egressReadTimeout c) s = .next (s.advance (e.2 + 50000000)).detach) ∧
    (∀ cause : DetachCause, Answers (.hostDetach cause) s fun t => t = { s.detach with host := { s.detach.host with linkUp := t.host.linkUp } } ∧
      (cause = .dlDown → t.host.linkUp = false) ∧ (cause ≠ .dlDown → t.host.linkUp = s.detach.host.linkUp)) ∧
    (∀ t us, (s.msix v).since = some t → s.coalUsOf v = some us → exec (.msixCoalesceTimeout v) s = .next ((s.advance (t + 1000 * us)).sendVector v)) ∧
    (∀ y z : Msix, y = s.msix v → off.val / 16 = v.val → Answers (.msixMaskWrite off w) s fun t => z = t.msix v →
      (off.val / 4 % 4 = 3 → z = { y with masked := bitAt w.toNat 0, pend := y.pend && bitAt w.toNat 0 } ∧
        t.out.msix = if y.pend && !bitAt w.toNat 0 then (v.val, y.addr, y.data) :: s.out.msix else s.out.msix) ∧
      (off.val / 4 % 4 ≠ 3 → z = { y with addr := z.addr, data := z.data } ∧ t.bar4Word (off.val / 4) = w.toNat ∧ t.out.msix = s.out.msix) ∧
      t.mem = s.mem ∧ t.ctxs = s.ctxs) ∧
    (2048 ≤ off.val / 16 → exec (.msixMaskWrite off w) s = .next s)

/-- R343, R346, R357: what a detached host, or one without the grant, cannot change. -/
def Obligations.DetachedHostChangesNothing : Prop :=
  ∀ (s t : State) (c : Fin 4096) (off : Nat) (d : List Byte), s.hostMay c = false →
    ∀ i ∈ [Instr.ingressQueueWrite c off d, .ingressDataWrite c off d, .egressAck c off d, .egressRegistration c off d], exec i s = .next t →
      t.mem = s.mem ∧ t.parts = s.parts ∧ t.out = s.out ∧ t.irq.cfg = s.irq.cfg ∧
        ∀ c' : Nat, (t.ctx c').cnt = (s.ctx c').cnt ∧ (t.ctx c').st = (s.ctx c').st ∧ (t.ctx c').host.accQueue = (s.ctx c').host.accQueue ∧
          (t.ctx c').host.queueReady = (s.ctx c').host.queueReady ∧ (t.ctx c').host.egressAcked = (s.ctx c').host.egressAcked

/-- R305 to R311, R502: flits, training and the loss of a port. -/
def Obligations.LinkCommandsAct : Prop :=
  ∀ (s : State) (port : Fin 16) (f : Flit) (r : PortTraining) (x : LinkPort), x = s.port port →
    (x.state = 2 ∨ x.state = 3 → s.portMode port = 1 → ∀ (s1 : State) (y : LinkPort), s1 = s.countSymbols port f.corrected → y = s1.port port →
      (flitOk f = false → exec (.flitReceive port f) s =
        .next ((s1.setPort port { y with flitsFailed := satInc 32 y.flitsFailed, nak := true }).answerFlit port)) ∧
      (flitOk f = true → flitIdle f y.expect = true → exec (.flitReceive port f) s =
        .next ((s1.takeAck port f).pumpPort port ((s1.takeAck port f).port port).queue.length)) ∧
      (flitOk f = true → flitIdle f y.expect = false → f.seq ≠ y.expect → exec (.flitReceive port f) s =
        .next ((s1.setPort port { y with nak := true }).answerFlit port)) ∧
      (flitOk f = true → flitIdle f y.expect = false → f.seq = y.expect → exec (.flitReceive port f) s =
        .next ((((s1.setPort port ({ y with expect := y.expect + 1, nak := false }.assemble f.data)).countEv (16 + port / 8) 0x201 (port % 8) none 1).takeAck
          port f).answerFlit port))) ∧
    (x.state = 2 ∨ x.state = 3 → x.retry ≠ [] → ∀ s1 : State, s1 = s.advance (x.ackAt + 20000) →
      exec (.retryTimeout port) s = .next (s1.resendFlits port) ∧ (8 ≤ x.resends → exec (.retryTimeout port) s = .next (s1.portDown port))) ∧
    (x.state ≠ 0 → x.state ≠ 4 → exec (.portDown port) s = .next
      ((s.setPort port { x.cleared with trained := false, moveLane := none }).toPortState port 4)) ∧
    (x.state = 1 →
      (r.rateOk = false → exec (.portTrainingDone port r) s = .next (s.toPortState port 4)) ∧
      (r.rateOk = true → trainedSpare r.lanes = none → exec (.portTrainingDone port r) s =
        .next ((s.setPort port { x with laneOk := r.lanes }).toPortState port 4)) ∧
      (r.rateOk = true → ∀ (sp : Nat) (z : LinkPort), trainedSpare r.lanes = some sp →
        z = { x with laneOk := r.lanes, spareLane := sp, partnerId := r.partnerId.toNat } → exec (.portTrainingDone port r) s = .next
          (s.setPort port (if s.portMode port = 1 ∧ (s.fabricId = 0xFFFFF ∨ r.partnerId.toNat = 0xFFFFF) then z
            else { ({ z with txNext := 0 } : LinkPort).cleared with trained := true, expect := 0 })))) ∧
    (x.state = 4 → s.portMode port ≠ 0 → exec (.partnerSignalReturn port) s = .next (s.startTraining port))

/-- R312, R314, R315, R317 to R319, R504: packets. -/
def Obligations.PacketCommandsAct : Prop :=
  ∀ (s s1 : State) (port : Fin 17) (cls : Bool) (level : Fin 4) (vc : Nat) (pk : Packet),
    (vc = 4 * b2n cls + level.val → s.nextIn port vc = some pk → ∀ t, t = s.takeIn port vc pk →
      (pk.type = 0 ∨ 7 < pk.type ∨ s.fabricId = 0xFFFFF →
        Answers (.packetForward port cls level) s fun u => u.fabric.drops = s.fabric.drops + 1 ∧ u.out = t.out ∧ u.mem = s.mem) ∧
      (1 ≤ pk.type → pk.type ≤ 7 → s.fabricId ≠ 0xFFFFF → pk.destId.toNat = s.fabricId → exec (.packetForward port cls level) s = .next (t.deliver pk)) ∧
      (1 ≤ pk.type → pk.type ≤ 7 → s.fabricId ≠ 0xFFFFF → pk.destId.toNat ≠ s.fabricId →
        (s.routePort pk.destId.toNat (choiceOf pk) = none →
          Answers (.packetForward port cls level) s fun u => u.fabric.drops = s.fabric.drops + 1 ∧ u.out = t.out ∧ u.mem = s.mem) ∧
        (∀ p, s.routePort pk.destId.toNat (choiceOf pk) = some p →
          ((s.port p).mayLeave (s.raised pk) = true → (∀ y ∈ (s.port p).queue, packetVc y ≠ packetVc (s.raised pk)) →
            exec (.packetForward port cls level) s = .next (t.launchPacket p (s.raised pk))) ∧
          ((s.port p).mayLeave (s.raised pk) = false ∨ (∃ y ∈ (s.port p).queue, packetVc y = packetVc (s.raised pk)) → exec (.packetForward port cls level) s = .next s)))) ∧
    (pk.type = 1 → s.receive pk = (s1, true) →
      (s1.jobMember pk.destContext pk.srcId.toNat = false → Answers (.remoteWrite pk) s fun t => t.fabric.refused = s1.fabric.refused + 1 ∧ t.mem = s1.mem) ∧
      (s1.jobMember pk.destContext pk.srcId.toNat = true → ∀ old b : RemoteBurst,
        old = (s1.fabric.remote.find? fun y => y.src == pk.srcId.toNat && y.num == bitsOf pk.aux.toNat 0 28).getD
                ⟨pk.srcId.toNat, bitsOf pk.aux.toNat 0 28, pk.destContext, pk.srcContext, (partOf pk.aux.toNat).2, [], pk.e2eSeq⟩ →
        b = { old with parts := old.parts ++ [((partOf pk.aux.toNat).1, pk.addr.toNat, pk.payload)], seq := pk.e2eSeq } →
        ∀ s2 : State, s2 = { s1.dropRemote b with fabric := { s1.fabric with remote := (s1.dropRemote b).fabric.remote ++ [b] } } →
          exec (.remoteWrite pk) s = .next (if b.parts.length = b.total then s2.commitRemote b else s2))) ∧
    (pk.type = 2 → pk.crcOk = true → pk.destId.toNat = s.fabricId → ∀ t : State,
      t = ({ s with fabric := { s.fabric with unacked := s.fabric.unacked.filter fun u => !(u.dest == pk.srcId.toNat && u.seq == pk.aux) } }).serveWaiting →
      (pk.payload = [] → exec (.deliveryAck pk) s = .next t) ∧
      (pk.payload ≠ [] → exec (.deliveryAck pk) s = .next (t.burstAcked (payloadNat pk 0 4) (payloadNat pk 4 1)))) ∧
    (∀ (dest : Nat) (seq : BitVec 32) (u : Unacked), (s.fabric.unacked.find? fun y => y.dest == dest && y.seq == seq) = some u →
      (3 ≤ u.resends → exec (.e2eResendTimeout dest seq) s = .next ((s.advance (u.sentAt + 200000)).unreachable u)) ∧
      (u.resends < 3 → Answers (.e2eResendTimeout dest seq) s fun t => ∃ s2 : State,
        s2 = { s.advance (u.sentAt + 200000) with fabric := { s.fabric with unacked := s2.fabric.unacked } } ∧
          t = (s2.countEv 16 0x205 0 (some u.packet.srcContext.val) 1).route u.packet (choiceOf u.packet + u.resends + 1) ∧
            ∀ y ∈ s.fabric.unacked, y.dest = dest → y.seq = seq → ∃ z ∈ s2.fabric.unacked, z.packet = y.packet ∧ z.resends = y.resends + 1))

/-- R323, R329 to R331, R335, R336, R338 to R340: collectives, the parade and device time. -/
def Obligations.FabricCommandsAct : Prop :=
  ∀ (s s1 : State) (pk : Packet) (c : Fin 4096),
    (pk.type = 3 → s.receive pk = (s1, true) → exec (.collectiveData pk) s = .next (s1.collReceive pk)) ∧
    (pk.type = 5 → pk.crcOk = true → pk.destId.toNat = s.fabricId → exec (.lossNotice pk) s = .next (s.collReceive pk)) ∧
    (pk.type = 4 → pk.crcOk = true → pk.destId.toNat = s.fabricId →
      (∀ r, s.run (collKey pk).1 = some r → r.comm = (collKey pk).2.1 → r.seq = (collKey pk).2.2 →
        exec (.paceBeacon pk) s = .next (s.collPacket (collKey pk).1 r pk)) ∧
      (s.run (collKey pk).1 = none → (s.ctx (collKey pk).1).st ≠ .free → pkArrived pk = true →
        tabGet 0 (s.ctx (collKey pk).1).collSeq (collKey pk).2.1 < (collKey pk).2.2 → exec (.paceBeacon pk) s = .next (s.answerBeacon pk))) ∧
    (∀ r, s.run c = some r →
      exec (.beaconTimer c) s = .next ((r.partners.filter fun j => !r.joined.contains j).foldl
        (fun t j => t.sendRank c r 4 j 0 []) (s.advance (r.arrivedAt + (s.now - r.arrivedAt) / 1000000 * 1000000 + 1000000))) ∧
      (∀ rank f, s.runDesc c r = some f → r.awaits f.desc rank = true → exec (.peerTimeout c rank) s = .next
        ((s.advance ((if tabGet 0 r.heard rank = 0 then r.arrivedAt else tabGet 0 r.heard rank - 1) + 1000 * s.effNat 0x8022 1)).losePeer c
          (memberId (r.members.getD rank 0))))) ∧
    (pk.type = 6 → s.receive pk = (s1, true) → payloadNat pk 0 4 = s1.planNat 576 607 → s1.fabric.parade.state ≠ 0 → s1.fabric.parade.state ≠ 4 →
      payloadNat pk 4 4 < s1.fabric.parade.total → exec (.paradeRequest pk) s = .next
        ({ s1 with fabric := { s1.fabric with parade := { s1.fabric.parade with
          served := s1.fabric.parade.served ++ [(pk.srcId.toNat, payloadNat pk 4 4)] } } } : State).serveWaiting) ∧
    (pk.type = 7 → s.receive pk = (s1, true) → payloadNat pk 0 4 = s1.planNat 576 607 → s1.fabric.parade.state = 1 ∨ s1.fabric.parade.state = 2 →
      payloadNat pk 4 4 = s1.fabric.parade.chunks → pk.srcId.toNat = s1.paradeParent →
      ∀ (n q : Nat) (s2 s3 : State) (ps : List Nat), n = chunkLen (s1.planNat 384 447) (payloadNat pk 4 4) →
      q = payloadNat pk 8 4 → s2 = s1.wrHome (s1.planNat 448 511 + 2 ^ 20 * payloadNat pk 4 4 + q) ((pk.payload.drop 12).take (n - q)) →
      ps = insNat (q / paradePart) s1.fabric.parade.pieces →
      (ps.length < (n + paradePart - 1) / paradePart → exec (.paradeData pk) s = .next (s2.setParade { s1.fabric.parade with pieces := ps })) ∧
      (s3 = (s2.setParade { s1.fabric.parade with chunks := s1.fabric.parade.chunks + 1, pieces := [], lastAt := s1.now }).serveWaiting →
        (n + paradePart - 1) / paradePart ≤ ps.length → exec (.paradeData pk) s = .next
          (if s1.fabric.parade.chunks + 1 = s1.fabric.parade.total then s3.verifyParade else s3.requestChunk))) ∧
    (s.fabric.parade.state = 1 → exec .paradeParentTimeout s = .next ((s.advance (s.fabric.parade.lastAt + 10000000)).turnTo 2 s.fabric.parade.chunks
      { s.fabric.parade with silent := some s.paradeParent })) ∧
    (s.fabric.parade.state = 2 → exec .paradeParentTimeout s = .next ((s.advance (s.fabric.parade.lastAt + 10000000)).setParade
      { s.fabric.parade with silent := some s.paradeParent, state := 4 })) ∧
    (∀ (port : Fin 16) (f : TimeFlit) (s2 s3 : State), s.portLive port = true → s2 = s.timeFlits port → s3 = s2.setPort port { s2.port port with timeRx := s.now } →
      (∀ tx, (s.port port).timeTx = some tx → s2 = (List.range ((s.now - tx) / 1000000)).foldl (fun (u : State) i => u.emitTimeFlit port (tx + 1000000 * (i + 1))) s) ∧
      (s.effNat 0x8010 1 ≠ 2 ∨ s.effNat 0x8010 2 ≠ port.val → exec (.timeFlit port f) s = .next s3) ∧
      (s.effNat 0x8010 1 = 2 → s.effNat 0x8010 2 = port.val → ∀ tx rx, (s.port port).timeTx = some tx → f.lastRx = some rx →
        exec (.timeFlit port f) s = .next (s3.followTime ((((rx : Int) - tx) + ((f.sentAt : Int) - s.now)) / 2)))) ∧
    (s.effNat 0x8010 1 = 1 →
      (∀ seq origin, exec (.ptpMessage (.sync seq (some origin))) s = .next (s.askDelay seq s.now origin)) ∧
      (∀ origin, s.fabric.ptp.origin = none → exec (.ptpMessage (.followUp s.fabric.ptp.seq origin)) s =
        .next (s.askDelay s.fabric.ptp.seq s.fabric.ptp.syncRx origin)) ∧
      (∀ at_ o q, s.fabric.ptp.origin = some o → s.fabric.ptp.asked = some q → exec (.ptpMessage (.delayResp s.fabric.ptp.seq at_)) s =
        .next (({ s with fabric := { s.fabric with ptp := { s.fabric.ptp with asked := none } } } : State).followTime
          ((((o : Int) - s.fabric.ptp.syncRx) + ((at_ : Int) - q)) / 2)))) ∧
    (s.fabric.sourceLost = false → s.effNat 0x8010 1 ≠ 0 → ∀ t : State, t = { s with fabric := { s.fabric with timeLocked := false, sourceLost := true, slew := 0 } } →
      exec .timeSourceLost s = .next ((if s.fabric.timeLocked then t.raise 7958 else t).postEvent 0x0C06 0xFF (s.effNat 0x8010 1) none)) ∧
    (s.fabric.sourceLost = true ∨ s.effNat 0x8010 1 = 0 → exec .timeSourceLost s = .next s) ∧
    (∀ off : Int, (s.followTime off).now = if (s.dev.state = .booting ∨ s.asReady = true) ∧ 0 ≤ off then s.now + off.toNat else s.now)

/-- R306, R477, R478: RDMA. -/
def Obligations.RdmaCommandsAct : Prop :=
  ∀ (s s1 s2 : State) (port : Fin 16) (qp : Fin 1024) (key e : Nat) (x : QueuePair), key = qpOf port qp → x = s.qp key → x.waiting = [] →
    (s.wqeReady key = true → s.qpAccess key accRead (s.wqeAt key) 64 = (s1, none) →
      e = leNat (s1.rdVAt (qpAgent key) x.owner (s1.wqeAt key) 64) →
      (∀ i ∈ [(Instr.send port qp, 1), (.rdmaWrite port qp, 2)], wqeOp e = i.2 → wqeLen e ≤ 2 ^ 31 →
        s1.qpAccess key accRead (wqeLocal e) (wqeLen e) = (s2, none) → exec i.1 s = .next ((s2.consumeWqe key x.sqConsumer.toNat e true).sendRoce
          key i.2 (wqeRemote e) (wqeKey e) (wqeLen e) (s2.rdVAt (qpAgent key) (s1.qp key).owner (wqeLocal e) (wqeLen e)))) ∧
      (wqeOp e = 3 → wqeLen e ≤ 2 ^ 31 → exec (.rdmaRead port qp) s = .next ((s1.consumeWqe key x.sqConsumer.toNat e true).sendRoce
        key 3 (wqeRemote e) (wqeKey e) (wqeLen e) [])) ∧
      (∀ i ∈ [(Instr.send port qp, 1), (.rdmaWrite port qp, 2), (.rdmaRead port qp, 3)], wqeOp e = i.2 → 2 ^ 31 < wqeLen e →
        exec i.1 s = .next (s1.failWqe key x.sqConsumer.toNat e))) ∧
    (s.etherUp port = true → x.state = 2 ∨ x.state = 3 → ∀ q : RdmaInbound, q.marked = false →
      (seqPlace x.expect q.psn = .taken → exec (.inboundRdma port qp q) s = .next (s.roceAnswer key 0x10 q.psn.toNat [])) ∧
      (seqPlace x.expect q.psn = .ahead → exec (.inboundRdma port qp q) s = .next (s.roceAnswer key 0x13 q.psn.toNat [])) ∧
      (seqPlace x.expect q.psn = .next → s1 = s.setQp key { x with expect := some (q.psn + BitVec.ofNat 24 (inboundParts q.req)) } →
        (∀ (a n : Nat) (k : BitVec 32) (d : List Byte), q.req = .write a k d ∨ q.req = .read a k n → k.toNat ≠ bitsOf x.word1.toNat 0 32 →
          exec (.inboundRdma port qp q) s = .next (s1.roceAnswer key 0x12 q.psn.toNat [])) ∧
        (∀ (a : Nat) (k : BitVec 32) (d : List Byte), q.req = .write a k d → k.toNat = bitsOf x.word1.toNat 0 32 →
          s1.qpAccess key accWrite a d.length = (s2, none) →
          exec (.inboundRdma port qp q) s = .next ((s2.wrVAt (qpAgent key) x.owner a d).roceAnswer key 0x10 q.psn.toNat [])) ∧
        (∀ (a n : Nat) (k : BitVec 32), q.req = .read a k n → k.toNat = bitsOf x.word1.toNat 0 32 → s1.qpAccess key accRead a n = (s2, none) →
          exec (.inboundRdma port qp q) s = .next (s2.roceAnswer key 0x11 q.psn.toNat (s2.rdVAt (qpAgent key) x.owner a n))) ∧
        (∀ d : List Byte, q.req = .send d → exec (.inboundRdma port qp q) s = .next (s1.receiveSend key q d)))) ∧
    (∀ (ix : Nat) (w : BitVec 512) (r : List (Nat × BitVec 512)), x.flying = (ix, w) :: r →
      (wqeOp w.toNat ≠ 3 → exec (.rdmaResponse port qp .ack) s = .next (s.endOldest key ix w.toNat r 0)) ∧
      (∀ d, wqeOp w.toNat = 3 → d.length = wqeLen w.toNat → exec (.rdmaResponse port qp (.readData d)) s =
        .next ((s.setQp key { x with flying := r }).landRead key ix w.toNat d)) ∧
      exec (.rdmaResponse port qp .remoteError) s = .next (s.endOldest key ix w.toNat r 2) ∧
      exec (.rdmaResponse port qp .retryExceeded) s = .next (s.endOldest key ix w.toNat r 3))

/-- R64, R70, R73, R114, R121, R136, R142, R143, R159, R160, R204, R328: the computing operations at the taking. -/
def Obligations.ComputingOperationsRun : Prop :=
  ∀ (s s2 sT s3 s4 : State) (p : Fin 8) (c ix : Nat) (d : Descriptor),
    (∀ e ∈ ([(.matmul, 1), (.batchedMatmul, 2), (.raggedMatmul, 3)] : List ((Fin 8 → Instr) × Nat)), Taken s p e.2 c ix d s2 →
      (headerCheck d (prodFields e.2)).orElse (prodBadField d) = none →
      (e.2 = 3 → Prepared s2 c [(accRead, fld d 1632 1695, 8 * fld d 1696 1708)] sT ∧
        rangesOk (pM d) (sT.seqEntries c (fld d 1632 1695) (fld d 1696 1708)) = true) → (e.2 ≠ 3 → sT = s2) →
      mismatch (pAFmt d) (pBFmt d) = none → sT.pinFails c d (prodSig d) = false →
      PreparedOp sT c (prodExtents (sT.ctx c) d (sT.prodJobs c d)) s3 →
      ∀ r, r = (s3.useSig c d (prodSig d) (prodBlocks d (sT.prodJobs c d))).prodWrite c d (sT.prodJobs c d) → exec (e.1 p) s = .next (landed r.1 c ix d r.2)) ∧
    (Taken s p 0x04 c ix d s2 → (headerCheck d attnFields).orElse (attnBadField d) = none →
      Prepared s2 c [(accRead, fld d 704 767, 16 * fld d 768 780)] s3 →
      rangesOk (2 ^ 33) ((s3.attnSeqs c d).map fun q => (q.qOff, q.qLen)) = true →
      mismatch (tQFmt d) (fld d 792 799) = none → s3.pinFails c d (attnSig d) = false →
      PreparedOp s3 c ((s3.attnSeqs c d).flatMap (attnExtents d)) s4 →
      ∀ r, r = (s4.useSig c d (attnSig d) (attnBlocks d)).attnWrite c d (s3.attnSeqs c d) → exec (.attention p) s = .next (landed r.1 c ix d r.2)) ∧
    (Taken s p 0x09 c ix d s2 → (headerCheck d convFields).orElse (convBadField d) = none → PreparedOp s2 c (convExtents (s2.ctx c) d) s3 →
      exec (.convert p) s = .next (landed (s3.convWrite c d).1 c ix d (s3.convWrite c d).2)) ∧
    (Taken s p 0x08 c ix d s2 → (headerCheck d updFields).orElse (updBadField d) = none → ((uMaster d == cFp64) = (pol (s2.ctx c) 0 0 == 1)) →
      PreparedOp s2 c (updReads (s2.ctx c) d) s3 → ∀ l, l = (s3.updElems c d).flatMap id →
      (polPeriod (s2.ctx c) = 0 → PreparedOp s3 c (updWrites d) s4 → ∀ w, w = s4.updWrite c d (s3.updElems c d) →
        exec (.update p) s = .next (landed w.1 c ix d (.computed (w.2.result 0) { afterTally (s2.ctx c) w.2 with
          gradNonfinite := l.countP UpdElem.nonfinite, ratioHigh := false, update := some (false, swOf l, sdwOf l), events := [] }))) ∧
      (polPeriod (s2.ctx c) ≠ 0 → pol (s2.ctx c) 24 24 = 1 → l.countP UpdElem.nonfinite ≠ 0 →
        Answers (.update p) s fun t => t.mem = s3.mem ∧ t.coh = s3.coh ∧ t.out = s3.out)) ∧
    (Taken s p 0x0A c ix d s2 → (headerCheck d (elemFields d)).orElse (elemBadField d) = none →
      Prepared s2 c [(accCode, fld d 128 191, 8 * fld d 192 207)] s3 → codeOk (fld d 216 223) true (s3.readCode c d) = true →
      PreparedOp s3 c (elemExtents d) s4 → ∀ r, r = s4.startLaunch ⟨c, ix, d, s3.readCode c d, 0, (eRows d * eCols d + 63) / 64, true, [], []⟩ →
      exec (.elementwise p) s = .next (landed r.1 c ix d r.2)) ∧
    (Taken s p 0x0B c ix d s2 → (headerCheck d kernelFields).orElse (kernelBadField d) = none →
      Prepared s2 c [(accCode, fld d 128 191, 8 * fld d 192 207)] s3 → codeOk (fld d 208 215) false (s3.readCode c d) = true →
      (fld d 256 319 = 0 → s4 = s3) → (fld d 256 319 ≠ 0 → Prepared s3 c [(accRead, fld d 256 319, 128)] s4) →
      ∀ r, r = s4.startLaunch ⟨c, ix, d, s3.readCode c d, 0, fld d 320 351 * fld d 352 367 * fld d 368 383, false,
        if fld d 256 319 = 0 then List.replicate 16 0 else (List.range 16).map fun i => BitVec.ofNat 64 (s4.rdVNat c (fld d 256 319 + 8 * i) 8), []⟩ →
      exec (.kernel p) s = .next (landed r.1 c ix d r.2)) ∧
    (Taken s p 0x0C c ix d s2 → ∀ k n, k = s2.partOfCtx c → n = (if fld d 192 196 = 0 then 32 else fld d 192 196) →
      (headerCheck d streamFields).orElse (streamBadField d (s2.stacks k).length) = none → Prepared s2 c [(accCode, fld d 128 191, 8 * n)] s3 →
      ∀ ws, ws = ((List.range n).map fun i => BitVec.ofNat 64 (s3.rdVNat c (fld d 128 191 + 8 * i) 8)) → progOk (streamEps d) ws = true →
      ((streamEps d).any (fun e => epKind e == 3) && !s2.jobComplete c) = false →
      exec (.stream p) s = .next (if s3.streamsBusy k then landed s3 c ix d .streamWait
        else landed (s3.startStream c ix k d ws).1 c ix d (s3.startStream c ix k d ws).2)) ∧
    (Taken s p 0x10 c ix d s2 → (headerCheck d collFields).orElse (collBadField d) = none →
      PreparedOp s2 c [(accRead, fld d 256 319, 8 * kRanks d)] s3 →
      ∀ ms n, ms = ((List.range (kRanks d)).map fun i => BitVec.ofNat 64 (s3.rdVNat c (fld d 256 319 + 8 * i) 8)) →
      n = rowBytes (kFmt d) (sendCount d (kRank d)) → membersBad s3 c d ms = false → s3.jobComplete c = true →
      PreparedBy s3 hub0Agent c ((if n = 0 then [] else [(accRead, kSend d, n)]) ++ [(accWrite, kRecv d, rowBytes (kFmt d) (recvCount d))]) s4 →
      ∃ st, exec (.collective p) s = .next (landed (s4.arriveColl c ix d ms) c ix d st)) ∧
    (Taken s p 0x28 c ix d s2 → (s2.ctx c).atBoundary = true → (headerCheck d [(128, 191), (192, 255)]).orElse (badField [badAddr d 128 64,
        (polPeriod (s2.ctx c) == 0 || decide (fld d 192 255 < imageBytes (s2.ctx c)), 192)]) = none →
      PreparedOp s2 c [(accRead, slotAddr (s2.ctx c) 0, 8192 * polPeriod (s2.ctx c)), (accWrite, fld d 128 191, imageBytes (s2.ctx c))] s3 →
      ∀ slots, slots = s3.rdV c (slotAddr (s2.ctx c) 0) (8192 * polPeriod (s2.ctx c)) →
      exec (.almanacSave p) s = .next (landed (s3.wrV c (fld d 128 191) (imageHeader s3 c slots ++ slots)) c ix d (.done (endWith 0 0)))) ∧
    (Taken s p 0x29 c ix d s2 → (s2.ctx c).atBoundary = true → (headerCheck d [(128, 191), (192, 255)]).orElse (badField [badAddr d 128 64]) = none →
      ∀ x, x = s2.ctx c → polPeriod x ≠ 0 → fld d 192 255 = imageBytes x → Prepared s2 c [(accRead, fld d 128 191, imageBytes x)] s3 →
      ∀ img, img = s3.rdV c (fld d 128 191) (imageBytes x) → Prepared s3 c [(accWrite, polAddr x, regionBytes (polPeriod x))] s4 →
      exec (.almanacLoad p) s = .next (if imageOk x img then landed ((s4.wrVAll c ((polAddr x, List.replicate 4 0) ::
          (polAddr x + 64, List.replicate 2048 0) :: (List.range (polPeriod x)).map fun j =>
            (slotAddr x (loadedSlot x (leNat ((img.drop 8).take 4)) j), (img.drop (512 + 8192 * j)).take 8192))).updCtx c
          fun y => { y with cnt := { y.cnt with almEvents := 0 } }) c ix d (.done (endWith 0 0))
        else landed s3 c ix d (.done (endWith 0x0410 6))))

/-- R295, R296, R298: retry, decline and the writing of fault records. -/
def Obligations.FaultAnswersAct : Prop :=
  ∀ (s : State) (ix : BitVec 32),
    (s.pendingAt ix.toNat = none → ∀ t : State, t = { s with fq := { s.fq with resumesIgnored := min (2 ^ 32 - 1) (s.fq.resumesIgnored + 1) } } →
      exec (.faultRetry ix) s = .next t ∧ exec (.faultDecline ix) s = .next t) ∧
    (∀ p, s.pendingAt ix.toNat = some p →
      ∀ s1 : State, s1 = { s with fq := { s.fq with pending := s.fq.pending.filter fun q => q.ix != ix.toNat } } →
      ∀ s2 : State, s2 = s1.uncache p.ctx (p.page * 65536) (p.page * 65536 + 65536) →
      exec (.faultRetry ix) s = .next (p.waiters.foldl (fun (t : State) w => t.retryWaiter p.ix w) s2) ∧
      exec (.faultDecline ix) s = .next ((s.declineOrder p.waiters).foldl (fun (t : State) w => t.declineWaiter p w) s1) ∧
      (∀ (c op : Nat) (f : Flight) (l : List Nat), p.waiters = [.op c op] → ((s.ctx c).flights.find? fun f => f.opIndex == op) = some f →
        f.st = .stalled l → Answers (.faultDecline ix) s fun t =>
          (t.ctx c).flights = (s.ctx c).flights.map (fun g => if g.opIndex = op then { g with st := .done (endWith 0x0201 p.ix) } else g) ∧ t.mem = s.mem) ∧
      (∀ g x, p.waiters = [.group g] → s.group g = some x →
        exec (.faultRetry ix) s = .next ((s2.setGroup g (some { x with stalled := x.stalled.filter fun i => i != p.ix })).refreshBlock x.blk))) ∧
    (s.fq.ring.base = 0 ∨ s.fq.ring.cap ≤ s.fq.ring.used → exec .faultRecordWrite s = .next s) ∧
    (∀ r ea, s.fq.waiting = [r] → s.fq.ring.base ≠ 0 → s.fq.ring.used < s.fq.ring.cap →
      ea = s.fq.ring.base + 64 * (s.fq.ring.producer.toNat % s.fq.ring.cap) → s.unreadable ea = none →
      ∀ s1 s2 : State, s1 = s.wrBytes ea (leBytes r.toNat 64) →
        s2 = ({ s1 with fq := { s1.fq with ring := { s.fq.ring with producer := s.fq.ring.producer + 1 } } } : State).raise 7936 →
        exec .faultRecordWrite s = .next { s2 with fq := { s2.fq with waiting := [] } })

/-- R465, R466, R475 to R477, R480, R481: the register space. -/
def Obligations.RegisterAccessesAct : Prop :=
  (∀ (s : State) (r : RegAccess) (mb : Fin 16) (lb : Fin 64) (v : BitVec 64) (port : Fin 2) (a : ConfigAcc), s.powered = false →
    exec (.registerWrite r) s = .next s ∧ exec (.mailboxGo mb v) s = .next s ∧ exec (.qpStateWrite lb v) s = .next s ∧
    exec (.configAccess port a) s = .next s) ∧
  ∀ (s : State) (r : RegAccess) (mb : Fin 16) (lb : Fin 64) (v : BitVec 64) (port : Fin 2) (a : ConfigAcc),
    s.powered = true →
    (r.other = none → ¬(0x10000000 ≤ r.offset ∧ r.offset < 0x30000000) →
      (r.size = 8 → r.offset % 8 = 0 →
        (r.isRead = false → exec (.registerWrite r) s = .next (s.regWrite r.offset r.value) ∧
          (∀ b : W32, r.offset = 0x2000018 → b = r.value.setWidth 32 → w32Diff b s.fq.ring.consumer ≤ s.fq.ring.used →
            exec (.registerWrite r) s = .next ({ s with fq := { s.fq with ring := { s.fq.ring with consumer := b } } } : State).tryFq)) ∧
        (r.isRead = true → claimOf r.offset = none →
          exec (.registerWrite r) s = .next ((s.regRead r.offset).1.answer r.offset (leBytes (s.regRead r.offset).2 8)) ∧
          (r.offset = 0x2000028 → exec (.registerWrite r) s = .next (s.answer r.offset (leBytes (satTo 32 s.fq.resumesIgnored) 8))) ∧
          (r.offset = 0x2000030 → exec (.registerWrite r) s = .next (s.answer r.offset (leBytes (satTo 32 s.fq.accessErrors) 8))) ∧
          (∀ k : Fin 8, r.offset = 0x2010000 + 64 * k → s.partExists k = true → exec (.registerWrite r) s =
            .next (s.answer r.offset (leBytes (phaseCode (s.part k).phase + (s.part k).running.getD 0 * 2 ^ 16) 8)))) ∧
        (∀ k lv, r.isRead = true → claimOf r.offset = some (k, lv) → exec (.registerWrite r) s = .next (s.claimRead k lv))) ∧
      (r.size ≠ 8 ∨ r.offset % 8 ≠ 0 → ∀ t : State, t = { s with fq := { s.fq with accessErrors := min (2 ^ 32 - 1) (s.fq.accessErrors + 1) } } →
        exec (.registerWrite r) s = .next (if r.isRead then t.answer r.offset (List.replicate r.size 0) else t))) ∧
    (∀ agent, r.other = some agent → exec (.registerWrite r) s =
      .next (s.refuse agent ((0xF00000000000 + r.offset) / 128) (if r.isRead then accRead else accWrite) 4 .demand)) ∧
    ((s.mail mb).busy = true →
      exec (.mailboxGo mb v) s = .next (s.setMail mb { s.mail mb with ignored := min (2 ^ 16 - 1) ((s.mail mb).ignored + 1) })) ∧
    (bitAt v.toNat 0 = true → (s.mail mb).busy = false → 1 ≤ (s.mail mb).asked.op.toNat → (s.mail mb).asked.op.toNat ≤ 4 →
      (s.mail mb).asked.flags.getLsbD 0 = false →
      exec (.mailboxGo mb v) s = .next ((s.setMail mb { s.mail mb with
        goWord := BitVec.ofNat 64 (keepBits v.toNat [(16, 13), (31, 1)]), done := false, busy := true }).runMail mb (s.mail mb).asked)) ∧
    (bitAt v.toNat 0 = false → (s.mail mb).busy = false →
      exec (.mailboxGo mb v) s = .next (s.setMail mb { s.mail mb with goWord := BitVec.ofNat 64 (keepBits v.toNat [(16, 13), (31, 1)]) })) ∧
    (s.portMode (s.qpKey lb / 1024) = 2 → ∀ x, x = s.qp (s.qpKey lb) →
      (qpStep x.state (bitsOf v.toNat 0 3) = false ∨ x.fieldsKept v.toNat = false → exec (.qpStateWrite lb v) s = .next s.regError) ∧
      (qpStep x.state (bitsOf v.toNat 0 3) = true → x.fieldsKept v.toNat = true → bitsOf v.toNat 0 3 ≠ 4 → exec (.qpStateWrite lb v) s = .next (s.setQp (s.qpKey lb) (x.withState v.toNat))) ∧
      (x.state ≠ 4 → x.fieldsKept v.toNat = true → bitsOf v.toNat 0 3 = 4 → exec (.qpStateWrite lb v) s = .next ((s.setQp (s.qpKey lb) { x with
        word0 := BitVec.ofNat 64 (setBits x.word0.toNat 0 3 4) }).flushQp (s.qpKey lb)))) ∧
    (a.wf = true → ∀ off, off = 0x10000000 * (port + 1) + a.offset →
      (s.pe1On port = true → a.offset < 4096 →
        (a.isWrite = true → exec (.configAccess port a) s = .next { s with pe1 := s.pe1.set port { s.pe1Port port with
          config := tabPutList 0 (s.pe1Port port).config a.offset (leBytes a.value.toNat a.size) } }) ∧
        (a.isWrite = false → exec (.configAccess port a) s = .next (s.answer off ((s.pe1Port port).configBytes a.offset a.size)))) ∧
      (s.pe1On port = true → 4096 ≤ a.offset → ∀ t, t = s.ungate (.pcie 1) →
        (a.isWrite = true → (s.pe1Port port).linkUp = true →
          exec (.configAccess port a) s = .next { t with out := { t.out with io := (off, leBytes a.value.toNat a.size) :: t.out.io } }) ∧
        (a.isWrite = true → (s.pe1Port port).linkUp = false → exec (.configAccess port a) s = .next t) ∧
        (∀ y, a.isWrite = false → a.response = some y → (s.pe1Port port).linkUp = true →
          exec (.configAccess port a) s = .next (t.answer off (leBytes y.toNat a.size))) ∧
        (a.isWrite = false → a.response = none ∨ (s.pe1Port port).linkUp = false →
          exec (.configAccess port a) s = .next (t.answer off (List.replicate a.size 0xFF)))) ∧
      (s.pe1On port = false → exec (.configAccess port a) s = .next (if a.isWrite then s else s.answer off (List.replicate a.size 0xFF)))) ∧
    (r.other = none → 0x10000000 ≤ r.offset → r.offset < 0x30000000 → s.pe1Mode (r.offset / 0x10000000 - 1) = 0 →
      r.size = 1 ∨ r.size = 2 ∨ r.size = 4 → r.offset % r.size = 0 → exec (.registerWrite r) s =
        .next (if r.isRead then ({ s with freeIx := s.freeIx + 1 } : State).answer r.offset (List.replicate r.size 0xFF) else s))

/-- R275, R277, R279, R281, R282, R421, R422, R464: stacked DRAM. -/
def Obligations.DramEventsAct : Prop :=
  ∀ (s : State) (temps : List (Nat × Nat)) (d : Fin 16) (lines : List Nat) (r : List (Fin 16 × List LaneEye)) (ln row k : Nat) (e : Ecc),
    (s.dev.state ≠ .off → (∀ x ∈ temps.take 16, x.1 < 1050 ∧ x.2 < 1050) → ∀ h, h = (temps.take 16).map (fun x => max x.1 x.2) →
      exec (.dramTempReading temps) s =
        .next ((({ s with dram := { s.dram with temps := h } } : State).dramSteps h).comparePairs 20 (temps.take 16))) ∧
    (∀ c, (s.dram.copying.find? fun e => e.1 == d.val) = some (d.val, c) →
      ∀ s1 s2 : State, s1 = ((lines ++ s.bad).eraseDups.filter fun ln => lineOfPc d c ln).foldl (fun (t : State) ln => (t.loseLine ln).lineReport ln 1) s → s2 = s1.setPc d c 2 →
      exec (.pseudoChannelCopyEnd d lines) s = .next { s2 with dram := { s2.dram with copying := s2.dram.copying.filter fun x => x.1 != d.val } }) ∧
    (∀ done left, done = (r.filter fun e => bitAt (s.effNat 0x9040 1) e.1) → done ≠ [] → (∀ e ∈ s.ctxs, e.2.st ≠ .runnable) →
      left = (List.range 16).foldl (fun m j => if bitAt (s.effNat 0x9040 1) j && !(done.any fun e => e.1.val == j) then m + 2 ^ j else m) 0 →
      exec (.marginingDone r) s = .next ((done.foldl (fun (t : State) e => t.marginStack e.1 e.2) s).putEntry 0x9040 1 (leBytes left 2))) ∧
    (s.dram.retraining.contains d.val = true → ∀ s1 : State, s1 = { s with dram := { s.dram with retraining := s.dram.retraining.filter fun x => x != d.val } } →
      exec (.dramRetrainDone d true) s = .next s1.goOn ∧ exec (.dramRetrainDone d false) s = .next (s1.fenceStack d).goOn) ∧
    (s.backed (ln * 128) = true → (s.dirOf ln).st ≠ .l →
      (e = .uncorrectable ∨ s.bad.contains ln = true → exec (.scrubRead (.memory row) ln e) s = .next (s.loseStored ln).goOn) ∧
      (s.bad.contains ln = false → exec (.scrubRead (.memory row) ln .clean) s = .next s) ∧
      (∀ m, s.bad.contains ln = false → regionOf (ln * 128) = .dram m → exec (.scrubRead (.memory row) ln .corrected) s =
        .next (s.noteCorrected m (s.storePc m ln) (rowOf ln))) ∧
      (∀ m, s.bad.contains ln = false → regionOf (ln * 128) = .near m → exec (.scrubRead (.memory row) ln .corrected) s = .next (s.noteEcc ln .corrected))) ∧
    (tabGet 0 s.integ.levels k = 0 → exec (.bucketLeak k) s = .next s) ∧
    (tabGet 0 s.integ.levels k ≠ 0 → Answers (.bucketLeak k) s fun t => tabGet 0 t.integ.levels k = tabGet 0 s.integ.levels k - 1 ∧
      (∀ j, j ≠ k → tabGet 0 t.integ.levels j = tabGet 0 s.integ.levels j) ∧
      s.now ≤ t.now ∧ tabGet 0 s.integ.leakFrom k + s.leakPeriod (k / 2 ^ 48) ≤ t.now ∧ t.mem = s.mem)

/-- R382, R385 to R387, R389, R390: guests and endpoints. -/
def Obligations.GuestCommandsAct : Prop :=
  ∀ (s s1 : State) (g port : Fin 2) (q : BusRequest) (r : BringupResult) (id : BitVec 16) (d : List Byte) (a n w pa : Nat) (x : GuestSt), x = s.guest g →
    (x.state = 5 → (∀ cause, s.violation g q = some cause → exec (.guestRequest g q) s = .next (s.cutGuest g cause (busAddr q))) ∧
      (s.violation g q = none → ((s.windows (0x4210 + g)).find? fun w => winHolds w (busAddr q) (busLen q)) = some w →
        exec (.guestRequest g q) s = .next ((s.takeTokens g (busLen q)).busPerform (1160 + g) g q (winPa w + (busAddr q - winBase w))))) ∧
    (q = .read a n → 0 < n → a / 128 = (a + n - 1) / 128 → ((s.windows (0x4210 + g)).find? fun w => winHolds w a n) = some w → bitAt w 1 = true →
      s.violation g q = none) ∧
    (q = .read a n → (s.busWake g).checkPa accRead a pa n = (s1, none) → s.busPerform (1160 + g) g q pa = s1.busReply g (some (s1.rdBytes pa n))) ∧
    (q = .write a d → (s.busWake g).checkPa accWrite a pa d.length = (s1, none) → s.busPerform (1160 + g) g q pa = s1.wrBytes pa d) ∧
    (x.state = 2 → exec (.guestBringupStep g r) s = .next { s with guests := s.guests.set g { x with state := if r.ok then 3 else 7 } }) ∧
    (x.state = 3 → r.ok = true → r.signed = true → s.accNat 0x4205 (g + 1) ≠ 0 → r.rootDigest.toNat = s.accNat 0x4205 (g + 1) →
      exec (.guestBringupStep g r) s = .next { s with guests := s.guests.set g { x with
        state := 4, barBase := r.barBase, barBytes := r.barBytes, measurements := r.measurements } }) ∧
    (x.state = 3 → r.ok = false ∨ r.signed = false ∨ s.accNat 0x4205 (g + 1) = 0 ∨ r.rootDigest.toNat ≠ s.accNat 0x4205 (g + 1) →
      exec (.guestBringupStep g r) s = .next { s with guests := s.guests.set g { x with state := 7 } }) ∧
    (s.rootPort port = true → busAddr q / 4096 ≠ messagePage / 4096 → busBad q = false →
      ((s.windows (0x4310 + port)).find? fun w => winHolds w (busAddr q) (busLen q)) = some w →
      (busAllowed q w = true → exec (.pe1DmaRequest port id q) s = .next (s.busPerform 1153 (2 + port) q (winPa w + (busAddr q - winBase w)))) ∧
      (busAllowed q w = false → Answers (.pe1DmaRequest port id q) s fun t => t.mem = s.mem ∧ t.out.replies = (2 + port.val, none) :: s.out.replies)) ∧
    (s.rootPort port = true → d.length = 4 → exec (.pe1MessageWrite port d) s = .next ((s.ungate (.pcie 1)).raise (leNat d % 2 ^ 13))) ∧
    (s.pe1Mode port = 1 → exec (.cxlLinkDrop port) s = .next { s with pe1 := s.pe1.set port { s.pe1Port port with linkUp := false } })

/-- R398, R401, R402, R404 to R406, R408, R414, R508: power and heat. -/
def Obligations.PowerEventsAct : Prop :=
  ∀ (s : State) (temps : List (Nat × Nat)) (t avg : Nat) (a : CapAverages) (r : TripReading) (e : EnergyShares) (u : GateUnit) (failed : List Nat),
    (s.dev.state ≠ .off → (∀ x ∈ temps.take 20, x.1 < 1150 ∧ x.2 < 1150) → ∀ h, h = (temps.take 20).map (fun x => max x.1 x.2) →
      exec (.stackTempReading temps) s =
        .next ((({ s with power := { s.power with dieTemps := h } } : State).stackSteps h).comparePairs 8 ((temps.drop 8).take 8))) ∧
    (s.power.graceUntil = some t → exec .graceEnd s = .next { s with now := max s.now t, power := { s.power with graceUntil := none } }) ∧
    (s.dev.state ≠ .off → 5000 < avg ∨ (s.power.graceUntil = none ∧ ∃ w, s.capCheck a = some w ∧ 11 * s.accNat 0x2100 3 < 10 * w) → exec (.powerBrake avg a) s = .next { s with
      parts := s.parts.mapIdx fun k p => if s.partExists k then { p with clockMHz := 400, braked := true } else p
      power := { s.power with brakedDies := [true, hasPd1 s.dev.variant], procClock := [800, 800], idleClock := List.replicate 8 400 } }) ∧
    (avg ≤ 5000 → s.power.graceUntil ≠ none ∨ (∀ w, s.capCheck a = some w → 10 * w ≤ 11 * s.accNat 0x2100 3) → exec (.powerBrake avg a) s = .next s) ∧
    ((∀ p ∈ s.parts, p.duty = false) → s.capCheck a = some a.last10ms) ∧
    (∀ x from_, x ∈ s.parts → x.duty = true → s.power.firstIdle = some from_ →
      s.capCheck a = some (if 1000000000 < s.now - from_ then a.last1000ms else a.sinceIdle)) ∧
    (r.cause.val ≠ 0 → s.dev.state ≠ .off → ¬(r.cause.val = 3 ∧ s.dev.state = .standby) → Answers (.hardwareTrip r) s fun t =>
      t.dev.state = .fault ∧ t.power.tripLow = true ∧ t.power.lastTrip = tripRecord r.cause r.die r.reading s.now ∧ t.ctxs = [] ∧
        (∀ a, keptCell a = false → tabGet memDefault t.mem a = 0) ∧ t.integ = s.integ) ∧
    (r.cause.val = 3 → s.dev.state = .standby → Answers (.hardwareTrip r) s fun t => t.dev.state = .off) ∧
    (∀ own sum, own = s.ownShares e → sum = own.foldl (fun a x => a + x.2) 0 → (e.shares.map Prod.snd).sum ≤ e.totalMj →
      Answers (.energyAttribution e) s fun t => t.power.energyMj = s.power.energyMj + e.totalMj ∧
        t.power.unattributedMj = s.power.unattributedMj + (e.totalMj - sum) ∧ t.mem = s.mem ∧
        (∀ c : Nat, (s.ctx c).st ≠ .free →
          (t.ctx c).cnt.energyMj = (s.ctx c).cnt.energyMj + (own.filter fun x => x.1 == c).foldl (fun a x => a + x.2) 0)) ∧
    (s.gateable u = true → s.power.gated.contains u = false →
      exec (.unitPowerGate u) s = .next { s with power := { s.power with gated := s.power.gated ++ [u] } }) ∧
    (s.power.gated.contains u = true → ∀ s1 : State, s1 = { s with power := { s.power with gated := s.power.gated.filter fun x => x != u } } →
      ((∀ p, u ≠ .tile p) → (∀ n, u ≠ .stack n) → exec (.unitWake u failed) s = .next (match u with
        | .streamUnit v => s1.wakeUnit v
        | _ => s1)) ∧
      (∀ l woken, ((∃ p, u = .tile p ∧ l = s.stacks p) ∨ ∃ n, u = .stack n ∧ l = [n.val]) →
          woken = ((l.filter fun n => !(s.integ.computeFenced.getD n false)).flatMap fun n =>
          (s.integ.tiles.getD n [] ++ if s.integ.spare.getD n false then [8] else []).map fun x => 16 * n + x) →
        exec (.unitWake u failed) s = .next ((woken.filter failed.contains).foldl (fun (v : State) x => v.fenceTile (x / 16) (x % 16) 0x01 0x01)
          ((woken.filter fun x => !failed.contains x).foldl (fun (v : State) x => v.tilePassed (x / 16) (x % 16)) s1))))

/-- R242, R411, R413, R415 to R417, R487, R521: containment. -/
def Obligations.IntegrityEventsAct : Prop :=
  ∀ (s : State) (cs : Fin 8) (w : Nat) (r : SentinelResult) (ts : List Nat) (shadow checker : Nat) (u : State),
    ts = s.integ.tiles.getD cs [] → shadow = ts.getD (w % ts.length) 0 → u = (s.advance (8000000 * w + 1000000)).endShadow cs w →
    checker = (if s.integ.spare.getD cs false then 8 else ts.getD ((w + ts.length / 2) % ts.length) 0) →
    (s.integ.computeFenced.getD cs false = false → ts ≠ [] → s.now ≤ 8000000 * w + 1000000 → tabGet 0 s.integ.shadowed cs ≤ w →
    (ts.length = 1 ∨ r.idle = true → r.shadowPass = true →
      exec (.sentinelWindow cs w r) s = .next { u with integ := { u.integ with
        used := tabPut [] s.integ.used (16 * cs + shadow) [], checkedAt := tabPut 0 s.integ.checkedAt (16 * cs + shadow) u.now } }) ∧
    (ts.length = 1 ∨ r.idle = true → r.shadowPass = false → exec (.sentinelWindow cs w r) s = .next (u.fenceTile cs shadow 0x01 0x01)) ∧
    (ts.length ≠ 1 → r.idle = false → r.match_ = true → exec (.sentinelWindow cs w r) s = .next { u with integ := { u.integ with
        used := tabPut [] s.integ.used (16 * cs + shadow) [], checkedAt := tabPut 0 s.integ.checkedAt (16 * cs + shadow) u.now } }) ∧
    (ts.length ≠ 1 → r.idle = false → r.match_ = false →
      (r.shadowPass = true → r.checkerPass = false → exec (.sentinelWindow cs w r) s = .next ((u.tilePassed cs shadow).fenceTile cs checker 0x01 0x01)) ∧
      (r.shadowPass = false → r.checkerPass = true → exec (.sentinelWindow cs w r) s = .next ((u.tilePassed cs checker).fenceTile cs shadow 0x01 0x01)) ∧
      (r.shadowPass = false → r.checkerPass = false →
        exec (.sentinelWindow cs w r) s = .next (u.fenceDie cs 0x01 0x01 u.now (u.spanOfDie cs))) ∧
      (∀ who, r.shadowPass = true → r.checkerPass = true → r.recomputeAgree = true → who = (if r.shadowDiffered then shadow else checker) →
        exec (.sentinelWindow cs w r) s = .next (((u.tilePassed cs shadow).tilePassed cs checker).countError 8 cs who
          fun t => t.fenceTile cs who 0x01 0x03)) ∧
      (r.shadowPass = true → r.checkerPass = true → r.recomputeAgree = false → exec (.sentinelWindow cs w r) s = .next
        ((((u.tilePassed cs shadow).tilePassed cs checker).countError 8 cs checker fun t => t.fenceTile cs checker 0x01 0x03).fenceTile cs shadow 0x01 0x04)))) ∧
    (s.integ.computeFenced.getD cs false = true ∨ ts = [] ∨ 8000000 * w + 1000000 < s.now ∨ w < tabGet 0 s.integ.shadowed cs →
      exec (.sentinelWindow cs w r) s = .next s) ∧
    (s.dev.state ≠ .off → ∀ n : Fin 8, Answers (.lockstepMismatch [.lockstep (.home n)]) s fun t => t.dev.state = .fault ∧ t.dev.alertLow = true ∧ t.host.linkUp = false) ∧
    (s.dev.state ≠ .off → ∀ h : Fin 2, Answers (.lockstepMismatch [.lockstep (.hubSwitch h)]) s fun t => t.dev.state = .fault ∧ t.dev.alertLow = true ∧ t.host.linkUp = false) ∧
    (∀ ds : List Detection, (ds.any isTrip = true → exec (.lockstepMismatch ds) s = .next ((ds.filter isTrip).foldl (fun (t : State) x => t.detect x) s)) ∧
      (ds.any isTrip = false → exec (.lockstepMismatch ds) s = .next ((sortBy detectedBefore ds).foldl (fun (t : State) x => t.detect x) s))) ∧
    (s.integ.computeFenced.getD cs false = false → exec (.lockstepMismatch [.lockstep (.sequencer cs)]) s = .next (s.fenceDie cs 0x08 0x04 s.now (s.spanOfDie cs))) ∧
    (∀ v : Fin 128, s.fenced (v / 16) 0x0A (v % 16) = false → exec (.lockstepMismatch [.lockstep (.streamUnit v)]) s =
      .next ((s.countError 0x0A (v / 16) (v % 16) id).fenceStreamUnit v 0x08 0x04)) ∧
    (∀ tile : Fin 9, s.integ.computeFenced.getD cs false = false → ts.contains tile.val = true → exec (.lockstepMismatch [.residueTile cs tile none]) s =
      .next (s.countError 8 cs tile fun t => t.fenceTile cs tile 0x02 0x03)) ∧
    (∀ n : Fin 64, s.integ.computeFenced.getD cs false = false → s.fenced cs 0x09 n = false → ∀ v : Fin 512, v.val = 64 * cs + n →
      exec (.lockstepMismatch [.residueThreadUnit v false]) s = .next (s.countError 0x09 cs n fun t => t.fenceThreadUnit v 0x03 0x03) ∧
      exec (.lockstepMismatch [.residueThreadUnit v true]) s = .next (s.fenceThreadUnit v 0x03 0x04)) ∧
    (∀ h : Fin 2, exec (.lockstepMismatch [.residueCollective h true]) s = .next (s.packageFault 0x03 0 (16 + h) 0)) ∧
    (∀ tile : Fin 9, exec (.lockstepMismatch [.parityWeight cs tile]) s = .next s) ∧
    (∀ d : Fin 36, exec (.transactionWatchdog d) s = .next (s.packageFault 0x09 0 d 0)) ∧
    (s.dev.state ≠ .off → s.dev.aoUp = true → ∀ s1 : State, s1 = { s with dev := { s.dev with clocks := s.dev.clocks.set 0 false } } →
      exec (.clockMonitorFault .link0) s = .next (s1.packageFault 0x0B 0 16 0)) ∧
    (∀ (b : Fin 28) (i : Fin 8) (v : Nat), 2 ^ 48 ≤ v → blockPresent s.dev.variant b = true → (20 ≤ b.val → s.partExists (b.val - 20) = true) → bitAt (s.eventSel b i) 22 = true →
      bitAt (s.eventSel b i) 23 = false → exec (.counterWrap b i v) s = .next (s.setCtrBlock b { s.ctrBlock b with
        cnt := (s.ctrBlock b).cnt.set i (v % 2 ^ 48), ovf := (s.ctrBlock b).ovf.set i true }))

/-- R432 to R437, R462, R498, R500: the security root. -/
def Obligations.SecurityEventsAct : Prop :=
  ∀ (s : State) (m : UleelMsg) (r : BootResult) (b signed : Bool) (slot : Fin 8) (off len ix t : Nat) (nonce : BitVec 256),
    (s.fetching = true → s.wantsFences = false → m.version = 1 → m.op = 6 → m.flags.getLsbD 0 = true → m.index.toNat = s.sec.kind →
      s.answersFetch m = true →
      (m.status ≠ 0 → exec (.fetchResponse m) s = .next s.refuseImage) ∧
      (m.status = 0 → m.offset.toNat = s.sec.bytes.length → m.length.toNat = m.data.length → m.data ≠ [] → m.data.length ≤ 1024 →
        (m.flags.getLsbD 1 = false → exec (.fetchResponse m) s = .next ({ s with sec := { s.sec with bytes := s.sec.bytes ++ m.data } } : State).sendFetch) ∧
        (m.flags.getLsbD 1 = true → exec (.fetchResponse m) s = .next (match s.checkImage s.sec.kind (s.sec.bytes ++ m.data) with
          | some x => s.acceptImage x
          | none => s.refuseImage)))) ∧
    (∀ u : State, u = s.refuseImage → u.sec.waitUntil = some (s.now + 1000000000) ∧ u.sec.bytes = [] ∧
      (s.sec.refusals < 2 → u.sec.source = s.sec.source ∧ u.sec.refusals = s.sec.refusals + 1) ∧
      (s.sec.refusals = 2 → u.sec.source = 3 - s.sec.source ∧ u.sec.refusals = 0)) ∧
    (s.fetching = true → s.wantsFences = false → Answers .fetchTimeout s fun u => u.sec.source = 3 - s.sec.source ∧ u.sec.bytes = [] ∧
      u.sec.askedAt = max s.now (s.sec.askedAt + 2000000000) ∧ u.mem = s.mem) ∧
    (s.sec.waitUntil = some t → s.dev.state = .booting → s.dev.aoUp = true →
      exec .fetchRetry s = .next ({ s with now := max s.now t, sec := { s.sec with waitUntil := none } } : State).sendFetch) ∧
    (s.fetching = true → s.wantsFences = true → m.version = 1 → m.op = 6 → m.flags.getLsbD 0 = true → m.index = 0x80 → s.answersFetch m = true → m.status = 0 → m.length.toNat = m.data.length →
      exec (.fenceRecordFetch m) s = .next (s.fencesDone (fenceEntries m.data))) ∧
    (s.dev.state = .booting → s.sec.done = true → s.integ.fences = [] → s.integ.dramDegraded = 0 → r = ⟨[], [], []⟩ →
      exec (.bootComplete r) s = .next (s.hardRepair.tilesPassed.replaceFailed.commitSvn.toDevState .ready)) ∧
    (s.fetching = true → s.answersFetch m = false → exec (.fetchResponse m) s = .next s ∧ exec (.fenceRecordFetch m) s = .next s) ∧
    (s.dev.aoUp = true → s.image 0 ≠ none →
      (∀ c ∈ ([(.getVersion, .version 0x13), (.getCapabilities, .capabilities spdmCaps),
          (.negotiateAlgorithms b, .algorithms (if b then some ⟨384, 4, Config.enterpriseNumber, 1⟩ else none))] : List (Instr × SpdmResponse)),
        exec c.1 s = .next { s with out := { s.out with spdm := some c.2 } }) ∧
      (s.sec.committed = false → ∀ c ∈ ([.getDigests, .getCertificate slot off len, .challenge slot nonce, .getMeasurements ix signed nonce] : List Instr),
        exec c s = .next { s with out := { s.out with spdm := some .busy } }) ∧
      (s.sec.committed = true → exec .getDigests s = .next { s with out := { s.out with spdm := some (.digests (sha384 certChain)) } } ∧
        (off ≤ certChain.length → ∀ d, d = (certChain.drop off).take len → exec (.getCertificate 0 off len) s =
          .next { s with out := { s.out with spdm := some (.certificate d (certChain.length - off - d.length)) } }) ∧
        (∃ sig, exec (.challenge 0 nonce) s = .next { s with out := { s.out with spdm := some (.challengeAuth sig) } }) ∧
        (1 ≤ ix → ix ≤ 9 → exec (.getMeasurements ix false nonce) s =
          .next { s with out := { s.out with spdm := some (.measurements [(ix, if ix = 1 then 0x00 else if ix ≤ 6 then 0x01 else if ix = 7 then 0x07 else if ix = 8 then 0x02 else 0x05,
            s.measurement ix)] []) } }))) ∧
    (s.dev.aoUp = false ∨ s.image 0 = none → ∀ c ∈ ([.getVersion, .getCapabilities, .negotiateAlgorithms b, .getDigests, .getCertificate slot off len,
      .challenge slot nonce, .getMeasurements ix signed nonce] : List Instr), exec c s = .next s)

/-- R2, R446, R450 to R452, R460: the dictionary's requests. -/
def Obligations.DictionaryRequestsAct : Prop :=
  ∀ (s : State) (o : Origin) (m : UleelMsg) (ix sub : Nat) (v : List Byte) (q : Fin 4) (tr : BitVec 16), s.asks m = true → ix = m.index.toNat → sub = m.sub.toNat →
    v = (s.sampled ix sub).entryValue ix sub →
    (firstCode (s.accessChecks 1 m (s.overrun o) (mayRead o ix sub)) = 0 → v.length ≤ 1024 → s.readState ix sub = true →
      exec (.read o m) s = .next (((s.sampled ix sub).readOnce ix sub).respond o (response m 0 0 false (s.entryPending ix sub) v))) ∧
    (badHeader 1 m = false → s.overrun o = true → exec (.read o m) s = .next (s.reply o (response m 0x08000031 0 false false []))) ∧
    (badHeader 1 m = false → s.overrun o = false → unknownEntry ix sub = true → exec (.read o m) s = .next (s.respond o (response m 0x08000002 0 false false []))) ∧
    (badHeader 1 m = false → s.overrun o = false → unknownEntry ix sub = false → entryAbsent s.dev.variant ix sub = true →
      exec (.read o m) s = .next (s.respond o (response m 0x08000003 0 false false []))) ∧
    (firstCode (s.accessChecks 3 m (s.overrun o) (mayRead o ix sub)) = 0 → m.offset.toNat < v.length → s.readState ix sub = true → ∀ d, d = (v.drop m.offset.toNat).take 1024 →
      exec (.readSegment o m) s = .next (((s.sampled ix sub).readOnce ix sub).respond o
        (response m 0 m.offset.toNat (decide (v.length ≤ m.offset.toNat + d.length)) (s.entryPending ix sub) d))) ∧
    (firstCode (s.writeChecks 2 o m) = 0 → wrongLength ix sub m.data = false → s.badValue ix sub m.data = false → s.wrongState ix sub = false →
      ∀ r, r = s.acceptValue o ix sub (cleanValue ix sub m.data) →
        exec (.write o m) s = .next (r.1.respond o (response m r.2.1 0 false (r.2.1 == 0 && r.1.entryPending ix sub) r.2.2))) ∧
    (s.dict.sessions = [] → firstCode (s.writeChecks 4 o m) = 0 → m.offset = 0 → m.flags.getLsbD 1 = false →
      exec (.writeSegment o m) s = .next (({ s with dict := { s.dict with
        sessions := [⟨entryKey ix sub, o, m.transaction, m.data, s.now⟩] } } : State).respond o (response m 0 0 false false []))) ∧
    (∀ x, s.dict.sessions = [x] → exec .segmentSessionTimeout s =
      .next { s with now := max s.now (x.since + 1000000000), dict := { s.dict with sessions := [] } }) ∧
    (exec (.notifyAck q tr) s = .next { s with dict := { s.dict with
      outstanding := s.dict.outstanding.filter fun n => !(n.sub == q.val && n.transaction == tr) } }) ∧
    (∀ n, (s.dict.outstanding.find? fun n => n.sub == q.val && n.transaction == tr) = some n → n.resends < 10 → ∀ now, now = max s.now (n.since + 100000000) →
      exec (.notifyResend q tr) s = .next
        { s with
          now := now
          out := { s.out with
            notifies := (q.val, n.data) :: s.out.notifies
            ibis := s.out.ibis + if bitsOf (s.effNat 0x4410 (q + 1)) 0 4 == 3 && s.effNat 0x4400 6 != 0 then 1 else 0 }
          dict := { s.dict with outstanding := (s.dict.outstanding.filter fun x => !(x.sub == q.val && x.transaction == tr)) ++
            [{ n with resends := n.resends + 1, since := now }] } })

/-- R282, R358, R384, R439, R441, R442, R458, R505: commands and single entries. -/
def Obligations.DictionaryCommandsAct : Prop :=
  ∀ (s : State) (o : Origin) (g : Fin 2) (v : BitVec 16) (d : List Byte), s.mute = false → s.dict.sessions = [] → s.overrun o = false →
    ∀ (ok : State → Nat → Nat → List Byte → State), (ok = fun t ix sub a => t.respond o (response (writeMsg ix sub a) 0 0 false false [])) →
    (o = .host → s.isUp = true → exec (.hostAttach o) s = .next (s.attach.newEpoch.2.respond o
      (response (writeMsg 0x8100 1 []) 0 0 false false (leBytes s.attach.newEpoch.1 2)))) ∧
    (o ≠ .host →
      (s.live = true → exec (.quiesce o) s = .next (ok (s.beginQuiesce o).1 0x8100 2 []) ∧ (s.beginQuiesce o).1.dev.state = .draining ∧
        (s.beginQuiesce o).1.dev.quiesceAt = s.now) ∧
      (s.live = false → exec (.quiesce o) s = .next (s.respond o (response (writeMsg 0x8100 2 []) 0x08000022 0 false false []))) ∧
      (s.dev.state = .quiesced → s.rawOpen = false → exec (.resumeDevice o) s = .next (ok (s.resumeDevice o).1 0x8100 3 []) ∧
        ((s.resumeDevice o).1.dev.state = if s.dev.degradedLater then .degraded else if s.anyActive then .running else .ready)) ∧
      (s.dev.state ≠ .off → exec (.reset o) s = .next (ok (s.resetNow o).1 0x8100 6 []) ∧ (s.resetNow o).1.dev.state = .booting ∧
        (s.resetNow o).1.ctxs = [] ∧ (s.resetNow o).1.sec.committed = false) ∧
      (s.asReady = true ∨ s.dev.state = .quiesced →
        exec (.dramMarginRequest o v) s = .next (ok (s.putEntry 0x9040 1 (leBytes v.toNat 2)) 0x9040 1 (leBytes v.toNat 2))) ∧
      (hasGuests s.dev.variant = true → s.live = true ∨ s.dev.state = .quiesced →
        ((s.guest g).state = 4 → exec (.guestAdmit o g) s =
          .next (ok { s with guests := s.guests.set g { s.guest g with control := 1 } } 0x4201 (g + 1) [1])) ∧
        (4 ≤ (s.guest g).state → exec (.guestReset o g) s =
          .next (ok { s with guests := s.guests.set g { s.guest g with control := 2 } } 0x4201 (g + 1) [2])))) ∧
    (o = .management →
      (s.dev.state = .quiesced → s.rawOpen = false → exec (.standby o) s = .next (ok (s.standbyNow o).1 0x8100 4 []) ∧
        (s.standbyNow o).1.dev.state = .standby) ∧
      (s.dev.state = .standby → exec (.powerUp o) s = .next (ok (s.powerUpNow o).1 0x8100 5 []) ∧ (s.powerUpNow o).1.dev.state = .booting) ∧
      (d.length = 192 → s.isUp = true ∨ s.dev.state = .fault →
        bitsOf (leNat d) 64 4 < 4 → tokenOk (leNat d) = true → s.sec.tokensRefused < 8 → s.sec.verifyUntil ≤ s.now →
        ∀ x : Security, x = { s.sec with nonceIx := s.sec.nonceIx + 1, verifyUntil := s.now + (s.free).1 % 2 ^ 32 } →
        exec (.debugToken o d) s = .next (if s.tokenSigned (leNat d) d then
            ok { s with freeIx := s.freeIx + 1, sec := { x with scopesDue := s.sec.scopesDue ||| BitVec.ofNat 4 (bitsOf (leNat d) 64 4) } } 0x7030 2 d
          else ({ s with freeIx := s.freeIx + 1, sec := { x with tokensRefused := min 255 (s.sec.tokensRefused + 1) } } : State).respond o
            (response (writeMsg 0x7030 2 d) 0x08000020 0 false false []))) ∧
      (d.length = 192 → s.now < s.sec.verifyUntil → exec (.debugToken o d) s = .next (s.respond o (response (writeMsg 0x7030 2 d) 0x08000022 0 false false []))))

/-- R357, R453, R464, R505, R506, R508, R516, R517, R519 to R521: the life of the package. -/
def Obligations.LifecycleEventsAct : Prop :=
  ∀ (s : State) (low : Bool) (p : Fin 8) (straps : Fin 4) (port : Fin 2) (l : PcieLink) (k : RefClock) (d : List Byte) (addr : BitVec 7),
    (∀ s1 : State, s1 = { s with dev := { s.dev with qnLow := low } } → exec (.quiesceN low) s =
      .next (if low && !s.dev.qnLow then (s1.beginQuiesce .management).1 else s1)) ∧
    (∀ c, s.dev.state = .draining → s.quietPart p = false → (s.part p).running = some c →
      ∀ s1 s2 : State, s1 = s.advance (s.dev.quiesceAt + 1000000 * s.effNat 0x8063 1) → s2 = s1.killCtx c →
      (s2.part p).phase ≠ .layoutWait → exec (.quiesceDeadline p) s =
        .next (({ s2 with dev := { s2.dev with quiesceKilled := min 65535 (s2.dev.quiesceKilled + 1) } } : State).updPart p fun q =>
          { q with phase := .draining, drain := .quiesce })) ∧
    (s.dev.state = .draining → (∀ k < 8, s.quietPart k = true) → ∀ r, r = s.cleanCaches (fun a => decide (a < 1024)) →
      Answers .enterQuiesced s fun t => t.dev.state = .quiesced ∧ t.mem = r.1.mem ∧
        t.dev.quiesceReport = BitVec.ofNat 256 (quiesceReport s.dev.quiesceAt s.now s.dev.quiesceKilled r.2 (r.1.coh.dir.countP fun e => e.2.st == .l))) ∧
    (s.dev.vin = false → Answers (.vinPresent straps) s fun t => t.dev.vin = true ∧ t.dev.straps = straps ∧ t.dev.state = .booting ∧
      t.dev.aoUp = s.dev.clocks.getD 4 false ∧ t.mem = s.mem) ∧
    (s.dev.vin = true → exec (.vinPresent straps) s = .next s ∧ exec .vinAbsent s = .next s.breakCommit.goOff ∧ s.breakCommit.goOff.dev.state = .off ∧ s.breakCommit.goOff.ctxs = []) ∧
    (∀ s1 : State, s1 = { s with dev := { s.dev with clocks := s.dev.clocks.set 4 true } } →
      (s.dev.vin = true → s.dev.aoUp = false → exec .aoRef25mPresent s =
        .next ({ s1 with dev := { s1.dev with aoUp := true, resetAt := s.now } } : State).sendFetch) ∧
      (s.dev.vin = false ∨ s.dev.aoUp = true → exec .aoRef25mPresent s = .next s1)) ∧
    (∀ s1, s1 = s.detach → exec (.pe0Perst true) s = .next { s1 with host := { s1.host with perst := true, linkUp := false } }) ∧
    (exec (.pe0Perst false) s = .next { s with host := { s.host with perst := false } }) ∧
    (∀ x, x = s.pe1Port port → s.pe1Exists port = true → s.pe1Mode port ≠ 0 →
      (s.dev.clocks.getD 3 false = true → s.hubUp = true → x.perstReleased = false → exec (.pe1PerstRelease port) s =
        .next ((s.advance (x.modeSince + 100000000)).setPe1 port { x with perstReleased := true })) ∧
      (s.hubUp = true → l.generation ≤ s.effNat 0x4020 (port + 2) → s.pe1Mode port = 2 ∨ l.generation ≤ 6 → x.perstReleased = true → ∀ q : Fin 3, q.val = port + 1 →
        exec (.pcieLinkUp q l) s = .next (s.setPe1 port { x with
          linkUp := true, capacityGiB := if s.pe1Mode port = 1 then l.capacityBytes / 2 ^ 30 else 0 }))) ∧
    (s.hubUp = true → l.generation ≤ s.effNat 0x4020 1 → s.dev.clocks.getD 2 false = true → s.host.perst = false → l.width ∈ [16, 8, 4, 1] →
      exec (.pcieLinkUp 0 l) s = .next { s with host := { s.host with linkUp := true, width := l.width, generation := l.generation } }) ∧
    (k ≠ .ao25 → s.dev.aoUp = true → ∀ s1 : State, s1 = { s with dev := { s.dev with clocks := s.dev.clocks.set (clockIx k) true } } →
      exec (.refclockQualified k) s = .next (if s1.hubUp then s1.trainPorts (fun p => p / 8 == clockIx k) else s1)) ∧
    (s.dev.aoUp = true → (s.effNat 0x4400 2 = 0 → d.length = 4 → exec (.mgmtAddressLease false d) s = .next (s.putEntry 0x4400 3 d)) ∧
      (s.effNat 0x4400 2 = 0 → d.length = 16 → exec (.mgmtAddressLease true d) s = .next (s.putEntry 0x4400 4 d)) ∧
      exec (.entdaa addr) s = .next (s.putEntry 0x4400 6 (leBytes addr.toNat 1)))

/-- R443: the owner's key hash is written once; a later write aborts with WRONG_STATE; the security entries. -/
def Obligations.OwnerKeyHashIsWrittenOnce : Prop :=
  (∀ (s : State) (d : List Byte) (m : UleelMsg) (i : Instr), s.asks m = true → m.index = 0x7010 → m.sub = 1 → m.data = d → d.length = 48 →
    firstCode (s.writeChecks 2 .management m) = 0 → (i = .write .management m ∨ (i = .ownerDebugKeyHash .management d ∧ m = writeMsg 0x7010 1 d)) →
    (s.sec.ownerSet = false → s.asReady = true ∨ s.dev.state = .quiesced → Answers i s fun t => t = { s with
      sec := { s.sec with ownerHash := BitVec.ofNat 384 (leNat d), ownerSet := true }
      out := { s.out with responses := (.management, response m 0 0 false false []) :: s.out.responses }
      freeIx := t.freeIx, dict := { s.dict with unanswered := t.dict.unanswered } }) ∧
    (s.sec.ownerSet = true ∨ (s.asReady = false ∧ s.dev.state ≠ .quiesced) → Answers i s fun t => t = { s with
      out := { s.out with responses := (.management, response m 0x08000022 0 false false []) :: s.out.responses }
      freeIx := t.freeIx, dict := { s.dict with unanswered := t.dict.unanswered } })) ∧
  (∀ (s : State) (k : Fin 8) (e : Nat × Nat × Acc × Nat × List Byte), e ∈ [
      (0x7000, 1, Acc.ro, 4, leBytes (b2n s.sec.done + s.sec.kind * 2 ^ 4 + s.sec.source * 2 ^ 8 + min (2 ^ 22 - 1) s.sec.fetches * 2 ^ 10) 4),
      (0x7001, k.val + 1, .ro, 1, leBytes ((List.range 64).countP fun i => (s.sec.svn.getD k 0).getLsbD i) 1),
      (0x7001, 0x11 + k.val, .ro, 1, leBytes (match s.sec.images.getD k none with | some x => x.svn | none => 0) 1),
      (0x7002, 1, .ro, 4, leBytes (Config.keyRevokedFused ||| s.sec.keyRevoked).toNat 4),
      (0x7003, 1, .ro, 0, Config.rootCertificate ++ (Config.productCertificate ++ Config.deviceCertificate)),
      (0x7010, 1, .rws, 48, leBytes s.sec.ownerHash.toNat 48),
      (0x7030, 1, .ro, 32, leBytes (Config.nonceValue s.sec.nonceIx).toNat 32),
      (0x7030, 2, .wo, 192, List.replicate 192 0),
      (0x7030, 3, .ro, 4, leBytes s.sec.scopes.toNat 4),
      (0x7030, 4, .ro, 1, leBytes s.sec.tokensRefused 1)] →
    s.entryValue e.1 e.2.1 = e.2.2.2.2 ∧ ∃ r, findEntry e.1 e.2.1 = some r ∧ r.acc = e.2.2.1 ∧ r.size = e.2.2.2.1) ∧
  (∀ x ∈ [(0x7001, 1), (0x7001, 8), (0x7001, 0x11), (0x7001, 0x18), (0x7010, 1), (0x7030, 3), (0x7030, 4)],
    leNat (State.reset.entryValue x.1 x.2) = 0)

/-- The model's memory (R250, R499): equal memories stay equal data, whatever command is in front. -/
def Obligations.StepKeepsMemoryForm : Prop :=
  ∀ s t : State, memWf s.mem = true → step s = .next t → memWf t.mem = true

/-- R55, R369, R378, R380, R396, R433, R453, R470, R475, R499: the values that the manual gives for reset. -/
def Obligations.ResetLeaves : Prop :=
  State.reset.dev.state = .booting ∧ State.reset.pending = [] ∧ memWf State.reset.mem = true ∧
    (∀ a, tabGet memDefault State.reset.mem a = 0 ∧ State.reset.dirOf a = DirEntry.none) ∧
    (∀ c, (State.reset.ctx c).st = .free) ∧
    (∀ k < 8, (State.reset.part k).phase = .idle ∧ (State.reset.part k).running = none ∧ (State.reset.part k).clockMHz = 800) ∧
    State.reset.fq.pending = [] ∧ State.reset.fq.waiting = [] ∧ State.reset.fq.ring.base = 0 ∧ State.reset.fq.ring.producer = 0 ∧
    (∀ k, let x := tabGet CoreSt.reset State.reset.irq.cores k
      x.thrS = 0 ∧ x.thrM = 0 ∧ x.depth.eff = 0 ∧ x.mtimecmp = 0xFFFFFFFFFFFFFFFF#64 ∧ x.msip = false) ∧
    State.reset.irq.aff.getD 0 0 = 0xFFFFFFFFFFFF#128 ∧ State.reset.irq.aff.getD 32 0 = 0xFFFFFFFFFFFF000000000000#128 ∧
    (∀ n, (tabGet SrcState.idle State.reset.irq.src n).count = 0) ∧
    (∀ p < 16, (State.reset.port p).state = 0) ∧ State.reset.accNat 0x2100 3 = 4400 ∧ State.reset.effNat 0x3020 1 = 5000 ∧
    State.reset.stacks 0 = partOrder ∧ State.reset.sec.kind = 0 ∧ State.reset.sec.done = false

/-- R250, R262, R383: the pool of memory under writes at the home. -/
def Obligations.WriteAtHomeIsRead : Prop :=
  ∀ (s t : State) (pa : Nat) (d : List Byte), d ≠ [] → pa + d.length ≤ 2 ^ 52 → t = s.wrBytes pa d →
    ((∀ i < d.length, ioAddr (pa + i) = false ∧ (s.dirOf ((pa + i) / 128)).st ≠ .l ∧
        ((s.dirOf ((pa + i) / 128)).owner ≠ none → (s.lineView ((pa + i) / 128)).length = 128)) →
      t.rdBytes pa d.length = d ∧ ∀ b, b < 2 ^ 52 → b < pa ∨ pa + d.length ≤ b → t.rdByte b = s.rdByte b) ∧
    (ioAddr pa = true → t = { s with out := { s.out with io := (s.deviceAddr pa, d) :: s.out.io } }) ∧
    (∀ g : Fin 2, s.deviceAddr (0x380000000000 + g * 2 ^ 36 + pa % 2 ^ 36) = (g.val + 1) * 2 ^ 64 + (s.guest g).barBase + pa % 2 ^ 36)
end

