-- ==== Sys2Proof/Laws/Table.lean ====
section
/-! SUPPORT. What sparse tables and little-endian bytes do: a key reads back what was put there, no other key changes, and the canonical form is
kept. -/

namespace Sys2Proof.Machine

variable {α : Type}

@[simp] theorem tabGet_nil (d : α) (a : Nat) : tabGet d [] a = d := rfl

theorem tabGet_cons (d : α) (k : Nat) (v : α) (r : Tab α) (a : Nat) : tabGet d ((k, v) :: r) a = if a = k then v else tabGet d r a := rfl

/-- A key that a table lists nowhere reads as the default. -/
theorem tabGet_of_not_mem (d : α) (t : Tab α) (a : Nat) (h : ∀ e ∈ t, e.1 ≠ a) : tabGet d t a = d := by
  induction t with
  | nil => rfl
  | cons e r ih =>
    obtain ⟨k, v⟩ := e
    rw [tabGet_cons, if_neg (fun hk => h (k, v) (by simp) hk.symm)]
    exact ih fun e he => h e (by simp [he])

/-- Filtering by a condition on keys reads as the default at the keys that go, and as before at the others. -/
theorem tabGet_filter (d : α) (t : Tab α) (p : Nat → Bool) (a : Nat) :
    tabGet d (t.filter fun e => p e.1) a = if p a then tabGet d t a else d := by
  induction t with
  | nil => simp
  | cons e r ih =>
    obtain ⟨k, v⟩ := e
    by_cases hk : p k <;> simp only [List.filter_cons, hk, if_true, if_false, tabGet_cons, ih, Bool.false_eq_true]
    · split
      · simp_all
      · rfl
    · by_cases h : a = k <;> simp_all

theorem tabGet_tabErase (d : α) (t : Tab α) (a b : Nat) : tabGet d (tabErase t a) b = if b = a then d else tabGet d t b := by
  unfold tabErase
  rw [tabGet_filter d t (fun k => k != a) b]
  by_cases h : b = a <;> simp [h]

/-- A put is what a read of its key finds, and no other key reads differently; the table need not be canonical. -/
theorem tabGet_tabPut [DecidableEq α] (d : α) (t : Tab α) (a : Nat) (v : α) (b : Nat) :
    tabGet d (tabPut d t a v) b = if b = a then v else tabGet d t b := by
  induction t with
  | nil => by_cases hv : v = d <;> by_cases hb : b = a <;> simp [tabPut, hv, hb, tabGet]
  | cons e r ih =>
    obtain ⟨k, w⟩ := e
    unfold tabPut
    split
    · rename_i hlt
      split
      · rename_i hv
        rw [tabGet_cons, tabGet_tabErase, tabGet_cons]
        by_cases hb : b = a
        · subst hb; rw [if_neg (by omega)]; simp [hv]
        · simp [hb]
      · rw [tabGet_cons]
    · split
      · rename_i hak
        subst hak
        split
        · rename_i hv
          rw [tabGet_tabErase, tabGet_cons]
          by_cases hb : b = a <;> simp [hb, hv]
        · rw [tabGet_cons, tabGet_cons]; by_cases hb : b = a <;> simp [hb]
      · rename_i hne
        rw [tabGet_cons, tabGet_cons, ih]
        by_cases hb : b = k
        · subst hb; simp [Ne.symm hne]
        · simp [hb]

@[simp] theorem tabGet_tabPut_same [DecidableEq α] (d : α) (t : Tab α) (a : Nat) (v : α) : tabGet d (tabPut d t a v) a = v := by
  simp [tabGet_tabPut]

theorem tabGet_tabPut_other [DecidableEq α] (d : α) (t : Tab α) (a b : Nat) (v : α) (h : b ≠ a) :
    tabGet d (tabPut d t a v) b = tabGet d t b := by simp [tabGet_tabPut, h]

/-- A list of puts reads back at its keys and leaves the others. -/
theorem tabGet_tabPutList [DecidableEq α] (d : α) (l : List α) (t : Tab α) (a b : Nat) :
    tabGet d (tabPutList d t a l) b = if h : a ≤ b ∧ b < a + l.length then l[b - a]'(by omega) else tabGet d t b := by
  induction l generalizing t a with
  | nil => rw [dif_neg (by simp)]; rfl
  | cons x xs ih =>
    unfold tabPutList
    rw [ih, tabGet_tabPut]
    simp only [List.length_cons]
    by_cases h : a + 1 ≤ b ∧ b < a + 1 + xs.length
    · rw [dif_pos h, dif_pos ⟨by omega, by omega⟩]
      obtain ⟨n, rfl⟩ : ∃ n, b = a + 1 + n := ⟨b - (a + 1), by omega⟩
      have e1 : a + 1 + n - a = n + 1 := by omega
      have e2 : a + 1 + n - (a + 1) = n := by omega
      simp only [e1, e2, List.getElem_cons_succ]
    · rw [dif_neg h]
      by_cases hb : b = a
      · subst hb; rw [if_pos rfl, dif_pos ⟨Nat.le_refl _, by omega⟩]; simp
      · rw [if_neg hb, dif_neg (by omega)]

/-- Reading a list of keys just written gives the list. -/
theorem tabGetList_tabPutList [DecidableEq α] (d : α) (l : List α) (t : Tab α) (a : Nat) : tabGetList d (tabPutList d t a l) a l.length = l := by
  have key : ∀ (n b : Nat), b + n = a + l.length → a ≤ b → tabGetList d (tabPutList d t a l) b n = l.drop (b - a) := by
    intro n
    induction n with
    | zero => intro b hb hab; rw [List.drop_eq_nil_of_le (by omega)]; rfl
    | succ n ih =>
      intro b hb hab
      have hlt : b - a < l.length := by omega
      show tabGet d (tabPutList d t a l) b :: tabGetList d (tabPutList d t a l) (b + 1) n = _
      rw [ih (b + 1) (by omega) (by omega), tabGet_tabPutList, dif_pos ⟨hab, by omega⟩, List.drop_eq_getElem_cons hlt]
      congr 2
      omega
  have := key l.length a rfl (Nat.le_refl _)
  simpa using this

theorem tabGet_tabClear (d : α) (t : Tab α) (lo hi a : Nat) : tabGet d (tabClear t lo hi) a = if lo ≤ a ∧ a < hi then d else tabGet d t a := by
  unfold tabClear
  rw [tabGet_filter d t (fun k => !(decide (lo ≤ k) && decide (k < hi))) a]
  by_cases h : lo ≤ a ∧ a < hi
  · simp [h]
  · rw [if_neg h, if_pos]; simp only [Bool.not_eq_true', Bool.and_eq_false_iff, decide_eq_false_iff_not]; omega

/-- The form holds from any lower bound below it. -/
theorem tabWfFrom_mono [DecidableEq α] (d : α) (t : Tab α) (lo lo' : Nat) (h : lo' ≤ lo) (hw : tabWfFrom d lo t = true) : tabWfFrom d lo' t = true := by
  cases t with
  | nil => rfl
  | cons e r =>
    obtain ⟨k, v⟩ := e
    simp only [tabWfFrom, Bool.and_eq_true, decide_eq_true_eq] at hw ⊢
    exact ⟨⟨by omega, hw.1.2⟩, hw.2⟩

theorem tabWfFrom_filter [DecidableEq α] (d : α) (t : Tab α) (p : Nat × α → Bool) (lo : Nat) (hw : tabWfFrom d lo t = true) :
    tabWfFrom d lo (t.filter p) = true := by
  induction t generalizing lo with
  | nil => rfl
  | cons e r ih =>
    obtain ⟨k, v⟩ := e
    simp only [tabWfFrom, Bool.and_eq_true, decide_eq_true_eq] at hw
    have h2 := ih (k + 1) hw.2
    rw [List.filter_cons]
    split
    · simp only [tabWfFrom, Bool.and_eq_true, decide_eq_true_eq]; exact ⟨hw.1, h2⟩
    · exact tabWfFrom_mono d _ (k + 1) lo (by omega) h2

theorem tabWfFrom_tabPut [DecidableEq α] (d : α) (t : Tab α) (lo a : Nat) (v : α) (ha : lo ≤ a) (hw : tabWfFrom d lo t = true) :
    tabWfFrom d lo (tabPut d t a v) = true := by
  induction t generalizing lo with
  | nil => by_cases hv : v = d <;> simp [tabPut, hv, tabWfFrom, ha]
  | cons e r ih =>
    obtain ⟨k, w⟩ := e
    simp only [tabWfFrom, Bool.and_eq_true, decide_eq_true_eq] at hw
    unfold tabPut
    split
    · rename_i hlt
      split
      · simp only [tabWfFrom, Bool.and_eq_true, decide_eq_true_eq]
        exact ⟨hw.1, tabWfFrom_filter d r _ _ hw.2⟩
      · rename_i hv
        simp only [tabWfFrom, Bool.and_eq_true, decide_eq_true_eq]
        exact ⟨⟨ha, hv⟩, ⟨by omega, hw.1.2⟩, hw.2⟩
    · split
      · rename_i hak
        subst hak
        split
        · exact tabWfFrom_mono d _ (a + 1) lo (by omega) (tabWfFrom_filter d r _ _ hw.2)
        · rename_i hv
          simp only [tabWfFrom, Bool.and_eq_true, decide_eq_true_eq]
          exact ⟨⟨ha, hv⟩, hw.2⟩
      · rename_i hlt hne
        simp only [tabWfFrom, Bool.and_eq_true, decide_eq_true_eq]
        exact ⟨hw.1, ih (k + 1) (by omega) hw.2⟩

/-- Every operation on a table keeps the canonical form. -/
theorem tabWf_tabPut [DecidableEq α] (d : α) (t : Tab α) (a : Nat) (v : α) (hw : tabWf d t = true) : tabWf d (tabPut d t a v) = true :=
  tabWfFrom_tabPut d t 0 a v (Nat.zero_le _) hw

theorem tabWf_filter [DecidableEq α] (d : α) (t : Tab α) (p : Nat × α → Bool) (hw : tabWf d t = true) : tabWf d (t.filter p) = true :=
  tabWfFrom_filter d t p 0 hw

theorem tabWf_tabPutList [DecidableEq α] (d : α) (l : List α) (t : Tab α) (a : Nat) (hw : tabWf d t = true) : tabWf d (tabPutList d t a l) = true := by
  induction l generalizing t a with
  | nil => exact hw
  | cons x xs ih => exact ih _ _ (tabWf_tabPut d t a x hw)

theorem tabWf_tabClear [DecidableEq α] (d : α) (t : Tab α) (lo hi : Nat) (hw : tabWf d t = true) : tabWf d (tabClear t lo hi) = true :=
  tabWf_filter d t _ hw

@[simp] theorem tabWf_nil [DecidableEq α] (d : α) : tabWf d ([] : Tab α) = true := rfl

/-- In canonical form the entries have different keys, and an entry is what its key reads as. -/
theorem tabWf_mem [DecidableEq α] (d : α) (t : Tab α) (lo : Nat) (hw : tabWfFrom d lo t = true) (e : Nat × α) (he : e ∈ t) :
    lo ≤ e.1 ∧ tabGet d t e.1 = e.2 := by
  induction t generalizing lo with
  | nil => cases he
  | cons x r ih =>
    obtain ⟨k, v⟩ := x
    simp only [tabWfFrom, Bool.and_eq_true, decide_eq_true_eq] at hw
    rcases List.mem_cons.mp he with rfl | hm
    · exact ⟨hw.1.1, by simp [tabGet_cons]⟩
    · have h := ih (k + 1) hw.2 hm
      refine ⟨by omega, ?_⟩
      rw [tabGet_cons, if_neg (by omega)]
      exact h.2

@[simp] theorem leBytes_length (v n : Nat) : (leBytes v n).length = n := by
  induction n generalizing v with
  | zero => rfl
  | succ n ih => simp [leBytes, ih]

/-- A number that fits comes back from its bytes. -/
theorem leNat_leBytes (v n : Nat) : leNat (leBytes v n) = v % 256 ^ n := by
  induction n generalizing v with
  | zero => simp [leBytes, leNat, Nat.mod_one]
  | succ n ih =>
    have e : v % 256 ^ (n + 1) = v % 256 + 256 * (v / 256 % 256 ^ n) := by rw [Nat.pow_succ', Nat.mod_mul]
    simp only [leBytes, leNat, ih, BitVec.toNat_ofNat, e]

/-- Bytes come back from their number. -/
theorem leBytes_leNat (l : List Byte) : leBytes (leNat l) l.length = l := by
  induction l with
  | nil => rfl
  | cons b r ih =>
    have h1 : BitVec.ofNat 8 (b.toNat + 256 * leNat r) = b := by
      apply BitVec.eq_of_toNat_eq
      rw [BitVec.toNat_ofNat]
      have := b.isLt
      omega
    have h2 : (b.toNat + 256 * leNat r) / 256 = leNat r := by
      have := b.isLt
      omega
    simp only [List.length_cons, leBytes, leNat, h1, h2, ih]

end Sys2Proof.Machine
end

