-- ==== Sys2Proof/Laws/State.lean ====
section
/-! SUPPORT. What the smallest updates of the state leave: one lemma for each field an update does not touch, and for each value it replaces, what
a read of it finds. No later proof unfolds a record update. -/

namespace Sys2Proof.Machine

open Sys2Proof

/-! The fields that `advance` leaves. -/

@[simp] theorem State.advance_pending (s : State) (t : Nat) : (s.advance t).pending = s.pending := rfl
@[simp] theorem State.advance_freeIx (s : State) (t : Nat) : (s.advance t).freeIx = s.freeIx := rfl
@[simp] theorem State.advance_dev (s : State) (t : Nat) : (s.advance t).dev = s.dev := rfl
@[simp] theorem State.advance_mem (s : State) (t : Nat) : (s.advance t).mem = s.mem := rfl
@[simp] theorem State.advance_bad (s : State) (t : Nat) : (s.advance t).bad = s.bad := rfl
@[simp] theorem State.advance_ctxs (s : State) (t : Nat) : (s.advance t).ctxs = s.ctxs := rfl
@[simp] theorem State.advance_parts (s : State) (t : Nat) : (s.advance t).parts = s.parts := rfl
@[simp] theorem State.advance_threads (s : State) (t : Nat) : (s.advance t).threads = s.threads := rfl
@[simp] theorem State.advance_streams (s : State) (t : Nat) : (s.advance t).streams = s.streams := rfl
@[simp] theorem State.advance_coh (s : State) (t : Nat) : (s.advance t).coh = s.coh := rfl
@[simp] theorem State.advance_dram (s : State) (t : Nat) : (s.advance t).dram = s.dram := rfl
@[simp] theorem State.advance_tlb (s : State) (t : Nat) : (s.advance t).tlb = s.tlb := rfl
@[simp] theorem State.advance_fq (s : State) (t : Nat) : (s.advance t).fq = s.fq := rfl
@[simp] theorem State.advance_fabric (s : State) (t : Nat) : (s.advance t).fabric = s.fabric := rfl
@[simp] theorem State.advance_host (s : State) (t : Nat) : (s.advance t).host = s.host := rfl
@[simp] theorem State.advance_irq (s : State) (t : Nat) : (s.advance t).irq = s.irq := rfl
@[simp] theorem State.advance_guests (s : State) (t : Nat) : (s.advance t).guests = s.guests := rfl
@[simp] theorem State.advance_pe1 (s : State) (t : Nat) : (s.advance t).pe1 = s.pe1 := rfl
@[simp] theorem State.advance_power (s : State) (t : Nat) : (s.advance t).power = s.power := rfl
@[simp] theorem State.advance_integ (s : State) (t : Nat) : (s.advance t).integ = s.integ := rfl
@[simp] theorem State.advance_sec (s : State) (t : Nat) : (s.advance t).sec = s.sec := rfl
@[simp] theorem State.advance_dict (s : State) (t : Nat) : (s.advance t).dict = s.dict := rfl
@[simp] theorem State.advance_banks (s : State) (t : Nat) : (s.advance t).banks = s.banks := rfl
@[simp] theorem State.advance_ctrs (s : State) (t : Nat) : (s.advance t).ctrs = s.ctrs := rfl
@[simp] theorem State.advance_asleep (s : State) (t : Nat) : (s.advance t).asleep = s.asleep := rfl
@[simp] theorem State.advance_out (s : State) (t : Nat) : (s.advance t).out = s.out := rfl

/-! The fields that `setCtx` leaves. -/

@[simp] theorem State.setCtx_pending (s : State) (c : Nat) (x : Ctx) : (s.setCtx c x).pending = s.pending := rfl
@[simp] theorem State.setCtx_now (s : State) (c : Nat) (x : Ctx) : (s.setCtx c x).now = s.now := rfl
@[simp] theorem State.setCtx_freeIx (s : State) (c : Nat) (x : Ctx) : (s.setCtx c x).freeIx = s.freeIx := rfl
@[simp] theorem State.setCtx_dev (s : State) (c : Nat) (x : Ctx) : (s.setCtx c x).dev = s.dev := rfl
@[simp] theorem State.setCtx_mem (s : State) (c : Nat) (x : Ctx) : (s.setCtx c x).mem = s.mem := rfl
@[simp] theorem State.setCtx_bad (s : State) (c : Nat) (x : Ctx) : (s.setCtx c x).bad = s.bad := rfl
@[simp] theorem State.setCtx_parts (s : State) (c : Nat) (x : Ctx) : (s.setCtx c x).parts = s.parts := rfl
@[simp] theorem State.setCtx_threads (s : State) (c : Nat) (x : Ctx) : (s.setCtx c x).threads = s.threads := rfl
@[simp] theorem State.setCtx_streams (s : State) (c : Nat) (x : Ctx) : (s.setCtx c x).streams = s.streams := rfl
@[simp] theorem State.setCtx_coh (s : State) (c : Nat) (x : Ctx) : (s.setCtx c x).coh = s.coh := rfl
@[simp] theorem State.setCtx_dram (s : State) (c : Nat) (x : Ctx) : (s.setCtx c x).dram = s.dram := rfl
@[simp] theorem State.setCtx_tlb (s : State) (c : Nat) (x : Ctx) : (s.setCtx c x).tlb = s.tlb := rfl
@[simp] theorem State.setCtx_fq (s : State) (c : Nat) (x : Ctx) : (s.setCtx c x).fq = s.fq := rfl
@[simp] theorem State.setCtx_fabric (s : State) (c : Nat) (x : Ctx) : (s.setCtx c x).fabric = s.fabric := rfl
@[simp] theorem State.setCtx_host (s : State) (c : Nat) (x : Ctx) : (s.setCtx c x).host = s.host := rfl
@[simp] theorem State.setCtx_irq (s : State) (c : Nat) (x : Ctx) : (s.setCtx c x).irq = s.irq := rfl
@[simp] theorem State.setCtx_guests (s : State) (c : Nat) (x : Ctx) : (s.setCtx c x).guests = s.guests := rfl
@[simp] theorem State.setCtx_pe1 (s : State) (c : Nat) (x : Ctx) : (s.setCtx c x).pe1 = s.pe1 := rfl
@[simp] theorem State.setCtx_power (s : State) (c : Nat) (x : Ctx) : (s.setCtx c x).power = s.power := rfl
@[simp] theorem State.setCtx_integ (s : State) (c : Nat) (x : Ctx) : (s.setCtx c x).integ = s.integ := rfl
@[simp] theorem State.setCtx_sec (s : State) (c : Nat) (x : Ctx) : (s.setCtx c x).sec = s.sec := rfl
@[simp] theorem State.setCtx_dict (s : State) (c : Nat) (x : Ctx) : (s.setCtx c x).dict = s.dict := rfl
@[simp] theorem State.setCtx_banks (s : State) (c : Nat) (x : Ctx) : (s.setCtx c x).banks = s.banks := rfl
@[simp] theorem State.setCtx_ctrs (s : State) (c : Nat) (x : Ctx) : (s.setCtx c x).ctrs = s.ctrs := rfl
@[simp] theorem State.setCtx_asleep (s : State) (c : Nat) (x : Ctx) : (s.setCtx c x).asleep = s.asleep := rfl
@[simp] theorem State.setCtx_out (s : State) (c : Nat) (x : Ctx) : (s.setCtx c x).out = s.out := rfl

/-! The fields that `updCtx` leaves. -/

@[simp] theorem State.updCtx_pending (s : State) (c : Nat) (f : Ctx → Ctx) : (s.updCtx c f).pending = s.pending := rfl
@[simp] theorem State.updCtx_now (s : State) (c : Nat) (f : Ctx → Ctx) : (s.updCtx c f).now = s.now := rfl
@[simp] theorem State.updCtx_freeIx (s : State) (c : Nat) (f : Ctx → Ctx) : (s.updCtx c f).freeIx = s.freeIx := rfl
@[simp] theorem State.updCtx_dev (s : State) (c : Nat) (f : Ctx → Ctx) : (s.updCtx c f).dev = s.dev := rfl
@[simp] theorem State.updCtx_mem (s : State) (c : Nat) (f : Ctx → Ctx) : (s.updCtx c f).mem = s.mem := rfl
@[simp] theorem State.updCtx_bad (s : State) (c : Nat) (f : Ctx → Ctx) : (s.updCtx c f).bad = s.bad := rfl
@[simp] theorem State.updCtx_parts (s : State) (c : Nat) (f : Ctx → Ctx) : (s.updCtx c f).parts = s.parts := rfl
@[simp] theorem State.updCtx_threads (s : State) (c : Nat) (f : Ctx → Ctx) : (s.updCtx c f).threads = s.threads := rfl
@[simp] theorem State.updCtx_streams (s : State) (c : Nat) (f : Ctx → Ctx) : (s.updCtx c f).streams = s.streams := rfl
@[simp] theorem State.updCtx_coh (s : State) (c : Nat) (f : Ctx → Ctx) : (s.updCtx c f).coh = s.coh := rfl
@[simp] theorem State.updCtx_dram (s : State) (c : Nat) (f : Ctx → Ctx) : (s.updCtx c f).dram = s.dram := rfl
@[simp] theorem State.updCtx_tlb (s : State) (c : Nat) (f : Ctx → Ctx) : (s.updCtx c f).tlb = s.tlb := rfl
@[simp] theorem State.updCtx_fq (s : State) (c : Nat) (f : Ctx → Ctx) : (s.updCtx c f).fq = s.fq := rfl
@[simp] theorem State.updCtx_fabric (s : State) (c : Nat) (f : Ctx → Ctx) : (s.updCtx c f).fabric = s.fabric := rfl
@[simp] theorem State.updCtx_host (s : State) (c : Nat) (f : Ctx → Ctx) : (s.updCtx c f).host = s.host := rfl
@[simp] theorem State.updCtx_irq (s : State) (c : Nat) (f : Ctx → Ctx) : (s.updCtx c f).irq = s.irq := rfl
@[simp] theorem State.updCtx_guests (s : State) (c : Nat) (f : Ctx → Ctx) : (s.updCtx c f).guests = s.guests := rfl
@[simp] theorem State.updCtx_pe1 (s : State) (c : Nat) (f : Ctx → Ctx) : (s.updCtx c f).pe1 = s.pe1 := rfl
@[simp] theorem State.updCtx_power (s : State) (c : Nat) (f : Ctx → Ctx) : (s.updCtx c f).power = s.power := rfl
@[simp] theorem State.updCtx_integ (s : State) (c : Nat) (f : Ctx → Ctx) : (s.updCtx c f).integ = s.integ := rfl
@[simp] theorem State.updCtx_sec (s : State) (c : Nat) (f : Ctx → Ctx) : (s.updCtx c f).sec = s.sec := rfl
@[simp] theorem State.updCtx_dict (s : State) (c : Nat) (f : Ctx → Ctx) : (s.updCtx c f).dict = s.dict := rfl
@[simp] theorem State.updCtx_banks (s : State) (c : Nat) (f : Ctx → Ctx) : (s.updCtx c f).banks = s.banks := rfl
@[simp] theorem State.updCtx_ctrs (s : State) (c : Nat) (f : Ctx → Ctx) : (s.updCtx c f).ctrs = s.ctrs := rfl
@[simp] theorem State.updCtx_asleep (s : State) (c : Nat) (f : Ctx → Ctx) : (s.updCtx c f).asleep = s.asleep := rfl
@[simp] theorem State.updCtx_out (s : State) (c : Nat) (f : Ctx → Ctx) : (s.updCtx c f).out = s.out := rfl

/-! The fields that `setPart` leaves. -/

@[simp] theorem State.setPart_pending (s : State) (k : Nat) (x : PartSt) : (s.setPart k x).pending = s.pending := rfl
@[simp] theorem State.setPart_now (s : State) (k : Nat) (x : PartSt) : (s.setPart k x).now = s.now := rfl
@[simp] theorem State.setPart_freeIx (s : State) (k : Nat) (x : PartSt) : (s.setPart k x).freeIx = s.freeIx := rfl
@[simp] theorem State.setPart_dev (s : State) (k : Nat) (x : PartSt) : (s.setPart k x).dev = s.dev := rfl
@[simp] theorem State.setPart_mem (s : State) (k : Nat) (x : PartSt) : (s.setPart k x).mem = s.mem := rfl
@[simp] theorem State.setPart_bad (s : State) (k : Nat) (x : PartSt) : (s.setPart k x).bad = s.bad := rfl
@[simp] theorem State.setPart_ctxs (s : State) (k : Nat) (x : PartSt) : (s.setPart k x).ctxs = s.ctxs := rfl
@[simp] theorem State.setPart_threads (s : State) (k : Nat) (x : PartSt) : (s.setPart k x).threads = s.threads := rfl
@[simp] theorem State.setPart_streams (s : State) (k : Nat) (x : PartSt) : (s.setPart k x).streams = s.streams := rfl
@[simp] theorem State.setPart_coh (s : State) (k : Nat) (x : PartSt) : (s.setPart k x).coh = s.coh := rfl
@[simp] theorem State.setPart_dram (s : State) (k : Nat) (x : PartSt) : (s.setPart k x).dram = s.dram := rfl
@[simp] theorem State.setPart_tlb (s : State) (k : Nat) (x : PartSt) : (s.setPart k x).tlb = s.tlb := rfl
@[simp] theorem State.setPart_fq (s : State) (k : Nat) (x : PartSt) : (s.setPart k x).fq = s.fq := rfl
@[simp] theorem State.setPart_fabric (s : State) (k : Nat) (x : PartSt) : (s.setPart k x).fabric = s.fabric := rfl
@[simp] theorem State.setPart_host (s : State) (k : Nat) (x : PartSt) : (s.setPart k x).host = s.host := rfl
@[simp] theorem State.setPart_irq (s : State) (k : Nat) (x : PartSt) : (s.setPart k x).irq = s.irq := rfl
@[simp] theorem State.setPart_guests (s : State) (k : Nat) (x : PartSt) : (s.setPart k x).guests = s.guests := rfl
@[simp] theorem State.setPart_pe1 (s : State) (k : Nat) (x : PartSt) : (s.setPart k x).pe1 = s.pe1 := rfl
@[simp] theorem State.setPart_power (s : State) (k : Nat) (x : PartSt) : (s.setPart k x).power = s.power := rfl
@[simp] theorem State.setPart_integ (s : State) (k : Nat) (x : PartSt) : (s.setPart k x).integ = s.integ := rfl
@[simp] theorem State.setPart_sec (s : State) (k : Nat) (x : PartSt) : (s.setPart k x).sec = s.sec := rfl
@[simp] theorem State.setPart_dict (s : State) (k : Nat) (x : PartSt) : (s.setPart k x).dict = s.dict := rfl
@[simp] theorem State.setPart_banks (s : State) (k : Nat) (x : PartSt) : (s.setPart k x).banks = s.banks := rfl
@[simp] theorem State.setPart_ctrs (s : State) (k : Nat) (x : PartSt) : (s.setPart k x).ctrs = s.ctrs := rfl
@[simp] theorem State.setPart_asleep (s : State) (k : Nat) (x : PartSt) : (s.setPart k x).asleep = s.asleep := rfl
@[simp] theorem State.setPart_out (s : State) (k : Nat) (x : PartSt) : (s.setPart k x).out = s.out := rfl

/-! The fields that `updPart` leaves. -/

@[simp] theorem State.updPart_pending (s : State) (k : Nat) (f : PartSt → PartSt) : (s.updPart k f).pending = s.pending := rfl
@[simp] theorem State.updPart_now (s : State) (k : Nat) (f : PartSt → PartSt) : (s.updPart k f).now = s.now := rfl
@[simp] theorem State.updPart_freeIx (s : State) (k : Nat) (f : PartSt → PartSt) : (s.updPart k f).freeIx = s.freeIx := rfl
@[simp] theorem State.updPart_dev (s : State) (k : Nat) (f : PartSt → PartSt) : (s.updPart k f).dev = s.dev := rfl
@[simp] theorem State.updPart_mem (s : State) (k : Nat) (f : PartSt → PartSt) : (s.updPart k f).mem = s.mem := rfl
@[simp] theorem State.updPart_bad (s : State) (k : Nat) (f : PartSt → PartSt) : (s.updPart k f).bad = s.bad := rfl
@[simp] theorem State.updPart_ctxs (s : State) (k : Nat) (f : PartSt → PartSt) : (s.updPart k f).ctxs = s.ctxs := rfl
@[simp] theorem State.updPart_threads (s : State) (k : Nat) (f : PartSt → PartSt) : (s.updPart k f).threads = s.threads := rfl
@[simp] theorem State.updPart_streams (s : State) (k : Nat) (f : PartSt → PartSt) : (s.updPart k f).streams = s.streams := rfl
@[simp] theorem State.updPart_coh (s : State) (k : Nat) (f : PartSt → PartSt) : (s.updPart k f).coh = s.coh := rfl
@[simp] theorem State.updPart_dram (s : State) (k : Nat) (f : PartSt → PartSt) : (s.updPart k f).dram = s.dram := rfl
@[simp] theorem State.updPart_tlb (s : State) (k : Nat) (f : PartSt → PartSt) : (s.updPart k f).tlb = s.tlb := rfl
@[simp] theorem State.updPart_fq (s : State) (k : Nat) (f : PartSt → PartSt) : (s.updPart k f).fq = s.fq := rfl
@[simp] theorem State.updPart_fabric (s : State) (k : Nat) (f : PartSt → PartSt) : (s.updPart k f).fabric = s.fabric := rfl
@[simp] theorem State.updPart_host (s : State) (k : Nat) (f : PartSt → PartSt) : (s.updPart k f).host = s.host := rfl
@[simp] theorem State.updPart_irq (s : State) (k : Nat) (f : PartSt → PartSt) : (s.updPart k f).irq = s.irq := rfl
@[simp] theorem State.updPart_guests (s : State) (k : Nat) (f : PartSt → PartSt) : (s.updPart k f).guests = s.guests := rfl
@[simp] theorem State.updPart_pe1 (s : State) (k : Nat) (f : PartSt → PartSt) : (s.updPart k f).pe1 = s.pe1 := rfl
@[simp] theorem State.updPart_power (s : State) (k : Nat) (f : PartSt → PartSt) : (s.updPart k f).power = s.power := rfl
@[simp] theorem State.updPart_integ (s : State) (k : Nat) (f : PartSt → PartSt) : (s.updPart k f).integ = s.integ := rfl
@[simp] theorem State.updPart_sec (s : State) (k : Nat) (f : PartSt → PartSt) : (s.updPart k f).sec = s.sec := rfl
@[simp] theorem State.updPart_dict (s : State) (k : Nat) (f : PartSt → PartSt) : (s.updPart k f).dict = s.dict := rfl
@[simp] theorem State.updPart_banks (s : State) (k : Nat) (f : PartSt → PartSt) : (s.updPart k f).banks = s.banks := rfl
@[simp] theorem State.updPart_ctrs (s : State) (k : Nat) (f : PartSt → PartSt) : (s.updPart k f).ctrs = s.ctrs := rfl
@[simp] theorem State.updPart_asleep (s : State) (k : Nat) (f : PartSt → PartSt) : (s.updPart k f).asleep = s.asleep := rfl
@[simp] theorem State.updPart_out (s : State) (k : Nat) (f : PartSt → PartSt) : (s.updPart k f).out = s.out := rfl

/-! The fields that `answer` leaves. -/

@[simp] theorem State.answer_pending (s : State) (off : Nat) (d : List Byte) : (s.answer off d).pending = s.pending := rfl
@[simp] theorem State.answer_now (s : State) (off : Nat) (d : List Byte) : (s.answer off d).now = s.now := rfl
@[simp] theorem State.answer_freeIx (s : State) (off : Nat) (d : List Byte) : (s.answer off d).freeIx = s.freeIx := rfl
@[simp] theorem State.answer_dev (s : State) (off : Nat) (d : List Byte) : (s.answer off d).dev = s.dev := rfl
@[simp] theorem State.answer_mem (s : State) (off : Nat) (d : List Byte) : (s.answer off d).mem = s.mem := rfl
@[simp] theorem State.answer_bad (s : State) (off : Nat) (d : List Byte) : (s.answer off d).bad = s.bad := rfl
@[simp] theorem State.answer_ctxs (s : State) (off : Nat) (d : List Byte) : (s.answer off d).ctxs = s.ctxs := rfl
@[simp] theorem State.answer_parts (s : State) (off : Nat) (d : List Byte) : (s.answer off d).parts = s.parts := rfl
@[simp] theorem State.answer_threads (s : State) (off : Nat) (d : List Byte) : (s.answer off d).threads = s.threads := rfl
@[simp] theorem State.answer_streams (s : State) (off : Nat) (d : List Byte) : (s.answer off d).streams = s.streams := rfl
@[simp] theorem State.answer_coh (s : State) (off : Nat) (d : List Byte) : (s.answer off d).coh = s.coh := rfl
@[simp] theorem State.answer_dram (s : State) (off : Nat) (d : List Byte) : (s.answer off d).dram = s.dram := rfl
@[simp] theorem State.answer_tlb (s : State) (off : Nat) (d : List Byte) : (s.answer off d).tlb = s.tlb := rfl
@[simp] theorem State.answer_fq (s : State) (off : Nat) (d : List Byte) : (s.answer off d).fq = s.fq := rfl
@[simp] theorem State.answer_fabric (s : State) (off : Nat) (d : List Byte) : (s.answer off d).fabric = s.fabric := rfl
@[simp] theorem State.answer_host (s : State) (off : Nat) (d : List Byte) : (s.answer off d).host = s.host := rfl
@[simp] theorem State.answer_irq (s : State) (off : Nat) (d : List Byte) : (s.answer off d).irq = s.irq := rfl
@[simp] theorem State.answer_guests (s : State) (off : Nat) (d : List Byte) : (s.answer off d).guests = s.guests := rfl
@[simp] theorem State.answer_pe1 (s : State) (off : Nat) (d : List Byte) : (s.answer off d).pe1 = s.pe1 := rfl
@[simp] theorem State.answer_power (s : State) (off : Nat) (d : List Byte) : (s.answer off d).power = s.power := rfl
@[simp] theorem State.answer_integ (s : State) (off : Nat) (d : List Byte) : (s.answer off d).integ = s.integ := rfl
@[simp] theorem State.answer_sec (s : State) (off : Nat) (d : List Byte) : (s.answer off d).sec = s.sec := rfl
@[simp] theorem State.answer_dict (s : State) (off : Nat) (d : List Byte) : (s.answer off d).dict = s.dict := rfl
@[simp] theorem State.answer_banks (s : State) (off : Nat) (d : List Byte) : (s.answer off d).banks = s.banks := rfl
@[simp] theorem State.answer_ctrs (s : State) (off : Nat) (d : List Byte) : (s.answer off d).ctrs = s.ctrs := rfl
@[simp] theorem State.answer_asleep (s : State) (off : Nat) (d : List Byte) : (s.answer off d).asleep = s.asleep := rfl

/-! The fields that `toHost` leaves. -/

@[simp] theorem State.toHost_pending (s : State) (addr : Nat) (d : List Byte) : (s.toHost addr d).pending = s.pending := rfl
@[simp] theorem State.toHost_now (s : State) (addr : Nat) (d : List Byte) : (s.toHost addr d).now = s.now := rfl
@[simp] theorem State.toHost_freeIx (s : State) (addr : Nat) (d : List Byte) : (s.toHost addr d).freeIx = s.freeIx := rfl
@[simp] theorem State.toHost_dev (s : State) (addr : Nat) (d : List Byte) : (s.toHost addr d).dev = s.dev := rfl
@[simp] theorem State.toHost_mem (s : State) (addr : Nat) (d : List Byte) : (s.toHost addr d).mem = s.mem := rfl
@[simp] theorem State.toHost_bad (s : State) (addr : Nat) (d : List Byte) : (s.toHost addr d).bad = s.bad := rfl
@[simp] theorem State.toHost_ctxs (s : State) (addr : Nat) (d : List Byte) : (s.toHost addr d).ctxs = s.ctxs := rfl
@[simp] theorem State.toHost_parts (s : State) (addr : Nat) (d : List Byte) : (s.toHost addr d).parts = s.parts := rfl
@[simp] theorem State.toHost_threads (s : State) (addr : Nat) (d : List Byte) : (s.toHost addr d).threads = s.threads := rfl
@[simp] theorem State.toHost_streams (s : State) (addr : Nat) (d : List Byte) : (s.toHost addr d).streams = s.streams := rfl
@[simp] theorem State.toHost_coh (s : State) (addr : Nat) (d : List Byte) : (s.toHost addr d).coh = s.coh := rfl
@[simp] theorem State.toHost_dram (s : State) (addr : Nat) (d : List Byte) : (s.toHost addr d).dram = s.dram := rfl
@[simp] theorem State.toHost_tlb (s : State) (addr : Nat) (d : List Byte) : (s.toHost addr d).tlb = s.tlb := rfl
@[simp] theorem State.toHost_fq (s : State) (addr : Nat) (d : List Byte) : (s.toHost addr d).fq = s.fq := rfl
@[simp] theorem State.toHost_fabric (s : State) (addr : Nat) (d : List Byte) : (s.toHost addr d).fabric = s.fabric := rfl
@[simp] theorem State.toHost_host (s : State) (addr : Nat) (d : List Byte) : (s.toHost addr d).host = s.host := rfl
@[simp] theorem State.toHost_irq (s : State) (addr : Nat) (d : List Byte) : (s.toHost addr d).irq = s.irq := rfl
@[simp] theorem State.toHost_guests (s : State) (addr : Nat) (d : List Byte) : (s.toHost addr d).guests = s.guests := rfl
@[simp] theorem State.toHost_pe1 (s : State) (addr : Nat) (d : List Byte) : (s.toHost addr d).pe1 = s.pe1 := rfl
@[simp] theorem State.toHost_integ (s : State) (addr : Nat) (d : List Byte) : (s.toHost addr d).integ = s.integ := rfl
@[simp] theorem State.toHost_sec (s : State) (addr : Nat) (d : List Byte) : (s.toHost addr d).sec = s.sec := rfl
@[simp] theorem State.toHost_dict (s : State) (addr : Nat) (d : List Byte) : (s.toHost addr d).dict = s.dict := rfl
@[simp] theorem State.toHost_banks (s : State) (addr : Nat) (d : List Byte) : (s.toHost addr d).banks = s.banks := rfl
@[simp] theorem State.toHost_ctrs (s : State) (addr : Nat) (d : List Byte) : (s.toHost addr d).ctrs = s.ctrs := rfl
@[simp] theorem State.toHost_asleep (s : State) (addr : Nat) (d : List Byte) : (s.toHost addr d).asleep = s.asleep := rfl

/-! The fields that `toPort` leaves. -/

@[simp] theorem State.toPort_pending (s : State) (port : Nat) (pk : Packet) : (s.toPort port pk).pending = s.pending := rfl
@[simp] theorem State.toPort_now (s : State) (port : Nat) (pk : Packet) : (s.toPort port pk).now = s.now := rfl
@[simp] theorem State.toPort_freeIx (s : State) (port : Nat) (pk : Packet) : (s.toPort port pk).freeIx = s.freeIx := rfl
@[simp] theorem State.toPort_dev (s : State) (port : Nat) (pk : Packet) : (s.toPort port pk).dev = s.dev := rfl
@[simp] theorem State.toPort_mem (s : State) (port : Nat) (pk : Packet) : (s.toPort port pk).mem = s.mem := rfl
@[simp] theorem State.toPort_bad (s : State) (port : Nat) (pk : Packet) : (s.toPort port pk).bad = s.bad := rfl
@[simp] theorem State.toPort_ctxs (s : State) (port : Nat) (pk : Packet) : (s.toPort port pk).ctxs = s.ctxs := rfl
@[simp] theorem State.toPort_parts (s : State) (port : Nat) (pk : Packet) : (s.toPort port pk).parts = s.parts := rfl
@[simp] theorem State.toPort_threads (s : State) (port : Nat) (pk : Packet) : (s.toPort port pk).threads = s.threads := rfl
@[simp] theorem State.toPort_streams (s : State) (port : Nat) (pk : Packet) : (s.toPort port pk).streams = s.streams := rfl
@[simp] theorem State.toPort_coh (s : State) (port : Nat) (pk : Packet) : (s.toPort port pk).coh = s.coh := rfl
@[simp] theorem State.toPort_dram (s : State) (port : Nat) (pk : Packet) : (s.toPort port pk).dram = s.dram := rfl
@[simp] theorem State.toPort_tlb (s : State) (port : Nat) (pk : Packet) : (s.toPort port pk).tlb = s.tlb := rfl
@[simp] theorem State.toPort_fq (s : State) (port : Nat) (pk : Packet) : (s.toPort port pk).fq = s.fq := rfl
@[simp] theorem State.toPort_fabric (s : State) (port : Nat) (pk : Packet) : (s.toPort port pk).fabric = s.fabric := rfl
@[simp] theorem State.toPort_host (s : State) (port : Nat) (pk : Packet) : (s.toPort port pk).host = s.host := rfl
@[simp] theorem State.toPort_irq (s : State) (port : Nat) (pk : Packet) : (s.toPort port pk).irq = s.irq := rfl
@[simp] theorem State.toPort_guests (s : State) (port : Nat) (pk : Packet) : (s.toPort port pk).guests = s.guests := rfl
@[simp] theorem State.toPort_pe1 (s : State) (port : Nat) (pk : Packet) : (s.toPort port pk).pe1 = s.pe1 := rfl
@[simp] theorem State.toPort_power (s : State) (port : Nat) (pk : Packet) : (s.toPort port pk).power = s.power := rfl
@[simp] theorem State.toPort_integ (s : State) (port : Nat) (pk : Packet) : (s.toPort port pk).integ = s.integ := rfl
@[simp] theorem State.toPort_sec (s : State) (port : Nat) (pk : Packet) : (s.toPort port pk).sec = s.sec := rfl
@[simp] theorem State.toPort_dict (s : State) (port : Nat) (pk : Packet) : (s.toPort port pk).dict = s.dict := rfl
@[simp] theorem State.toPort_banks (s : State) (port : Nat) (pk : Packet) : (s.toPort port pk).banks = s.banks := rfl
@[simp] theorem State.toPort_ctrs (s : State) (port : Nat) (pk : Packet) : (s.toPort port pk).ctrs = s.ctrs := rfl
@[simp] theorem State.toPort_asleep (s : State) (port : Nat) (pk : Packet) : (s.toPort port pk).asleep = s.asleep := rfl

/-! The fields that `setDir` leaves. -/

@[simp] theorem State.setDir_pending (s : State) (ln : Nat) (d : DirEntry) : (s.setDir ln d).pending = s.pending := rfl
@[simp] theorem State.setDir_now (s : State) (ln : Nat) (d : DirEntry) : (s.setDir ln d).now = s.now := rfl
@[simp] theorem State.setDir_freeIx (s : State) (ln : Nat) (d : DirEntry) : (s.setDir ln d).freeIx = s.freeIx := rfl
@[simp] theorem State.setDir_dev (s : State) (ln : Nat) (d : DirEntry) : (s.setDir ln d).dev = s.dev := rfl
@[simp] theorem State.setDir_mem (s : State) (ln : Nat) (d : DirEntry) : (s.setDir ln d).mem = s.mem := rfl
@[simp] theorem State.setDir_bad (s : State) (ln : Nat) (d : DirEntry) : (s.setDir ln d).bad = s.bad := rfl
@[simp] theorem State.setDir_ctxs (s : State) (ln : Nat) (d : DirEntry) : (s.setDir ln d).ctxs = s.ctxs := rfl
@[simp] theorem State.setDir_parts (s : State) (ln : Nat) (d : DirEntry) : (s.setDir ln d).parts = s.parts := rfl
@[simp] theorem State.setDir_threads (s : State) (ln : Nat) (d : DirEntry) : (s.setDir ln d).threads = s.threads := rfl
@[simp] theorem State.setDir_streams (s : State) (ln : Nat) (d : DirEntry) : (s.setDir ln d).streams = s.streams := rfl
@[simp] theorem State.setDir_dram (s : State) (ln : Nat) (d : DirEntry) : (s.setDir ln d).dram = s.dram := rfl
@[simp] theorem State.setDir_tlb (s : State) (ln : Nat) (d : DirEntry) : (s.setDir ln d).tlb = s.tlb := rfl
@[simp] theorem State.setDir_fq (s : State) (ln : Nat) (d : DirEntry) : (s.setDir ln d).fq = s.fq := rfl
@[simp] theorem State.setDir_fabric (s : State) (ln : Nat) (d : DirEntry) : (s.setDir ln d).fabric = s.fabric := rfl
@[simp] theorem State.setDir_host (s : State) (ln : Nat) (d : DirEntry) : (s.setDir ln d).host = s.host := rfl
@[simp] theorem State.setDir_irq (s : State) (ln : Nat) (d : DirEntry) : (s.setDir ln d).irq = s.irq := rfl
@[simp] theorem State.setDir_guests (s : State) (ln : Nat) (d : DirEntry) : (s.setDir ln d).guests = s.guests := rfl
@[simp] theorem State.setDir_pe1 (s : State) (ln : Nat) (d : DirEntry) : (s.setDir ln d).pe1 = s.pe1 := rfl
@[simp] theorem State.setDir_power (s : State) (ln : Nat) (d : DirEntry) : (s.setDir ln d).power = s.power := rfl
@[simp] theorem State.setDir_integ (s : State) (ln : Nat) (d : DirEntry) : (s.setDir ln d).integ = s.integ := rfl
@[simp] theorem State.setDir_sec (s : State) (ln : Nat) (d : DirEntry) : (s.setDir ln d).sec = s.sec := rfl
@[simp] theorem State.setDir_dict (s : State) (ln : Nat) (d : DirEntry) : (s.setDir ln d).dict = s.dict := rfl
@[simp] theorem State.setDir_banks (s : State) (ln : Nat) (d : DirEntry) : (s.setDir ln d).banks = s.banks := rfl
@[simp] theorem State.setDir_ctrs (s : State) (ln : Nat) (d : DirEntry) : (s.setDir ln d).ctrs = s.ctrs := rfl
@[simp] theorem State.setDir_asleep (s : State) (ln : Nat) (d : DirEntry) : (s.setDir ln d).asleep = s.asleep := rfl
@[simp] theorem State.setDir_out (s : State) (ln : Nat) (d : DirEntry) : (s.setDir ln d).out = s.out := rfl

/-! The fields that `setCopy` leaves. -/

@[simp] theorem State.setCopy_pending (s : State) (a ln : Nat) (c : Option Copy) : (s.setCopy a ln c).pending = s.pending := rfl
@[simp] theorem State.setCopy_now (s : State) (a ln : Nat) (c : Option Copy) : (s.setCopy a ln c).now = s.now := rfl
@[simp] theorem State.setCopy_freeIx (s : State) (a ln : Nat) (c : Option Copy) : (s.setCopy a ln c).freeIx = s.freeIx := rfl
@[simp] theorem State.setCopy_dev (s : State) (a ln : Nat) (c : Option Copy) : (s.setCopy a ln c).dev = s.dev := rfl
@[simp] theorem State.setCopy_mem (s : State) (a ln : Nat) (c : Option Copy) : (s.setCopy a ln c).mem = s.mem := rfl
@[simp] theorem State.setCopy_bad (s : State) (a ln : Nat) (c : Option Copy) : (s.setCopy a ln c).bad = s.bad := rfl
@[simp] theorem State.setCopy_ctxs (s : State) (a ln : Nat) (c : Option Copy) : (s.setCopy a ln c).ctxs = s.ctxs := rfl
@[simp] theorem State.setCopy_parts (s : State) (a ln : Nat) (c : Option Copy) : (s.setCopy a ln c).parts = s.parts := rfl
@[simp] theorem State.setCopy_threads (s : State) (a ln : Nat) (c : Option Copy) : (s.setCopy a ln c).threads = s.threads := rfl
@[simp] theorem State.setCopy_streams (s : State) (a ln : Nat) (c : Option Copy) : (s.setCopy a ln c).streams = s.streams := rfl
@[simp] theorem State.setCopy_dram (s : State) (a ln : Nat) (c : Option Copy) : (s.setCopy a ln c).dram = s.dram := rfl
@[simp] theorem State.setCopy_tlb (s : State) (a ln : Nat) (c : Option Copy) : (s.setCopy a ln c).tlb = s.tlb := rfl
@[simp] theorem State.setCopy_fq (s : State) (a ln : Nat) (c : Option Copy) : (s.setCopy a ln c).fq = s.fq := rfl
@[simp] theorem State.setCopy_fabric (s : State) (a ln : Nat) (c : Option Copy) : (s.setCopy a ln c).fabric = s.fabric := rfl
@[simp] theorem State.setCopy_host (s : State) (a ln : Nat) (c : Option Copy) : (s.setCopy a ln c).host = s.host := rfl
@[simp] theorem State.setCopy_irq (s : State) (a ln : Nat) (c : Option Copy) : (s.setCopy a ln c).irq = s.irq := rfl
@[simp] theorem State.setCopy_guests (s : State) (a ln : Nat) (c : Option Copy) : (s.setCopy a ln c).guests = s.guests := rfl
@[simp] theorem State.setCopy_pe1 (s : State) (a ln : Nat) (c : Option Copy) : (s.setCopy a ln c).pe1 = s.pe1 := rfl
@[simp] theorem State.setCopy_power (s : State) (a ln : Nat) (c : Option Copy) : (s.setCopy a ln c).power = s.power := rfl
@[simp] theorem State.setCopy_integ (s : State) (a ln : Nat) (c : Option Copy) : (s.setCopy a ln c).integ = s.integ := rfl
@[simp] theorem State.setCopy_sec (s : State) (a ln : Nat) (c : Option Copy) : (s.setCopy a ln c).sec = s.sec := rfl
@[simp] theorem State.setCopy_dict (s : State) (a ln : Nat) (c : Option Copy) : (s.setCopy a ln c).dict = s.dict := rfl
@[simp] theorem State.setCopy_banks (s : State) (a ln : Nat) (c : Option Copy) : (s.setCopy a ln c).banks = s.banks := rfl
@[simp] theorem State.setCopy_ctrs (s : State) (a ln : Nat) (c : Option Copy) : (s.setCopy a ln c).ctrs = s.ctrs := rfl
@[simp] theorem State.setCopy_asleep (s : State) (a ln : Nat) (c : Option Copy) : (s.setCopy a ln c).asleep = s.asleep := rfl
@[simp] theorem State.setCopy_out (s : State) (a ln : Nat) (c : Option Copy) : (s.setCopy a ln c).out = s.out := rfl

/-! The fields that `memWrite` leaves. -/

@[simp] theorem State.memWrite_pending (s : State) (pa : Nat) (d : List Byte) : (s.memWrite pa d).pending = s.pending := rfl
@[simp] theorem State.memWrite_now (s : State) (pa : Nat) (d : List Byte) : (s.memWrite pa d).now = s.now := rfl
@[simp] theorem State.memWrite_freeIx (s : State) (pa : Nat) (d : List Byte) : (s.memWrite pa d).freeIx = s.freeIx := rfl
@[simp] theorem State.memWrite_dev (s : State) (pa : Nat) (d : List Byte) : (s.memWrite pa d).dev = s.dev := rfl
@[simp] theorem State.memWrite_bad (s : State) (pa : Nat) (d : List Byte) : (s.memWrite pa d).bad = s.bad := rfl
@[simp] theorem State.memWrite_ctxs (s : State) (pa : Nat) (d : List Byte) : (s.memWrite pa d).ctxs = s.ctxs := rfl
@[simp] theorem State.memWrite_parts (s : State) (pa : Nat) (d : List Byte) : (s.memWrite pa d).parts = s.parts := rfl
@[simp] theorem State.memWrite_threads (s : State) (pa : Nat) (d : List Byte) : (s.memWrite pa d).threads = s.threads := rfl
@[simp] theorem State.memWrite_streams (s : State) (pa : Nat) (d : List Byte) : (s.memWrite pa d).streams = s.streams := rfl
@[simp] theorem State.memWrite_coh (s : State) (pa : Nat) (d : List Byte) : (s.memWrite pa d).coh = s.coh := rfl
@[simp] theorem State.memWrite_dram (s : State) (pa : Nat) (d : List Byte) : (s.memWrite pa d).dram = s.dram := rfl
@[simp] theorem State.memWrite_tlb (s : State) (pa : Nat) (d : List Byte) : (s.memWrite pa d).tlb = s.tlb := rfl
@[simp] theorem State.memWrite_fq (s : State) (pa : Nat) (d : List Byte) : (s.memWrite pa d).fq = s.fq := rfl
@[simp] theorem State.memWrite_fabric (s : State) (pa : Nat) (d : List Byte) : (s.memWrite pa d).fabric = s.fabric := rfl
@[simp] theorem State.memWrite_host (s : State) (pa : Nat) (d : List Byte) : (s.memWrite pa d).host = s.host := rfl
@[simp] theorem State.memWrite_irq (s : State) (pa : Nat) (d : List Byte) : (s.memWrite pa d).irq = s.irq := rfl
@[simp] theorem State.memWrite_guests (s : State) (pa : Nat) (d : List Byte) : (s.memWrite pa d).guests = s.guests := rfl
@[simp] theorem State.memWrite_pe1 (s : State) (pa : Nat) (d : List Byte) : (s.memWrite pa d).pe1 = s.pe1 := rfl
@[simp] theorem State.memWrite_power (s : State) (pa : Nat) (d : List Byte) : (s.memWrite pa d).power = s.power := rfl
@[simp] theorem State.memWrite_integ (s : State) (pa : Nat) (d : List Byte) : (s.memWrite pa d).integ = s.integ := rfl
@[simp] theorem State.memWrite_sec (s : State) (pa : Nat) (d : List Byte) : (s.memWrite pa d).sec = s.sec := rfl
@[simp] theorem State.memWrite_dict (s : State) (pa : Nat) (d : List Byte) : (s.memWrite pa d).dict = s.dict := rfl
@[simp] theorem State.memWrite_banks (s : State) (pa : Nat) (d : List Byte) : (s.memWrite pa d).banks = s.banks := rfl
@[simp] theorem State.memWrite_ctrs (s : State) (pa : Nat) (d : List Byte) : (s.memWrite pa d).ctrs = s.ctrs := rfl
@[simp] theorem State.memWrite_asleep (s : State) (pa : Nat) (d : List Byte) : (s.memWrite pa d).asleep = s.asleep := rfl
@[simp] theorem State.memWrite_out (s : State) (pa : Nat) (d : List Byte) : (s.memWrite pa d).out = s.out := rfl

/-! The fields that `takeLine` leaves. -/

@[simp] theorem State.takeLine_pending (s : State) (ln : Nat) : (s.takeLine ln).pending = s.pending := rfl
@[simp] theorem State.takeLine_now (s : State) (ln : Nat) : (s.takeLine ln).now = s.now := rfl
@[simp] theorem State.takeLine_freeIx (s : State) (ln : Nat) : (s.takeLine ln).freeIx = s.freeIx := rfl
@[simp] theorem State.takeLine_dev (s : State) (ln : Nat) : (s.takeLine ln).dev = s.dev := rfl
@[simp] theorem State.takeLine_bad (s : State) (ln : Nat) : (s.takeLine ln).bad = s.bad := rfl
@[simp] theorem State.takeLine_ctxs (s : State) (ln : Nat) : (s.takeLine ln).ctxs = s.ctxs := rfl
@[simp] theorem State.takeLine_parts (s : State) (ln : Nat) : (s.takeLine ln).parts = s.parts := rfl
@[simp] theorem State.takeLine_threads (s : State) (ln : Nat) : (s.takeLine ln).threads = s.threads := rfl
@[simp] theorem State.takeLine_dram (s : State) (ln : Nat) : (s.takeLine ln).dram = s.dram := rfl
@[simp] theorem State.takeLine_tlb (s : State) (ln : Nat) : (s.takeLine ln).tlb = s.tlb := rfl
@[simp] theorem State.takeLine_fq (s : State) (ln : Nat) : (s.takeLine ln).fq = s.fq := rfl
@[simp] theorem State.takeLine_fabric (s : State) (ln : Nat) : (s.takeLine ln).fabric = s.fabric := rfl
@[simp] theorem State.takeLine_host (s : State) (ln : Nat) : (s.takeLine ln).host = s.host := rfl
@[simp] theorem State.takeLine_irq (s : State) (ln : Nat) : (s.takeLine ln).irq = s.irq := rfl
@[simp] theorem State.takeLine_guests (s : State) (ln : Nat) : (s.takeLine ln).guests = s.guests := rfl
@[simp] theorem State.takeLine_pe1 (s : State) (ln : Nat) : (s.takeLine ln).pe1 = s.pe1 := rfl
@[simp] theorem State.takeLine_power (s : State) (ln : Nat) : (s.takeLine ln).power = s.power := rfl
@[simp] theorem State.takeLine_integ (s : State) (ln : Nat) : (s.takeLine ln).integ = s.integ := rfl
@[simp] theorem State.takeLine_sec (s : State) (ln : Nat) : (s.takeLine ln).sec = s.sec := rfl
@[simp] theorem State.takeLine_dict (s : State) (ln : Nat) : (s.takeLine ln).dict = s.dict := rfl
@[simp] theorem State.takeLine_banks (s : State) (ln : Nat) : (s.takeLine ln).banks = s.banks := rfl
@[simp] theorem State.takeLine_ctrs (s : State) (ln : Nat) : (s.takeLine ln).ctrs = s.ctrs := rfl
@[simp] theorem State.takeLine_asleep (s : State) (ln : Nat) : (s.takeLine ln).asleep = s.asleep := rfl
@[simp] theorem State.takeLine_out (s : State) (ln : Nat) : (s.takeLine ln).out = s.out := rfl

/-! The fields that `dropHamper` leaves. -/

@[simp] theorem State.dropHamper_pending (s : State) (l0 l1 : Nat) : (s.dropHamper l0 l1).pending = s.pending := rfl
@[simp] theorem State.dropHamper_now (s : State) (l0 l1 : Nat) : (s.dropHamper l0 l1).now = s.now := rfl
@[simp] theorem State.dropHamper_freeIx (s : State) (l0 l1 : Nat) : (s.dropHamper l0 l1).freeIx = s.freeIx := rfl
@[simp] theorem State.dropHamper_dev (s : State) (l0 l1 : Nat) : (s.dropHamper l0 l1).dev = s.dev := rfl
@[simp] theorem State.dropHamper_mem (s : State) (l0 l1 : Nat) : (s.dropHamper l0 l1).mem = s.mem := rfl
@[simp] theorem State.dropHamper_bad (s : State) (l0 l1 : Nat) : (s.dropHamper l0 l1).bad = s.bad := rfl
@[simp] theorem State.dropHamper_ctxs (s : State) (l0 l1 : Nat) : (s.dropHamper l0 l1).ctxs = s.ctxs := rfl
@[simp] theorem State.dropHamper_parts (s : State) (l0 l1 : Nat) : (s.dropHamper l0 l1).parts = s.parts := rfl
@[simp] theorem State.dropHamper_threads (s : State) (l0 l1 : Nat) : (s.dropHamper l0 l1).threads = s.threads := rfl
@[simp] theorem State.dropHamper_coh (s : State) (l0 l1 : Nat) : (s.dropHamper l0 l1).coh = s.coh := rfl
@[simp] theorem State.dropHamper_dram (s : State) (l0 l1 : Nat) : (s.dropHamper l0 l1).dram = s.dram := rfl
@[simp] theorem State.dropHamper_tlb (s : State) (l0 l1 : Nat) : (s.dropHamper l0 l1).tlb = s.tlb := rfl
@[simp] theorem State.dropHamper_fq (s : State) (l0 l1 : Nat) : (s.dropHamper l0 l1).fq = s.fq := rfl
@[simp] theorem State.dropHamper_fabric (s : State) (l0 l1 : Nat) : (s.dropHamper l0 l1).fabric = s.fabric := rfl
@[simp] theorem State.dropHamper_host (s : State) (l0 l1 : Nat) : (s.dropHamper l0 l1).host = s.host := rfl
@[simp] theorem State.dropHamper_irq (s : State) (l0 l1 : Nat) : (s.dropHamper l0 l1).irq = s.irq := rfl
@[simp] theorem State.dropHamper_guests (s : State) (l0 l1 : Nat) : (s.dropHamper l0 l1).guests = s.guests := rfl
@[simp] theorem State.dropHamper_pe1 (s : State) (l0 l1 : Nat) : (s.dropHamper l0 l1).pe1 = s.pe1 := rfl
@[simp] theorem State.dropHamper_power (s : State) (l0 l1 : Nat) : (s.dropHamper l0 l1).power = s.power := rfl
@[simp] theorem State.dropHamper_integ (s : State) (l0 l1 : Nat) : (s.dropHamper l0 l1).integ = s.integ := rfl
@[simp] theorem State.dropHamper_sec (s : State) (l0 l1 : Nat) : (s.dropHamper l0 l1).sec = s.sec := rfl
@[simp] theorem State.dropHamper_dict (s : State) (l0 l1 : Nat) : (s.dropHamper l0 l1).dict = s.dict := rfl
@[simp] theorem State.dropHamper_banks (s : State) (l0 l1 : Nat) : (s.dropHamper l0 l1).banks = s.banks := rfl
@[simp] theorem State.dropHamper_ctrs (s : State) (l0 l1 : Nat) : (s.dropHamper l0 l1).ctrs = s.ctrs := rfl
@[simp] theorem State.dropHamper_asleep (s : State) (l0 l1 : Nat) : (s.dropHamper l0 l1).asleep = s.asleep := rfl
@[simp] theorem State.dropHamper_out (s : State) (l0 l1 : Nat) : (s.dropHamper l0 l1).out = s.out := rfl

/-! The fields that `loseLine` leaves. -/

@[simp] theorem State.loseLine_pending (s : State) (ln : Nat) : (s.loseLine ln).pending = s.pending := rfl
@[simp] theorem State.loseLine_now (s : State) (ln : Nat) : (s.loseLine ln).now = s.now := rfl
@[simp] theorem State.loseLine_freeIx (s : State) (ln : Nat) : (s.loseLine ln).freeIx = s.freeIx := rfl
@[simp] theorem State.loseLine_dev (s : State) (ln : Nat) : (s.loseLine ln).dev = s.dev := rfl
@[simp] theorem State.loseLine_ctxs (s : State) (ln : Nat) : (s.loseLine ln).ctxs = s.ctxs := rfl
@[simp] theorem State.loseLine_parts (s : State) (ln : Nat) : (s.loseLine ln).parts = s.parts := rfl
@[simp] theorem State.loseLine_threads (s : State) (ln : Nat) : (s.loseLine ln).threads = s.threads := rfl
@[simp] theorem State.loseLine_dram (s : State) (ln : Nat) : (s.loseLine ln).dram = s.dram := rfl
@[simp] theorem State.loseLine_tlb (s : State) (ln : Nat) : (s.loseLine ln).tlb = s.tlb := rfl
@[simp] theorem State.loseLine_fq (s : State) (ln : Nat) : (s.loseLine ln).fq = s.fq := rfl
@[simp] theorem State.loseLine_fabric (s : State) (ln : Nat) : (s.loseLine ln).fabric = s.fabric := rfl
@[simp] theorem State.loseLine_host (s : State) (ln : Nat) : (s.loseLine ln).host = s.host := rfl
@[simp] theorem State.loseLine_irq (s : State) (ln : Nat) : (s.loseLine ln).irq = s.irq := rfl
@[simp] theorem State.loseLine_guests (s : State) (ln : Nat) : (s.loseLine ln).guests = s.guests := rfl
@[simp] theorem State.loseLine_pe1 (s : State) (ln : Nat) : (s.loseLine ln).pe1 = s.pe1 := rfl
@[simp] theorem State.loseLine_power (s : State) (ln : Nat) : (s.loseLine ln).power = s.power := rfl
@[simp] theorem State.loseLine_integ (s : State) (ln : Nat) : (s.loseLine ln).integ = s.integ := rfl
@[simp] theorem State.loseLine_sec (s : State) (ln : Nat) : (s.loseLine ln).sec = s.sec := rfl
@[simp] theorem State.loseLine_dict (s : State) (ln : Nat) : (s.loseLine ln).dict = s.dict := rfl
@[simp] theorem State.loseLine_banks (s : State) (ln : Nat) : (s.loseLine ln).banks = s.banks := rfl
@[simp] theorem State.loseLine_ctrs (s : State) (ln : Nat) : (s.loseLine ln).ctrs = s.ctrs := rfl
@[simp] theorem State.loseLine_asleep (s : State) (ln : Nat) : (s.loseLine ln).asleep = s.asleep := rfl
@[simp] theorem State.loseLine_out (s : State) (ln : Nat) : (s.loseLine ln).out = s.out := rfl

/-! The fields that `setGroup` leaves. -/

@[simp] theorem State.setGroup_pending (s : State) (g : Nat) (x : Option Group) : (s.setGroup g x).pending = s.pending := rfl
@[simp] theorem State.setGroup_now (s : State) (g : Nat) (x : Option Group) : (s.setGroup g x).now = s.now := rfl
@[simp] theorem State.setGroup_freeIx (s : State) (g : Nat) (x : Option Group) : (s.setGroup g x).freeIx = s.freeIx := rfl
@[simp] theorem State.setGroup_dev (s : State) (g : Nat) (x : Option Group) : (s.setGroup g x).dev = s.dev := rfl
@[simp] theorem State.setGroup_mem (s : State) (g : Nat) (x : Option Group) : (s.setGroup g x).mem = s.mem := rfl
@[simp] theorem State.setGroup_bad (s : State) (g : Nat) (x : Option Group) : (s.setGroup g x).bad = s.bad := rfl
@[simp] theorem State.setGroup_ctxs (s : State) (g : Nat) (x : Option Group) : (s.setGroup g x).ctxs = s.ctxs := rfl
@[simp] theorem State.setGroup_parts (s : State) (g : Nat) (x : Option Group) : (s.setGroup g x).parts = s.parts := rfl
@[simp] theorem State.setGroup_streams (s : State) (g : Nat) (x : Option Group) : (s.setGroup g x).streams = s.streams := rfl
@[simp] theorem State.setGroup_coh (s : State) (g : Nat) (x : Option Group) : (s.setGroup g x).coh = s.coh := rfl
@[simp] theorem State.setGroup_dram (s : State) (g : Nat) (x : Option Group) : (s.setGroup g x).dram = s.dram := rfl
@[simp] theorem State.setGroup_tlb (s : State) (g : Nat) (x : Option Group) : (s.setGroup g x).tlb = s.tlb := rfl
@[simp] theorem State.setGroup_fq (s : State) (g : Nat) (x : Option Group) : (s.setGroup g x).fq = s.fq := rfl
@[simp] theorem State.setGroup_fabric (s : State) (g : Nat) (x : Option Group) : (s.setGroup g x).fabric = s.fabric := rfl
@[simp] theorem State.setGroup_host (s : State) (g : Nat) (x : Option Group) : (s.setGroup g x).host = s.host := rfl
@[simp] theorem State.setGroup_irq (s : State) (g : Nat) (x : Option Group) : (s.setGroup g x).irq = s.irq := rfl
@[simp] theorem State.setGroup_guests (s : State) (g : Nat) (x : Option Group) : (s.setGroup g x).guests = s.guests := rfl
@[simp] theorem State.setGroup_pe1 (s : State) (g : Nat) (x : Option Group) : (s.setGroup g x).pe1 = s.pe1 := rfl
@[simp] theorem State.setGroup_power (s : State) (g : Nat) (x : Option Group) : (s.setGroup g x).power = s.power := rfl
@[simp] theorem State.setGroup_integ (s : State) (g : Nat) (x : Option Group) : (s.setGroup g x).integ = s.integ := rfl
@[simp] theorem State.setGroup_sec (s : State) (g : Nat) (x : Option Group) : (s.setGroup g x).sec = s.sec := rfl
@[simp] theorem State.setGroup_dict (s : State) (g : Nat) (x : Option Group) : (s.setGroup g x).dict = s.dict := rfl
@[simp] theorem State.setGroup_banks (s : State) (g : Nat) (x : Option Group) : (s.setGroup g x).banks = s.banks := rfl
@[simp] theorem State.setGroup_ctrs (s : State) (g : Nat) (x : Option Group) : (s.setGroup g x).ctrs = s.ctrs := rfl
@[simp] theorem State.setGroup_asleep (s : State) (g : Nat) (x : Option Group) : (s.setGroup g x).asleep = s.asleep := rfl
@[simp] theorem State.setGroup_out (s : State) (g : Nat) (x : Option Group) : (s.setGroup g x).out = s.out := rfl

/-! The fields that `setBlock` leaves. -/

@[simp] theorem State.setBlock_pending (s : State) (b : Nat) (x : Option Block) : (s.setBlock b x).pending = s.pending := rfl
@[simp] theorem State.setBlock_now (s : State) (b : Nat) (x : Option Block) : (s.setBlock b x).now = s.now := rfl
@[simp] theorem State.setBlock_freeIx (s : State) (b : Nat) (x : Option Block) : (s.setBlock b x).freeIx = s.freeIx := rfl
@[simp] theorem State.setBlock_dev (s : State) (b : Nat) (x : Option Block) : (s.setBlock b x).dev = s.dev := rfl
@[simp] theorem State.setBlock_mem (s : State) (b : Nat) (x : Option Block) : (s.setBlock b x).mem = s.mem := rfl
@[simp] theorem State.setBlock_bad (s : State) (b : Nat) (x : Option Block) : (s.setBlock b x).bad = s.bad := rfl
@[simp] theorem State.setBlock_ctxs (s : State) (b : Nat) (x : Option Block) : (s.setBlock b x).ctxs = s.ctxs := rfl
@[simp] theorem State.setBlock_parts (s : State) (b : Nat) (x : Option Block) : (s.setBlock b x).parts = s.parts := rfl
@[simp] theorem State.setBlock_streams (s : State) (b : Nat) (x : Option Block) : (s.setBlock b x).streams = s.streams := rfl
@[simp] theorem State.setBlock_coh (s : State) (b : Nat) (x : Option Block) : (s.setBlock b x).coh = s.coh := rfl
@[simp] theorem State.setBlock_dram (s : State) (b : Nat) (x : Option Block) : (s.setBlock b x).dram = s.dram := rfl
@[simp] theorem State.setBlock_tlb (s : State) (b : Nat) (x : Option Block) : (s.setBlock b x).tlb = s.tlb := rfl
@[simp] theorem State.setBlock_fq (s : State) (b : Nat) (x : Option Block) : (s.setBlock b x).fq = s.fq := rfl
@[simp] theorem State.setBlock_fabric (s : State) (b : Nat) (x : Option Block) : (s.setBlock b x).fabric = s.fabric := rfl
@[simp] theorem State.setBlock_host (s : State) (b : Nat) (x : Option Block) : (s.setBlock b x).host = s.host := rfl
@[simp] theorem State.setBlock_irq (s : State) (b : Nat) (x : Option Block) : (s.setBlock b x).irq = s.irq := rfl
@[simp] theorem State.setBlock_guests (s : State) (b : Nat) (x : Option Block) : (s.setBlock b x).guests = s.guests := rfl
@[simp] theorem State.setBlock_pe1 (s : State) (b : Nat) (x : Option Block) : (s.setBlock b x).pe1 = s.pe1 := rfl
@[simp] theorem State.setBlock_power (s : State) (b : Nat) (x : Option Block) : (s.setBlock b x).power = s.power := rfl
@[simp] theorem State.setBlock_integ (s : State) (b : Nat) (x : Option Block) : (s.setBlock b x).integ = s.integ := rfl
@[simp] theorem State.setBlock_sec (s : State) (b : Nat) (x : Option Block) : (s.setBlock b x).sec = s.sec := rfl
@[simp] theorem State.setBlock_dict (s : State) (b : Nat) (x : Option Block) : (s.setBlock b x).dict = s.dict := rfl
@[simp] theorem State.setBlock_banks (s : State) (b : Nat) (x : Option Block) : (s.setBlock b x).banks = s.banks := rfl
@[simp] theorem State.setBlock_ctrs (s : State) (b : Nat) (x : Option Block) : (s.setBlock b x).ctrs = s.ctrs := rfl
@[simp] theorem State.setBlock_asleep (s : State) (b : Nat) (x : Option Block) : (s.setBlock b x).asleep = s.asleep := rfl
@[simp] theorem State.setBlock_out (s : State) (b : Nat) (x : Option Block) : (s.setBlock b x).out = s.out := rfl

/-! The fields that `setLaunch` leaves. -/

@[simp] theorem State.setLaunch_pending (s : State) (l : Nat) (x : Option Launch) : (s.setLaunch l x).pending = s.pending := rfl
@[simp] theorem State.setLaunch_now (s : State) (l : Nat) (x : Option Launch) : (s.setLaunch l x).now = s.now := rfl
@[simp] theorem State.setLaunch_freeIx (s : State) (l : Nat) (x : Option Launch) : (s.setLaunch l x).freeIx = s.freeIx := rfl
@[simp] theorem State.setLaunch_dev (s : State) (l : Nat) (x : Option Launch) : (s.setLaunch l x).dev = s.dev := rfl
@[simp] theorem State.setLaunch_mem (s : State) (l : Nat) (x : Option Launch) : (s.setLaunch l x).mem = s.mem := rfl
@[simp] theorem State.setLaunch_bad (s : State) (l : Nat) (x : Option Launch) : (s.setLaunch l x).bad = s.bad := rfl
@[simp] theorem State.setLaunch_ctxs (s : State) (l : Nat) (x : Option Launch) : (s.setLaunch l x).ctxs = s.ctxs := rfl
@[simp] theorem State.setLaunch_parts (s : State) (l : Nat) (x : Option Launch) : (s.setLaunch l x).parts = s.parts := rfl
@[simp] theorem State.setLaunch_streams (s : State) (l : Nat) (x : Option Launch) : (s.setLaunch l x).streams = s.streams := rfl
@[simp] theorem State.setLaunch_coh (s : State) (l : Nat) (x : Option Launch) : (s.setLaunch l x).coh = s.coh := rfl
@[simp] theorem State.setLaunch_dram (s : State) (l : Nat) (x : Option Launch) : (s.setLaunch l x).dram = s.dram := rfl
@[simp] theorem State.setLaunch_tlb (s : State) (l : Nat) (x : Option Launch) : (s.setLaunch l x).tlb = s.tlb := rfl
@[simp] theorem State.setLaunch_fq (s : State) (l : Nat) (x : Option Launch) : (s.setLaunch l x).fq = s.fq := rfl
@[simp] theorem State.setLaunch_fabric (s : State) (l : Nat) (x : Option Launch) : (s.setLaunch l x).fabric = s.fabric := rfl
@[simp] theorem State.setLaunch_host (s : State) (l : Nat) (x : Option Launch) : (s.setLaunch l x).host = s.host := rfl
@[simp] theorem State.setLaunch_irq (s : State) (l : Nat) (x : Option Launch) : (s.setLaunch l x).irq = s.irq := rfl
@[simp] theorem State.setLaunch_guests (s : State) (l : Nat) (x : Option Launch) : (s.setLaunch l x).guests = s.guests := rfl
@[simp] theorem State.setLaunch_pe1 (s : State) (l : Nat) (x : Option Launch) : (s.setLaunch l x).pe1 = s.pe1 := rfl
@[simp] theorem State.setLaunch_power (s : State) (l : Nat) (x : Option Launch) : (s.setLaunch l x).power = s.power := rfl
@[simp] theorem State.setLaunch_integ (s : State) (l : Nat) (x : Option Launch) : (s.setLaunch l x).integ = s.integ := rfl
@[simp] theorem State.setLaunch_sec (s : State) (l : Nat) (x : Option Launch) : (s.setLaunch l x).sec = s.sec := rfl
@[simp] theorem State.setLaunch_dict (s : State) (l : Nat) (x : Option Launch) : (s.setLaunch l x).dict = s.dict := rfl
@[simp] theorem State.setLaunch_banks (s : State) (l : Nat) (x : Option Launch) : (s.setLaunch l x).banks = s.banks := rfl
@[simp] theorem State.setLaunch_ctrs (s : State) (l : Nat) (x : Option Launch) : (s.setLaunch l x).ctrs = s.ctrs := rfl
@[simp] theorem State.setLaunch_asleep (s : State) (l : Nat) (x : Option Launch) : (s.setLaunch l x).asleep = s.asleep := rfl
@[simp] theorem State.setLaunch_out (s : State) (l : Nat) (x : Option Launch) : (s.setLaunch l x).out = s.out := rfl

/-! The fields that `setInst` leaves. -/

@[simp] theorem State.setInst_pending (s : State) (i : Nat) (x : Option Instance) : (s.setInst i x).pending = s.pending := rfl
@[simp] theorem State.setInst_now (s : State) (i : Nat) (x : Option Instance) : (s.setInst i x).now = s.now := rfl
@[simp] theorem State.setInst_freeIx (s : State) (i : Nat) (x : Option Instance) : (s.setInst i x).freeIx = s.freeIx := rfl
@[simp] theorem State.setInst_dev (s : State) (i : Nat) (x : Option Instance) : (s.setInst i x).dev = s.dev := rfl
@[simp] theorem State.setInst_mem (s : State) (i : Nat) (x : Option Instance) : (s.setInst i x).mem = s.mem := rfl
@[simp] theorem State.setInst_bad (s : State) (i : Nat) (x : Option Instance) : (s.setInst i x).bad = s.bad := rfl
@[simp] theorem State.setInst_ctxs (s : State) (i : Nat) (x : Option Instance) : (s.setInst i x).ctxs = s.ctxs := rfl
@[simp] theorem State.setInst_parts (s : State) (i : Nat) (x : Option Instance) : (s.setInst i x).parts = s.parts := rfl
@[simp] theorem State.setInst_threads (s : State) (i : Nat) (x : Option Instance) : (s.setInst i x).threads = s.threads := rfl
@[simp] theorem State.setInst_coh (s : State) (i : Nat) (x : Option Instance) : (s.setInst i x).coh = s.coh := rfl
@[simp] theorem State.setInst_dram (s : State) (i : Nat) (x : Option Instance) : (s.setInst i x).dram = s.dram := rfl
@[simp] theorem State.setInst_tlb (s : State) (i : Nat) (x : Option Instance) : (s.setInst i x).tlb = s.tlb := rfl
@[simp] theorem State.setInst_fq (s : State) (i : Nat) (x : Option Instance) : (s.setInst i x).fq = s.fq := rfl
@[simp] theorem State.setInst_fabric (s : State) (i : Nat) (x : Option Instance) : (s.setInst i x).fabric = s.fabric := rfl
@[simp] theorem State.setInst_host (s : State) (i : Nat) (x : Option Instance) : (s.setInst i x).host = s.host := rfl
@[simp] theorem State.setInst_irq (s : State) (i : Nat) (x : Option Instance) : (s.setInst i x).irq = s.irq := rfl
@[simp] theorem State.setInst_guests (s : State) (i : Nat) (x : Option Instance) : (s.setInst i x).guests = s.guests := rfl
@[simp] theorem State.setInst_pe1 (s : State) (i : Nat) (x : Option Instance) : (s.setInst i x).pe1 = s.pe1 := rfl
@[simp] theorem State.setInst_power (s : State) (i : Nat) (x : Option Instance) : (s.setInst i x).power = s.power := rfl
@[simp] theorem State.setInst_integ (s : State) (i : Nat) (x : Option Instance) : (s.setInst i x).integ = s.integ := rfl
@[simp] theorem State.setInst_sec (s : State) (i : Nat) (x : Option Instance) : (s.setInst i x).sec = s.sec := rfl
@[simp] theorem State.setInst_dict (s : State) (i : Nat) (x : Option Instance) : (s.setInst i x).dict = s.dict := rfl
@[simp] theorem State.setInst_banks (s : State) (i : Nat) (x : Option Instance) : (s.setInst i x).banks = s.banks := rfl
@[simp] theorem State.setInst_ctrs (s : State) (i : Nat) (x : Option Instance) : (s.setInst i x).ctrs = s.ctrs := rfl
@[simp] theorem State.setInst_asleep (s : State) (i : Nat) (x : Option Instance) : (s.setInst i x).asleep = s.asleep := rfl
@[simp] theorem State.setInst_out (s : State) (i : Nat) (x : Option Instance) : (s.setInst i x).out = s.out := rfl

/-! The fields that `putEntry` leaves. -/

@[simp] theorem State.putEntry_pending (s : State) (ix sub : Nat) (d : List Byte) : (s.putEntry ix sub d).pending = s.pending := rfl
@[simp] theorem State.putEntry_now (s : State) (ix sub : Nat) (d : List Byte) : (s.putEntry ix sub d).now = s.now := rfl
@[simp] theorem State.putEntry_freeIx (s : State) (ix sub : Nat) (d : List Byte) : (s.putEntry ix sub d).freeIx = s.freeIx := rfl
@[simp] theorem State.putEntry_dev (s : State) (ix sub : Nat) (d : List Byte) : (s.putEntry ix sub d).dev = s.dev := rfl
@[simp] theorem State.putEntry_mem (s : State) (ix sub : Nat) (d : List Byte) : (s.putEntry ix sub d).mem = s.mem := rfl
@[simp] theorem State.putEntry_bad (s : State) (ix sub : Nat) (d : List Byte) : (s.putEntry ix sub d).bad = s.bad := rfl
@[simp] theorem State.putEntry_ctxs (s : State) (ix sub : Nat) (d : List Byte) : (s.putEntry ix sub d).ctxs = s.ctxs := rfl
@[simp] theorem State.putEntry_parts (s : State) (ix sub : Nat) (d : List Byte) : (s.putEntry ix sub d).parts = s.parts := rfl
@[simp] theorem State.putEntry_threads (s : State) (ix sub : Nat) (d : List Byte) : (s.putEntry ix sub d).threads = s.threads := rfl
@[simp] theorem State.putEntry_streams (s : State) (ix sub : Nat) (d : List Byte) : (s.putEntry ix sub d).streams = s.streams := rfl
@[simp] theorem State.putEntry_coh (s : State) (ix sub : Nat) (d : List Byte) : (s.putEntry ix sub d).coh = s.coh := rfl
@[simp] theorem State.putEntry_dram (s : State) (ix sub : Nat) (d : List Byte) : (s.putEntry ix sub d).dram = s.dram := rfl
@[simp] theorem State.putEntry_tlb (s : State) (ix sub : Nat) (d : List Byte) : (s.putEntry ix sub d).tlb = s.tlb := rfl
@[simp] theorem State.putEntry_fq (s : State) (ix sub : Nat) (d : List Byte) : (s.putEntry ix sub d).fq = s.fq := rfl
@[simp] theorem State.putEntry_fabric (s : State) (ix sub : Nat) (d : List Byte) : (s.putEntry ix sub d).fabric = s.fabric := rfl
@[simp] theorem State.putEntry_host (s : State) (ix sub : Nat) (d : List Byte) : (s.putEntry ix sub d).host = s.host := rfl
@[simp] theorem State.putEntry_irq (s : State) (ix sub : Nat) (d : List Byte) : (s.putEntry ix sub d).irq = s.irq := rfl
@[simp] theorem State.putEntry_guests (s : State) (ix sub : Nat) (d : List Byte) : (s.putEntry ix sub d).guests = s.guests := rfl
@[simp] theorem State.putEntry_pe1 (s : State) (ix sub : Nat) (d : List Byte) : (s.putEntry ix sub d).pe1 = s.pe1 := rfl
@[simp] theorem State.putEntry_power (s : State) (ix sub : Nat) (d : List Byte) : (s.putEntry ix sub d).power = s.power := rfl
@[simp] theorem State.putEntry_integ (s : State) (ix sub : Nat) (d : List Byte) : (s.putEntry ix sub d).integ = s.integ := rfl
@[simp] theorem State.putEntry_sec (s : State) (ix sub : Nat) (d : List Byte) : (s.putEntry ix sub d).sec = s.sec := rfl
@[simp] theorem State.putEntry_banks (s : State) (ix sub : Nat) (d : List Byte) : (s.putEntry ix sub d).banks = s.banks := rfl
@[simp] theorem State.putEntry_ctrs (s : State) (ix sub : Nat) (d : List Byte) : (s.putEntry ix sub d).ctrs = s.ctrs := rfl
@[simp] theorem State.putEntry_asleep (s : State) (ix sub : Nat) (d : List Byte) : (s.putEntry ix sub d).asleep = s.asleep := rfl
@[simp] theorem State.putEntry_out (s : State) (ix sub : Nat) (d : List Byte) : (s.putEntry ix sub d).out = s.out := rfl

/-! The fields that `holdEntry` leaves. -/

@[simp] theorem State.holdEntry_pending (s : State) (ix sub : Nat) (d : List Byte) : (s.holdEntry ix sub d).pending = s.pending := rfl
@[simp] theorem State.holdEntry_now (s : State) (ix sub : Nat) (d : List Byte) : (s.holdEntry ix sub d).now = s.now := rfl
@[simp] theorem State.holdEntry_freeIx (s : State) (ix sub : Nat) (d : List Byte) : (s.holdEntry ix sub d).freeIx = s.freeIx := rfl
@[simp] theorem State.holdEntry_dev (s : State) (ix sub : Nat) (d : List Byte) : (s.holdEntry ix sub d).dev = s.dev := rfl
@[simp] theorem State.holdEntry_mem (s : State) (ix sub : Nat) (d : List Byte) : (s.holdEntry ix sub d).mem = s.mem := rfl
@[simp] theorem State.holdEntry_bad (s : State) (ix sub : Nat) (d : List Byte) : (s.holdEntry ix sub d).bad = s.bad := rfl
@[simp] theorem State.holdEntry_ctxs (s : State) (ix sub : Nat) (d : List Byte) : (s.holdEntry ix sub d).ctxs = s.ctxs := rfl
@[simp] theorem State.holdEntry_parts (s : State) (ix sub : Nat) (d : List Byte) : (s.holdEntry ix sub d).parts = s.parts := rfl
@[simp] theorem State.holdEntry_threads (s : State) (ix sub : Nat) (d : List Byte) : (s.holdEntry ix sub d).threads = s.threads := rfl
@[simp] theorem State.holdEntry_streams (s : State) (ix sub : Nat) (d : List Byte) : (s.holdEntry ix sub d).streams = s.streams := rfl
@[simp] theorem State.holdEntry_coh (s : State) (ix sub : Nat) (d : List Byte) : (s.holdEntry ix sub d).coh = s.coh := rfl
@[simp] theorem State.holdEntry_dram (s : State) (ix sub : Nat) (d : List Byte) : (s.holdEntry ix sub d).dram = s.dram := rfl
@[simp] theorem State.holdEntry_tlb (s : State) (ix sub : Nat) (d : List Byte) : (s.holdEntry ix sub d).tlb = s.tlb := rfl
@[simp] theorem State.holdEntry_fq (s : State) (ix sub : Nat) (d : List Byte) : (s.holdEntry ix sub d).fq = s.fq := rfl
@[simp] theorem State.holdEntry_fabric (s : State) (ix sub : Nat) (d : List Byte) : (s.holdEntry ix sub d).fabric = s.fabric := rfl
@[simp] theorem State.holdEntry_host (s : State) (ix sub : Nat) (d : List Byte) : (s.holdEntry ix sub d).host = s.host := rfl
@[simp] theorem State.holdEntry_irq (s : State) (ix sub : Nat) (d : List Byte) : (s.holdEntry ix sub d).irq = s.irq := rfl
@[simp] theorem State.holdEntry_guests (s : State) (ix sub : Nat) (d : List Byte) : (s.holdEntry ix sub d).guests = s.guests := rfl
@[simp] theorem State.holdEntry_pe1 (s : State) (ix sub : Nat) (d : List Byte) : (s.holdEntry ix sub d).pe1 = s.pe1 := rfl
@[simp] theorem State.holdEntry_power (s : State) (ix sub : Nat) (d : List Byte) : (s.holdEntry ix sub d).power = s.power := rfl
@[simp] theorem State.holdEntry_integ (s : State) (ix sub : Nat) (d : List Byte) : (s.holdEntry ix sub d).integ = s.integ := rfl
@[simp] theorem State.holdEntry_sec (s : State) (ix sub : Nat) (d : List Byte) : (s.holdEntry ix sub d).sec = s.sec := rfl
@[simp] theorem State.holdEntry_banks (s : State) (ix sub : Nat) (d : List Byte) : (s.holdEntry ix sub d).banks = s.banks := rfl
@[simp] theorem State.holdEntry_ctrs (s : State) (ix sub : Nat) (d : List Byte) : (s.holdEntry ix sub d).ctrs = s.ctrs := rfl
@[simp] theorem State.holdEntry_asleep (s : State) (ix sub : Nat) (d : List Byte) : (s.holdEntry ix sub d).asleep = s.asleep := rfl
@[simp] theorem State.holdEntry_out (s : State) (ix sub : Nat) (d : List Byte) : (s.holdEntry ix sub d).out = s.out := rfl

/-! The fields that `applyEntry` leaves. -/

@[simp] theorem State.applyEntry_pending (s : State) (k : Nat) : (s.applyEntry k).pending = s.pending := rfl
@[simp] theorem State.applyEntry_now (s : State) (k : Nat) : (s.applyEntry k).now = s.now := rfl
@[simp] theorem State.applyEntry_freeIx (s : State) (k : Nat) : (s.applyEntry k).freeIx = s.freeIx := rfl
@[simp] theorem State.applyEntry_dev (s : State) (k : Nat) : (s.applyEntry k).dev = s.dev := rfl
@[simp] theorem State.applyEntry_mem (s : State) (k : Nat) : (s.applyEntry k).mem = s.mem := rfl
@[simp] theorem State.applyEntry_bad (s : State) (k : Nat) : (s.applyEntry k).bad = s.bad := rfl
@[simp] theorem State.applyEntry_ctxs (s : State) (k : Nat) : (s.applyEntry k).ctxs = s.ctxs := rfl
@[simp] theorem State.applyEntry_parts (s : State) (k : Nat) : (s.applyEntry k).parts = s.parts := rfl
@[simp] theorem State.applyEntry_threads (s : State) (k : Nat) : (s.applyEntry k).threads = s.threads := rfl
@[simp] theorem State.applyEntry_streams (s : State) (k : Nat) : (s.applyEntry k).streams = s.streams := rfl
@[simp] theorem State.applyEntry_coh (s : State) (k : Nat) : (s.applyEntry k).coh = s.coh := rfl
@[simp] theorem State.applyEntry_dram (s : State) (k : Nat) : (s.applyEntry k).dram = s.dram := rfl
@[simp] theorem State.applyEntry_tlb (s : State) (k : Nat) : (s.applyEntry k).tlb = s.tlb := rfl
@[simp] theorem State.applyEntry_fq (s : State) (k : Nat) : (s.applyEntry k).fq = s.fq := rfl
@[simp] theorem State.applyEntry_fabric (s : State) (k : Nat) : (s.applyEntry k).fabric = s.fabric := rfl
@[simp] theorem State.applyEntry_host (s : State) (k : Nat) : (s.applyEntry k).host = s.host := rfl
@[simp] theorem State.applyEntry_irq (s : State) (k : Nat) : (s.applyEntry k).irq = s.irq := rfl
@[simp] theorem State.applyEntry_guests (s : State) (k : Nat) : (s.applyEntry k).guests = s.guests := rfl
@[simp] theorem State.applyEntry_pe1 (s : State) (k : Nat) : (s.applyEntry k).pe1 = s.pe1 := rfl
@[simp] theorem State.applyEntry_power (s : State) (k : Nat) : (s.applyEntry k).power = s.power := rfl
@[simp] theorem State.applyEntry_integ (s : State) (k : Nat) : (s.applyEntry k).integ = s.integ := rfl
@[simp] theorem State.applyEntry_sec (s : State) (k : Nat) : (s.applyEntry k).sec = s.sec := rfl
@[simp] theorem State.applyEntry_banks (s : State) (k : Nat) : (s.applyEntry k).banks = s.banks := rfl
@[simp] theorem State.applyEntry_ctrs (s : State) (k : Nat) : (s.applyEntry k).ctrs = s.ctrs := rfl
@[simp] theorem State.applyEntry_asleep (s : State) (k : Nat) : (s.applyEntry k).asleep = s.asleep := rfl
@[simp] theorem State.applyEntry_out (s : State) (k : Nat) : (s.applyEntry k).out = s.out := rfl

/-! The fields that `dropEntry` leaves. -/

@[simp] theorem State.dropEntry_pending (s : State) (k : Nat) : (s.dropEntry k).pending = s.pending := rfl
@[simp] theorem State.dropEntry_now (s : State) (k : Nat) : (s.dropEntry k).now = s.now := rfl
@[simp] theorem State.dropEntry_freeIx (s : State) (k : Nat) : (s.dropEntry k).freeIx = s.freeIx := rfl
@[simp] theorem State.dropEntry_dev (s : State) (k : Nat) : (s.dropEntry k).dev = s.dev := rfl
@[simp] theorem State.dropEntry_mem (s : State) (k : Nat) : (s.dropEntry k).mem = s.mem := rfl
@[simp] theorem State.dropEntry_bad (s : State) (k : Nat) : (s.dropEntry k).bad = s.bad := rfl
@[simp] theorem State.dropEntry_ctxs (s : State) (k : Nat) : (s.dropEntry k).ctxs = s.ctxs := rfl
@[simp] theorem State.dropEntry_parts (s : State) (k : Nat) : (s.dropEntry k).parts = s.parts := rfl
@[simp] theorem State.dropEntry_threads (s : State) (k : Nat) : (s.dropEntry k).threads = s.threads := rfl
@[simp] theorem State.dropEntry_streams (s : State) (k : Nat) : (s.dropEntry k).streams = s.streams := rfl
@[simp] theorem State.dropEntry_coh (s : State) (k : Nat) : (s.dropEntry k).coh = s.coh := rfl
@[simp] theorem State.dropEntry_dram (s : State) (k : Nat) : (s.dropEntry k).dram = s.dram := rfl
@[simp] theorem State.dropEntry_tlb (s : State) (k : Nat) : (s.dropEntry k).tlb = s.tlb := rfl
@[simp] theorem State.dropEntry_fq (s : State) (k : Nat) : (s.dropEntry k).fq = s.fq := rfl
@[simp] theorem State.dropEntry_fabric (s : State) (k : Nat) : (s.dropEntry k).fabric = s.fabric := rfl
@[simp] theorem State.dropEntry_host (s : State) (k : Nat) : (s.dropEntry k).host = s.host := rfl
@[simp] theorem State.dropEntry_irq (s : State) (k : Nat) : (s.dropEntry k).irq = s.irq := rfl
@[simp] theorem State.dropEntry_guests (s : State) (k : Nat) : (s.dropEntry k).guests = s.guests := rfl
@[simp] theorem State.dropEntry_pe1 (s : State) (k : Nat) : (s.dropEntry k).pe1 = s.pe1 := rfl
@[simp] theorem State.dropEntry_power (s : State) (k : Nat) : (s.dropEntry k).power = s.power := rfl
@[simp] theorem State.dropEntry_integ (s : State) (k : Nat) : (s.dropEntry k).integ = s.integ := rfl
@[simp] theorem State.dropEntry_sec (s : State) (k : Nat) : (s.dropEntry k).sec = s.sec := rfl
@[simp] theorem State.dropEntry_banks (s : State) (k : Nat) : (s.dropEntry k).banks = s.banks := rfl
@[simp] theorem State.dropEntry_ctrs (s : State) (k : Nat) : (s.dropEntry k).ctrs = s.ctrs := rfl
@[simp] theorem State.dropEntry_asleep (s : State) (k : Nat) : (s.dropEntry k).asleep = s.asleep := rfl
@[simp] theorem State.dropEntry_out (s : State) (k : Nat) : (s.dropEntry k).out = s.out := rfl

/-! The fields that `setPort` leaves. -/

@[simp] theorem State.setPort_pending (s : State) (p : Nat) (x : LinkPort) : (s.setPort p x).pending = s.pending := rfl
@[simp] theorem State.setPort_now (s : State) (p : Nat) (x : LinkPort) : (s.setPort p x).now = s.now := rfl
@[simp] theorem State.setPort_freeIx (s : State) (p : Nat) (x : LinkPort) : (s.setPort p x).freeIx = s.freeIx := rfl
@[simp] theorem State.setPort_dev (s : State) (p : Nat) (x : LinkPort) : (s.setPort p x).dev = s.dev := rfl
@[simp] theorem State.setPort_mem (s : State) (p : Nat) (x : LinkPort) : (s.setPort p x).mem = s.mem := rfl
@[simp] theorem State.setPort_bad (s : State) (p : Nat) (x : LinkPort) : (s.setPort p x).bad = s.bad := rfl
@[simp] theorem State.setPort_ctxs (s : State) (p : Nat) (x : LinkPort) : (s.setPort p x).ctxs = s.ctxs := rfl
@[simp] theorem State.setPort_parts (s : State) (p : Nat) (x : LinkPort) : (s.setPort p x).parts = s.parts := rfl
@[simp] theorem State.setPort_threads (s : State) (p : Nat) (x : LinkPort) : (s.setPort p x).threads = s.threads := rfl
@[simp] theorem State.setPort_streams (s : State) (p : Nat) (x : LinkPort) : (s.setPort p x).streams = s.streams := rfl
@[simp] theorem State.setPort_coh (s : State) (p : Nat) (x : LinkPort) : (s.setPort p x).coh = s.coh := rfl
@[simp] theorem State.setPort_dram (s : State) (p : Nat) (x : LinkPort) : (s.setPort p x).dram = s.dram := rfl
@[simp] theorem State.setPort_tlb (s : State) (p : Nat) (x : LinkPort) : (s.setPort p x).tlb = s.tlb := rfl
@[simp] theorem State.setPort_fq (s : State) (p : Nat) (x : LinkPort) : (s.setPort p x).fq = s.fq := rfl
@[simp] theorem State.setPort_host (s : State) (p : Nat) (x : LinkPort) : (s.setPort p x).host = s.host := rfl
@[simp] theorem State.setPort_irq (s : State) (p : Nat) (x : LinkPort) : (s.setPort p x).irq = s.irq := rfl
@[simp] theorem State.setPort_guests (s : State) (p : Nat) (x : LinkPort) : (s.setPort p x).guests = s.guests := rfl
@[simp] theorem State.setPort_pe1 (s : State) (p : Nat) (x : LinkPort) : (s.setPort p x).pe1 = s.pe1 := rfl
@[simp] theorem State.setPort_power (s : State) (p : Nat) (x : LinkPort) : (s.setPort p x).power = s.power := rfl
@[simp] theorem State.setPort_integ (s : State) (p : Nat) (x : LinkPort) : (s.setPort p x).integ = s.integ := rfl
@[simp] theorem State.setPort_sec (s : State) (p : Nat) (x : LinkPort) : (s.setPort p x).sec = s.sec := rfl
@[simp] theorem State.setPort_dict (s : State) (p : Nat) (x : LinkPort) : (s.setPort p x).dict = s.dict := rfl
@[simp] theorem State.setPort_banks (s : State) (p : Nat) (x : LinkPort) : (s.setPort p x).banks = s.banks := rfl
@[simp] theorem State.setPort_ctrs (s : State) (p : Nat) (x : LinkPort) : (s.setPort p x).ctrs = s.ctrs := rfl
@[simp] theorem State.setPort_asleep (s : State) (p : Nat) (x : LinkPort) : (s.setPort p x).asleep = s.asleep := rfl
@[simp] theorem State.setPort_out (s : State) (p : Nat) (x : LinkPort) : (s.setPort p x).out = s.out := rfl

/-! The fields that `setRun` leaves. -/

@[simp] theorem State.setRun_pending (s : State) (c : Nat) (r : Option CollRun) : (s.setRun c r).pending = s.pending := rfl
@[simp] theorem State.setRun_now (s : State) (c : Nat) (r : Option CollRun) : (s.setRun c r).now = s.now := rfl
@[simp] theorem State.setRun_freeIx (s : State) (c : Nat) (r : Option CollRun) : (s.setRun c r).freeIx = s.freeIx := rfl
@[simp] theorem State.setRun_dev (s : State) (c : Nat) (r : Option CollRun) : (s.setRun c r).dev = s.dev := rfl
@[simp] theorem State.setRun_mem (s : State) (c : Nat) (r : Option CollRun) : (s.setRun c r).mem = s.mem := rfl
@[simp] theorem State.setRun_bad (s : State) (c : Nat) (r : Option CollRun) : (s.setRun c r).bad = s.bad := rfl
@[simp] theorem State.setRun_ctxs (s : State) (c : Nat) (r : Option CollRun) : (s.setRun c r).ctxs = s.ctxs := rfl
@[simp] theorem State.setRun_parts (s : State) (c : Nat) (r : Option CollRun) : (s.setRun c r).parts = s.parts := rfl
@[simp] theorem State.setRun_threads (s : State) (c : Nat) (r : Option CollRun) : (s.setRun c r).threads = s.threads := rfl
@[simp] theorem State.setRun_streams (s : State) (c : Nat) (r : Option CollRun) : (s.setRun c r).streams = s.streams := rfl
@[simp] theorem State.setRun_coh (s : State) (c : Nat) (r : Option CollRun) : (s.setRun c r).coh = s.coh := rfl
@[simp] theorem State.setRun_dram (s : State) (c : Nat) (r : Option CollRun) : (s.setRun c r).dram = s.dram := rfl
@[simp] theorem State.setRun_tlb (s : State) (c : Nat) (r : Option CollRun) : (s.setRun c r).tlb = s.tlb := rfl
@[simp] theorem State.setRun_fq (s : State) (c : Nat) (r : Option CollRun) : (s.setRun c r).fq = s.fq := rfl
@[simp] theorem State.setRun_host (s : State) (c : Nat) (r : Option CollRun) : (s.setRun c r).host = s.host := rfl
@[simp] theorem State.setRun_irq (s : State) (c : Nat) (r : Option CollRun) : (s.setRun c r).irq = s.irq := rfl
@[simp] theorem State.setRun_guests (s : State) (c : Nat) (r : Option CollRun) : (s.setRun c r).guests = s.guests := rfl
@[simp] theorem State.setRun_pe1 (s : State) (c : Nat) (r : Option CollRun) : (s.setRun c r).pe1 = s.pe1 := rfl
@[simp] theorem State.setRun_power (s : State) (c : Nat) (r : Option CollRun) : (s.setRun c r).power = s.power := rfl
@[simp] theorem State.setRun_integ (s : State) (c : Nat) (r : Option CollRun) : (s.setRun c r).integ = s.integ := rfl
@[simp] theorem State.setRun_sec (s : State) (c : Nat) (r : Option CollRun) : (s.setRun c r).sec = s.sec := rfl
@[simp] theorem State.setRun_dict (s : State) (c : Nat) (r : Option CollRun) : (s.setRun c r).dict = s.dict := rfl
@[simp] theorem State.setRun_banks (s : State) (c : Nat) (r : Option CollRun) : (s.setRun c r).banks = s.banks := rfl
@[simp] theorem State.setRun_ctrs (s : State) (c : Nat) (r : Option CollRun) : (s.setRun c r).ctrs = s.ctrs := rfl
@[simp] theorem State.setRun_asleep (s : State) (c : Nat) (r : Option CollRun) : (s.setRun c r).asleep = s.asleep := rfl
@[simp] theorem State.setRun_out (s : State) (c : Nat) (r : Option CollRun) : (s.setRun c r).out = s.out := rfl

/-! The fields that `setLevel` leaves. -/

@[simp] theorem State.setLevel_pending (s : State) (k v : Nat) : (s.setLevel k v).pending = s.pending := rfl
@[simp] theorem State.setLevel_now (s : State) (k v : Nat) : (s.setLevel k v).now = s.now := rfl
@[simp] theorem State.setLevel_freeIx (s : State) (k v : Nat) : (s.setLevel k v).freeIx = s.freeIx := rfl
@[simp] theorem State.setLevel_dev (s : State) (k v : Nat) : (s.setLevel k v).dev = s.dev := rfl
@[simp] theorem State.setLevel_mem (s : State) (k v : Nat) : (s.setLevel k v).mem = s.mem := rfl
@[simp] theorem State.setLevel_bad (s : State) (k v : Nat) : (s.setLevel k v).bad = s.bad := rfl
@[simp] theorem State.setLevel_ctxs (s : State) (k v : Nat) : (s.setLevel k v).ctxs = s.ctxs := rfl
@[simp] theorem State.setLevel_parts (s : State) (k v : Nat) : (s.setLevel k v).parts = s.parts := rfl
@[simp] theorem State.setLevel_threads (s : State) (k v : Nat) : (s.setLevel k v).threads = s.threads := rfl
@[simp] theorem State.setLevel_streams (s : State) (k v : Nat) : (s.setLevel k v).streams = s.streams := rfl
@[simp] theorem State.setLevel_coh (s : State) (k v : Nat) : (s.setLevel k v).coh = s.coh := rfl
@[simp] theorem State.setLevel_dram (s : State) (k v : Nat) : (s.setLevel k v).dram = s.dram := rfl
@[simp] theorem State.setLevel_tlb (s : State) (k v : Nat) : (s.setLevel k v).tlb = s.tlb := rfl
@[simp] theorem State.setLevel_fq (s : State) (k v : Nat) : (s.setLevel k v).fq = s.fq := rfl
@[simp] theorem State.setLevel_fabric (s : State) (k v : Nat) : (s.setLevel k v).fabric = s.fabric := rfl
@[simp] theorem State.setLevel_host (s : State) (k v : Nat) : (s.setLevel k v).host = s.host := rfl
@[simp] theorem State.setLevel_irq (s : State) (k v : Nat) : (s.setLevel k v).irq = s.irq := rfl
@[simp] theorem State.setLevel_guests (s : State) (k v : Nat) : (s.setLevel k v).guests = s.guests := rfl
@[simp] theorem State.setLevel_pe1 (s : State) (k v : Nat) : (s.setLevel k v).pe1 = s.pe1 := rfl
@[simp] theorem State.setLevel_power (s : State) (k v : Nat) : (s.setLevel k v).power = s.power := rfl
@[simp] theorem State.setLevel_sec (s : State) (k v : Nat) : (s.setLevel k v).sec = s.sec := rfl
@[simp] theorem State.setLevel_dict (s : State) (k v : Nat) : (s.setLevel k v).dict = s.dict := rfl
@[simp] theorem State.setLevel_banks (s : State) (k v : Nat) : (s.setLevel k v).banks = s.banks := rfl
@[simp] theorem State.setLevel_ctrs (s : State) (k v : Nat) : (s.setLevel k v).ctrs = s.ctrs := rfl
@[simp] theorem State.setLevel_asleep (s : State) (k v : Nat) : (s.setLevel k v).asleep = s.asleep := rfl
@[simp] theorem State.setLevel_out (s : State) (k v : Nat) : (s.setLevel k v).out = s.out := rfl

/-! The fields that `setPc` leaves. -/

@[simp] theorem State.setPc_pending (s : State) (d c v : Nat) : (s.setPc d c v).pending = s.pending := rfl
@[simp] theorem State.setPc_now (s : State) (d c v : Nat) : (s.setPc d c v).now = s.now := rfl
@[simp] theorem State.setPc_freeIx (s : State) (d c v : Nat) : (s.setPc d c v).freeIx = s.freeIx := rfl
@[simp] theorem State.setPc_dev (s : State) (d c v : Nat) : (s.setPc d c v).dev = s.dev := rfl
@[simp] theorem State.setPc_mem (s : State) (d c v : Nat) : (s.setPc d c v).mem = s.mem := rfl
@[simp] theorem State.setPc_bad (s : State) (d c v : Nat) : (s.setPc d c v).bad = s.bad := rfl
@[simp] theorem State.setPc_ctxs (s : State) (d c v : Nat) : (s.setPc d c v).ctxs = s.ctxs := rfl
@[simp] theorem State.setPc_parts (s : State) (d c v : Nat) : (s.setPc d c v).parts = s.parts := rfl
@[simp] theorem State.setPc_threads (s : State) (d c v : Nat) : (s.setPc d c v).threads = s.threads := rfl
@[simp] theorem State.setPc_streams (s : State) (d c v : Nat) : (s.setPc d c v).streams = s.streams := rfl
@[simp] theorem State.setPc_coh (s : State) (d c v : Nat) : (s.setPc d c v).coh = s.coh := rfl
@[simp] theorem State.setPc_tlb (s : State) (d c v : Nat) : (s.setPc d c v).tlb = s.tlb := rfl
@[simp] theorem State.setPc_fq (s : State) (d c v : Nat) : (s.setPc d c v).fq = s.fq := rfl
@[simp] theorem State.setPc_fabric (s : State) (d c v : Nat) : (s.setPc d c v).fabric = s.fabric := rfl
@[simp] theorem State.setPc_host (s : State) (d c v : Nat) : (s.setPc d c v).host = s.host := rfl
@[simp] theorem State.setPc_irq (s : State) (d c v : Nat) : (s.setPc d c v).irq = s.irq := rfl
@[simp] theorem State.setPc_guests (s : State) (d c v : Nat) : (s.setPc d c v).guests = s.guests := rfl
@[simp] theorem State.setPc_pe1 (s : State) (d c v : Nat) : (s.setPc d c v).pe1 = s.pe1 := rfl
@[simp] theorem State.setPc_power (s : State) (d c v : Nat) : (s.setPc d c v).power = s.power := rfl
@[simp] theorem State.setPc_integ (s : State) (d c v : Nat) : (s.setPc d c v).integ = s.integ := rfl
@[simp] theorem State.setPc_sec (s : State) (d c v : Nat) : (s.setPc d c v).sec = s.sec := rfl
@[simp] theorem State.setPc_dict (s : State) (d c v : Nat) : (s.setPc d c v).dict = s.dict := rfl
@[simp] theorem State.setPc_banks (s : State) (d c v : Nat) : (s.setPc d c v).banks = s.banks := rfl
@[simp] theorem State.setPc_ctrs (s : State) (d c v : Nat) : (s.setPc d c v).ctrs = s.ctrs := rfl
@[simp] theorem State.setPc_asleep (s : State) (d c v : Nat) : (s.setPc d c v).asleep = s.asleep := rfl
@[simp] theorem State.setPc_out (s : State) (d c v : Nat) : (s.setPc d c v).out = s.out := rfl

/-! The fields that `post` leaves. -/

@[simp] theorem State.post_pending (s : State) (m : CohMsg) : (s.post m).pending = s.pending := rfl
@[simp] theorem State.post_now (s : State) (m : CohMsg) : (s.post m).now = s.now := rfl
@[simp] theorem State.post_freeIx (s : State) (m : CohMsg) : (s.post m).freeIx = s.freeIx := rfl
@[simp] theorem State.post_dev (s : State) (m : CohMsg) : (s.post m).dev = s.dev := rfl
@[simp] theorem State.post_mem (s : State) (m : CohMsg) : (s.post m).mem = s.mem := rfl
@[simp] theorem State.post_bad (s : State) (m : CohMsg) : (s.post m).bad = s.bad := rfl
@[simp] theorem State.post_ctxs (s : State) (m : CohMsg) : (s.post m).ctxs = s.ctxs := rfl
@[simp] theorem State.post_parts (s : State) (m : CohMsg) : (s.post m).parts = s.parts := rfl
@[simp] theorem State.post_threads (s : State) (m : CohMsg) : (s.post m).threads = s.threads := rfl
@[simp] theorem State.post_streams (s : State) (m : CohMsg) : (s.post m).streams = s.streams := rfl
@[simp] theorem State.post_dram (s : State) (m : CohMsg) : (s.post m).dram = s.dram := rfl
@[simp] theorem State.post_tlb (s : State) (m : CohMsg) : (s.post m).tlb = s.tlb := rfl
@[simp] theorem State.post_fq (s : State) (m : CohMsg) : (s.post m).fq = s.fq := rfl
@[simp] theorem State.post_fabric (s : State) (m : CohMsg) : (s.post m).fabric = s.fabric := rfl
@[simp] theorem State.post_host (s : State) (m : CohMsg) : (s.post m).host = s.host := rfl
@[simp] theorem State.post_irq (s : State) (m : CohMsg) : (s.post m).irq = s.irq := rfl
@[simp] theorem State.post_guests (s : State) (m : CohMsg) : (s.post m).guests = s.guests := rfl
@[simp] theorem State.post_pe1 (s : State) (m : CohMsg) : (s.post m).pe1 = s.pe1 := rfl
@[simp] theorem State.post_power (s : State) (m : CohMsg) : (s.post m).power = s.power := rfl
@[simp] theorem State.post_integ (s : State) (m : CohMsg) : (s.post m).integ = s.integ := rfl
@[simp] theorem State.post_sec (s : State) (m : CohMsg) : (s.post m).sec = s.sec := rfl
@[simp] theorem State.post_dict (s : State) (m : CohMsg) : (s.post m).dict = s.dict := rfl
@[simp] theorem State.post_banks (s : State) (m : CohMsg) : (s.post m).banks = s.banks := rfl
@[simp] theorem State.post_ctrs (s : State) (m : CohMsg) : (s.post m).ctrs = s.ctrs := rfl
@[simp] theorem State.post_asleep (s : State) (m : CohMsg) : (s.post m).asleep = s.asleep := rfl
@[simp] theorem State.post_out (s : State) (m : CohMsg) : (s.post m).out = s.out := rfl

/-! The fields that `unpost` leaves. -/

@[simp] theorem State.unpost_pending (s : State) (m : CohMsg) : (s.unpost m).pending = s.pending := rfl
@[simp] theorem State.unpost_now (s : State) (m : CohMsg) : (s.unpost m).now = s.now := rfl
@[simp] theorem State.unpost_freeIx (s : State) (m : CohMsg) : (s.unpost m).freeIx = s.freeIx := rfl
@[simp] theorem State.unpost_dev (s : State) (m : CohMsg) : (s.unpost m).dev = s.dev := rfl
@[simp] theorem State.unpost_mem (s : State) (m : CohMsg) : (s.unpost m).mem = s.mem := rfl
@[simp] theorem State.unpost_bad (s : State) (m : CohMsg) : (s.unpost m).bad = s.bad := rfl
@[simp] theorem State.unpost_ctxs (s : State) (m : CohMsg) : (s.unpost m).ctxs = s.ctxs := rfl
@[simp] theorem State.unpost_parts (s : State) (m : CohMsg) : (s.unpost m).parts = s.parts := rfl
@[simp] theorem State.unpost_threads (s : State) (m : CohMsg) : (s.unpost m).threads = s.threads := rfl
@[simp] theorem State.unpost_streams (s : State) (m : CohMsg) : (s.unpost m).streams = s.streams := rfl
@[simp] theorem State.unpost_dram (s : State) (m : CohMsg) : (s.unpost m).dram = s.dram := rfl
@[simp] theorem State.unpost_tlb (s : State) (m : CohMsg) : (s.unpost m).tlb = s.tlb := rfl
@[simp] theorem State.unpost_fq (s : State) (m : CohMsg) : (s.unpost m).fq = s.fq := rfl
@[simp] theorem State.unpost_fabric (s : State) (m : CohMsg) : (s.unpost m).fabric = s.fabric := rfl
@[simp] theorem State.unpost_host (s : State) (m : CohMsg) : (s.unpost m).host = s.host := rfl
@[simp] theorem State.unpost_irq (s : State) (m : CohMsg) : (s.unpost m).irq = s.irq := rfl
@[simp] theorem State.unpost_guests (s : State) (m : CohMsg) : (s.unpost m).guests = s.guests := rfl
@[simp] theorem State.unpost_pe1 (s : State) (m : CohMsg) : (s.unpost m).pe1 = s.pe1 := rfl
@[simp] theorem State.unpost_power (s : State) (m : CohMsg) : (s.unpost m).power = s.power := rfl
@[simp] theorem State.unpost_integ (s : State) (m : CohMsg) : (s.unpost m).integ = s.integ := rfl
@[simp] theorem State.unpost_sec (s : State) (m : CohMsg) : (s.unpost m).sec = s.sec := rfl
@[simp] theorem State.unpost_dict (s : State) (m : CohMsg) : (s.unpost m).dict = s.dict := rfl
@[simp] theorem State.unpost_banks (s : State) (m : CohMsg) : (s.unpost m).banks = s.banks := rfl
@[simp] theorem State.unpost_ctrs (s : State) (m : CohMsg) : (s.unpost m).ctrs = s.ctrs := rfl
@[simp] theorem State.unpost_asleep (s : State) (m : CohMsg) : (s.unpost m).asleep = s.asleep := rfl
@[simp] theorem State.unpost_out (s : State) (m : CohMsg) : (s.unpost m).out = s.out := rfl

/-! The fields that `setBank` leaves. -/

@[simp] theorem State.setBank_pending (s : State) (b : Nat) (x : CtxBank) : (s.setBank b x).pending = s.pending := rfl
@[simp] theorem State.setBank_now (s : State) (b : Nat) (x : CtxBank) : (s.setBank b x).now = s.now := rfl
@[simp] theorem State.setBank_freeIx (s : State) (b : Nat) (x : CtxBank) : (s.setBank b x).freeIx = s.freeIx := rfl
@[simp] theorem State.setBank_dev (s : State) (b : Nat) (x : CtxBank) : (s.setBank b x).dev = s.dev := rfl
@[simp] theorem State.setBank_mem (s : State) (b : Nat) (x : CtxBank) : (s.setBank b x).mem = s.mem := rfl
@[simp] theorem State.setBank_bad (s : State) (b : Nat) (x : CtxBank) : (s.setBank b x).bad = s.bad := rfl
@[simp] theorem State.setBank_ctxs (s : State) (b : Nat) (x : CtxBank) : (s.setBank b x).ctxs = s.ctxs := rfl
@[simp] theorem State.setBank_parts (s : State) (b : Nat) (x : CtxBank) : (s.setBank b x).parts = s.parts := rfl
@[simp] theorem State.setBank_threads (s : State) (b : Nat) (x : CtxBank) : (s.setBank b x).threads = s.threads := rfl
@[simp] theorem State.setBank_streams (s : State) (b : Nat) (x : CtxBank) : (s.setBank b x).streams = s.streams := rfl
@[simp] theorem State.setBank_coh (s : State) (b : Nat) (x : CtxBank) : (s.setBank b x).coh = s.coh := rfl
@[simp] theorem State.setBank_dram (s : State) (b : Nat) (x : CtxBank) : (s.setBank b x).dram = s.dram := rfl
@[simp] theorem State.setBank_tlb (s : State) (b : Nat) (x : CtxBank) : (s.setBank b x).tlb = s.tlb := rfl
@[simp] theorem State.setBank_fq (s : State) (b : Nat) (x : CtxBank) : (s.setBank b x).fq = s.fq := rfl
@[simp] theorem State.setBank_fabric (s : State) (b : Nat) (x : CtxBank) : (s.setBank b x).fabric = s.fabric := rfl
@[simp] theorem State.setBank_host (s : State) (b : Nat) (x : CtxBank) : (s.setBank b x).host = s.host := rfl
@[simp] theorem State.setBank_irq (s : State) (b : Nat) (x : CtxBank) : (s.setBank b x).irq = s.irq := rfl
@[simp] theorem State.setBank_guests (s : State) (b : Nat) (x : CtxBank) : (s.setBank b x).guests = s.guests := rfl
@[simp] theorem State.setBank_pe1 (s : State) (b : Nat) (x : CtxBank) : (s.setBank b x).pe1 = s.pe1 := rfl
@[simp] theorem State.setBank_power (s : State) (b : Nat) (x : CtxBank) : (s.setBank b x).power = s.power := rfl
@[simp] theorem State.setBank_integ (s : State) (b : Nat) (x : CtxBank) : (s.setBank b x).integ = s.integ := rfl
@[simp] theorem State.setBank_sec (s : State) (b : Nat) (x : CtxBank) : (s.setBank b x).sec = s.sec := rfl
@[simp] theorem State.setBank_dict (s : State) (b : Nat) (x : CtxBank) : (s.setBank b x).dict = s.dict := rfl
@[simp] theorem State.setBank_ctrs (s : State) (b : Nat) (x : CtxBank) : (s.setBank b x).ctrs = s.ctrs := rfl
@[simp] theorem State.setBank_asleep (s : State) (b : Nat) (x : CtxBank) : (s.setBank b x).asleep = s.asleep := rfl
@[simp] theorem State.setBank_out (s : State) (b : Nat) (x : CtxBank) : (s.setBank b x).out = s.out := rfl

/-! The fields that `updHost` leaves. -/

@[simp] theorem State.updHost_pending (s : State) (c : Nat) (f : HostSide → HostSide) : (s.updHost c f).pending = s.pending := rfl
@[simp] theorem State.updHost_now (s : State) (c : Nat) (f : HostSide → HostSide) : (s.updHost c f).now = s.now := rfl
@[simp] theorem State.updHost_freeIx (s : State) (c : Nat) (f : HostSide → HostSide) : (s.updHost c f).freeIx = s.freeIx := rfl
@[simp] theorem State.updHost_dev (s : State) (c : Nat) (f : HostSide → HostSide) : (s.updHost c f).dev = s.dev := rfl
@[simp] theorem State.updHost_mem (s : State) (c : Nat) (f : HostSide → HostSide) : (s.updHost c f).mem = s.mem := rfl
@[simp] theorem State.updHost_bad (s : State) (c : Nat) (f : HostSide → HostSide) : (s.updHost c f).bad = s.bad := rfl
@[simp] theorem State.updHost_parts (s : State) (c : Nat) (f : HostSide → HostSide) : (s.updHost c f).parts = s.parts := rfl
@[simp] theorem State.updHost_threads (s : State) (c : Nat) (f : HostSide → HostSide) : (s.updHost c f).threads = s.threads := rfl
@[simp] theorem State.updHost_streams (s : State) (c : Nat) (f : HostSide → HostSide) : (s.updHost c f).streams = s.streams := rfl
@[simp] theorem State.updHost_coh (s : State) (c : Nat) (f : HostSide → HostSide) : (s.updHost c f).coh = s.coh := rfl
@[simp] theorem State.updHost_dram (s : State) (c : Nat) (f : HostSide → HostSide) : (s.updHost c f).dram = s.dram := rfl
@[simp] theorem State.updHost_tlb (s : State) (c : Nat) (f : HostSide → HostSide) : (s.updHost c f).tlb = s.tlb := rfl
@[simp] theorem State.updHost_fq (s : State) (c : Nat) (f : HostSide → HostSide) : (s.updHost c f).fq = s.fq := rfl
@[simp] theorem State.updHost_fabric (s : State) (c : Nat) (f : HostSide → HostSide) : (s.updHost c f).fabric = s.fabric := rfl
@[simp] theorem State.updHost_host (s : State) (c : Nat) (f : HostSide → HostSide) : (s.updHost c f).host = s.host := rfl
@[simp] theorem State.updHost_irq (s : State) (c : Nat) (f : HostSide → HostSide) : (s.updHost c f).irq = s.irq := rfl
@[simp] theorem State.updHost_guests (s : State) (c : Nat) (f : HostSide → HostSide) : (s.updHost c f).guests = s.guests := rfl
@[simp] theorem State.updHost_pe1 (s : State) (c : Nat) (f : HostSide → HostSide) : (s.updHost c f).pe1 = s.pe1 := rfl
@[simp] theorem State.updHost_power (s : State) (c : Nat) (f : HostSide → HostSide) : (s.updHost c f).power = s.power := rfl
@[simp] theorem State.updHost_integ (s : State) (c : Nat) (f : HostSide → HostSide) : (s.updHost c f).integ = s.integ := rfl
@[simp] theorem State.updHost_sec (s : State) (c : Nat) (f : HostSide → HostSide) : (s.updHost c f).sec = s.sec := rfl
@[simp] theorem State.updHost_dict (s : State) (c : Nat) (f : HostSide → HostSide) : (s.updHost c f).dict = s.dict := rfl
@[simp] theorem State.updHost_banks (s : State) (c : Nat) (f : HostSide → HostSide) : (s.updHost c f).banks = s.banks := rfl
@[simp] theorem State.updHost_ctrs (s : State) (c : Nat) (f : HostSide → HostSide) : (s.updHost c f).ctrs = s.ctrs := rfl
@[simp] theorem State.updHost_asleep (s : State) (c : Nat) (f : HostSide → HostSide) : (s.updHost c f).asleep = s.asleep := rfl
@[simp] theorem State.updHost_out (s : State) (c : Nat) (f : HostSide → HostSide) : (s.updHost c f).out = s.out := rfl

/-! The fields that `setQp` leaves. -/

@[simp] theorem State.setQp_pending (s : State) (key : Nat) (x : QueuePair) : (s.setQp key x).pending = s.pending := rfl
@[simp] theorem State.setQp_now (s : State) (key : Nat) (x : QueuePair) : (s.setQp key x).now = s.now := rfl
@[simp] theorem State.setQp_freeIx (s : State) (key : Nat) (x : QueuePair) : (s.setQp key x).freeIx = s.freeIx := rfl
@[simp] theorem State.setQp_dev (s : State) (key : Nat) (x : QueuePair) : (s.setQp key x).dev = s.dev := rfl
@[simp] theorem State.setQp_mem (s : State) (key : Nat) (x : QueuePair) : (s.setQp key x).mem = s.mem := rfl
@[simp] theorem State.setQp_bad (s : State) (key : Nat) (x : QueuePair) : (s.setQp key x).bad = s.bad := rfl
@[simp] theorem State.setQp_ctxs (s : State) (key : Nat) (x : QueuePair) : (s.setQp key x).ctxs = s.ctxs := rfl
@[simp] theorem State.setQp_parts (s : State) (key : Nat) (x : QueuePair) : (s.setQp key x).parts = s.parts := rfl
@[simp] theorem State.setQp_threads (s : State) (key : Nat) (x : QueuePair) : (s.setQp key x).threads = s.threads := rfl
@[simp] theorem State.setQp_streams (s : State) (key : Nat) (x : QueuePair) : (s.setQp key x).streams = s.streams := rfl
@[simp] theorem State.setQp_coh (s : State) (key : Nat) (x : QueuePair) : (s.setQp key x).coh = s.coh := rfl
@[simp] theorem State.setQp_dram (s : State) (key : Nat) (x : QueuePair) : (s.setQp key x).dram = s.dram := rfl
@[simp] theorem State.setQp_tlb (s : State) (key : Nat) (x : QueuePair) : (s.setQp key x).tlb = s.tlb := rfl
@[simp] theorem State.setQp_fq (s : State) (key : Nat) (x : QueuePair) : (s.setQp key x).fq = s.fq := rfl
@[simp] theorem State.setQp_fabric (s : State) (key : Nat) (x : QueuePair) : (s.setQp key x).fabric = s.fabric := rfl
@[simp] theorem State.setQp_host (s : State) (key : Nat) (x : QueuePair) : (s.setQp key x).host = s.host := rfl
@[simp] theorem State.setQp_irq (s : State) (key : Nat) (x : QueuePair) : (s.setQp key x).irq = s.irq := rfl
@[simp] theorem State.setQp_guests (s : State) (key : Nat) (x : QueuePair) : (s.setQp key x).guests = s.guests := rfl
@[simp] theorem State.setQp_pe1 (s : State) (key : Nat) (x : QueuePair) : (s.setQp key x).pe1 = s.pe1 := rfl
@[simp] theorem State.setQp_power (s : State) (key : Nat) (x : QueuePair) : (s.setQp key x).power = s.power := rfl
@[simp] theorem State.setQp_integ (s : State) (key : Nat) (x : QueuePair) : (s.setQp key x).integ = s.integ := rfl
@[simp] theorem State.setQp_sec (s : State) (key : Nat) (x : QueuePair) : (s.setQp key x).sec = s.sec := rfl
@[simp] theorem State.setQp_dict (s : State) (key : Nat) (x : QueuePair) : (s.setQp key x).dict = s.dict := rfl
@[simp] theorem State.setQp_ctrs (s : State) (key : Nat) (x : QueuePair) : (s.setQp key x).ctrs = s.ctrs := rfl
@[simp] theorem State.setQp_asleep (s : State) (key : Nat) (x : QueuePair) : (s.setQp key x).asleep = s.asleep := rfl
@[simp] theorem State.setQp_out (s : State) (key : Nat) (x : QueuePair) : (s.setQp key x).out = s.out := rfl

/-! The fields that `setMail` leaves. -/

@[simp] theorem State.setMail_pending (s : State) (i : Nat) (x : Mailbox) : (s.setMail i x).pending = s.pending := rfl
@[simp] theorem State.setMail_now (s : State) (i : Nat) (x : Mailbox) : (s.setMail i x).now = s.now := rfl
@[simp] theorem State.setMail_freeIx (s : State) (i : Nat) (x : Mailbox) : (s.setMail i x).freeIx = s.freeIx := rfl
@[simp] theorem State.setMail_dev (s : State) (i : Nat) (x : Mailbox) : (s.setMail i x).dev = s.dev := rfl
@[simp] theorem State.setMail_mem (s : State) (i : Nat) (x : Mailbox) : (s.setMail i x).mem = s.mem := rfl
@[simp] theorem State.setMail_bad (s : State) (i : Nat) (x : Mailbox) : (s.setMail i x).bad = s.bad := rfl
@[simp] theorem State.setMail_ctxs (s : State) (i : Nat) (x : Mailbox) : (s.setMail i x).ctxs = s.ctxs := rfl
@[simp] theorem State.setMail_parts (s : State) (i : Nat) (x : Mailbox) : (s.setMail i x).parts = s.parts := rfl
@[simp] theorem State.setMail_threads (s : State) (i : Nat) (x : Mailbox) : (s.setMail i x).threads = s.threads := rfl
@[simp] theorem State.setMail_streams (s : State) (i : Nat) (x : Mailbox) : (s.setMail i x).streams = s.streams := rfl
@[simp] theorem State.setMail_coh (s : State) (i : Nat) (x : Mailbox) : (s.setMail i x).coh = s.coh := rfl
@[simp] theorem State.setMail_dram (s : State) (i : Nat) (x : Mailbox) : (s.setMail i x).dram = s.dram := rfl
@[simp] theorem State.setMail_tlb (s : State) (i : Nat) (x : Mailbox) : (s.setMail i x).tlb = s.tlb := rfl
@[simp] theorem State.setMail_fq (s : State) (i : Nat) (x : Mailbox) : (s.setMail i x).fq = s.fq := rfl
@[simp] theorem State.setMail_fabric (s : State) (i : Nat) (x : Mailbox) : (s.setMail i x).fabric = s.fabric := rfl
@[simp] theorem State.setMail_host (s : State) (i : Nat) (x : Mailbox) : (s.setMail i x).host = s.host := rfl
@[simp] theorem State.setMail_irq (s : State) (i : Nat) (x : Mailbox) : (s.setMail i x).irq = s.irq := rfl
@[simp] theorem State.setMail_guests (s : State) (i : Nat) (x : Mailbox) : (s.setMail i x).guests = s.guests := rfl
@[simp] theorem State.setMail_pe1 (s : State) (i : Nat) (x : Mailbox) : (s.setMail i x).pe1 = s.pe1 := rfl
@[simp] theorem State.setMail_power (s : State) (i : Nat) (x : Mailbox) : (s.setMail i x).power = s.power := rfl
@[simp] theorem State.setMail_integ (s : State) (i : Nat) (x : Mailbox) : (s.setMail i x).integ = s.integ := rfl
@[simp] theorem State.setMail_sec (s : State) (i : Nat) (x : Mailbox) : (s.setMail i x).sec = s.sec := rfl
@[simp] theorem State.setMail_dict (s : State) (i : Nat) (x : Mailbox) : (s.setMail i x).dict = s.dict := rfl
@[simp] theorem State.setMail_ctrs (s : State) (i : Nat) (x : Mailbox) : (s.setMail i x).ctrs = s.ctrs := rfl
@[simp] theorem State.setMail_asleep (s : State) (i : Nat) (x : Mailbox) : (s.setMail i x).asleep = s.asleep := rfl
@[simp] theorem State.setMail_out (s : State) (i : Nat) (x : Mailbox) : (s.setMail i x).out = s.out := rfl

/-! The fields that `setSampler` leaves. -/

@[simp] theorem State.setSampler_pending (s : State) (u : Nat) (x : Option Sampler) : (s.setSampler u x).pending = s.pending := rfl
@[simp] theorem State.setSampler_now (s : State) (u : Nat) (x : Option Sampler) : (s.setSampler u x).now = s.now := rfl
@[simp] theorem State.setSampler_freeIx (s : State) (u : Nat) (x : Option Sampler) : (s.setSampler u x).freeIx = s.freeIx := rfl
@[simp] theorem State.setSampler_dev (s : State) (u : Nat) (x : Option Sampler) : (s.setSampler u x).dev = s.dev := rfl
@[simp] theorem State.setSampler_mem (s : State) (u : Nat) (x : Option Sampler) : (s.setSampler u x).mem = s.mem := rfl
@[simp] theorem State.setSampler_bad (s : State) (u : Nat) (x : Option Sampler) : (s.setSampler u x).bad = s.bad := rfl
@[simp] theorem State.setSampler_ctxs (s : State) (u : Nat) (x : Option Sampler) : (s.setSampler u x).ctxs = s.ctxs := rfl
@[simp] theorem State.setSampler_parts (s : State) (u : Nat) (x : Option Sampler) : (s.setSampler u x).parts = s.parts := rfl
@[simp] theorem State.setSampler_streams (s : State) (u : Nat) (x : Option Sampler) : (s.setSampler u x).streams = s.streams := rfl
@[simp] theorem State.setSampler_coh (s : State) (u : Nat) (x : Option Sampler) : (s.setSampler u x).coh = s.coh := rfl
@[simp] theorem State.setSampler_dram (s : State) (u : Nat) (x : Option Sampler) : (s.setSampler u x).dram = s.dram := rfl
@[simp] theorem State.setSampler_tlb (s : State) (u : Nat) (x : Option Sampler) : (s.setSampler u x).tlb = s.tlb := rfl
@[simp] theorem State.setSampler_fq (s : State) (u : Nat) (x : Option Sampler) : (s.setSampler u x).fq = s.fq := rfl
@[simp] theorem State.setSampler_fabric (s : State) (u : Nat) (x : Option Sampler) : (s.setSampler u x).fabric = s.fabric := rfl
@[simp] theorem State.setSampler_host (s : State) (u : Nat) (x : Option Sampler) : (s.setSampler u x).host = s.host := rfl
@[simp] theorem State.setSampler_irq (s : State) (u : Nat) (x : Option Sampler) : (s.setSampler u x).irq = s.irq := rfl
@[simp] theorem State.setSampler_guests (s : State) (u : Nat) (x : Option Sampler) : (s.setSampler u x).guests = s.guests := rfl
@[simp] theorem State.setSampler_pe1 (s : State) (u : Nat) (x : Option Sampler) : (s.setSampler u x).pe1 = s.pe1 := rfl
@[simp] theorem State.setSampler_power (s : State) (u : Nat) (x : Option Sampler) : (s.setSampler u x).power = s.power := rfl
@[simp] theorem State.setSampler_integ (s : State) (u : Nat) (x : Option Sampler) : (s.setSampler u x).integ = s.integ := rfl
@[simp] theorem State.setSampler_sec (s : State) (u : Nat) (x : Option Sampler) : (s.setSampler u x).sec = s.sec := rfl
@[simp] theorem State.setSampler_dict (s : State) (u : Nat) (x : Option Sampler) : (s.setSampler u x).dict = s.dict := rfl
@[simp] theorem State.setSampler_banks (s : State) (u : Nat) (x : Option Sampler) : (s.setSampler u x).banks = s.banks := rfl
@[simp] theorem State.setSampler_ctrs (s : State) (u : Nat) (x : Option Sampler) : (s.setSampler u x).ctrs = s.ctrs := rfl
@[simp] theorem State.setSampler_asleep (s : State) (u : Nat) (x : Option Sampler) : (s.setSampler u x).asleep = s.asleep := rfl
@[simp] theorem State.setSampler_out (s : State) (u : Nat) (x : Option Sampler) : (s.setSampler u x).out = s.out := rfl

/-! The fields that `setCtrBlock` leaves. -/

@[simp] theorem State.setCtrBlock_pending (s : State) (b : Nat) (x : CounterBlock) : (s.setCtrBlock b x).pending = s.pending := rfl
@[simp] theorem State.setCtrBlock_now (s : State) (b : Nat) (x : CounterBlock) : (s.setCtrBlock b x).now = s.now := rfl
@[simp] theorem State.setCtrBlock_freeIx (s : State) (b : Nat) (x : CounterBlock) : (s.setCtrBlock b x).freeIx = s.freeIx := rfl
@[simp] theorem State.setCtrBlock_dev (s : State) (b : Nat) (x : CounterBlock) : (s.setCtrBlock b x).dev = s.dev := rfl
@[simp] theorem State.setCtrBlock_mem (s : State) (b : Nat) (x : CounterBlock) : (s.setCtrBlock b x).mem = s.mem := rfl
@[simp] theorem State.setCtrBlock_bad (s : State) (b : Nat) (x : CounterBlock) : (s.setCtrBlock b x).bad = s.bad := rfl
@[simp] theorem State.setCtrBlock_ctxs (s : State) (b : Nat) (x : CounterBlock) : (s.setCtrBlock b x).ctxs = s.ctxs := rfl
@[simp] theorem State.setCtrBlock_parts (s : State) (b : Nat) (x : CounterBlock) : (s.setCtrBlock b x).parts = s.parts := rfl
@[simp] theorem State.setCtrBlock_threads (s : State) (b : Nat) (x : CounterBlock) : (s.setCtrBlock b x).threads = s.threads := rfl
@[simp] theorem State.setCtrBlock_streams (s : State) (b : Nat) (x : CounterBlock) : (s.setCtrBlock b x).streams = s.streams := rfl
@[simp] theorem State.setCtrBlock_coh (s : State) (b : Nat) (x : CounterBlock) : (s.setCtrBlock b x).coh = s.coh := rfl
@[simp] theorem State.setCtrBlock_dram (s : State) (b : Nat) (x : CounterBlock) : (s.setCtrBlock b x).dram = s.dram := rfl
@[simp] theorem State.setCtrBlock_tlb (s : State) (b : Nat) (x : CounterBlock) : (s.setCtrBlock b x).tlb = s.tlb := rfl
@[simp] theorem State.setCtrBlock_fq (s : State) (b : Nat) (x : CounterBlock) : (s.setCtrBlock b x).fq = s.fq := rfl
@[simp] theorem State.setCtrBlock_fabric (s : State) (b : Nat) (x : CounterBlock) : (s.setCtrBlock b x).fabric = s.fabric := rfl
@[simp] theorem State.setCtrBlock_host (s : State) (b : Nat) (x : CounterBlock) : (s.setCtrBlock b x).host = s.host := rfl
@[simp] theorem State.setCtrBlock_irq (s : State) (b : Nat) (x : CounterBlock) : (s.setCtrBlock b x).irq = s.irq := rfl
@[simp] theorem State.setCtrBlock_guests (s : State) (b : Nat) (x : CounterBlock) : (s.setCtrBlock b x).guests = s.guests := rfl
@[simp] theorem State.setCtrBlock_pe1 (s : State) (b : Nat) (x : CounterBlock) : (s.setCtrBlock b x).pe1 = s.pe1 := rfl
@[simp] theorem State.setCtrBlock_power (s : State) (b : Nat) (x : CounterBlock) : (s.setCtrBlock b x).power = s.power := rfl
@[simp] theorem State.setCtrBlock_integ (s : State) (b : Nat) (x : CounterBlock) : (s.setCtrBlock b x).integ = s.integ := rfl
@[simp] theorem State.setCtrBlock_sec (s : State) (b : Nat) (x : CounterBlock) : (s.setCtrBlock b x).sec = s.sec := rfl
@[simp] theorem State.setCtrBlock_dict (s : State) (b : Nat) (x : CounterBlock) : (s.setCtrBlock b x).dict = s.dict := rfl
@[simp] theorem State.setCtrBlock_banks (s : State) (b : Nat) (x : CounterBlock) : (s.setCtrBlock b x).banks = s.banks := rfl
@[simp] theorem State.setCtrBlock_asleep (s : State) (b : Nat) (x : CounterBlock) : (s.setCtrBlock b x).asleep = s.asleep := rfl
@[simp] theorem State.setCtrBlock_out (s : State) (b : Nat) (x : CounterBlock) : (s.setCtrBlock b x).out = s.out := rfl

/-! The fields that `busReply` leaves. -/

@[simp] theorem State.busReply_pending (s : State) (dst : Nat) (d : Option (List Byte)) : (s.busReply dst d).pending = s.pending := rfl
@[simp] theorem State.busReply_now (s : State) (dst : Nat) (d : Option (List Byte)) : (s.busReply dst d).now = s.now := rfl
@[simp] theorem State.busReply_freeIx (s : State) (dst : Nat) (d : Option (List Byte)) : (s.busReply dst d).freeIx = s.freeIx := rfl
@[simp] theorem State.busReply_dev (s : State) (dst : Nat) (d : Option (List Byte)) : (s.busReply dst d).dev = s.dev := rfl
@[simp] theorem State.busReply_mem (s : State) (dst : Nat) (d : Option (List Byte)) : (s.busReply dst d).mem = s.mem := rfl
@[simp] theorem State.busReply_bad (s : State) (dst : Nat) (d : Option (List Byte)) : (s.busReply dst d).bad = s.bad := rfl
@[simp] theorem State.busReply_ctxs (s : State) (dst : Nat) (d : Option (List Byte)) : (s.busReply dst d).ctxs = s.ctxs := rfl
@[simp] theorem State.busReply_parts (s : State) (dst : Nat) (d : Option (List Byte)) : (s.busReply dst d).parts = s.parts := rfl
@[simp] theorem State.busReply_threads (s : State) (dst : Nat) (d : Option (List Byte)) : (s.busReply dst d).threads = s.threads := rfl
@[simp] theorem State.busReply_streams (s : State) (dst : Nat) (d : Option (List Byte)) : (s.busReply dst d).streams = s.streams := rfl
@[simp] theorem State.busReply_coh (s : State) (dst : Nat) (d : Option (List Byte)) : (s.busReply dst d).coh = s.coh := rfl
@[simp] theorem State.busReply_dram (s : State) (dst : Nat) (d : Option (List Byte)) : (s.busReply dst d).dram = s.dram := rfl
@[simp] theorem State.busReply_tlb (s : State) (dst : Nat) (d : Option (List Byte)) : (s.busReply dst d).tlb = s.tlb := rfl
@[simp] theorem State.busReply_fq (s : State) (dst : Nat) (d : Option (List Byte)) : (s.busReply dst d).fq = s.fq := rfl
@[simp] theorem State.busReply_fabric (s : State) (dst : Nat) (d : Option (List Byte)) : (s.busReply dst d).fabric = s.fabric := rfl
@[simp] theorem State.busReply_host (s : State) (dst : Nat) (d : Option (List Byte)) : (s.busReply dst d).host = s.host := rfl
@[simp] theorem State.busReply_irq (s : State) (dst : Nat) (d : Option (List Byte)) : (s.busReply dst d).irq = s.irq := rfl
@[simp] theorem State.busReply_guests (s : State) (dst : Nat) (d : Option (List Byte)) : (s.busReply dst d).guests = s.guests := rfl
@[simp] theorem State.busReply_pe1 (s : State) (dst : Nat) (d : Option (List Byte)) : (s.busReply dst d).pe1 = s.pe1 := rfl
@[simp] theorem State.busReply_integ (s : State) (dst : Nat) (d : Option (List Byte)) : (s.busReply dst d).integ = s.integ := rfl
@[simp] theorem State.busReply_sec (s : State) (dst : Nat) (d : Option (List Byte)) : (s.busReply dst d).sec = s.sec := rfl
@[simp] theorem State.busReply_dict (s : State) (dst : Nat) (d : Option (List Byte)) : (s.busReply dst d).dict = s.dict := rfl
@[simp] theorem State.busReply_banks (s : State) (dst : Nat) (d : Option (List Byte)) : (s.busReply dst d).banks = s.banks := rfl
@[simp] theorem State.busReply_ctrs (s : State) (dst : Nat) (d : Option (List Byte)) : (s.busReply dst d).ctrs = s.ctrs := rfl
@[simp] theorem State.busReply_asleep (s : State) (dst : Nat) (d : Option (List Byte)) : (s.busReply dst d).asleep = s.asleep := rfl

/-! The fields that `setPe1` leaves. -/

@[simp] theorem State.setPe1_pending (s : State) (port : Nat) (x : Pe1Port) : (s.setPe1 port x).pending = s.pending := rfl
@[simp] theorem State.setPe1_now (s : State) (port : Nat) (x : Pe1Port) : (s.setPe1 port x).now = s.now := rfl
@[simp] theorem State.setPe1_freeIx (s : State) (port : Nat) (x : Pe1Port) : (s.setPe1 port x).freeIx = s.freeIx := rfl
@[simp] theorem State.setPe1_dev (s : State) (port : Nat) (x : Pe1Port) : (s.setPe1 port x).dev = s.dev := rfl
@[simp] theorem State.setPe1_mem (s : State) (port : Nat) (x : Pe1Port) : (s.setPe1 port x).mem = s.mem := rfl
@[simp] theorem State.setPe1_bad (s : State) (port : Nat) (x : Pe1Port) : (s.setPe1 port x).bad = s.bad := rfl
@[simp] theorem State.setPe1_ctxs (s : State) (port : Nat) (x : Pe1Port) : (s.setPe1 port x).ctxs = s.ctxs := rfl
@[simp] theorem State.setPe1_parts (s : State) (port : Nat) (x : Pe1Port) : (s.setPe1 port x).parts = s.parts := rfl
@[simp] theorem State.setPe1_threads (s : State) (port : Nat) (x : Pe1Port) : (s.setPe1 port x).threads = s.threads := rfl
@[simp] theorem State.setPe1_streams (s : State) (port : Nat) (x : Pe1Port) : (s.setPe1 port x).streams = s.streams := rfl
@[simp] theorem State.setPe1_coh (s : State) (port : Nat) (x : Pe1Port) : (s.setPe1 port x).coh = s.coh := rfl
@[simp] theorem State.setPe1_dram (s : State) (port : Nat) (x : Pe1Port) : (s.setPe1 port x).dram = s.dram := rfl
@[simp] theorem State.setPe1_tlb (s : State) (port : Nat) (x : Pe1Port) : (s.setPe1 port x).tlb = s.tlb := rfl
@[simp] theorem State.setPe1_fq (s : State) (port : Nat) (x : Pe1Port) : (s.setPe1 port x).fq = s.fq := rfl
@[simp] theorem State.setPe1_fabric (s : State) (port : Nat) (x : Pe1Port) : (s.setPe1 port x).fabric = s.fabric := rfl
@[simp] theorem State.setPe1_host (s : State) (port : Nat) (x : Pe1Port) : (s.setPe1 port x).host = s.host := rfl
@[simp] theorem State.setPe1_irq (s : State) (port : Nat) (x : Pe1Port) : (s.setPe1 port x).irq = s.irq := rfl
@[simp] theorem State.setPe1_guests (s : State) (port : Nat) (x : Pe1Port) : (s.setPe1 port x).guests = s.guests := rfl
@[simp] theorem State.setPe1_power (s : State) (port : Nat) (x : Pe1Port) : (s.setPe1 port x).power = s.power := rfl
@[simp] theorem State.setPe1_integ (s : State) (port : Nat) (x : Pe1Port) : (s.setPe1 port x).integ = s.integ := rfl
@[simp] theorem State.setPe1_sec (s : State) (port : Nat) (x : Pe1Port) : (s.setPe1 port x).sec = s.sec := rfl
@[simp] theorem State.setPe1_dict (s : State) (port : Nat) (x : Pe1Port) : (s.setPe1 port x).dict = s.dict := rfl
@[simp] theorem State.setPe1_banks (s : State) (port : Nat) (x : Pe1Port) : (s.setPe1 port x).banks = s.banks := rfl
@[simp] theorem State.setPe1_ctrs (s : State) (port : Nat) (x : Pe1Port) : (s.setPe1 port x).ctrs = s.ctrs := rfl
@[simp] theorem State.setPe1_asleep (s : State) (port : Nat) (x : Pe1Port) : (s.setPe1 port x).asleep = s.asleep := rfl
@[simp] theorem State.setPe1_out (s : State) (port : Nat) (x : Pe1Port) : (s.setPe1 port x).out = s.out := rfl

/-! The fields that `sendRoce` leaves. -/

@[simp] theorem State.sendRoce_pending (s : State) (key op addr rkey len : Nat) (d : List Byte) : (s.sendRoce key op addr rkey len d).pending = s.pending := rfl
@[simp] theorem State.sendRoce_now (s : State) (key op addr rkey len : Nat) (d : List Byte) : (s.sendRoce key op addr rkey len d).now = s.now := rfl
@[simp] theorem State.sendRoce_freeIx (s : State) (key op addr rkey len : Nat) (d : List Byte) : (s.sendRoce key op addr rkey len d).freeIx = s.freeIx := rfl
@[simp] theorem State.sendRoce_dev (s : State) (key op addr rkey len : Nat) (d : List Byte) : (s.sendRoce key op addr rkey len d).dev = s.dev := rfl
@[simp] theorem State.sendRoce_mem (s : State) (key op addr rkey len : Nat) (d : List Byte) : (s.sendRoce key op addr rkey len d).mem = s.mem := rfl
@[simp] theorem State.sendRoce_bad (s : State) (key op addr rkey len : Nat) (d : List Byte) : (s.sendRoce key op addr rkey len d).bad = s.bad := rfl
@[simp] theorem State.sendRoce_ctxs (s : State) (key op addr rkey len : Nat) (d : List Byte) : (s.sendRoce key op addr rkey len d).ctxs = s.ctxs := rfl
@[simp] theorem State.sendRoce_parts (s : State) (key op addr rkey len : Nat) (d : List Byte) : (s.sendRoce key op addr rkey len d).parts = s.parts := rfl
@[simp] theorem State.sendRoce_threads (s : State) (key op addr rkey len : Nat) (d : List Byte) : (s.sendRoce key op addr rkey len d).threads = s.threads := rfl
@[simp] theorem State.sendRoce_streams (s : State) (key op addr rkey len : Nat) (d : List Byte) : (s.sendRoce key op addr rkey len d).streams = s.streams := rfl
@[simp] theorem State.sendRoce_coh (s : State) (key op addr rkey len : Nat) (d : List Byte) : (s.sendRoce key op addr rkey len d).coh = s.coh := rfl
@[simp] theorem State.sendRoce_dram (s : State) (key op addr rkey len : Nat) (d : List Byte) : (s.sendRoce key op addr rkey len d).dram = s.dram := rfl
@[simp] theorem State.sendRoce_tlb (s : State) (key op addr rkey len : Nat) (d : List Byte) : (s.sendRoce key op addr rkey len d).tlb = s.tlb := rfl
@[simp] theorem State.sendRoce_fq (s : State) (key op addr rkey len : Nat) (d : List Byte) : (s.sendRoce key op addr rkey len d).fq = s.fq := rfl
@[simp] theorem State.sendRoce_fabric (s : State) (key op addr rkey len : Nat) (d : List Byte) : (s.sendRoce key op addr rkey len d).fabric = s.fabric := rfl
@[simp] theorem State.sendRoce_host (s : State) (key op addr rkey len : Nat) (d : List Byte) : (s.sendRoce key op addr rkey len d).host = s.host := rfl
@[simp] theorem State.sendRoce_irq (s : State) (key op addr rkey len : Nat) (d : List Byte) : (s.sendRoce key op addr rkey len d).irq = s.irq := rfl
@[simp] theorem State.sendRoce_guests (s : State) (key op addr rkey len : Nat) (d : List Byte) : (s.sendRoce key op addr rkey len d).guests = s.guests := rfl
@[simp] theorem State.sendRoce_pe1 (s : State) (key op addr rkey len : Nat) (d : List Byte) : (s.sendRoce key op addr rkey len d).pe1 = s.pe1 := rfl
@[simp] theorem State.sendRoce_power (s : State) (key op addr rkey len : Nat) (d : List Byte) : (s.sendRoce key op addr rkey len d).power = s.power := rfl
@[simp] theorem State.sendRoce_integ (s : State) (key op addr rkey len : Nat) (d : List Byte) : (s.sendRoce key op addr rkey len d).integ = s.integ := rfl
@[simp] theorem State.sendRoce_sec (s : State) (key op addr rkey len : Nat) (d : List Byte) : (s.sendRoce key op addr rkey len d).sec = s.sec := rfl
@[simp] theorem State.sendRoce_dict (s : State) (key op addr rkey len : Nat) (d : List Byte) : (s.sendRoce key op addr rkey len d).dict = s.dict := rfl
@[simp] theorem State.sendRoce_ctrs (s : State) (key op addr rkey len : Nat) (d : List Byte) : (s.sendRoce key op addr rkey len d).ctrs = s.ctrs := rfl
@[simp] theorem State.sendRoce_asleep (s : State) (key op addr rkey len : Nat) (d : List Byte) : (s.sendRoce key op addr rkey len d).asleep = s.asleep := rfl

/-! The fields that `ignoreResume` leaves. -/

@[simp] theorem State.ignoreResume_pending (s : State)  : (s.ignoreResume ).pending = s.pending := rfl
@[simp] theorem State.ignoreResume_now (s : State)  : (s.ignoreResume ).now = s.now := rfl
@[simp] theorem State.ignoreResume_freeIx (s : State)  : (s.ignoreResume ).freeIx = s.freeIx := rfl
@[simp] theorem State.ignoreResume_dev (s : State)  : (s.ignoreResume ).dev = s.dev := rfl
@[simp] theorem State.ignoreResume_mem (s : State)  : (s.ignoreResume ).mem = s.mem := rfl
@[simp] theorem State.ignoreResume_bad (s : State)  : (s.ignoreResume ).bad = s.bad := rfl
@[simp] theorem State.ignoreResume_ctxs (s : State)  : (s.ignoreResume ).ctxs = s.ctxs := rfl
@[simp] theorem State.ignoreResume_parts (s : State)  : (s.ignoreResume ).parts = s.parts := rfl
@[simp] theorem State.ignoreResume_threads (s : State)  : (s.ignoreResume ).threads = s.threads := rfl
@[simp] theorem State.ignoreResume_streams (s : State)  : (s.ignoreResume ).streams = s.streams := rfl
@[simp] theorem State.ignoreResume_coh (s : State)  : (s.ignoreResume ).coh = s.coh := rfl
@[simp] theorem State.ignoreResume_dram (s : State)  : (s.ignoreResume ).dram = s.dram := rfl
@[simp] theorem State.ignoreResume_tlb (s : State)  : (s.ignoreResume ).tlb = s.tlb := rfl
@[simp] theorem State.ignoreResume_fabric (s : State)  : (s.ignoreResume ).fabric = s.fabric := rfl
@[simp] theorem State.ignoreResume_host (s : State)  : (s.ignoreResume ).host = s.host := rfl
@[simp] theorem State.ignoreResume_irq (s : State)  : (s.ignoreResume ).irq = s.irq := rfl
@[simp] theorem State.ignoreResume_guests (s : State)  : (s.ignoreResume ).guests = s.guests := rfl
@[simp] theorem State.ignoreResume_pe1 (s : State)  : (s.ignoreResume ).pe1 = s.pe1 := rfl
@[simp] theorem State.ignoreResume_power (s : State)  : (s.ignoreResume ).power = s.power := rfl
@[simp] theorem State.ignoreResume_integ (s : State)  : (s.ignoreResume ).integ = s.integ := rfl
@[simp] theorem State.ignoreResume_sec (s : State)  : (s.ignoreResume ).sec = s.sec := rfl
@[simp] theorem State.ignoreResume_dict (s : State)  : (s.ignoreResume ).dict = s.dict := rfl
@[simp] theorem State.ignoreResume_banks (s : State)  : (s.ignoreResume ).banks = s.banks := rfl
@[simp] theorem State.ignoreResume_ctrs (s : State)  : (s.ignoreResume ).ctrs = s.ctrs := rfl
@[simp] theorem State.ignoreResume_asleep (s : State)  : (s.ignoreResume ).asleep = s.asleep := rfl
@[simp] theorem State.ignoreResume_out (s : State)  : (s.ignoreResume ).out = s.out := rfl

/-! The fields that `dropPending` leaves. -/

@[simp] theorem State.dropPending_pending (s : State) (ix : Nat) : (s.dropPending ix).pending = s.pending := rfl
@[simp] theorem State.dropPending_now (s : State) (ix : Nat) : (s.dropPending ix).now = s.now := rfl
@[simp] theorem State.dropPending_freeIx (s : State) (ix : Nat) : (s.dropPending ix).freeIx = s.freeIx := rfl
@[simp] theorem State.dropPending_dev (s : State) (ix : Nat) : (s.dropPending ix).dev = s.dev := rfl
@[simp] theorem State.dropPending_mem (s : State) (ix : Nat) : (s.dropPending ix).mem = s.mem := rfl
@[simp] theorem State.dropPending_bad (s : State) (ix : Nat) : (s.dropPending ix).bad = s.bad := rfl
@[simp] theorem State.dropPending_ctxs (s : State) (ix : Nat) : (s.dropPending ix).ctxs = s.ctxs := rfl
@[simp] theorem State.dropPending_parts (s : State) (ix : Nat) : (s.dropPending ix).parts = s.parts := rfl
@[simp] theorem State.dropPending_threads (s : State) (ix : Nat) : (s.dropPending ix).threads = s.threads := rfl
@[simp] theorem State.dropPending_streams (s : State) (ix : Nat) : (s.dropPending ix).streams = s.streams := rfl
@[simp] theorem State.dropPending_coh (s : State) (ix : Nat) : (s.dropPending ix).coh = s.coh := rfl
@[simp] theorem State.dropPending_dram (s : State) (ix : Nat) : (s.dropPending ix).dram = s.dram := rfl
@[simp] theorem State.dropPending_tlb (s : State) (ix : Nat) : (s.dropPending ix).tlb = s.tlb := rfl
@[simp] theorem State.dropPending_fabric (s : State) (ix : Nat) : (s.dropPending ix).fabric = s.fabric := rfl
@[simp] theorem State.dropPending_host (s : State) (ix : Nat) : (s.dropPending ix).host = s.host := rfl
@[simp] theorem State.dropPending_irq (s : State) (ix : Nat) : (s.dropPending ix).irq = s.irq := rfl
@[simp] theorem State.dropPending_guests (s : State) (ix : Nat) : (s.dropPending ix).guests = s.guests := rfl
@[simp] theorem State.dropPending_pe1 (s : State) (ix : Nat) : (s.dropPending ix).pe1 = s.pe1 := rfl
@[simp] theorem State.dropPending_power (s : State) (ix : Nat) : (s.dropPending ix).power = s.power := rfl
@[simp] theorem State.dropPending_integ (s : State) (ix : Nat) : (s.dropPending ix).integ = s.integ := rfl
@[simp] theorem State.dropPending_sec (s : State) (ix : Nat) : (s.dropPending ix).sec = s.sec := rfl
@[simp] theorem State.dropPending_dict (s : State) (ix : Nat) : (s.dropPending ix).dict = s.dict := rfl
@[simp] theorem State.dropPending_banks (s : State) (ix : Nat) : (s.dropPending ix).banks = s.banks := rfl
@[simp] theorem State.dropPending_ctrs (s : State) (ix : Nat) : (s.dropPending ix).ctrs = s.ctrs := rfl
@[simp] theorem State.dropPending_asleep (s : State) (ix : Nat) : (s.dropPending ix).asleep = s.asleep := rfl
@[simp] theorem State.dropPending_out (s : State) (ix : Nat) : (s.dropPending ix).out = s.out := rfl

/-! The fields that `setFlight` leaves. -/

@[simp] theorem State.setFlight_pending (s : State) (c opIx : Nat) (st : FlightSt) : (s.setFlight c opIx st).pending = s.pending := rfl
@[simp] theorem State.setFlight_now (s : State) (c opIx : Nat) (st : FlightSt) : (s.setFlight c opIx st).now = s.now := rfl
@[simp] theorem State.setFlight_freeIx (s : State) (c opIx : Nat) (st : FlightSt) : (s.setFlight c opIx st).freeIx = s.freeIx := rfl
@[simp] theorem State.setFlight_dev (s : State) (c opIx : Nat) (st : FlightSt) : (s.setFlight c opIx st).dev = s.dev := rfl
@[simp] theorem State.setFlight_mem (s : State) (c opIx : Nat) (st : FlightSt) : (s.setFlight c opIx st).mem = s.mem := rfl
@[simp] theorem State.setFlight_bad (s : State) (c opIx : Nat) (st : FlightSt) : (s.setFlight c opIx st).bad = s.bad := rfl
@[simp] theorem State.setFlight_parts (s : State) (c opIx : Nat) (st : FlightSt) : (s.setFlight c opIx st).parts = s.parts := rfl
@[simp] theorem State.setFlight_threads (s : State) (c opIx : Nat) (st : FlightSt) : (s.setFlight c opIx st).threads = s.threads := rfl
@[simp] theorem State.setFlight_streams (s : State) (c opIx : Nat) (st : FlightSt) : (s.setFlight c opIx st).streams = s.streams := rfl
@[simp] theorem State.setFlight_coh (s : State) (c opIx : Nat) (st : FlightSt) : (s.setFlight c opIx st).coh = s.coh := rfl
@[simp] theorem State.setFlight_dram (s : State) (c opIx : Nat) (st : FlightSt) : (s.setFlight c opIx st).dram = s.dram := rfl
@[simp] theorem State.setFlight_tlb (s : State) (c opIx : Nat) (st : FlightSt) : (s.setFlight c opIx st).tlb = s.tlb := rfl
@[simp] theorem State.setFlight_fq (s : State) (c opIx : Nat) (st : FlightSt) : (s.setFlight c opIx st).fq = s.fq := rfl
@[simp] theorem State.setFlight_fabric (s : State) (c opIx : Nat) (st : FlightSt) : (s.setFlight c opIx st).fabric = s.fabric := rfl
@[simp] theorem State.setFlight_host (s : State) (c opIx : Nat) (st : FlightSt) : (s.setFlight c opIx st).host = s.host := rfl
@[simp] theorem State.setFlight_irq (s : State) (c opIx : Nat) (st : FlightSt) : (s.setFlight c opIx st).irq = s.irq := rfl
@[simp] theorem State.setFlight_guests (s : State) (c opIx : Nat) (st : FlightSt) : (s.setFlight c opIx st).guests = s.guests := rfl
@[simp] theorem State.setFlight_pe1 (s : State) (c opIx : Nat) (st : FlightSt) : (s.setFlight c opIx st).pe1 = s.pe1 := rfl
@[simp] theorem State.setFlight_power (s : State) (c opIx : Nat) (st : FlightSt) : (s.setFlight c opIx st).power = s.power := rfl
@[simp] theorem State.setFlight_integ (s : State) (c opIx : Nat) (st : FlightSt) : (s.setFlight c opIx st).integ = s.integ := rfl
@[simp] theorem State.setFlight_sec (s : State) (c opIx : Nat) (st : FlightSt) : (s.setFlight c opIx st).sec = s.sec := rfl
@[simp] theorem State.setFlight_dict (s : State) (c opIx : Nat) (st : FlightSt) : (s.setFlight c opIx st).dict = s.dict := rfl
@[simp] theorem State.setFlight_banks (s : State) (c opIx : Nat) (st : FlightSt) : (s.setFlight c opIx st).banks = s.banks := rfl
@[simp] theorem State.setFlight_ctrs (s : State) (c opIx : Nat) (st : FlightSt) : (s.setFlight c opIx st).ctrs = s.ctrs := rfl
@[simp] theorem State.setFlight_asleep (s : State) (c opIx : Nat) (st : FlightSt) : (s.setFlight c opIx st).asleep = s.asleep := rfl
@[simp] theorem State.setFlight_out (s : State) (c opIx : Nat) (st : FlightSt) : (s.setFlight c opIx st).out = s.out := rfl

/-! The fields that `dropFlight` leaves. -/

@[simp] theorem State.dropFlight_pending (s : State) (c opIx : Nat) : (s.dropFlight c opIx).pending = s.pending := rfl
@[simp] theorem State.dropFlight_now (s : State) (c opIx : Nat) : (s.dropFlight c opIx).now = s.now := rfl
@[simp] theorem State.dropFlight_freeIx (s : State) (c opIx : Nat) : (s.dropFlight c opIx).freeIx = s.freeIx := rfl
@[simp] theorem State.dropFlight_dev (s : State) (c opIx : Nat) : (s.dropFlight c opIx).dev = s.dev := rfl
@[simp] theorem State.dropFlight_mem (s : State) (c opIx : Nat) : (s.dropFlight c opIx).mem = s.mem := rfl
@[simp] theorem State.dropFlight_bad (s : State) (c opIx : Nat) : (s.dropFlight c opIx).bad = s.bad := rfl
@[simp] theorem State.dropFlight_parts (s : State) (c opIx : Nat) : (s.dropFlight c opIx).parts = s.parts := rfl
@[simp] theorem State.dropFlight_threads (s : State) (c opIx : Nat) : (s.dropFlight c opIx).threads = s.threads := rfl
@[simp] theorem State.dropFlight_streams (s : State) (c opIx : Nat) : (s.dropFlight c opIx).streams = s.streams := rfl
@[simp] theorem State.dropFlight_coh (s : State) (c opIx : Nat) : (s.dropFlight c opIx).coh = s.coh := rfl
@[simp] theorem State.dropFlight_dram (s : State) (c opIx : Nat) : (s.dropFlight c opIx).dram = s.dram := rfl
@[simp] theorem State.dropFlight_tlb (s : State) (c opIx : Nat) : (s.dropFlight c opIx).tlb = s.tlb := rfl
@[simp] theorem State.dropFlight_fq (s : State) (c opIx : Nat) : (s.dropFlight c opIx).fq = s.fq := rfl
@[simp] theorem State.dropFlight_fabric (s : State) (c opIx : Nat) : (s.dropFlight c opIx).fabric = s.fabric := rfl
@[simp] theorem State.dropFlight_host (s : State) (c opIx : Nat) : (s.dropFlight c opIx).host = s.host := rfl
@[simp] theorem State.dropFlight_irq (s : State) (c opIx : Nat) : (s.dropFlight c opIx).irq = s.irq := rfl
@[simp] theorem State.dropFlight_guests (s : State) (c opIx : Nat) : (s.dropFlight c opIx).guests = s.guests := rfl
@[simp] theorem State.dropFlight_pe1 (s : State) (c opIx : Nat) : (s.dropFlight c opIx).pe1 = s.pe1 := rfl
@[simp] theorem State.dropFlight_power (s : State) (c opIx : Nat) : (s.dropFlight c opIx).power = s.power := rfl
@[simp] theorem State.dropFlight_integ (s : State) (c opIx : Nat) : (s.dropFlight c opIx).integ = s.integ := rfl
@[simp] theorem State.dropFlight_sec (s : State) (c opIx : Nat) : (s.dropFlight c opIx).sec = s.sec := rfl
@[simp] theorem State.dropFlight_dict (s : State) (c opIx : Nat) : (s.dropFlight c opIx).dict = s.dict := rfl
@[simp] theorem State.dropFlight_banks (s : State) (c opIx : Nat) : (s.dropFlight c opIx).banks = s.banks := rfl
@[simp] theorem State.dropFlight_ctrs (s : State) (c opIx : Nat) : (s.dropFlight c opIx).ctrs = s.ctrs := rfl
@[simp] theorem State.dropFlight_asleep (s : State) (c opIx : Nat) : (s.dropFlight c opIx).asleep = s.asleep := rfl
@[simp] theorem State.dropFlight_out (s : State) (c opIx : Nat) : (s.dropFlight c opIx).out = s.out := rfl

/-! The fields that `setPool` leaves. -/

@[simp] theorem State.setPool_pending (s : State) (p : Nat) (r : Ring) : (s.setPool p r).pending = s.pending := rfl
@[simp] theorem State.setPool_now (s : State) (p : Nat) (r : Ring) : (s.setPool p r).now = s.now := rfl
@[simp] theorem State.setPool_freeIx (s : State) (p : Nat) (r : Ring) : (s.setPool p r).freeIx = s.freeIx := rfl
@[simp] theorem State.setPool_dev (s : State) (p : Nat) (r : Ring) : (s.setPool p r).dev = s.dev := rfl
@[simp] theorem State.setPool_mem (s : State) (p : Nat) (r : Ring) : (s.setPool p r).mem = s.mem := rfl
@[simp] theorem State.setPool_bad (s : State) (p : Nat) (r : Ring) : (s.setPool p r).bad = s.bad := rfl
@[simp] theorem State.setPool_ctxs (s : State) (p : Nat) (r : Ring) : (s.setPool p r).ctxs = s.ctxs := rfl
@[simp] theorem State.setPool_parts (s : State) (p : Nat) (r : Ring) : (s.setPool p r).parts = s.parts := rfl
@[simp] theorem State.setPool_threads (s : State) (p : Nat) (r : Ring) : (s.setPool p r).threads = s.threads := rfl
@[simp] theorem State.setPool_streams (s : State) (p : Nat) (r : Ring) : (s.setPool p r).streams = s.streams := rfl
@[simp] theorem State.setPool_coh (s : State) (p : Nat) (r : Ring) : (s.setPool p r).coh = s.coh := rfl
@[simp] theorem State.setPool_dram (s : State) (p : Nat) (r : Ring) : (s.setPool p r).dram = s.dram := rfl
@[simp] theorem State.setPool_tlb (s : State) (p : Nat) (r : Ring) : (s.setPool p r).tlb = s.tlb := rfl
@[simp] theorem State.setPool_fabric (s : State) (p : Nat) (r : Ring) : (s.setPool p r).fabric = s.fabric := rfl
@[simp] theorem State.setPool_host (s : State) (p : Nat) (r : Ring) : (s.setPool p r).host = s.host := rfl
@[simp] theorem State.setPool_irq (s : State) (p : Nat) (r : Ring) : (s.setPool p r).irq = s.irq := rfl
@[simp] theorem State.setPool_guests (s : State) (p : Nat) (r : Ring) : (s.setPool p r).guests = s.guests := rfl
@[simp] theorem State.setPool_pe1 (s : State) (p : Nat) (r : Ring) : (s.setPool p r).pe1 = s.pe1 := rfl
@[simp] theorem State.setPool_power (s : State) (p : Nat) (r : Ring) : (s.setPool p r).power = s.power := rfl
@[simp] theorem State.setPool_integ (s : State) (p : Nat) (r : Ring) : (s.setPool p r).integ = s.integ := rfl
@[simp] theorem State.setPool_sec (s : State) (p : Nat) (r : Ring) : (s.setPool p r).sec = s.sec := rfl
@[simp] theorem State.setPool_dict (s : State) (p : Nat) (r : Ring) : (s.setPool p r).dict = s.dict := rfl
@[simp] theorem State.setPool_banks (s : State) (p : Nat) (r : Ring) : (s.setPool p r).banks = s.banks := rfl
@[simp] theorem State.setPool_ctrs (s : State) (p : Nat) (r : Ring) : (s.setPool p r).ctrs = s.ctrs := rfl
@[simp] theorem State.setPool_asleep (s : State) (p : Nat) (r : Ring) : (s.setPool p r).asleep = s.asleep := rfl
@[simp] theorem State.setPool_out (s : State) (p : Nat) (r : Ring) : (s.setPool p r).out = s.out := rfl

/-! The fields that `raise` leaves. -/

@[simp] theorem State.raise_pending (s : State) (n : Nat) : (s.raise n).pending = s.pending := rfl
@[simp] theorem State.raise_now (s : State) (n : Nat) : (s.raise n).now = s.now := rfl
@[simp] theorem State.raise_freeIx (s : State) (n : Nat) : (s.raise n).freeIx = s.freeIx := rfl
@[simp] theorem State.raise_dev (s : State) (n : Nat) : (s.raise n).dev = s.dev := rfl
@[simp] theorem State.raise_mem (s : State) (n : Nat) : (s.raise n).mem = s.mem := rfl
@[simp] theorem State.raise_bad (s : State) (n : Nat) : (s.raise n).bad = s.bad := rfl
@[simp] theorem State.raise_ctxs (s : State) (n : Nat) : (s.raise n).ctxs = s.ctxs := rfl
@[simp] theorem State.raise_parts (s : State) (n : Nat) : (s.raise n).parts = s.parts := rfl
@[simp] theorem State.raise_threads (s : State) (n : Nat) : (s.raise n).threads = s.threads := rfl
@[simp] theorem State.raise_streams (s : State) (n : Nat) : (s.raise n).streams = s.streams := rfl
@[simp] theorem State.raise_coh (s : State) (n : Nat) : (s.raise n).coh = s.coh := rfl
@[simp] theorem State.raise_dram (s : State) (n : Nat) : (s.raise n).dram = s.dram := rfl
@[simp] theorem State.raise_tlb (s : State) (n : Nat) : (s.raise n).tlb = s.tlb := rfl
@[simp] theorem State.raise_fq (s : State) (n : Nat) : (s.raise n).fq = s.fq := rfl
@[simp] theorem State.raise_fabric (s : State) (n : Nat) : (s.raise n).fabric = s.fabric := rfl
@[simp] theorem State.raise_host (s : State) (n : Nat) : (s.raise n).host = s.host := rfl
@[simp] theorem State.raise_guests (s : State) (n : Nat) : (s.raise n).guests = s.guests := rfl
@[simp] theorem State.raise_pe1 (s : State) (n : Nat) : (s.raise n).pe1 = s.pe1 := rfl
@[simp] theorem State.raise_power (s : State) (n : Nat) : (s.raise n).power = s.power := rfl
@[simp] theorem State.raise_integ (s : State) (n : Nat) : (s.raise n).integ = s.integ := rfl
@[simp] theorem State.raise_sec (s : State) (n : Nat) : (s.raise n).sec = s.sec := rfl
@[simp] theorem State.raise_dict (s : State) (n : Nat) : (s.raise n).dict = s.dict := rfl
@[simp] theorem State.raise_banks (s : State) (n : Nat) : (s.raise n).banks = s.banks := rfl
@[simp] theorem State.raise_ctrs (s : State) (n : Nat) : (s.raise n).ctrs = s.ctrs := rfl
@[simp] theorem State.raise_asleep (s : State) (n : Nat) : (s.raise n).asleep = s.asleep := rfl
@[simp] theorem State.raise_out (s : State) (n : Nat) : (s.raise n).out = s.out := rfl

/-! The fields that `regError` leaves. -/

@[simp] theorem State.regError_pending (s : State)  : (s.regError ).pending = s.pending := rfl
@[simp] theorem State.regError_now (s : State)  : (s.regError ).now = s.now := rfl
@[simp] theorem State.regError_freeIx (s : State)  : (s.regError ).freeIx = s.freeIx := rfl
@[simp] theorem State.regError_dev (s : State)  : (s.regError ).dev = s.dev := rfl
@[simp] theorem State.regError_mem (s : State)  : (s.regError ).mem = s.mem := rfl
@[simp] theorem State.regError_bad (s : State)  : (s.regError ).bad = s.bad := rfl
@[simp] theorem State.regError_ctxs (s : State)  : (s.regError ).ctxs = s.ctxs := rfl
@[simp] theorem State.regError_parts (s : State)  : (s.regError ).parts = s.parts := rfl
@[simp] theorem State.regError_threads (s : State)  : (s.regError ).threads = s.threads := rfl
@[simp] theorem State.regError_streams (s : State)  : (s.regError ).streams = s.streams := rfl
@[simp] theorem State.regError_coh (s : State)  : (s.regError ).coh = s.coh := rfl
@[simp] theorem State.regError_dram (s : State)  : (s.regError ).dram = s.dram := rfl
@[simp] theorem State.regError_tlb (s : State)  : (s.regError ).tlb = s.tlb := rfl
@[simp] theorem State.regError_fabric (s : State)  : (s.regError ).fabric = s.fabric := rfl
@[simp] theorem State.regError_host (s : State)  : (s.regError ).host = s.host := rfl
@[simp] theorem State.regError_irq (s : State)  : (s.regError ).irq = s.irq := rfl
@[simp] theorem State.regError_guests (s : State)  : (s.regError ).guests = s.guests := rfl
@[simp] theorem State.regError_pe1 (s : State)  : (s.regError ).pe1 = s.pe1 := rfl
@[simp] theorem State.regError_power (s : State)  : (s.regError ).power = s.power := rfl
@[simp] theorem State.regError_integ (s : State)  : (s.regError ).integ = s.integ := rfl
@[simp] theorem State.regError_sec (s : State)  : (s.regError ).sec = s.sec := rfl
@[simp] theorem State.regError_dict (s : State)  : (s.regError ).dict = s.dict := rfl
@[simp] theorem State.regError_banks (s : State)  : (s.regError ).banks = s.banks := rfl
@[simp] theorem State.regError_ctrs (s : State)  : (s.regError ).ctrs = s.ctrs := rfl
@[simp] theorem State.regError_asleep (s : State)  : (s.regError ).asleep = s.asleep := rfl
@[simp] theorem State.regError_out (s : State)  : (s.regError ).out = s.out := rfl

/-! The fields that `markSeen` leaves. -/

@[simp] theorem State.markSeen_pending (s : State) (b i : Nat) : (s.markSeen b i).pending = s.pending := rfl
@[simp] theorem State.markSeen_now (s : State) (b i : Nat) : (s.markSeen b i).now = s.now := rfl
@[simp] theorem State.markSeen_freeIx (s : State) (b i : Nat) : (s.markSeen b i).freeIx = s.freeIx := rfl
@[simp] theorem State.markSeen_dev (s : State) (b i : Nat) : (s.markSeen b i).dev = s.dev := rfl
@[simp] theorem State.markSeen_mem (s : State) (b i : Nat) : (s.markSeen b i).mem = s.mem := rfl
@[simp] theorem State.markSeen_bad (s : State) (b i : Nat) : (s.markSeen b i).bad = s.bad := rfl
@[simp] theorem State.markSeen_ctxs (s : State) (b i : Nat) : (s.markSeen b i).ctxs = s.ctxs := rfl
@[simp] theorem State.markSeen_parts (s : State) (b i : Nat) : (s.markSeen b i).parts = s.parts := rfl
@[simp] theorem State.markSeen_threads (s : State) (b i : Nat) : (s.markSeen b i).threads = s.threads := rfl
@[simp] theorem State.markSeen_streams (s : State) (b i : Nat) : (s.markSeen b i).streams = s.streams := rfl
@[simp] theorem State.markSeen_coh (s : State) (b i : Nat) : (s.markSeen b i).coh = s.coh := rfl
@[simp] theorem State.markSeen_dram (s : State) (b i : Nat) : (s.markSeen b i).dram = s.dram := rfl
@[simp] theorem State.markSeen_tlb (s : State) (b i : Nat) : (s.markSeen b i).tlb = s.tlb := rfl
@[simp] theorem State.markSeen_fq (s : State) (b i : Nat) : (s.markSeen b i).fq = s.fq := rfl
@[simp] theorem State.markSeen_fabric (s : State) (b i : Nat) : (s.markSeen b i).fabric = s.fabric := rfl
@[simp] theorem State.markSeen_host (s : State) (b i : Nat) : (s.markSeen b i).host = s.host := rfl
@[simp] theorem State.markSeen_irq (s : State) (b i : Nat) : (s.markSeen b i).irq = s.irq := rfl
@[simp] theorem State.markSeen_guests (s : State) (b i : Nat) : (s.markSeen b i).guests = s.guests := rfl
@[simp] theorem State.markSeen_pe1 (s : State) (b i : Nat) : (s.markSeen b i).pe1 = s.pe1 := rfl
@[simp] theorem State.markSeen_power (s : State) (b i : Nat) : (s.markSeen b i).power = s.power := rfl
@[simp] theorem State.markSeen_integ (s : State) (b i : Nat) : (s.markSeen b i).integ = s.integ := rfl
@[simp] theorem State.markSeen_sec (s : State) (b i : Nat) : (s.markSeen b i).sec = s.sec := rfl
@[simp] theorem State.markSeen_dict (s : State) (b i : Nat) : (s.markSeen b i).dict = s.dict := rfl
@[simp] theorem State.markSeen_banks (s : State) (b i : Nat) : (s.markSeen b i).banks = s.banks := rfl
@[simp] theorem State.markSeen_asleep (s : State) (b i : Nat) : (s.markSeen b i).asleep = s.asleep := rfl
@[simp] theorem State.markSeen_out (s : State) (b i : Nat) : (s.markSeen b i).out = s.out := rfl

/-! The fields that `emitNotify` leaves. -/

@[simp] theorem State.emitNotify_pending (s : State) (i : Nat) (m : List Byte) : (s.emitNotify i m).pending = s.pending := rfl
@[simp] theorem State.emitNotify_now (s : State) (i : Nat) (m : List Byte) : (s.emitNotify i m).now = s.now := rfl
@[simp] theorem State.emitNotify_freeIx (s : State) (i : Nat) (m : List Byte) : (s.emitNotify i m).freeIx = s.freeIx := rfl
@[simp] theorem State.emitNotify_dev (s : State) (i : Nat) (m : List Byte) : (s.emitNotify i m).dev = s.dev := rfl
@[simp] theorem State.emitNotify_mem (s : State) (i : Nat) (m : List Byte) : (s.emitNotify i m).mem = s.mem := rfl
@[simp] theorem State.emitNotify_bad (s : State) (i : Nat) (m : List Byte) : (s.emitNotify i m).bad = s.bad := rfl
@[simp] theorem State.emitNotify_ctxs (s : State) (i : Nat) (m : List Byte) : (s.emitNotify i m).ctxs = s.ctxs := rfl
@[simp] theorem State.emitNotify_parts (s : State) (i : Nat) (m : List Byte) : (s.emitNotify i m).parts = s.parts := rfl
@[simp] theorem State.emitNotify_threads (s : State) (i : Nat) (m : List Byte) : (s.emitNotify i m).threads = s.threads := rfl
@[simp] theorem State.emitNotify_streams (s : State) (i : Nat) (m : List Byte) : (s.emitNotify i m).streams = s.streams := rfl
@[simp] theorem State.emitNotify_coh (s : State) (i : Nat) (m : List Byte) : (s.emitNotify i m).coh = s.coh := rfl
@[simp] theorem State.emitNotify_dram (s : State) (i : Nat) (m : List Byte) : (s.emitNotify i m).dram = s.dram := rfl
@[simp] theorem State.emitNotify_tlb (s : State) (i : Nat) (m : List Byte) : (s.emitNotify i m).tlb = s.tlb := rfl
@[simp] theorem State.emitNotify_fq (s : State) (i : Nat) (m : List Byte) : (s.emitNotify i m).fq = s.fq := rfl
@[simp] theorem State.emitNotify_fabric (s : State) (i : Nat) (m : List Byte) : (s.emitNotify i m).fabric = s.fabric := rfl
@[simp] theorem State.emitNotify_host (s : State) (i : Nat) (m : List Byte) : (s.emitNotify i m).host = s.host := rfl
@[simp] theorem State.emitNotify_irq (s : State) (i : Nat) (m : List Byte) : (s.emitNotify i m).irq = s.irq := rfl
@[simp] theorem State.emitNotify_guests (s : State) (i : Nat) (m : List Byte) : (s.emitNotify i m).guests = s.guests := rfl
@[simp] theorem State.emitNotify_pe1 (s : State) (i : Nat) (m : List Byte) : (s.emitNotify i m).pe1 = s.pe1 := rfl
@[simp] theorem State.emitNotify_power (s : State) (i : Nat) (m : List Byte) : (s.emitNotify i m).power = s.power := rfl
@[simp] theorem State.emitNotify_integ (s : State) (i : Nat) (m : List Byte) : (s.emitNotify i m).integ = s.integ := rfl
@[simp] theorem State.emitNotify_sec (s : State) (i : Nat) (m : List Byte) : (s.emitNotify i m).sec = s.sec := rfl
@[simp] theorem State.emitNotify_dict (s : State) (i : Nat) (m : List Byte) : (s.emitNotify i m).dict = s.dict := rfl
@[simp] theorem State.emitNotify_banks (s : State) (i : Nat) (m : List Byte) : (s.emitNotify i m).banks = s.banks := rfl
@[simp] theorem State.emitNotify_ctrs (s : State) (i : Nat) (m : List Byte) : (s.emitNotify i m).ctrs = s.ctrs := rfl
@[simp] theorem State.emitNotify_asleep (s : State) (i : Nat) (m : List Byte) : (s.emitNotify i m).asleep = s.asleep := rfl

/-! The fields that `reply` leaves. -/

@[simp] theorem State.reply_pending (s : State) (o : Origin) (m : UleelMsg) : (s.reply o m).pending = s.pending := rfl
@[simp] theorem State.reply_now (s : State) (o : Origin) (m : UleelMsg) : (s.reply o m).now = s.now := rfl
@[simp] theorem State.reply_freeIx (s : State) (o : Origin) (m : UleelMsg) : (s.reply o m).freeIx = s.freeIx := rfl
@[simp] theorem State.reply_dev (s : State) (o : Origin) (m : UleelMsg) : (s.reply o m).dev = s.dev := rfl
@[simp] theorem State.reply_mem (s : State) (o : Origin) (m : UleelMsg) : (s.reply o m).mem = s.mem := rfl
@[simp] theorem State.reply_bad (s : State) (o : Origin) (m : UleelMsg) : (s.reply o m).bad = s.bad := rfl
@[simp] theorem State.reply_ctxs (s : State) (o : Origin) (m : UleelMsg) : (s.reply o m).ctxs = s.ctxs := rfl
@[simp] theorem State.reply_parts (s : State) (o : Origin) (m : UleelMsg) : (s.reply o m).parts = s.parts := rfl
@[simp] theorem State.reply_threads (s : State) (o : Origin) (m : UleelMsg) : (s.reply o m).threads = s.threads := rfl
@[simp] theorem State.reply_streams (s : State) (o : Origin) (m : UleelMsg) : (s.reply o m).streams = s.streams := rfl
@[simp] theorem State.reply_coh (s : State) (o : Origin) (m : UleelMsg) : (s.reply o m).coh = s.coh := rfl
@[simp] theorem State.reply_dram (s : State) (o : Origin) (m : UleelMsg) : (s.reply o m).dram = s.dram := rfl
@[simp] theorem State.reply_tlb (s : State) (o : Origin) (m : UleelMsg) : (s.reply o m).tlb = s.tlb := rfl
@[simp] theorem State.reply_fq (s : State) (o : Origin) (m : UleelMsg) : (s.reply o m).fq = s.fq := rfl
@[simp] theorem State.reply_fabric (s : State) (o : Origin) (m : UleelMsg) : (s.reply o m).fabric = s.fabric := rfl
@[simp] theorem State.reply_host (s : State) (o : Origin) (m : UleelMsg) : (s.reply o m).host = s.host := rfl
@[simp] theorem State.reply_irq (s : State) (o : Origin) (m : UleelMsg) : (s.reply o m).irq = s.irq := rfl
@[simp] theorem State.reply_guests (s : State) (o : Origin) (m : UleelMsg) : (s.reply o m).guests = s.guests := rfl
@[simp] theorem State.reply_pe1 (s : State) (o : Origin) (m : UleelMsg) : (s.reply o m).pe1 = s.pe1 := rfl
@[simp] theorem State.reply_power (s : State) (o : Origin) (m : UleelMsg) : (s.reply o m).power = s.power := rfl
@[simp] theorem State.reply_integ (s : State) (o : Origin) (m : UleelMsg) : (s.reply o m).integ = s.integ := rfl
@[simp] theorem State.reply_sec (s : State) (o : Origin) (m : UleelMsg) : (s.reply o m).sec = s.sec := rfl
@[simp] theorem State.reply_dict (s : State) (o : Origin) (m : UleelMsg) : (s.reply o m).dict = s.dict := rfl
@[simp] theorem State.reply_banks (s : State) (o : Origin) (m : UleelMsg) : (s.reply o m).banks = s.banks := rfl
@[simp] theorem State.reply_ctrs (s : State) (o : Origin) (m : UleelMsg) : (s.reply o m).ctrs = s.ctrs := rfl
@[simp] theorem State.reply_asleep (s : State) (o : Origin) (m : UleelMsg) : (s.reply o m).asleep = s.asleep := rfl

/-! The fields that `ungate` leaves. -/

@[simp] theorem State.ungate_pending (s : State) (u : GateUnit) : (s.ungate u).pending = s.pending := rfl
@[simp] theorem State.ungate_now (s : State) (u : GateUnit) : (s.ungate u).now = s.now := rfl
@[simp] theorem State.ungate_freeIx (s : State) (u : GateUnit) : (s.ungate u).freeIx = s.freeIx := rfl
@[simp] theorem State.ungate_dev (s : State) (u : GateUnit) : (s.ungate u).dev = s.dev := rfl
@[simp] theorem State.ungate_mem (s : State) (u : GateUnit) : (s.ungate u).mem = s.mem := rfl
@[simp] theorem State.ungate_bad (s : State) (u : GateUnit) : (s.ungate u).bad = s.bad := rfl
@[simp] theorem State.ungate_ctxs (s : State) (u : GateUnit) : (s.ungate u).ctxs = s.ctxs := rfl
@[simp] theorem State.ungate_parts (s : State) (u : GateUnit) : (s.ungate u).parts = s.parts := rfl
@[simp] theorem State.ungate_threads (s : State) (u : GateUnit) : (s.ungate u).threads = s.threads := rfl
@[simp] theorem State.ungate_streams (s : State) (u : GateUnit) : (s.ungate u).streams = s.streams := rfl
@[simp] theorem State.ungate_coh (s : State) (u : GateUnit) : (s.ungate u).coh = s.coh := rfl
@[simp] theorem State.ungate_dram (s : State) (u : GateUnit) : (s.ungate u).dram = s.dram := rfl
@[simp] theorem State.ungate_tlb (s : State) (u : GateUnit) : (s.ungate u).tlb = s.tlb := rfl
@[simp] theorem State.ungate_fq (s : State) (u : GateUnit) : (s.ungate u).fq = s.fq := rfl
@[simp] theorem State.ungate_fabric (s : State) (u : GateUnit) : (s.ungate u).fabric = s.fabric := rfl
@[simp] theorem State.ungate_host (s : State) (u : GateUnit) : (s.ungate u).host = s.host := rfl
@[simp] theorem State.ungate_irq (s : State) (u : GateUnit) : (s.ungate u).irq = s.irq := rfl
@[simp] theorem State.ungate_guests (s : State) (u : GateUnit) : (s.ungate u).guests = s.guests := rfl
@[simp] theorem State.ungate_pe1 (s : State) (u : GateUnit) : (s.ungate u).pe1 = s.pe1 := rfl
@[simp] theorem State.ungate_integ (s : State) (u : GateUnit) : (s.ungate u).integ = s.integ := rfl
@[simp] theorem State.ungate_sec (s : State) (u : GateUnit) : (s.ungate u).sec = s.sec := rfl
@[simp] theorem State.ungate_dict (s : State) (u : GateUnit) : (s.ungate u).dict = s.dict := rfl
@[simp] theorem State.ungate_banks (s : State) (u : GateUnit) : (s.ungate u).banks = s.banks := rfl
@[simp] theorem State.ungate_ctrs (s : State) (u : GateUnit) : (s.ungate u).ctrs = s.ctrs := rfl
@[simp] theorem State.ungate_asleep (s : State) (u : GateUnit) : (s.ungate u).asleep = s.asleep := rfl
@[simp] theorem State.ungate_out (s : State) (u : GateUnit) : (s.ungate u).out = s.out := rfl

/-! The fields that `endCause` leaves. -/

@[simp] theorem State.endCause_pending (s : State) (cause which : Nat) : (s.endCause cause which).pending = s.pending := rfl
@[simp] theorem State.endCause_now (s : State) (cause which : Nat) : (s.endCause cause which).now = s.now := rfl
@[simp] theorem State.endCause_freeIx (s : State) (cause which : Nat) : (s.endCause cause which).freeIx = s.freeIx := rfl
@[simp] theorem State.endCause_dev (s : State) (cause which : Nat) : (s.endCause cause which).dev = s.dev := rfl
@[simp] theorem State.endCause_mem (s : State) (cause which : Nat) : (s.endCause cause which).mem = s.mem := rfl
@[simp] theorem State.endCause_bad (s : State) (cause which : Nat) : (s.endCause cause which).bad = s.bad := rfl
@[simp] theorem State.endCause_ctxs (s : State) (cause which : Nat) : (s.endCause cause which).ctxs = s.ctxs := rfl
@[simp] theorem State.endCause_parts (s : State) (cause which : Nat) : (s.endCause cause which).parts = s.parts := rfl
@[simp] theorem State.endCause_threads (s : State) (cause which : Nat) : (s.endCause cause which).threads = s.threads := rfl
@[simp] theorem State.endCause_streams (s : State) (cause which : Nat) : (s.endCause cause which).streams = s.streams := rfl
@[simp] theorem State.endCause_coh (s : State) (cause which : Nat) : (s.endCause cause which).coh = s.coh := rfl
@[simp] theorem State.endCause_dram (s : State) (cause which : Nat) : (s.endCause cause which).dram = s.dram := rfl
@[simp] theorem State.endCause_tlb (s : State) (cause which : Nat) : (s.endCause cause which).tlb = s.tlb := rfl
@[simp] theorem State.endCause_fq (s : State) (cause which : Nat) : (s.endCause cause which).fq = s.fq := rfl
@[simp] theorem State.endCause_host (s : State) (cause which : Nat) : (s.endCause cause which).host = s.host := rfl
@[simp] theorem State.endCause_irq (s : State) (cause which : Nat) : (s.endCause cause which).irq = s.irq := rfl
@[simp] theorem State.endCause_guests (s : State) (cause which : Nat) : (s.endCause cause which).guests = s.guests := rfl
@[simp] theorem State.endCause_pe1 (s : State) (cause which : Nat) : (s.endCause cause which).pe1 = s.pe1 := rfl
@[simp] theorem State.endCause_power (s : State) (cause which : Nat) : (s.endCause cause which).power = s.power := rfl
@[simp] theorem State.endCause_integ (s : State) (cause which : Nat) : (s.endCause cause which).integ = s.integ := rfl
@[simp] theorem State.endCause_sec (s : State) (cause which : Nat) : (s.endCause cause which).sec = s.sec := rfl
@[simp] theorem State.endCause_dict (s : State) (cause which : Nat) : (s.endCause cause which).dict = s.dict := rfl
@[simp] theorem State.endCause_banks (s : State) (cause which : Nat) : (s.endCause cause which).banks = s.banks := rfl
@[simp] theorem State.endCause_ctrs (s : State) (cause which : Nat) : (s.endCause cause which).ctrs = s.ctrs := rfl
@[simp] theorem State.endCause_asleep (s : State) (cause which : Nat) : (s.endCause cause which).asleep = s.asleep := rfl
@[simp] theorem State.endCause_out (s : State) (cause which : Nat) : (s.endCause cause which).out = s.out := rfl

/-! The fields that `chargeIdle` leaves. -/

@[simp] theorem State.chargeIdle_pending (s : State) (k d : Nat) : (s.chargeIdle k d).pending = s.pending := rfl
@[simp] theorem State.chargeIdle_now (s : State) (k d : Nat) : (s.chargeIdle k d).now = s.now := rfl
@[simp] theorem State.chargeIdle_freeIx (s : State) (k d : Nat) : (s.chargeIdle k d).freeIx = s.freeIx := rfl
@[simp] theorem State.chargeIdle_dev (s : State) (k d : Nat) : (s.chargeIdle k d).dev = s.dev := rfl
@[simp] theorem State.chargeIdle_mem (s : State) (k d : Nat) : (s.chargeIdle k d).mem = s.mem := rfl
@[simp] theorem State.chargeIdle_bad (s : State) (k d : Nat) : (s.chargeIdle k d).bad = s.bad := rfl
@[simp] theorem State.chargeIdle_parts (s : State) (k d : Nat) : (s.chargeIdle k d).parts = s.parts := rfl
@[simp] theorem State.chargeIdle_threads (s : State) (k d : Nat) : (s.chargeIdle k d).threads = s.threads := rfl
@[simp] theorem State.chargeIdle_streams (s : State) (k d : Nat) : (s.chargeIdle k d).streams = s.streams := rfl
@[simp] theorem State.chargeIdle_coh (s : State) (k d : Nat) : (s.chargeIdle k d).coh = s.coh := rfl
@[simp] theorem State.chargeIdle_dram (s : State) (k d : Nat) : (s.chargeIdle k d).dram = s.dram := rfl
@[simp] theorem State.chargeIdle_tlb (s : State) (k d : Nat) : (s.chargeIdle k d).tlb = s.tlb := rfl
@[simp] theorem State.chargeIdle_fq (s : State) (k d : Nat) : (s.chargeIdle k d).fq = s.fq := rfl
@[simp] theorem State.chargeIdle_fabric (s : State) (k d : Nat) : (s.chargeIdle k d).fabric = s.fabric := rfl
@[simp] theorem State.chargeIdle_host (s : State) (k d : Nat) : (s.chargeIdle k d).host = s.host := rfl
@[simp] theorem State.chargeIdle_irq (s : State) (k d : Nat) : (s.chargeIdle k d).irq = s.irq := rfl
@[simp] theorem State.chargeIdle_guests (s : State) (k d : Nat) : (s.chargeIdle k d).guests = s.guests := rfl
@[simp] theorem State.chargeIdle_pe1 (s : State) (k d : Nat) : (s.chargeIdle k d).pe1 = s.pe1 := rfl
@[simp] theorem State.chargeIdle_power (s : State) (k d : Nat) : (s.chargeIdle k d).power = s.power := rfl
@[simp] theorem State.chargeIdle_integ (s : State) (k d : Nat) : (s.chargeIdle k d).integ = s.integ := rfl
@[simp] theorem State.chargeIdle_sec (s : State) (k d : Nat) : (s.chargeIdle k d).sec = s.sec := rfl
@[simp] theorem State.chargeIdle_dict (s : State) (k d : Nat) : (s.chargeIdle k d).dict = s.dict := rfl
@[simp] theorem State.chargeIdle_banks (s : State) (k d : Nat) : (s.chargeIdle k d).banks = s.banks := rfl
@[simp] theorem State.chargeIdle_ctrs (s : State) (k d : Nat) : (s.chargeIdle k d).ctrs = s.ctrs := rfl
@[simp] theorem State.chargeIdle_asleep (s : State) (k d : Nat) : (s.chargeIdle k d).asleep = s.asleep := rfl
@[simp] theorem State.chargeIdle_out (s : State) (k d : Nat) : (s.chargeIdle k d).out = s.out := rfl

/-! The fields that `stepTime` leaves. -/

@[simp] theorem State.stepTime_pending (s : State) (d : Nat) : (s.stepTime d).pending = s.pending := rfl
@[simp] theorem State.stepTime_freeIx (s : State) (d : Nat) : (s.stepTime d).freeIx = s.freeIx := rfl
@[simp] theorem State.stepTime_mem (s : State) (d : Nat) : (s.stepTime d).mem = s.mem := rfl
@[simp] theorem State.stepTime_bad (s : State) (d : Nat) : (s.stepTime d).bad = s.bad := rfl
@[simp] theorem State.stepTime_ctxs (s : State) (d : Nat) : (s.stepTime d).ctxs = s.ctxs := rfl
@[simp] theorem State.stepTime_parts (s : State) (d : Nat) : (s.stepTime d).parts = s.parts := rfl
@[simp] theorem State.stepTime_threads (s : State) (d : Nat) : (s.stepTime d).threads = s.threads := rfl
@[simp] theorem State.stepTime_streams (s : State) (d : Nat) : (s.stepTime d).streams = s.streams := rfl
@[simp] theorem State.stepTime_coh (s : State) (d : Nat) : (s.stepTime d).coh = s.coh := rfl
@[simp] theorem State.stepTime_dram (s : State) (d : Nat) : (s.stepTime d).dram = s.dram := rfl
@[simp] theorem State.stepTime_tlb (s : State) (d : Nat) : (s.stepTime d).tlb = s.tlb := rfl
@[simp] theorem State.stepTime_fq (s : State) (d : Nat) : (s.stepTime d).fq = s.fq := rfl
@[simp] theorem State.stepTime_host (s : State) (d : Nat) : (s.stepTime d).host = s.host := rfl
@[simp] theorem State.stepTime_irq (s : State) (d : Nat) : (s.stepTime d).irq = s.irq := rfl
@[simp] theorem State.stepTime_guests (s : State) (d : Nat) : (s.stepTime d).guests = s.guests := rfl
@[simp] theorem State.stepTime_pe1 (s : State) (d : Nat) : (s.stepTime d).pe1 = s.pe1 := rfl
@[simp] theorem State.stepTime_power (s : State) (d : Nat) : (s.stepTime d).power = s.power := rfl
@[simp] theorem State.stepTime_integ (s : State) (d : Nat) : (s.stepTime d).integ = s.integ := rfl
@[simp] theorem State.stepTime_sec (s : State) (d : Nat) : (s.stepTime d).sec = s.sec := rfl
@[simp] theorem State.stepTime_dict (s : State) (d : Nat) : (s.stepTime d).dict = s.dict := rfl
@[simp] theorem State.stepTime_banks (s : State) (d : Nat) : (s.stepTime d).banks = s.banks := rfl
@[simp] theorem State.stepTime_ctrs (s : State) (d : Nat) : (s.stepTime d).ctrs = s.ctrs := rfl
@[simp] theorem State.stepTime_asleep (s : State) (d : Nat) : (s.stepTime d).asleep = s.asleep := rfl
@[simp] theorem State.stepTime_out (s : State) (d : Nat) : (s.stepTime d).out = s.out := rfl

/-! What a read finds after the value it reads was replaced. -/

@[simp] theorem State.advance_now (s : State) (t : Nat) : (s.advance t).now = max s.now t := rfl

theorem State.ctx_setCtx (s : State) (c b : Nat) (x : Ctx) : (s.setCtx c x).ctx b = if b = c then x else s.ctx b := by
  simp only [State.ctx, State.setCtx, tabGet_tabPut]

@[simp] theorem State.ctx_setCtx_same (s : State) (c : Nat) (x : Ctx) : (s.setCtx c x).ctx c = x := by simp [State.ctx_setCtx]

theorem State.ctx_updCtx (s : State) (c b : Nat) (f : Ctx → Ctx) : (s.updCtx c f).ctx b = if b = c then f (s.ctx c) else s.ctx b :=
  State.ctx_setCtx s c b _

@[simp] theorem State.ctx_updCtx_same (s : State) (c : Nat) (f : Ctx → Ctx) : (s.updCtx c f).ctx c = f (s.ctx c) := by simp [State.ctx_updCtx]

theorem State.part_setPart (s : State) (k j : Nat) (x : PartSt) (h : k < s.parts.length) : (s.setPart k x).part j = if j = k then x else s.part j := by
  simp only [State.part, State.setPart, List.getD_eq_getElem?_getD, List.getElem?_set]
  by_cases hj : j = k
  · subst hj; simp [h]
  · simp [hj, Ne.symm hj]

theorem State.part_setPart_other (s : State) (k j : Nat) (x : PartSt) (h : j ≠ k) : (s.setPart k x).part j = s.part j := by
  simp only [State.part, State.setPart, List.getD_eq_getElem?_getD, List.getElem?_set, if_neg (Ne.symm h)]

theorem State.dirOf_setDir (s : State) (ln m : Nat) (d : DirEntry) : (s.setDir ln d).dirOf m = if m = ln then d else s.dirOf m := by
  simp only [State.dirOf, State.setDir, tabGet_tabPut]

@[simp] theorem State.dirOf_setDir_same (s : State) (ln : Nat) (d : DirEntry) : (s.setDir ln d).dirOf ln = d := by simp [State.dirOf_setDir]

@[simp] theorem State.copyOf_setCopy_same (s : State) (a ln : Nat) (c : Option Copy) : (s.setCopy a ln c).copyOf a ln = c := by
  simp [State.copyOf, State.setCopy]

theorem State.copyOf_setCopy_other (s : State) (a ln b m : Nat) (c : Option Copy) (h : copyKey b m ≠ copyKey a ln) :
    (s.setCopy a ln c).copyOf b m = s.copyOf b m := by
  simp only [State.copyOf, State.setCopy, tabGet_tabPut_other _ _ _ _ _ h]

@[simp] theorem State.dirOf_setCopy (s : State) (a ln m : Nat) (c : Option Copy) : (s.setCopy a ln c).dirOf m = s.dirOf m := rfl
@[simp] theorem State.copyOf_setDir (s : State) (ln a m : Nat) (d : DirEntry) : (s.setDir ln d).copyOf a m = s.copyOf a m := rfl

theorem State.group_setGroup (s : State) (g h : Nat) (x : Option Group) : (s.setGroup g x).group h = if h = g then x else s.group h := by
  simp only [State.group, State.setGroup, tabGet_tabPut]

@[simp] theorem State.group_setGroup_same (s : State) (g : Nat) (x : Option Group) : (s.setGroup g x).group g = x := by simp [State.group_setGroup]
@[simp] theorem State.block_setGroup (s : State) (g b : Nat) (x : Option Group) : (s.setGroup g x).block b = s.block b := rfl
@[simp] theorem State.launch_setGroup (s : State) (g l : Nat) (x : Option Group) : (s.setGroup g x).launch l = s.launch l := rfl
@[simp] theorem State.group_setBlock (s : State) (b g : Nat) (x : Option Block) : (s.setBlock b x).group g = s.group g := rfl
@[simp] theorem State.launch_setBlock (s : State) (b l : Nat) (x : Option Block) : (s.setBlock b x).launch l = s.launch l := rfl

theorem State.block_setBlock (s : State) (b c : Nat) (x : Option Block) : (s.setBlock b x).block c = if c = b then x else s.block c := by
  simp only [State.block, State.setBlock, tabGet_tabPut]

theorem State.launch_setLaunch (s : State) (l m : Nat) (x : Option Launch) : (s.setLaunch l x).launch m = if m = l then x else s.launch m := by
  simp only [State.launch, State.setLaunch, tabGet_tabPut]

theorem State.inst_setInst (s : State) (i j : Nat) (x : Option Instance) : (s.setInst i x).inst j = if j = i then x else s.inst j := by
  simp only [State.inst, State.setInst, tabGet_tabPut]

@[simp] theorem State.inst_setInst_same (s : State) (i : Nat) (x : Option Instance) : (s.setInst i x).inst i = x := by simp [State.inst_setInst]

theorem State.run_setRun (s : State) (c b : Nat) (r : Option CollRun) : (s.setRun c r).run b = if b = c then r else s.run b := by
  simp only [State.run, State.setRun, tabGet_tabPut]

theorem State.port_setPort_other (s : State) (p q : Nat) (x : LinkPort) (h : q ≠ p) : (s.setPort p x).port q = s.port q := by
  simp only [State.port, State.setPort, List.getD_eq_getElem?_getD, List.getElem?_set, if_neg (Ne.symm h)]

theorem State.qp_setQp (s : State) (k j : Nat) (x : QueuePair) : (s.setQp k x).qp j = if j = k then x else s.qp j := by
  simp only [State.qp, State.setQp, tabGet_tabPut]; split <;> rfl

theorem State.mail_setMail (s : State) (i j : Nat) (x : Mailbox) : (s.setMail i x).mail j = if j = i then x else s.mail j := by
  simp only [State.mail, State.setMail, tabGet_tabPut]; split <;> rfl

theorem State.bank_setBank (s : State) (b c : Nat) (x : CtxBank) : (s.setBank b x).bank c = if c = b then x else s.bank c := by
  simp only [State.bank, State.setBank, tabGet_tabPut]

theorem State.level_setLevel (s : State) (k j v : Nat) : tabGet 0 (s.setLevel k v).integ.levels j = if j = k then v else tabGet 0 s.integ.levels j :=
  tabGet_tabPut 0 _ _ _ _

theorem Irq.srcOf_setSrc (q : Irq) (n m : Nat) (x : SrcState) : (q.setSrc n x).srcOf m = if m = n then x else q.srcOf m := by
  simp only [Irq.srcOf, Irq.setSrc, tabGet_tabPut]

theorem Irq.coreOf_setCore (q : Irq) (k j : Nat) (x : CoreSt) : (q.setCore k x).coreOf j = if j = k then x else q.coreOf j := by
  simp only [Irq.coreOf, Irq.setCore, tabGet_tabPut]

/-- An entry that was put holds the bytes put there, accepted and in effect. -/
theorem State.effBytes_putEntry (s : State) (ix sub : Nat) (d : List Byte) (h : d ≠ []) :
    (s.putEntry ix sub d).accBytes ix sub = d ∧ (s.putEntry ix sub d).effBytes ix sub = d := by
  cases d with
  | nil => exact absurd rfl h
  | cons b r => simp [State.accBytes, State.effBytes, State.putEntry]

/-- Holding a value changes what was accepted, not what is in effect (R38). -/
theorem State.effBytes_holdEntry (s : State) (ix sub i j : Nat) (d : List Byte) : (s.holdEntry ix sub d).effBytes i j = s.effBytes i j := rfl

theorem State.accBytes_holdEntry (s : State) (ix sub : Nat) (d : List Byte) (h : d ≠ []) : (s.holdEntry ix sub d).accBytes ix sub = d := by
  cases d with
  | nil => exact absurd rfl h
  | cons b r => simp [State.accBytes, State.holdEntry]

/-! The fields that the translation caches' updates leave (R289 to R291). -/

@[simp] theorem State.newAccess_pending (s : State) : (s.newAccess).pending = s.pending := rfl
@[simp] theorem State.newAccess_now (s : State) : (s.newAccess).now = s.now := rfl
@[simp] theorem State.newAccess_dev (s : State) : (s.newAccess).dev = s.dev := rfl
@[simp] theorem State.newAccess_mem (s : State) : (s.newAccess).mem = s.mem := rfl
@[simp] theorem State.newAccess_bad (s : State) : (s.newAccess).bad = s.bad := rfl
@[simp] theorem State.newAccess_ctxs (s : State) : (s.newAccess).ctxs = s.ctxs := rfl
@[simp] theorem State.newAccess_parts (s : State) : (s.newAccess).parts = s.parts := rfl
@[simp] theorem State.newAccess_threads (s : State) : (s.newAccess).threads = s.threads := rfl
@[simp] theorem State.newAccess_streams (s : State) : (s.newAccess).streams = s.streams := rfl
@[simp] theorem State.newAccess_coh (s : State) : (s.newAccess).coh = s.coh := rfl
@[simp] theorem State.newAccess_dram (s : State) : (s.newAccess).dram = s.dram := rfl
@[simp] theorem State.newAccess_tlb (s : State) : (s.newAccess).tlb = s.tlb := rfl
@[simp] theorem State.newAccess_fq (s : State) : (s.newAccess).fq = s.fq := rfl
@[simp] theorem State.newAccess_fabric (s : State) : (s.newAccess).fabric = s.fabric := rfl
@[simp] theorem State.newAccess_host (s : State) : (s.newAccess).host = s.host := rfl
@[simp] theorem State.newAccess_irq (s : State) : (s.newAccess).irq = s.irq := rfl
@[simp] theorem State.newAccess_guests (s : State) : (s.newAccess).guests = s.guests := rfl
@[simp] theorem State.newAccess_pe1 (s : State) : (s.newAccess).pe1 = s.pe1 := rfl
@[simp] theorem State.newAccess_power (s : State) : (s.newAccess).power = s.power := rfl
@[simp] theorem State.newAccess_integ (s : State) : (s.newAccess).integ = s.integ := rfl
@[simp] theorem State.newAccess_sec (s : State) : (s.newAccess).sec = s.sec := rfl
@[simp] theorem State.newAccess_dict (s : State) : (s.newAccess).dict = s.dict := rfl
@[simp] theorem State.newAccess_banks (s : State) : (s.newAccess).banks = s.banks := rfl
@[simp] theorem State.newAccess_ctrs (s : State) : (s.newAccess).ctrs = s.ctrs := rfl
@[simp] theorem State.newAccess_out (s : State) : (s.newAccess).out = s.out := rfl
@[simp] theorem State.dropWeak_pending (s : State) (c va need : Nat) : (s.dropWeak c va need).pending = s.pending := rfl
@[simp] theorem State.dropWeak_now (s : State) (c va need : Nat) : (s.dropWeak c va need).now = s.now := rfl
@[simp] theorem State.dropWeak_freeIx (s : State) (c va need : Nat) : (s.dropWeak c va need).freeIx = s.freeIx := rfl
@[simp] theorem State.dropWeak_dev (s : State) (c va need : Nat) : (s.dropWeak c va need).dev = s.dev := rfl
@[simp] theorem State.dropWeak_mem (s : State) (c va need : Nat) : (s.dropWeak c va need).mem = s.mem := rfl
@[simp] theorem State.dropWeak_bad (s : State) (c va need : Nat) : (s.dropWeak c va need).bad = s.bad := rfl
@[simp] theorem State.dropWeak_ctxs (s : State) (c va need : Nat) : (s.dropWeak c va need).ctxs = s.ctxs := rfl
@[simp] theorem State.dropWeak_parts (s : State) (c va need : Nat) : (s.dropWeak c va need).parts = s.parts := rfl
@[simp] theorem State.dropWeak_threads (s : State) (c va need : Nat) : (s.dropWeak c va need).threads = s.threads := rfl
@[simp] theorem State.dropWeak_streams (s : State) (c va need : Nat) : (s.dropWeak c va need).streams = s.streams := rfl
@[simp] theorem State.dropWeak_coh (s : State) (c va need : Nat) : (s.dropWeak c va need).coh = s.coh := rfl
@[simp] theorem State.dropWeak_dram (s : State) (c va need : Nat) : (s.dropWeak c va need).dram = s.dram := rfl
@[simp] theorem State.dropWeak_fq (s : State) (c va need : Nat) : (s.dropWeak c va need).fq = s.fq := rfl
@[simp] theorem State.dropWeak_fabric (s : State) (c va need : Nat) : (s.dropWeak c va need).fabric = s.fabric := rfl
@[simp] theorem State.dropWeak_host (s : State) (c va need : Nat) : (s.dropWeak c va need).host = s.host := rfl
@[simp] theorem State.dropWeak_irq (s : State) (c va need : Nat) : (s.dropWeak c va need).irq = s.irq := rfl
@[simp] theorem State.dropWeak_guests (s : State) (c va need : Nat) : (s.dropWeak c va need).guests = s.guests := rfl
@[simp] theorem State.dropWeak_pe1 (s : State) (c va need : Nat) : (s.dropWeak c va need).pe1 = s.pe1 := rfl
@[simp] theorem State.dropWeak_power (s : State) (c va need : Nat) : (s.dropWeak c va need).power = s.power := rfl
@[simp] theorem State.dropWeak_integ (s : State) (c va need : Nat) : (s.dropWeak c va need).integ = s.integ := rfl
@[simp] theorem State.dropWeak_sec (s : State) (c va need : Nat) : (s.dropWeak c va need).sec = s.sec := rfl
@[simp] theorem State.dropWeak_dict (s : State) (c va need : Nat) : (s.dropWeak c va need).dict = s.dict := rfl
@[simp] theorem State.dropWeak_banks (s : State) (c va need : Nat) : (s.dropWeak c va need).banks = s.banks := rfl
@[simp] theorem State.dropWeak_ctrs (s : State) (c va need : Nat) : (s.dropWeak c va need).ctrs = s.ctrs := rfl
@[simp] theorem State.dropWeak_out (s : State) (c va need : Nat) : (s.dropWeak c va need).out = s.out := rfl
@[simp] theorem State.uncache_pending (s : State) (c lo hi : Nat) : (s.uncache c lo hi).pending = s.pending := rfl
@[simp] theorem State.uncache_now (s : State) (c lo hi : Nat) : (s.uncache c lo hi).now = s.now := rfl
@[simp] theorem State.uncache_freeIx (s : State) (c lo hi : Nat) : (s.uncache c lo hi).freeIx = s.freeIx := rfl
@[simp] theorem State.uncache_dev (s : State) (c lo hi : Nat) : (s.uncache c lo hi).dev = s.dev := rfl
@[simp] theorem State.uncache_mem (s : State) (c lo hi : Nat) : (s.uncache c lo hi).mem = s.mem := rfl
@[simp] theorem State.uncache_bad (s : State) (c lo hi : Nat) : (s.uncache c lo hi).bad = s.bad := rfl
@[simp] theorem State.uncache_ctxs (s : State) (c lo hi : Nat) : (s.uncache c lo hi).ctxs = s.ctxs := rfl
@[simp] theorem State.uncache_parts (s : State) (c lo hi : Nat) : (s.uncache c lo hi).parts = s.parts := rfl
@[simp] theorem State.uncache_threads (s : State) (c lo hi : Nat) : (s.uncache c lo hi).threads = s.threads := rfl
@[simp] theorem State.uncache_streams (s : State) (c lo hi : Nat) : (s.uncache c lo hi).streams = s.streams := rfl
@[simp] theorem State.uncache_coh (s : State) (c lo hi : Nat) : (s.uncache c lo hi).coh = s.coh := rfl
@[simp] theorem State.uncache_dram (s : State) (c lo hi : Nat) : (s.uncache c lo hi).dram = s.dram := rfl
@[simp] theorem State.uncache_fq (s : State) (c lo hi : Nat) : (s.uncache c lo hi).fq = s.fq := rfl
@[simp] theorem State.uncache_fabric (s : State) (c lo hi : Nat) : (s.uncache c lo hi).fabric = s.fabric := rfl
@[simp] theorem State.uncache_host (s : State) (c lo hi : Nat) : (s.uncache c lo hi).host = s.host := rfl
@[simp] theorem State.uncache_irq (s : State) (c lo hi : Nat) : (s.uncache c lo hi).irq = s.irq := rfl
@[simp] theorem State.uncache_guests (s : State) (c lo hi : Nat) : (s.uncache c lo hi).guests = s.guests := rfl
@[simp] theorem State.uncache_pe1 (s : State) (c lo hi : Nat) : (s.uncache c lo hi).pe1 = s.pe1 := rfl
@[simp] theorem State.uncache_power (s : State) (c lo hi : Nat) : (s.uncache c lo hi).power = s.power := rfl
@[simp] theorem State.uncache_integ (s : State) (c lo hi : Nat) : (s.uncache c lo hi).integ = s.integ := rfl
@[simp] theorem State.uncache_sec (s : State) (c lo hi : Nat) : (s.uncache c lo hi).sec = s.sec := rfl
@[simp] theorem State.uncache_dict (s : State) (c lo hi : Nat) : (s.uncache c lo hi).dict = s.dict := rfl
@[simp] theorem State.uncache_banks (s : State) (c lo hi : Nat) : (s.uncache c lo hi).banks = s.banks := rfl
@[simp] theorem State.uncache_ctrs (s : State) (c lo hi : Nat) : (s.uncache c lo hi).ctrs = s.ctrs := rfl
@[simp] theorem State.uncache_out (s : State) (c lo hi : Nat) : (s.uncache c lo hi).out = s.out := rfl

/-- A fold keeps what each of its steps keeps. -/
theorem State.foldl_keeps {α β : Type} (g : State → β) (f : State → α → State) (h : ∀ t a, g (f t a) = g t) (l : List α) (s : State) :
    g (l.foldl f s) = g s := by
  induction l generalizing s with
  | nil => rfl
  | cons a r ih => exact (ih (f s a)).trans (h s a)

/-! The fields that counting an event leaves (R486, R487), and a walk of the tables that it counts (R290). -/

@[simp] theorem State.addCounter_pending (s : State) (b i n : Nat) : (s.addCounter b i n).pending = s.pending := by
  unfold State.addCounter State.wrapCounter; dsimp only; repeat' split
  all_goals rfl
@[simp] theorem State.addCounter_now (s : State) (b i n : Nat) : (s.addCounter b i n).now = s.now := by
  unfold State.addCounter State.wrapCounter; dsimp only; repeat' split
  all_goals rfl
@[simp] theorem State.addCounter_freeIx (s : State) (b i n : Nat) : (s.addCounter b i n).freeIx = s.freeIx := by
  unfold State.addCounter State.wrapCounter; dsimp only; repeat' split
  all_goals rfl
@[simp] theorem State.addCounter_dev (s : State) (b i n : Nat) : (s.addCounter b i n).dev = s.dev := by
  unfold State.addCounter State.wrapCounter; dsimp only; repeat' split
  all_goals rfl
@[simp] theorem State.addCounter_mem (s : State) (b i n : Nat) : (s.addCounter b i n).mem = s.mem := by
  unfold State.addCounter State.wrapCounter; dsimp only; repeat' split
  all_goals rfl
@[simp] theorem State.addCounter_bad (s : State) (b i n : Nat) : (s.addCounter b i n).bad = s.bad := by
  unfold State.addCounter State.wrapCounter; dsimp only; repeat' split
  all_goals rfl
@[simp] theorem State.addCounter_ctxs (s : State) (b i n : Nat) : (s.addCounter b i n).ctxs = s.ctxs := by
  unfold State.addCounter State.wrapCounter; dsimp only; repeat' split
  all_goals rfl
@[simp] theorem State.addCounter_parts (s : State) (b i n : Nat) : (s.addCounter b i n).parts = s.parts := by
  unfold State.addCounter State.wrapCounter; dsimp only; repeat' split
  all_goals rfl
@[simp] theorem State.addCounter_threads (s : State) (b i n : Nat) : (s.addCounter b i n).threads = s.threads := by
  unfold State.addCounter State.wrapCounter; dsimp only; repeat' split
  all_goals rfl
@[simp] theorem State.addCounter_streams (s : State) (b i n : Nat) : (s.addCounter b i n).streams = s.streams := by
  unfold State.addCounter State.wrapCounter; dsimp only; repeat' split
  all_goals rfl
@[simp] theorem State.addCounter_coh (s : State) (b i n : Nat) : (s.addCounter b i n).coh = s.coh := by
  unfold State.addCounter State.wrapCounter; dsimp only; repeat' split
  all_goals rfl
@[simp] theorem State.addCounter_dram (s : State) (b i n : Nat) : (s.addCounter b i n).dram = s.dram := by
  unfold State.addCounter State.wrapCounter; dsimp only; repeat' split
  all_goals rfl
@[simp] theorem State.addCounter_tlb (s : State) (b i n : Nat) : (s.addCounter b i n).tlb = s.tlb := by
  unfold State.addCounter State.wrapCounter; dsimp only; repeat' split
  all_goals rfl
@[simp] theorem State.addCounter_fq (s : State) (b i n : Nat) : (s.addCounter b i n).fq = s.fq := by
  unfold State.addCounter State.wrapCounter; dsimp only; repeat' split
  all_goals rfl
@[simp] theorem State.addCounter_fabric (s : State) (b i n : Nat) : (s.addCounter b i n).fabric = s.fabric := by
  unfold State.addCounter State.wrapCounter; dsimp only; repeat' split
  all_goals rfl
@[simp] theorem State.addCounter_host (s : State) (b i n : Nat) : (s.addCounter b i n).host = s.host := by
  unfold State.addCounter State.wrapCounter; dsimp only; repeat' split
  all_goals rfl
@[simp] theorem State.addCounter_guests (s : State) (b i n : Nat) : (s.addCounter b i n).guests = s.guests := by
  unfold State.addCounter State.wrapCounter; dsimp only; repeat' split
  all_goals rfl
@[simp] theorem State.addCounter_pe1 (s : State) (b i n : Nat) : (s.addCounter b i n).pe1 = s.pe1 := by
  unfold State.addCounter State.wrapCounter; dsimp only; repeat' split
  all_goals rfl
@[simp] theorem State.addCounter_power (s : State) (b i n : Nat) : (s.addCounter b i n).power = s.power := by
  unfold State.addCounter State.wrapCounter; dsimp only; repeat' split
  all_goals rfl
@[simp] theorem State.addCounter_integ (s : State) (b i n : Nat) : (s.addCounter b i n).integ = s.integ := by
  unfold State.addCounter State.wrapCounter; dsimp only; repeat' split
  all_goals rfl
@[simp] theorem State.addCounter_sec (s : State) (b i n : Nat) : (s.addCounter b i n).sec = s.sec := by
  unfold State.addCounter State.wrapCounter; dsimp only; repeat' split
  all_goals rfl
@[simp] theorem State.addCounter_dict (s : State) (b i n : Nat) : (s.addCounter b i n).dict = s.dict := by
  unfold State.addCounter State.wrapCounter; dsimp only; repeat' split
  all_goals rfl
@[simp] theorem State.addCounter_banks (s : State) (b i n : Nat) : (s.addCounter b i n).banks = s.banks := by
  unfold State.addCounter State.wrapCounter; dsimp only; repeat' split
  all_goals rfl
@[simp] theorem State.addCounter_asleep (s : State) (b i n : Nat) : (s.addCounter b i n).asleep = s.asleep := by
  unfold State.addCounter State.wrapCounter; dsimp only; repeat' split
  all_goals rfl
@[simp] theorem State.addCounter_out (s : State) (b i n : Nat) : (s.addCounter b i n).out = s.out := by
  unfold State.addCounter State.wrapCounter; dsimp only; repeat' split
  all_goals rfl
@[simp] theorem State.countEv_pending (s : State) (b code unit : Nat) (c : Option Nat) (n : Nat) : (s.countEv b code unit c n).pending = s.pending := by
  unfold State.countEv
  split
  · rfl
  · exact State.foldl_keeps (fun t => t.pending) _ (fun t i => by dsimp only; split <;> simp) _ s
@[simp] theorem State.countEv_now (s : State) (b code unit : Nat) (c : Option Nat) (n : Nat) : (s.countEv b code unit c n).now = s.now := by
  unfold State.countEv
  split
  · rfl
  · exact State.foldl_keeps (fun t => t.now) _ (fun t i => by dsimp only; split <;> simp) _ s
@[simp] theorem State.countEv_freeIx (s : State) (b code unit : Nat) (c : Option Nat) (n : Nat) : (s.countEv b code unit c n).freeIx = s.freeIx := by
  unfold State.countEv
  split
  · rfl
  · exact State.foldl_keeps (fun t => t.freeIx) _ (fun t i => by dsimp only; split <;> simp) _ s
@[simp] theorem State.countEv_dev (s : State) (b code unit : Nat) (c : Option Nat) (n : Nat) : (s.countEv b code unit c n).dev = s.dev := by
  unfold State.countEv
  split
  · rfl
  · exact State.foldl_keeps (fun t => t.dev) _ (fun t i => by dsimp only; split <;> simp) _ s
@[simp] theorem State.countEv_mem (s : State) (b code unit : Nat) (c : Option Nat) (n : Nat) : (s.countEv b code unit c n).mem = s.mem := by
  unfold State.countEv
  split
  · rfl
  · exact State.foldl_keeps (fun t => t.mem) _ (fun t i => by dsimp only; split <;> simp) _ s
@[simp] theorem State.countEv_bad (s : State) (b code unit : Nat) (c : Option Nat) (n : Nat) : (s.countEv b code unit c n).bad = s.bad := by
  unfold State.countEv
  split
  · rfl
  · exact State.foldl_keeps (fun t => t.bad) _ (fun t i => by dsimp only; split <;> simp) _ s
@[simp] theorem State.countEv_ctxs (s : State) (b code unit : Nat) (c : Option Nat) (n : Nat) : (s.countEv b code unit c n).ctxs = s.ctxs := by
  unfold State.countEv
  split
  · rfl
  · exact State.foldl_keeps (fun t => t.ctxs) _ (fun t i => by dsimp only; split <;> simp) _ s
@[simp] theorem State.countEv_parts (s : State) (b code unit : Nat) (c : Option Nat) (n : Nat) : (s.countEv b code unit c n).parts = s.parts := by
  unfold State.countEv
  split
  · rfl
  · exact State.foldl_keeps (fun t => t.parts) _ (fun t i => by dsimp only; split <;> simp) _ s
@[simp] theorem State.countEv_threads (s : State) (b code unit : Nat) (c : Option Nat) (n : Nat) : (s.countEv b code unit c n).threads = s.threads := by
  unfold State.countEv
  split
  · rfl
  · exact State.foldl_keeps (fun t => t.threads) _ (fun t i => by dsimp only; split <;> simp) _ s
@[simp] theorem State.countEv_streams (s : State) (b code unit : Nat) (c : Option Nat) (n : Nat) : (s.countEv b code unit c n).streams = s.streams := by
  unfold State.countEv
  split
  · rfl
  · exact State.foldl_keeps (fun t => t.streams) _ (fun t i => by dsimp only; split <;> simp) _ s
@[simp] theorem State.countEv_coh (s : State) (b code unit : Nat) (c : Option Nat) (n : Nat) : (s.countEv b code unit c n).coh = s.coh := by
  unfold State.countEv
  split
  · rfl
  · exact State.foldl_keeps (fun t => t.coh) _ (fun t i => by dsimp only; split <;> simp) _ s
@[simp] theorem State.countEv_dram (s : State) (b code unit : Nat) (c : Option Nat) (n : Nat) : (s.countEv b code unit c n).dram = s.dram := by
  unfold State.countEv
  split
  · rfl
  · exact State.foldl_keeps (fun t => t.dram) _ (fun t i => by dsimp only; split <;> simp) _ s
@[simp] theorem State.countEv_tlb (s : State) (b code unit : Nat) (c : Option Nat) (n : Nat) : (s.countEv b code unit c n).tlb = s.tlb := by
  unfold State.countEv
  split
  · rfl
  · exact State.foldl_keeps (fun t => t.tlb) _ (fun t i => by dsimp only; split <;> simp) _ s
@[simp] theorem State.countEv_fq (s : State) (b code unit : Nat) (c : Option Nat) (n : Nat) : (s.countEv b code unit c n).fq = s.fq := by
  unfold State.countEv
  split
  · rfl
  · exact State.foldl_keeps (fun t => t.fq) _ (fun t i => by dsimp only; split <;> simp) _ s
@[simp] theorem State.countEv_fabric (s : State) (b code unit : Nat) (c : Option Nat) (n : Nat) : (s.countEv b code unit c n).fabric = s.fabric := by
  unfold State.countEv
  split
  · rfl
  · exact State.foldl_keeps (fun t => t.fabric) _ (fun t i => by dsimp only; split <;> simp) _ s
@[simp] theorem State.countEv_host (s : State) (b code unit : Nat) (c : Option Nat) (n : Nat) : (s.countEv b code unit c n).host = s.host := by
  unfold State.countEv
  split
  · rfl
  · exact State.foldl_keeps (fun t => t.host) _ (fun t i => by dsimp only; split <;> simp) _ s
@[simp] theorem State.countEv_guests (s : State) (b code unit : Nat) (c : Option Nat) (n : Nat) : (s.countEv b code unit c n).guests = s.guests := by
  unfold State.countEv
  split
  · rfl
  · exact State.foldl_keeps (fun t => t.guests) _ (fun t i => by dsimp only; split <;> simp) _ s
@[simp] theorem State.countEv_pe1 (s : State) (b code unit : Nat) (c : Option Nat) (n : Nat) : (s.countEv b code unit c n).pe1 = s.pe1 := by
  unfold State.countEv
  split
  · rfl
  · exact State.foldl_keeps (fun t => t.pe1) _ (fun t i => by dsimp only; split <;> simp) _ s
@[simp] theorem State.countEv_power (s : State) (b code unit : Nat) (c : Option Nat) (n : Nat) : (s.countEv b code unit c n).power = s.power := by
  unfold State.countEv
  split
  · rfl
  · exact State.foldl_keeps (fun t => t.power) _ (fun t i => by dsimp only; split <;> simp) _ s
@[simp] theorem State.countEv_integ (s : State) (b code unit : Nat) (c : Option Nat) (n : Nat) : (s.countEv b code unit c n).integ = s.integ := by
  unfold State.countEv
  split
  · rfl
  · exact State.foldl_keeps (fun t => t.integ) _ (fun t i => by dsimp only; split <;> simp) _ s
@[simp] theorem State.countEv_sec (s : State) (b code unit : Nat) (c : Option Nat) (n : Nat) : (s.countEv b code unit c n).sec = s.sec := by
  unfold State.countEv
  split
  · rfl
  · exact State.foldl_keeps (fun t => t.sec) _ (fun t i => by dsimp only; split <;> simp) _ s
@[simp] theorem State.countEv_dict (s : State) (b code unit : Nat) (c : Option Nat) (n : Nat) : (s.countEv b code unit c n).dict = s.dict := by
  unfold State.countEv
  split
  · rfl
  · exact State.foldl_keeps (fun t => t.dict) _ (fun t i => by dsimp only; split <;> simp) _ s
@[simp] theorem State.countEv_banks (s : State) (b code unit : Nat) (c : Option Nat) (n : Nat) : (s.countEv b code unit c n).banks = s.banks := by
  unfold State.countEv
  split
  · rfl
  · exact State.foldl_keeps (fun t => t.banks) _ (fun t i => by dsimp only; split <;> simp) _ s
@[simp] theorem State.countEv_asleep (s : State) (b code unit : Nat) (c : Option Nat) (n : Nat) : (s.countEv b code unit c n).asleep = s.asleep := by
  unfold State.countEv
  split
  · rfl
  · exact State.foldl_keeps (fun t => t.asleep) _ (fun t i => by dsimp only; split <;> simp) _ s
@[simp] theorem State.countEv_out (s : State) (b code unit : Nat) (c : Option Nat) (n : Nat) : (s.countEv b code unit c n).out = s.out := by
  unfold State.countEv
  split
  · rfl
  · exact State.foldl_keeps (fun t => t.out) _ (fun t i => by dsimp only; split <;> simp) _ s
@[simp] theorem State.cacheWalk_pending (s : State) (a c va : Nat) : (s.cacheWalk a c va).pending = s.pending := by
  unfold State.cacheWalk; dsimp only; repeat' split
  all_goals simp
@[simp] theorem State.cacheWalk_now (s : State) (a c va : Nat) : (s.cacheWalk a c va).now = s.now := by
  unfold State.cacheWalk; dsimp only; repeat' split
  all_goals simp
@[simp] theorem State.cacheWalk_freeIx (s : State) (a c va : Nat) : (s.cacheWalk a c va).freeIx = s.freeIx := by
  unfold State.cacheWalk; dsimp only; repeat' split
  all_goals simp
@[simp] theorem State.cacheWalk_dev (s : State) (a c va : Nat) : (s.cacheWalk a c va).dev = s.dev := by
  unfold State.cacheWalk; dsimp only; repeat' split
  all_goals simp
@[simp] theorem State.cacheWalk_mem (s : State) (a c va : Nat) : (s.cacheWalk a c va).mem = s.mem := by
  unfold State.cacheWalk; dsimp only; repeat' split
  all_goals simp
@[simp] theorem State.cacheWalk_bad (s : State) (a c va : Nat) : (s.cacheWalk a c va).bad = s.bad := by
  unfold State.cacheWalk; dsimp only; repeat' split
  all_goals simp
@[simp] theorem State.cacheWalk_ctxs (s : State) (a c va : Nat) : (s.cacheWalk a c va).ctxs = s.ctxs := by
  unfold State.cacheWalk; dsimp only; repeat' split
  all_goals simp
@[simp] theorem State.cacheWalk_parts (s : State) (a c va : Nat) : (s.cacheWalk a c va).parts = s.parts := by
  unfold State.cacheWalk; dsimp only; repeat' split
  all_goals simp
@[simp] theorem State.cacheWalk_threads (s : State) (a c va : Nat) : (s.cacheWalk a c va).threads = s.threads := by
  unfold State.cacheWalk; dsimp only; repeat' split
  all_goals simp
@[simp] theorem State.cacheWalk_streams (s : State) (a c va : Nat) : (s.cacheWalk a c va).streams = s.streams := by
  unfold State.cacheWalk; dsimp only; repeat' split
  all_goals simp
@[simp] theorem State.cacheWalk_coh (s : State) (a c va : Nat) : (s.cacheWalk a c va).coh = s.coh := by
  unfold State.cacheWalk; dsimp only; repeat' split
  all_goals simp
@[simp] theorem State.cacheWalk_dram (s : State) (a c va : Nat) : (s.cacheWalk a c va).dram = s.dram := by
  unfold State.cacheWalk; dsimp only; repeat' split
  all_goals simp
@[simp] theorem State.cacheWalk_fq (s : State) (a c va : Nat) : (s.cacheWalk a c va).fq = s.fq := by
  unfold State.cacheWalk; dsimp only; repeat' split
  all_goals simp
@[simp] theorem State.cacheWalk_fabric (s : State) (a c va : Nat) : (s.cacheWalk a c va).fabric = s.fabric := by
  unfold State.cacheWalk; dsimp only; repeat' split
  all_goals simp
@[simp] theorem State.cacheWalk_host (s : State) (a c va : Nat) : (s.cacheWalk a c va).host = s.host := by
  unfold State.cacheWalk; dsimp only; repeat' split
  all_goals simp
@[simp] theorem State.cacheWalk_guests (s : State) (a c va : Nat) : (s.cacheWalk a c va).guests = s.guests := by
  unfold State.cacheWalk; dsimp only; repeat' split
  all_goals simp
@[simp] theorem State.cacheWalk_pe1 (s : State) (a c va : Nat) : (s.cacheWalk a c va).pe1 = s.pe1 := by
  unfold State.cacheWalk; dsimp only; repeat' split
  all_goals simp
@[simp] theorem State.cacheWalk_power (s : State) (a c va : Nat) : (s.cacheWalk a c va).power = s.power := by
  unfold State.cacheWalk; dsimp only; repeat' split
  all_goals simp
@[simp] theorem State.cacheWalk_integ (s : State) (a c va : Nat) : (s.cacheWalk a c va).integ = s.integ := by
  unfold State.cacheWalk; dsimp only; repeat' split
  all_goals simp
@[simp] theorem State.cacheWalk_sec (s : State) (a c va : Nat) : (s.cacheWalk a c va).sec = s.sec := by
  unfold State.cacheWalk; dsimp only; repeat' split
  all_goals simp
@[simp] theorem State.cacheWalk_dict (s : State) (a c va : Nat) : (s.cacheWalk a c va).dict = s.dict := by
  unfold State.cacheWalk; dsimp only; repeat' split
  all_goals simp
@[simp] theorem State.cacheWalk_banks (s : State) (a c va : Nat) : (s.cacheWalk a c va).banks = s.banks := by
  unfold State.cacheWalk; dsimp only; repeat' split
  all_goals simp
@[simp] theorem State.cacheWalk_asleep (s : State) (a c va : Nat) : (s.cacheWalk a c va).asleep = s.asleep := by
  unfold State.cacheWalk; dsimp only; repeat' split
  all_goals simp
@[simp] theorem State.cacheWalk_out (s : State) (a c va : Nat) : (s.cacheWalk a c va).out = s.out := by
  unfold State.cacheWalk; dsimp only; repeat' split
  all_goals simp

end Sys2Proof.Machine
end

