-- ==== Sys2Proof/Laws/Memory.lean ====
section
/-! SUPPORT. What the operations over memory do: each keeps the canonical form, a write at the home is what memory then holds, and lines are taken from
their holders. -/

namespace Sys2Proof.Machine

open Sys2Proof

/-- A fold of steps that keep a property keeps it. -/
theorem foldl_keeps {β : Type} (P : State → Prop) (f : State → β → State) (l : List β) (s : State) (h : P s) (hf : ∀ t b, P t → P (f t b)) :
    P (l.foldl f s) := by
  induction l generalizing s with
  | nil => exact h
  | cons b r ih => exact ih (f s b) (hf s b h)

/-! The canonical form of memory under every operation that changes memory. -/

theorem memWrite_memWf (s : State) (pa : Nat) (d : List Byte) (h : memWf s.mem = true) : memWf (s.memWrite pa d).mem = true :=
  tabWf_tabPutList _ _ _ _ h

theorem takeLine_memWf (s : State) (ln : Nat) (h : memWf s.mem = true) : memWf (s.takeLine ln).mem = true :=
  tabWf_tabPutList _ _ _ _ h

theorem loseLine_memWf (s : State) (ln : Nat) (h : memWf s.mem = true) : memWf (s.loseLine ln).mem = true :=
  takeLine_memWf s ln h

theorem zeroLines_memWf (s : State) (l0 l1 : Nat) (h : memWf s.mem = true) : memWf (s.zeroLines l0 l1).mem = true :=
  tabWf_tabClear _ _ _ _ (foldl_keeps (fun t => memWf t.mem = true) _ _ s h fun t l => takeLine_memWf t l)

theorem wrBytes_memWf (s : State) (pa : Nat) (d : List Byte) (h : memWf s.mem = true) : memWf (s.wrBytes pa d).mem = true := by
  unfold State.wrBytes
  split
  · exact h
  · split
    · exact h
    · refine memWrite_memWf _ _ _ ?_
      have h1 : ∀ l : List Nat, memWf (l.foldl (fun t l => if (t.dirOf l).st == .l &&
          !(decide ((wholeLines pa d.length).1 ≤ l) && decide (l < (wholeLines pa d.length).2)) then t else t.takeLine l) s).mem = true :=
        fun l => foldl_keeps (fun t => memWf t.mem = true) _ l s h fun t b ht => by
          split
          · exact ht
          · exact takeLine_memWf t b ht
      have h2 := h1 (s.dirIn (pa / 128) ((pa + d.length - 1) / 128))
      split <;> split <;> exact h2

theorem wrAll_memWf (s : State) (ws : List (Nat × List Byte)) (h : memWf s.mem = true) : memWf (s.wrAll ws).mem = true :=
  foldl_keeps (fun t => memWf t.mem = true) _ ws s h fun t w => wrBytes_memWf t w.1 w.2

theorem dropDomains_memWf (s : State) (h : memWf s.mem = true) : memWf s.dropDomains.mem = true := tabWf_filter _ _ _ h
theorem goOff_memWf (s : State) (h : memWf s.mem = true) : memWf s.goOff.mem = true := tabWf_filter _ _ _ h

theorem reset_memWf : memWf State.reset.mem = true := rfl

/-! What memory holds after a write. -/

/-- A byte of memory after a write at the home. -/
theorem mem_memWrite (s : State) (pa : Nat) (d : List Byte) (b : Nat) :
    tabGet memDefault (s.memWrite pa d).mem b = if h : pa ≤ b ∧ b < pa + d.length then d[b - pa]'(by omega) else tabGet memDefault s.mem b :=
  tabGet_tabPutList _ _ _ _ _

theorem memLine_memWrite (s : State) (ln : Nat) (d : List Byte) (h : d.length = 128) : (s.memWrite (ln * 128) d).memLine ln = d := by
  have := tabGetList_tabPutList memDefault d s.mem (ln * 128)
  rw [h] at this
  exact this

/-- A line that was taken is held by nobody. -/
@[simp] theorem dirOf_takeLine_same (s : State) (ln : Nat) : (s.takeLine ln).dirOf ln = DirEntry.none := tabGet_tabPut_same _ _ _ _

theorem dirOf_takeLine_other (s : State) (ln m : Nat) (h : m ≠ ln) : (s.takeLine ln).dirOf m = s.dirOf m := tabGet_tabPut_other _ _ _ _ _ h

/-- A line that was lost is in L, and nobody holds it (R253, R277). -/
@[simp] theorem dirOf_loseLine_same (s : State) (ln : Nat) :
    (s.loseLine ln).dirOf ln = { st := .l, owner := none, sharers := [], groups := [] } := tabGet_tabPut_same _ _ _ _

/-- Taking a line leaves every byte of memory outside it. -/
theorem mem_takeLine_other (s : State) (ln b : Nat) (h : b < ln * 128 ∨ ln * 128 + 128 ≤ b) :
    tabGet memDefault (s.takeLine ln).mem b = tabGet memDefault s.mem b := by
  have e : (s.takeLine ln).mem = (s.memWrite (ln * 128) ((s.lineView ln).take 128)).mem := rfl
  rw [e, mem_memWrite, dif_neg]
  have : ((s.lineView ln).take 128).length ≤ 128 := by rw [List.length_take]; omega
  omega

/-- Zeroed lines read as zero from memory. -/
theorem mem_zeroLines_inside (s : State) (l0 l1 b : Nat) (h : l0 * 128 ≤ b ∧ b < l1 * 128) :
    tabGet memDefault (s.zeroLines l0 l1).mem b = 0 := by
  unfold State.zeroLines
  simp only [tabGet_tabClear, if_pos h]

/-- A write of nothing does nothing. -/
@[simp] theorem wrBytes_nil (s : State) (pa : Nat) : s.wrBytes pa [] = s := rfl

/-- A write into a device's window is an output (R249). -/
theorem wrBytes_io (s : State) (pa : Nat) (d : List Byte) (hd : d ≠ []) (h : ioAddr pa = true) :
    s.wrBytes pa d = { s with out := { s.out with io := (s.deviceAddr pa, d) :: s.out.io } } := by
  unfold State.wrBytes
  rw [if_neg (by simpa using hd), if_pos h]

/-- What a write at the home leaves of the state. -/
theorem wrBytes_frame (s : State) (pa : Nat) (d : List Byte) :
    (s.wrBytes pa d).pending = s.pending ∧ (s.wrBytes pa d).now = s.now ∧ (s.wrBytes pa d).freeIx = s.freeIx ∧ (s.wrBytes pa d).dev = s.dev ∧
    (s.wrBytes pa d).ctxs = s.ctxs ∧ (s.wrBytes pa d).parts = s.parts ∧ (s.wrBytes pa d).threads = s.threads ∧ (s.wrBytes pa d).dram = s.dram ∧
    (s.wrBytes pa d).fq = s.fq ∧ (s.wrBytes pa d).fabric = s.fabric ∧ (s.wrBytes pa d).host = s.host ∧ (s.wrBytes pa d).irq = s.irq ∧
    (s.wrBytes pa d).guests = s.guests ∧ (s.wrBytes pa d).pe1 = s.pe1 ∧ (s.wrBytes pa d).power = s.power ∧ (s.wrBytes pa d).integ = s.integ ∧
    (s.wrBytes pa d).sec = s.sec ∧ (s.wrBytes pa d).dict = s.dict ∧ (s.wrBytes pa d).banks = s.banks ∧ (s.wrBytes pa d).ctrs = s.ctrs := by
  let P := fun t : State => t.pending = s.pending ∧ t.now = s.now ∧ t.freeIx = s.freeIx ∧ t.dev = s.dev ∧ t.ctxs = s.ctxs ∧ t.parts = s.parts ∧
    t.threads = s.threads ∧ t.dram = s.dram ∧ t.fq = s.fq ∧ t.fabric = s.fabric ∧ t.host = s.host ∧ t.irq = s.irq ∧ t.guests = s.guests ∧ t.pe1 = s.pe1 ∧
    t.power = s.power ∧ t.integ = s.integ ∧ t.sec = s.sec ∧ t.dict = s.dict ∧ t.banks = s.banks ∧ t.ctrs = s.ctrs
  show P (s.wrBytes pa d)
  have h0 : P s := ⟨rfl, rfl, rfl, rfl, rfl, rfl, rfl, rfl, rfl, rfl, rfl, rfl, rfl, rfl, rfl, rfl, rfl, rfl, rfl, rfl⟩
  unfold State.wrBytes
  split
  · exact h0
  · split
    · exact h0
    · have h1 : P ((s.dirIn (pa / 128) ((pa + d.length - 1) / 128)).foldl (fun t l => if (t.dirOf l).st == .l &&
          !(decide ((wholeLines pa d.length).1 ≤ l) && decide (l < (wholeLines pa d.length).2)) then t else t.takeLine l) s) :=
        foldl_keeps P _ _ s h0 fun t b ht => by
          split
          · exact ht
          · exact ht
      have h2 : ∀ (u : State) (l : List Nat), P u → P (if u.bad.isEmpty then u else { u with bad := l }) := fun u l hu => by split <;> exact hu
      have h3 : ∀ (u : State) (a b : Nat), P u → P ((if u.streams.hamper.isEmpty then u else u.dropHamper a b).memWrite pa d) :=
        fun u a b hu => by split <;> exact hu
      exact h3 _ _ _ (h2 _ _ h1)

end Sys2Proof.Machine
end

