-- ==== Sys2Proof/Tests/Demo.lean ====
section
/-! SUPPORT. The small states the tests run on: context 0 runs on P_0 with one operation at its queue's head, under a translation that maps the
first GiB to itself. -/

namespace Sys2Proof.Tests

open Sys2Proof Sys2Proof.Machine

set_option Elab.async false

/-- A descriptor of version 1 with an opcode and fields, each as its lowest bit and its value (R21). -/
def desc (op : Nat) (fs : List (Nat × Nat)) : Descriptor := BitVec.ofNat 2048 (fs.foldl (fun a f => a + f.2 * 2 ^ f.1) (op + 2 ^ 8))

/-- Registers of a context whose queue is at 0x20000 and whose completion ring is at 0x30000, 16 entries each. -/
def demoRegs : CtxRegs := { CtxRegs.created with
  queueWord := BitVec.ofNat 64 (0x20000 + 4 * 2 ^ 56)
  complWord := BitVec.ofNat 64 (0x30000 + 4 * 2 ^ 56) }

/-- A RUNNABLE context of P_0 with one operation in its queue. -/
def demoCtx : Ctx := { Ctx.free with
  st := .runnable
  part := some 0
  regs := demoRegs
  cnt := { CtxCounts.zero with queueProducer := 1 } }

/-- Tables that map the first GiB to itself with every right: the root at 0, one table at 0x10000 (R285 to R288). -/
def demoTables : List Host.Cell := [(0, 1), (2, 1), (0x10000, 0x1F)]

/-- A running device whose context 0 holds P_0, which is CS_0 alone, so that every access of an operation is that stack's; the L1s and the stack caches of CS_0
and CS_7 are disabled, so that no access depends on how a part's directory places its lines. -/
def base (x : Ctx) (mem : List Host.Cell) : State := { State.reset with
  dict := ((((State.reset.putEntry 0x9010 1 [0]).putEntry 0x9011 1 [0]).putEntry 0x9010 8 [0]).putEntry 0x9011 8 [0]).dict
  dev := { State.reset.dev with state := .running, layout := 0xFFFFFFF0 }
  mem := mem
  ctxs := tabPut Ctx.free [] 0 x
  parts := { PartSt.fresh with phase := .running, running := some 0 } :: List.replicate 7 PartSt.fresh }

/-- The running device with one descriptor in the queue of context 0. -/
def demo (d : Descriptor) : State := base demoCtx (tabPutList memDefault demoTables 0x20000 (leBytes d.toNat 256))

/-- The same with further bytes in memory. -/
def demoWith (d : Descriptor) (ws : List (Nat × List Byte)) : State :=
  { demo d with mem := ws.foldl (fun m w => tabPutList memDefault m w.1 w.2) (demo d).mem }

/-- The running device whose context 0 has one operation in flight. -/
def flying (d : Descriptor) (st : FlightSt) : State := base { demoCtx with flights := [⟨0, d, st⟩] } demoTables

/-- The checks of a taking, as one number of the kernel's evaluation. -/
def takenOk (s : State) (k op c : Nat) (d : Descriptor) : Bool :=
  s.mayTake k == some c && (s.fetchOp c).2.toOption == some d && !alien d && dOpcode d == op && !s.opAsleep k op

/-- The state in which an operation of context 0 is consumed. -/
abbrev after (s : State) (d : Descriptor) : State := (s.fetchOp 0).1.consume 0 d

theorem taken {s : State} {k op : Nat} {d : Descriptor} (h : takenOk s k op 0 d = true) :
    Taken s k op 0 ((s.fetchOp 0).1.ctx 0).cnt.nextOp d (after s d) := by
  simp only [takenOk, Bool.and_eq_true, beq_iff_eq, Bool.not_eq_true'] at h
  exact ⟨h.1.1.1.1, h.1.1.1.2, h.1.1.2, h.1.2, h.2, rfl, rfl⟩

/-- The state that a list of accesses leaves. -/
abbrev prepped (s : State) (l : List (Nat × Nat × Nat)) : State := (s.prepAllAt (s.seqAgent 0) 0 l).1

theorem prepared {s : State} {l : List (Nat × Nat × Nat)} (h : (s.prepAllAt (s.seqAgent 0) 0 l).2 = none) : Prepared s 0 l (prepped s l) :=
  Prod.ext rfl h

/-- The state that the accesses of an operation leave. -/
abbrev preppedOp (s : State) (l : List (Nat × Nat × Nat)) : State := (s.prepAll 0 l).1

theorem preparedOp {s : State} {l : List (Nat × Nat × Nat)} (h : (s.prepAll 0 l).2 = none) : PreparedOp s 0 l (preppedOp s l) :=
  Prod.ext rfl h

end Sys2Proof.Tests
end

