-- ==== Sys2Proof/Tests/Compute.lean ====
section
/-! SUPPORT. For the statement about the computing operations: a descriptor of each that meets the hypotheses of its clause. -/

namespace Sys2Proof.Tests

open Sys2Proof Sys2Proof.Machine

set_option Elab.async false

/-- A 1 × 1 × 1 product of BF16 operands with an FP32 result. -/
def prodBody : List (Nat × Nat) :=
  [(128, 0x40000), (192, 0x40040), (256, 0x40080), (704, 1), (736, 1), (768, 1), (800, 64), (848, 64), (896, 64), (992, 0x18), (1000, 0x18),
   (1008, 0x1A), (1016, 0x1A), (1024, 0x1A), (1056, 0x3F800000)]
abbrev matD : Descriptor := desc 0x01 prodBody
abbrev batD : Descriptor := desc 0x02 (prodBody ++ [(1152, 1), (1312, 64)])
abbrev ragD : Descriptor := desc 0x03 (prodBody ++ [(1632, 0x60000), (1696, 1)])

/-- The checks of a product that its clause names, but for its sequence table. -/
def prodOk (sT : State) (d : Descriptor) : Bool :=
  ((headerCheck d (prodFields (dOpcode d))).orElse (prodBadField d)).isNone && (mismatch (pAFmt d) (pBFmt d)).isNone && !sT.pinFails 0 d (prodSig d) &&
    (sT.prepAll 0 (prodExtents (sT.ctx 0) d (sT.prodJobs 0 d))).2.isNone

theorem test_wit_matmul : (∃ ix s2, Taken (demo matD) 0 0x01 0 ix matD s2) ∧ prodOk (after (demo matD) matD) matD = true :=
  ⟨⟨_, _, taken (by decide +kernel)⟩, by decide +kernel⟩

theorem test_wit_batched : (∃ ix s2, Taken (demo batD) 0 0x02 0 ix batD s2) ∧ prodOk (after (demo batD) batD) batD = true :=
  ⟨⟨_, _, taken (by decide +kernel)⟩, by decide +kernel⟩

/-- The sequence table of the ragged product names row 0. -/
def ragDemo : State := demoWith ragD [(0x60000, leBytes (2 ^ 32) 8)]

theorem test_wit_ragged : (∃ ix s2, Taken ragDemo 0 0x03 0 ix ragD s2) ∧
    (let sT := prepped (after ragDemo ragD) [(accRead, fld ragD 1632 1695, 8 * fld ragD 1696 1708)]
     ((after ragDemo ragD).prepAllAt ((after ragDemo ragD).seqAgent 0) 0 [(accRead, fld ragD 1632 1695, 8 * fld ragD 1696 1708)]).2 = none ∧
       rangesOk (pM ragD) (sT.seqEntries 0 (fld ragD 1632 1695) (fld ragD 1696 1708)) = true ∧ prodOk sT ragD = true) :=
  ⟨⟨_, _, taken (by decide +kernel)⟩, by decide +kernel⟩

/-- Attention of one query on one key, one head of one element, BF16. -/
abbrev attD : Descriptor := desc 0x04 [(128, 0x40000), (192, 0x40040), (256, 0x40080), (320, 0x400C0), (704, 0x60000), (768, 1), (784, 0x18), (792, 0x18), (800, 0x18),
  (808, 0x1A), (832, 1), (848, 1), (864, 1), (896, 64), (944, 64), (992, 64), (1040, 64)]
def attDemo : State := demoWith attD [(0x60000, leBytes (2 ^ 32 + 2 ^ 96) 16)]

theorem test_wit_attention : (∃ ix s2, Taken attDemo 0 0x04 0 ix attD s2) ∧
    (let s3 := prepped (after attDemo attD) [(accRead, fld attD 704 767, 16 * fld attD 768 780)]
     (headerCheck attD attnFields).orElse (attnBadField attD) = none ∧
       ((after attDemo attD).prepAllAt ((after attDemo attD).seqAgent 0) 0 [(accRead, fld attD 704 767, 16 * fld attD 768 780)]).2 = none ∧
       rangesOk (2 ^ 33) ((s3.attnSeqs 0 attD).map fun q => (q.qOff, q.qLen)) = true ∧ mismatch (tQFmt attD) (fld attD 792 799) = none ∧
       s3.pinFails 0 attD (attnSig attD) = false ∧ (s3.prepAll 0 ((s3.attnSeqs 0 attD).flatMap (attnExtents attD))).2 = none) :=
  ⟨⟨_, _, taken (by decide +kernel)⟩, by decide +kernel⟩

abbrev conD : Descriptor := desc 0x09 [(128, 0x40000), (192, 0x40040), (448, 1), (480, 1), (512, 64), (560, 64), (608, 0x1A), (616, 0x18), (640, 0x3F800000)]

theorem test_wit_convert : (∃ ix s2, Taken (demo conD) 0 0x09 0 ix conD s2) ∧ (headerCheck conD convFields).orElse (convBadField conD) = none ∧
    ((after (demo conD) conD).prepAll 0 (convExtents ((after (demo conD) conD).ctx 0) conD)).2 = none :=
  ⟨⟨_, _, taken (by decide +kernel)⟩, by decide +kernel, by decide +kernel⟩

/-- A plain update of one FP32 weight by a BF16 gradient; and with an Almanac that holds updates whose gradient is not finite. -/
abbrev updD : Descriptor := desc 0x08 [(128, 0x40000), (192, 0x40040), (576, 1), (608, 1), (640, 64), (688, 64), (784, 0x18), (800, 0x1A)]
def heldCtx : Ctx := { demoCtx with regs := { demoRegs with
  policy := settled (BitVec.ofNat 512 (demoRegs.policy.eff.toNat ||| (2 ^ 8 + 2 ^ 24 + 0x80000 * 2 ^ 64))) } }
def heldDemo : State :=
  let m := tabPutList memDefault (demo updD).mem 0x40040 (leBytes 0x7FC0 2)
  { demo updD with mem := m, ctxs := tabPut Ctx.free [] 0 heldCtx }

theorem test_wit_update : (∃ ix s2, Taken (demo updD) 0 0x08 0 ix updD s2) ∧ (headerCheck updD updFields).orElse (updBadField updD) = none ∧
    (let s2 := after (demo updD) updD
     ((uMaster updD == cFp64) = (pol (s2.ctx 0) 0 0 == 1)) ∧ (s2.prepAll 0 (updReads (s2.ctx 0) updD)).2 = none ∧ polPeriod (s2.ctx 0) = 0 ∧
       ((preppedOp s2 (updReads (s2.ctx 0) updD)).prepAll 0 (updWrites updD)).2 = none) :=
  ⟨⟨_, _, taken (by decide +kernel)⟩, by decide +kernel, by decide +kernel⟩

theorem test_wit_update_held : (∃ ix s2, Taken heldDemo 0 0x08 0 ix updD s2) ∧
    (let s2 := after heldDemo updD
     let s3 := preppedOp s2 (updReads (s2.ctx 0) updD)
     ((uMaster updD == cFp64) = (pol (s2.ctx 0) 0 0 == 1)) ∧ (s2.prepAll 0 (updReads (s2.ctx 0) updD)).2 = none ∧ polPeriod (s2.ctx 0) ≠ 0 ∧
       pol (s2.ctx 0) 24 24 = 1 ∧ ((s3.updElems 0 updD).flatMap id).countP UpdElem.nonfinite ≠ 0) :=
  ⟨⟨_, _, taken (by decide +kernel)⟩, by decide +kernel⟩

/-- One `EXIT` as the code of an element-wise program and of a kernel. -/
def exitCode : Nat × List Byte := (0x60000, leBytes 0x62 8)
abbrev eleD : Descriptor := desc 0x0A [(128, 0x60000), (192, 1), (211, 1), (216, 12), (224, 1), (256, 1), (832, 0x40000), (960, 64), (1008, 0x1A)]
abbrev kerD : Descriptor := desc 0x0B [(128, 0x60000), (192, 1), (208, 8), (216, 1), (224, 1), (256, 0x40000), (320, 1), (352, 1), (368, 1)]

theorem test_wit_elementwise : (∃ ix s2, Taken (demoWith eleD [exitCode]) 0 0x0A 0 ix eleD s2) ∧
    (headerCheck eleD (elemFields eleD)).orElse (elemBadField eleD) = none ∧
    (let s2 := after (demoWith eleD [exitCode]) eleD
     let s3 := prepped s2 [(accCode, fld eleD 128 191, 8 * fld eleD 192 207)]
     (s2.prepAllAt (s2.seqAgent 0) 0 [(accCode, fld eleD 128 191, 8 * fld eleD 192 207)]).2 = none ∧ codeOk (fld eleD 216 223) true (s3.readCode 0 eleD) = true ∧
       (s3.prepAll 0 (elemExtents eleD)).2 = none) :=
  ⟨⟨_, _, taken (by decide +kernel)⟩, by decide +kernel, by decide +kernel⟩

theorem test_wit_kernel : (∃ ix s2, Taken (demoWith kerD [exitCode]) 0 0x0B 0 ix kerD s2) ∧
    (headerCheck kerD kernelFields).orElse (kernelBadField kerD) = none ∧
    (let s2 := after (demoWith kerD [exitCode]) kerD
     let s3 := prepped s2 [(accCode, fld kerD 128 191, 8 * fld kerD 192 207)]
     (s2.prepAllAt (s2.seqAgent 0) 0 [(accCode, fld kerD 128 191, 8 * fld kerD 192 207)]).2 = none ∧ codeOk (fld kerD 208 215) false (s3.readCode 0 kerD) = true ∧
       fld kerD 256 319 ≠ 0 ∧ (s3.prepAllAt (s3.seqAgent 0) 0 [(accRead, fld kerD 256 319, 128)]).2 = none) :=
  ⟨⟨_, _, taken (by decide +kernel)⟩, by decide +kernel, by decide +kernel⟩

/-- A stream of one `SYNC` on one unit. -/
abbrev strD : Descriptor := desc 0x0C [(128, 0x60000), (192, 1), (200, 1)]
def strDemo : State := demoWith strD [(0x60000, leBytes 0x18 8)]

theorem test_wit_stream : (∃ ix s2, Taken strDemo 0 0x0C 0 ix strD s2) ∧
    (let s2 := after strDemo strD
     let s3 := prepped s2 [(accCode, fld strD 128 191, 8)]
     let ws := (List.range 1).map fun i => BitVec.ofNat 64 (s3.rdVNat 0 (fld strD 128 191 + 8 * i) 8)
     (headerCheck strD streamFields).orElse (streamBadField strD (s2.stacks 0).length) = none ∧ (s2.prepAllAt (s2.seqAgent 0) 0 [(accCode, fld strD 128 191, 8)]).2 = none ∧
       progOk (streamEps strD) ws = true ∧ ((streamEps strD).any (fun e => epKind e == 3) && !s2.jobComplete 0) = false) :=
  ⟨⟨_, _, taken (by decide +kernel)⟩, by decide +kernel⟩

/-- An all-gather of one byte with the package itself, whose context is in a complete job. -/
abbrev colD : Descriptor := desc 0x10 [(128, 0x40000), (192, 0x40040), (256, 0x60000), (320, 1), (448, 1), (488, 3), (496, 0x03)]
def colDemo : State :=
  let s := demoWith colD [(0x60000, leBytes 7 8)]
  let t := [(0x4100, 1, leBytes 7 4), (0x8062, 1, 0 :: List.replicate 4095 0xFF), (0x8061, 1, leBytes (2 * 2 ^ 32 + 2 ^ 64) 32)].foldl
    (fun m (e : Nat × Nat × List Byte) => tabPut [] m (256 * e.1 + e.2.1) e.2.2) s.dict.eff
  { s with dict := { s.dict with acc := t, eff := t } }

theorem test_wit_collective : (∃ ix s2, Taken colDemo 0 0x10 0 ix colD s2) ∧
    (let s2 := after colDemo colD
     let s3 := preppedOp s2 [(accRead, fld colD 256 319, 8 * kRanks colD)]
     let ms := (List.range (kRanks colD)).map fun i => BitVec.ofNat 64 (s3.rdVNat 0 (fld colD 256 319 + 8 * i) 8)
     (headerCheck colD collFields).orElse (collBadField colD) = none ∧ (s2.prepAll 0 [(accRead, fld colD 256 319, 8 * kRanks colD)]).2 = none ∧
       membersBad s3 0 colD ms = false ∧ s3.jobComplete 0 = true ∧
       rowBytes (kFmt colD) (sendCount colD (kRank colD)) ≠ 0 ∧
       (s3.prepAllAt hub0Agent 0 [(accRead, kSend colD, rowBytes (kFmt colD) (sendCount colD (kRank colD))),
         (accWrite, kRecv colD, rowBytes (kFmt colD) (recvCount colD))]).2 = none) :=
  ⟨⟨_, _, taken (by decide +kernel)⟩, by decide +kernel⟩

/-- Saving and loading an Almanac of one layer at a boundary. -/
def almCtx : Ctx := { demoCtx with regs := { demoRegs with policy := settled (BitVec.ofNat 512 (demoRegs.policy.eff.toNat ||| (2 ^ 8 + 0x80000 * 2 ^ 64))) } }
abbrev savD : Descriptor := desc 0x28 [(128, 0x40000), (192, 8704)]
abbrev loaD : Descriptor := desc 0x29 [(128, 0x40000), (192, 8704)]
def almDemo (d : Descriptor) : State := { demo d with ctxs := tabPut Ctx.free [] 0 almCtx }

theorem test_wit_almanac_save : (∃ ix s2, Taken (almDemo savD) 0 0x28 0 ix savD s2) ∧
    (let s2 := after (almDemo savD) savD
     let x := s2.ctx 0
     x.atBoundary = true ∧ (headerCheck savD [(128, 191), (192, 255)]).orElse (badField [badAddr savD 128 64,
       (polPeriod x == 0 || decide (fld savD 192 255 < imageBytes x), 192)]) = none ∧
       (s2.prepAll 0 [(accRead, slotAddr x 0, 8192 * polPeriod x), (accWrite, fld savD 128 191, imageBytes x)]).2 = none) :=
  ⟨⟨_, _, taken (by decide +kernel)⟩, by decide +kernel⟩

theorem test_wit_almanac_load : (∃ ix s2, Taken (almDemo loaD) 0 0x29 0 ix loaD s2) ∧
    (let s2 := after (almDemo loaD) loaD
     let x := s2.ctx 0
     x.atBoundary = true ∧ (headerCheck loaD [(128, 191), (192, 255)]).orElse (badField [badAddr loaD 128 64]) = none ∧ polPeriod x ≠ 0 ∧
       fld loaD 192 255 = imageBytes x ∧ (s2.prepAllAt (s2.seqAgent 0) 0 [(accRead, fld loaD 128 191, imageBytes x)]).2 = none ∧
       ((prepped s2 [(accRead, fld loaD 128 191, imageBytes x)]).prepAllAt (s2.seqAgent 0) 0 [(accWrite, polAddr x, regionBytes (polPeriod x))]).2 = none) :=
  ⟨⟨_, _, taken (by decide +kernel)⟩, by decide +kernel⟩

/-- R64: 1.5 × 2 = 3 as FP32; R114, R101: the FP32 tie 0x3F80_8000 goes to the even BF16 0x3F80. -/
def resultBytes (r : Host.Outcome State Fault Refusal) (a n : Nat) : List Byte :=
  match r with
  | .next t => t.rdBytes a n
  | _ => []
theorem test_matmul_value : resultBytes (exec (.matmul 0) (demoWith matD [(0x40000, leBytes 0x3FC0 2), (0x40040, leBytes 0x4000 2)])) 0x40080 4 =
    leBytes 0x40400000 4 := by decide +kernel
theorem test_convert_value : resultBytes (exec (.convert 0) (demoWith conD [(0x40000, leBytes 0x3F808000 4)])) 0x40040 2 = leBytes 0x3F80 2 := by
  decide +kernel

end Sys2Proof.Tests
end

