-- ==== Sys2Proof/Tests/Contract.lean ====
section
/-! SUPPORT. For the statements about operations and contexts: a state and operands that meet the hypotheses of every clause. -/

namespace Sys2Proof.Tests

open Sys2Proof Sys2Proof.Machine

set_option Elab.async false

/-- StepRunsFront: the queue is empty after reset. -/
theorem test_wit_idle : State.reset.pending = [] := rfl

/-- TakenOperationRuns: the lowest and the highest opcode. -/
theorem test_wit_taken : takenOk (demo (desc 0x01 [])) 0 0x01 0 (desc 0x01 []) = true ∧ takenOk (demo (desc 0x29 [])) 0 0x29 0 (desc 0x29 []) = true := by
  decide +kernel

abbrev zeroD : Descriptor := desc 0x19 [(128, 0x40001), (192, 300)]
abbrev copyD : Descriptor := desc 0x18 [(128, 0x40000), (192, 0x50001), (256, 1)]
abbrev egressD : Descriptor := desc 0x18 [(128, 0x40000), (192, 0), (256, 1), (320, 1)]
abbrev fenceD : Descriptor := desc 0x20 [(128, 15)]
abbrev eveD : Descriptor := desc 0x21 [(128, 0x40000), (192, 1)]

/-- A context with an egress registration, its hold area 4 KiB, and the host attached. -/
def egressCtx : Ctx := { demoCtx with host := { HostSide.created with reg := some ⟨0, 0, 6, 0, 0, 0⟩ } }
def attached (s : State) : State := { s with host := { s.host with detached := false } }
def egressDemo : State := let s := attached (demo egressD); s.setCtx 0 egressCtx

/-- PlainOperationsRun, clause by clause. -/
theorem test_wit_plain_zero : ∃ ix s2 s3, Taken (demo zeroD) 0 0x19 0 ix zeroD s2 ∧
    (headerCheck zeroD zeroFields).orElse (badField [badAddr zeroD 128 1, badLength zeroD 192]) = none ∧
    PreparedOp s2 0 (zeroParts (fld zeroD 128 191) (fld zeroD 192 255)) s3 :=
  ⟨_, _, _, taken (by decide +kernel), by decide +kernel, preparedOp (by decide +kernel)⟩

theorem test_wit_plain_copy : ∃ ix s2 s3, Taken (demo copyD) 0 0x18 0 ix copyD s2 ∧ copyCheck s2 0 copyD = none ∧ flag copyD 320 = false ∧
    PreparedOp s2 0 [(accRead, fld copyD 128 191, fld copyD 256 319), (accWrite, fld copyD 192 255, fld copyD 256 319)] s3 :=
  ⟨_, _, _, taken (by decide +kernel), by decide +kernel, by decide +kernel, preparedOp (by decide +kernel)⟩

theorem test_wit_plain_egress : ∃ ix s2, Taken egressDemo 0 0x18 0 ix egressD s2 ∧ copyCheck s2 0 egressD = none ∧ flag egressD 320 = true :=
  ⟨_, _, taken (by decide +kernel), by decide +kernel, by decide +kernel⟩

theorem test_wit_plain_fence : ∃ ix s2, Taken (demo fenceD) 0 0x20 0 ix fenceD s2 ∧
    headerCheck fenceD [(128, 128), (129, 129), (130, 130), (131, 131)] = none :=
  ⟨_, _, taken (by decide +kernel), by decide +kernel⟩

theorem test_wit_plain_eve : ∃ ix s2, Taken (demo eveD) 0 0x21 0 ix eveD s2 ∧
    (headerCheck eveD [(128, 191), (192, 192)]).orElse (badField [badAddr eveD 128 64]) = none ∧ s2.holdsPart 0 = some 0 :=
  ⟨_, _, taken (by decide +kernel), by decide +kernel, by decide +kernel⟩

abbrev waitD : Descriptor := desc 0x22 [(128, 0x40000), (192, 1), (256, 2), (288, 5)]
abbrev signalD : Descriptor := desc 0x23 [(128, 0x40008), (192, 3), (258, 1), (272, 8191)]
abbrev stampD : Descriptor := desc 0x24 [(128, 0x40010)]

/-- PlainOperationsRun: the operations that wait. -/
theorem test_wit_waiting_wait : ∃ ix s2 s3, Taken (demo waitD) 0 0x22 0 ix waitD s2 ∧
    (headerCheck waitD [(128, 191), (192, 255), (256, 257), (288, 319)]).orElse (badField [badAddr waitD 128 8, (fld waitD 256 257 == 3, 256)]) = none ∧
    Prepared s2 0 [(accRead, fld waitD 128 191, 8)] s3 :=
  ⟨_, _, _, taken (by decide +kernel), by decide +kernel, prepared (by decide +kernel)⟩

theorem test_wit_waiting_signal : ∃ ix s2, Taken (demo signalD) 0 0x23 0 ix signalD s2 ∧
    (headerCheck signalD [(128, 191), (192, 255), (256, 257), (258, 258), (272, 284)]).orElse
      (badField [badAddr signalD 128 8, (fld signalD 256 257 == 3, 256)]) = none :=
  ⟨_, _, taken (by decide +kernel), by decide +kernel⟩

theorem test_wit_waiting_stamp : ∃ ix s2, Taken (demo stampD) 0 0x24 0 ix stampD s2 ∧
    (headerCheck stampD [(128, 191)]).orElse (badField [badAddr stampD 128 16]) = none :=
  ⟨_, _, taken (by decide +kernel), by decide +kernel⟩

/-- SignalActsAtTheHead. -/
theorem test_wit_head_signal : ((flying signalD .atHead).ctx 0).flights = [⟨0, signalD, .atHead⟩] ∧ ((flying signalD .atHead).ctx 0).records = [] ∧
    dOpcode signalD = 0x23 ∧ ∃ s1, Prepared (flying signalD .atHead) 0 [(accAtomic, fld signalD 128 191, 8)] s1 :=
  ⟨by decide +kernel, by decide +kernel, by decide +kernel, _, prepared (by decide +kernel)⟩

theorem test_wit_head_stamp : ((flying stampD .atHead).ctx 0).flights = [⟨0, stampD, .atHead⟩] ∧ ((flying stampD .atHead).ctx 0).records = [] ∧
    dOpcode stampD = 0x24 ∧ ∃ s1, Prepared (flying stampD .atHead) 0 [(accWrite, fld stampD 128 191, 16)] s1 :=
  ⟨by decide +kernel, by decide +kernel, by decide +kernel, _, prepared (by decide +kernel)⟩

/-- RecordTakesTheNextSlot: the last slot of the ring; and a SILENT `OK`. -/
theorem test_wit_record : (∃ s1, Prepared (base { demoCtx with cnt := { CtxCounts.zero with complProduced := 15 } } demoTables) 0
      [(accWrite, 0x30000 + 32 * 15, 32)] s1) ∧
    recordSlot ((base { demoCtx with cnt := { CtxCounts.zero with complProduced := 15 } } demoTables).ctx 0) = 0x30000 + 32 * 15 ∧
    dSilent (desc 0x19 [(17, 1)]) = true ∧ (endWith 0 0).status = 0 :=
  ⟨⟨_, prepared (by decide +kernel)⟩, by decide +kernel, by decide +kernel, rfl⟩

/-- DoorbellsAndConsumerCounts: accepted up to the ring's 16 entries, refused at 17; a granted, a KILLED and an unconfigured STOPPED context; a FREE
one; consumer counts up to and beyond what was produced. -/
theorem test_wit_doorbell :
    ({ State.reset with dev := { State.reset.dev with state := .standby } } : State).powered = false ∧ (demo 0).powered = true ∧
    ((demo 0).ctx 0).st ≠ .free ∧ granted ((demo 0).ctx 0) = false ∧ ((demo 0).ctx 0).st ≠ .killed ∧
      ¬(((demo 0).ctx 0).st = .stopped ∧ qLog2 ((demo 0).ctx 0) = 0) ∧ bellBad ((demo 0).ctx 0) 16 = false ∧ bellBad ((demo 0).ctx 0) 17 = true ∧
    granted { demoCtx with regs := { demoRegs with hostBlk := settled 1 } } = true ∧
    ((demo 0).ctx 1).st = .free ∧
    (let x := (base { demoCtx with cnt := { CtxCounts.zero with complProduced := 2 } } []).ctx 0
     w32Diff 2 x.cnt.complConsumed ≤ w32Diff x.cnt.complProduced x.cnt.complConsumed ∧
       w32Diff x.cnt.complProduced x.cnt.complConsumed < w32Diff 3 x.cnt.complConsumed) := by decide +kernel

/-- ContractEventsComplete: a completion, a record that waits, a `WAIT`, an idle partition with work, and an Eve that is overdue. -/
def recordCtx : Ctx := { demoCtx with waiting := [⟨0x0106, 7⟩, ⟨0x0106, 8⟩] }
def idlePart : State := { demo zeroD with parts := List.replicate 8 PartSt.fresh }
def overdueDemo : State :=
  { demo zeroD with parts := { PartSt.fresh with phase := .running, running := some 0, intervalFrom := some 5 } :: List.replicate 7 PartSt.fresh }

theorem test_wit_events_done : let x := (flying zeroD (.done (endWith 0 0))).ctx 0
    x.flights = [⟨0, zeroD, .done (endWith 0 0)⟩] ∧ x.records = [] := by decide +kernel

theorem test_wit_events_record : let s := base recordCtx demoTables
    (s.ctx 0).waiting = [⟨0x0106, 7⟩, ⟨0x0106, 8⟩] ∧ (s.ctx 0).flights = [] ∧ complSpace (s.ctx 0) = true ∧ s.recordsWait 0 = false ∧
      (s.writeRecord 0 (recordWord 0 0 0x0106 0 (endWith 0x0106 7) 0)).2 = none := by decide +kernel

theorem test_wit_events_wait : let s := flying waitD (.waiting (some 5000))
    (s.ctx 0).flights = [⟨0, waitD, .waiting (some 5000)⟩] ∧ (s.prepAllAt (s.seqAgent 0) 0 [(accRead, fld waitD 128 191, 8)]).2 = none := by decide +kernel

theorem test_wit_events_choose : idlePart.partExists 0 = true ∧ idlePart.seqLive 0 = true ∧ (idlePart.part 0).phase = .idle ∧ idlePart.taking = true ∧
    (idlePart.choose 0).2 = some 0 := by decide +kernel

theorem test_wit_events_overdue : (overdueDemo.part 0).running = some 0 ∧ (overdueDemo.part 0).intervalFrom = some 5 ∧
    (overdueDemo.part 0).phase = .running ∧ overdueDemo.live = true := by decide +kernel

/-- BoundariesComplete: an Eve whose layer closes, a release drain, a quiesce drain, inserted idle with and without an Eve, a change of layout, a tick. -/
def drainDemo (k : DrainKind) (x : Ctx) (run : Option Nat) : State := { base x demoTables with
  parts := { PartSt.fresh with phase := .draining, drain := k, running := run } :: List.replicate 7 PartSt.fresh }
def eveCtx (st : FlightSt) : Ctx := { demoCtx with flights := [⟨0, eveD, st⟩] }
def idleDemo (x : Ctx) (run : Option Nat) : State := { base x demoTables with
  parts := { PartSt.fresh with phase := .idleInserted, running := run, idleUntil := 9 } :: List.replicate 7 PartSt.fresh }
def layoutDemo : State := { State.reset with
  dev := { State.reset.dev with layoutDue := true }
  dict := { State.reset.dict with acc := tabPut [] [] (0x3010 * 256 + 1) (leBytes 0x11111111 32) }
  parts := List.replicate 8 { PartSt.fresh with reached := true } }

theorem test_wit_boundary_eve : let s := drainDemo .eve (eveCtx (.eve 3 none)) (some 0)
    s.eveReady 0 = some (0, ⟨0, eveD, .eve 3 none⟩, 3, 0) ∧ (s.closeOrStall 0 0).2 = true := by decide +kernel

theorem test_wit_boundary_release : let s := drainDemo .release demoCtx (some 0)
    (s.part 0).phase = .draining ∧ (s.part 0).drain = .release ∧ s.drained 0 = true := by decide +kernel

theorem test_wit_boundary_quiesce : let s := drainDemo .quiesce demoCtx none
    (s.part 0).phase = .draining ∧ (s.part 0).drain = .quiesce ∧ s.drained 0 = true := by decide +kernel

theorem test_wit_boundary_idle :
    ((idleDemo demoCtx none).part 0).phase = .idleInserted ∧ ((idleDemo demoCtx none).part 0).running = none ∧
      ((idleDemo demoCtx (some 0)).part 0).running = some 0 ∧ eveFlight ((idleDemo demoCtx (some 0)).ctx 0) = none ∧
      eveFlight ((idleDemo (eveCtx (.eveRecord (endWith 0 0))) (some 0)).ctx 0) = some ⟨0, eveD, .eveRecord (endWith 0 0)⟩ ∧
      ((idleDemo (eveCtx (.eveRecord (endWith 0 0))) (some 0)).ctx 0).records = [] := by decide +kernel

theorem test_wit_boundary_layout : layoutDemo.dev.layoutDue = true ∧ layoutDemo.anyTouched = true ∧ layoutDemo.allReached = true := by decide +kernel

theorem test_wit_boundary_tick : State.reset.dev.aoUp = true ∧ State.reset.dev.state ≠ .off := by decide

/-- ContextCommandsAct: one context in each state, in bank 127. -/
def bankDemo (x : Ctx) : State := base x demoTables

theorem test_wit_commands :
    let st := fun (x : CtxState) => (bankDemo { demoCtx with st := x }).ctx ((bankDemo { demoCtx with st := x }).bank 127).sel
    ((State.reset.ctx (State.reset.bank 127).sel).st = .free ∧ State.reset.partExists 0 = true ∧ State.reset.partExists 7 = false) ∧
      ((st .stopped).st = .stopped ∧ (st .stopped).part.isSome = true ∧ qAddr (st .stopped) ≠ 0 ∧ cAddr (st .stopped) ≠ 0) ∧
      (st .runnable).st = .runnable ∧ (st .parked).st = .parked ∧
      ((st .halted).st = .halted ∧ (st .halted).part.isSome = true ∧ (st .halted).waiting = [] ∧ granted (st .halted) = false) ∧
      (st .killed).st = .killed := by decide +kernel

/-- BlockCommitsHold and ContextCommandsFrame: an accepted and a refused block of each kind. -/
theorem test_wit_blocks :
    let s := bankDemo demoCtx
    let x := s.ctx (s.bank 0).sel
    x.st ≠ .free ∧ badPolicy (stagedBlock (s.bank 0) 0x180 8 x.regs.policy.acc.toNat 0) = false ∧
      badPolicy (stagedBlock (s.bank 0) 0x180 8 (1025 * 2 ^ 8) 0) = true ∧
      bitsOf (stagedBlock (s.bank 0) 0x1C0 2 x.regs.xlate.acc.toNat 0) 0 16 = 0 ∧ bitsOf (stagedBlock (s.bank 0) 0x1C0 2 1 0) 0 16 ≠ 0 ∧
      badHost x (stagedBlock (s.bank 0) 0x1E0 4 x.regs.hostBlk.acc.toNat 12) = false ∧
      badHost x (stagedBlock (s.bank 0) 0x1E0 4 0 0) = true := by decide +kernel

end Sys2Proof.Tests
end

