-- ==== Sys2Proof/Tests/Lanes.lean ====
section
/-! SUPPORT. For the statements about interrupts, cores, lanes and blocks: a state and operands that meet the hypotheses of every clause. -/

namespace Sys2Proof.Tests

open Sys2Proof Sys2Proof.Machine

set_option Elab.async false

/-- The reset state with another interrupt controller. -/
def withIrq (q : Irq) : State := { State.reset with irq := q }

/-- Source 5: priority 15, enabled, level S, COAL_COUNT 2, COAL_US 3. -/
def srcWord : W64 := BitVec.ofNat 64 (15 + 2 ^ 4 + 2 * 2 ^ 16 + 3 * 2 ^ 32)
def irqDemo (x : SrcState) : State := withIrq { State.reset.irq with cfg := [(5, srcWord)], src := [(5, x)] }
def shownSrc : SrcState := { SrcState.idle with count := 1, first := some 4, shown := some (95, .s), shownAt := 8 }
def servedSrc : SrcState := { SrcState.idle with service := some (95, .s) }

/-- ClaimReadsTheHighestSource: nothing presented, one source presented; an enabled source; a source in service. -/
theorem test_wit_claim : corePresent State.reset.dev.variant 95 = true ∧ State.reset.irq.shownAtCore 95 .m = [] ∧
    (irqDemo shownSrc).irq.shownAtCore 95 .s = [(15, 5)] ∧ cfgEnable ((irqDemo shownSrc).irq.cfgOf 5) = true ∧
    ((irqDemo servedSrc).irq.srcOf 5).service = some (95, .s) := by decide +kernel

/-- InterruptCommandsAct: a device in STANDBY and one that runs; thresholds 16 and 17, a served and an unserved source, a coalescing time, a presentation. -/
theorem test_wit_irq_act :
    (({ State.reset with dev := { State.reset.dev with state := .standby } } : State).powered = false ∧ (irqDemo shownSrc).powered = true) ∧
    (cfgEnable ((irqDemo shownSrc).irq.cfgOf 5) = true ∧ cfgEnable ((irqDemo shownSrc).irq.cfgOf 8191) = false ∧ hasPd1 State.reset.dev.variant = true ∧
      bitsOf (BitVec.ofNat 64 8191).toNat 0 13 = 8191) ∧
    (bitsOf (16#64).toNat 0 5 ≤ 16 ∧ 16 < bitsOf (17#64).toNat 0 5) ∧
    (((irqDemo servedSrc).irq.srcOf (bitsOf (5#64).toNat 0 13)).service = some (95, .s) ∧
      ((irqDemo servedSrc).irq.srcOf (bitsOf (6#64).toNat 0 13)).service ≠ some (95, .s)) ∧
    (((irqDemo shownSrc).irq.srcOf 5).first = some 4 ∧ 0 < ((irqDemo shownSrc).irq.srcOf 5).count ∧ 0 < cfgUs ((irqDemo shownSrc).irq.cfgOf 5)) ∧
    (((irqDemo shownSrc).irq.srcOf 5).shown = some (95, .s) ∧ bitsOf ((irqDemo shownSrc).irq.sliceOf (95 / 48)).control.eff.toNat 0 16 ≠ 0) := by
  decide +kernel

/-- CoresSleepAndWake: a core that sleeps, one that wakes for each cause, from a die that is off too. TimersAreReached: compare values at and below all ones. -/
def coreDemo (x : CoreSt) : State := withIrq { State.reset.irq with cores := tabPut CoreSt.reset [] 95 x, src := [(5, shownSrc)] }

theorem test_wit_cores :
    (State.reset.coreLive 95 = true ∧ (State.reset.irq.coreOf 95).sleep = 0 ∧
      State.reset.irq.shownSince 95 = none ∧ State.reset.localWake 95 [3, 5, 6, 7] = false) ∧
    (let s := coreDemo { CoreSt.reset with sleep := 3, mtimecmp := 0, msip := true, mie := 0x88 }
     let d := { s with sec := { s.sec with scopes := 1 }, irq := s.irq.setSlice 1 { s.irq.sliceOf 1 with dieOff := true } }
     (s.irq.coreOf 95).sleep ≠ 0 ∧ s.wakes 95 .timer = true ∧ s.wakes 95 .software = true ∧ s.wakes 95 .presentation = false ∧
       (s.irq.sliceOf 1).dieOff = false ∧ (d.irq.coreOf 95).sleep ≠ 0 ∧ d.wakes 95 .debug = true ∧ (d.irq.sliceOf 1).dieOff = true ∧
       (coreDemo { CoreSt.reset with sleep := 3, wokenAt := some 4 }).wakes 95 .presentation = true ∧ corePresent s.dev.variant 95 = true) ∧
    (((coreDemo { CoreSt.reset with mtimecmp := 7 }).irq.coreOf 95).mtimecmp ≠ 0xFFFFFFFFFFFFFFFF#64 ∧
      (State.reset.irq.coreOf 95).mtimecmp = 0xFFFFFFFFFFFFFFFF#64) := by decide +kernel

/-- A launch of context 0 whose code is `ws`. -/
def laneLaunch (ws : List Nat) : Launch :=
  ⟨0, 0, desc 0x0B [(208, 16), (216, 1), (224, 1), (320, 1), (352, 1), (368, 1), (384, 1024)], ws.map (BitVec.ofNat 64), 1, 1, false,
    List.replicate 16 0, []⟩
def laneBlock : Block := ⟨0, 0, 511, 1, [], [0], none, 0, none, 0⟩
/-- A group with `m` active, every predicate all ones, s0 at 0x40000. -/
def laneGroup (m : Nat) : Group :=
  { blk := 0, num := 0, v := [], sreg := [(0, 0x40000)], preg := [(0, BitVec.ofNat 64 allThreads)], pc := 0, active := BitVec.ofNat 64 m,
    exited := BitVec.ofNat 64 (allThreads - m), join := 0xFFFFFFFF, stack := [], waiting := 0, stalled := [], replay := none, elem := none }
def laneDemo (ws : List Nat) (m : Nat) : State :=
  { base { demoCtx with flights := [⟨0, (laneLaunch ws).desc, .launched 0⟩] } demoTables with
    dev := { State.reset.dev with state := .running }
    threads := ⟨[(0, some (laneLaunch ws))], [(0, some laneBlock)], [(0, some (laneGroup m))], [], [], 1⟩ }
/-- What the group issues. -/
def laneOf (ws : List Nat) (m : Nat) : Lane := ⟨0, laneGroup m, laneBlock, laneLaunch ws, (BitVec.ofNat 64 (ws.getD 0 0)).toNat, (BitVec.ofNat 64 (ws.getD 1 0)).toNat⟩

/-- The group may issue, and what it issues has opcode `op`. -/
def lanesOk (op : Nat) (ws : List Nat) (m : Nat) : Bool := (laneDemo ws m).laneAt 0 == some (laneOf ws m) && wOp (laneOf ws m).w == op

/-- VectorInstructionsComputeElements, ComparesWriteCoveredBits, RegisterInstructionsFrame: every row, on a type of one element per register. -/
theorem test_wit_lane_rows :
    (vectorRows.all fun e => lanesOk e.2.1 [e.2.1 + 2 * 2 ^ 8 + 5 * 2 ^ 20] allThreads) = true ∧
    (compareRows.all fun e => lanesOk e.2.1 [e.2.1 + 2 * 2 ^ 8] allThreads && typeN (vTy (laneOf [e.2.1 + 2 * 2 ^ 8] allThreads).w) == 1) = true ∧
    (laneOf [0] 1).lch.isElem = false := by decide +kernel

/-- OtherVectorInstructionsRun: each opcode; a matrix instruction with every thread active and with one inactive. -/
theorem test_wit_lane_other :
    lanesOk 0x3D [0x3D + 2 * 2 ^ 8] 1 = true ∧ lanesOk 0x1A [0x1A] 1 = true ∧
    (conversionRows.all fun e => lanesOk e.2.1 [e.2.1 + 0x1A * 2 ^ 8 + 0x18 * 2 ^ 46] 1) = true ∧
    lanesOk 0x70 [0x70] allThreads = true ∧ (laneOf [0x70] allThreads).grp.active.toNat = allThreads ∧
    lanesOk 0x70 [0x70] (allThreads - 1) = true ∧ (laneOf [0x70] (allThreads - 1)).grp.active.toNat ≠ allThreads := by decide +kernel

/-- ScalarInstructionsWriteOneRegister. -/
theorem test_wit_lane_scalar :
    (scalarRows.all fun e => lanesOk 0x68 [0x68 + e.2.1 * 2 ^ 8 + 63 * 2 ^ 12] 1 && bitsOf (laneOf [0x68 + e.2.1 * 2 ^ 8 + 63 * 2 ^ 12] 1).w 8 4 == e.2.1) = true ∧
    (([10, 11, 12] : List Nat).all fun k => lanesOk 0x68 [0x68 + k * 2 ^ 8] 1 && bitsOf (laneOf [0x68 + k * 2 ^ 8] 1).w 8 4 == k) = true ∧
    lanesOk 0x69 [0x69] 1 = true := by decide +kernel

/-- ControlInstructionsRun: a branch that all, none and some of the threads take, and every other opcode. -/
theorem test_wit_lane_control :
    (let x := laneOf [0x60] 3
     lanesOk 0x60 [0x60] 3 = true ∧ x.grp.active.toNat - (x.grp.active.toNat &&& predMask x.grp x.w) = 0) ∧
    (let x := laneOf [0x60 + 2 ^ 11] 3
     lanesOk 0x60 [0x60 + 2 ^ 11] 3 = true ∧ x.grp.active.toNat - (x.grp.active.toNat &&& predMask x.grp x.w) ≠ 0 ∧
       (x.grp.active.toNat &&& predMask x.grp x.w) = 0) ∧
    (let x := { laneOf [0x60] 3 with grp := { laneGroup 3 with preg := [(0, 1)] } }
     x.grp.active.toNat - (x.grp.active.toNat &&& predMask x.grp x.w) ≠ 0 ∧ (x.grp.active.toNat &&& predMask x.grp x.w) ≠ 0) ∧
    (([0x61, 0x62, 0x63, 0x64, 0x54] : List Nat).all fun op => lanesOk op [op] 1) = true := by decide +kernel

/-- A word of a memory row: SIZE 2, one register, base s0. -/
def memWord (k : Nat) : Nat := if k < 3 then 0x50 + k + (if k = 2 then 0 else 2 * 2 ^ 8) else 0x58 + 2 * 2 ^ 8 + (k - 3) * 2 ^ 59

/-- MemoryInstructionsRun: every row on a mapped address. -/
theorem test_wit_lane_memory :
    ((memoryRows.zip (List.range 14)).all fun e =>
      let x := laneOf [memWord e.2] 3
      let r := (x.grp.covered x.w).foldl (memStep x (e.1.2.2.2 x)) ⟨laneDemo [memWord e.2] 3, x.grp, [], [], none⟩
      (laneDemo [memWord e.2] 3).laneAt 0 == some x && x.grp.replay.isNone && e.1.2.1 x.w && r.failed == [] && r.dead == none) = true ∧
    lanesOk 0x53 [0x53] 1 = true ∧ (laneOf [0x53] 1).grp.replay = none := by decide +kernel

/-- ThreadAccessActs: local stores at and below LOCAL_BYTES, a global load and store, a zero-line allocation whose second thread names the line of the first, and
an atomic of four bytes and of eight. -/
theorem test_wit_lane_access :
    (let x := laneOf [0x51 + 2 ^ 12] 1
     isLocal x.w = true ∧ memAddr x.grp x.w 0 1 = 0x40000 ∧ x.lch.localBytes ≤ memAddr x.grp x.w 0 1) ∧
    (let x := laneOf [0x51] 1
     isLocal x.w = false ∧ ((laneDemo [0x51] 1).newAccess.prepAllAt x.agent 0 [(accWrite, memAddr x.grp x.w 0 1, 1)]).2 = none ∧
       ((laneDemo [0x51] 1).newAccess.prepAllAt x.agent 0 [(accRead, memAddr x.grp x.w 0 1, 1)]).2 = none) ∧
    (let x := laneOf [0x52] 3
     x.lineDone 0 = false ∧ x.lineDone 1 = true ∧
       ((laneDemo [0x52] 3).newAccess.prepAllAt x.agent 0 [(accFull, memAddr x.grp x.w 0 128, 128)]).2 = none) ∧
    (([2, 3] : List Nat).all fun k =>
      let x := laneOf [0x58 + k * 2 ^ 8] 1
      !isLocal x.w && bitsOf x.w 8 3 == k && ((laneDemo [0x58 + k * 2 ^ 8] 1).newAccess.prepAllAt x.agent 0 [(accAtomic, atomAddr x.grp x.w 0 (2 ^ k), 2 ^ k)]).2 == none &&
        atomicFn (8 * 2 ^ k) (aopOf 0) 1 2 0 == some 3) = true := by decide +kernel

/-- BlockEventsRun: a barrier with a first arrival; a unit with room for a launch's next block; a tagged sample with room and without. -/
def placeDemo : State := { laneDemo [0x64] 1 with threads := ⟨[(0, some { laneLaunch [0x64] with nextBlock := 0 })], [], [], [], [], 1⟩ }
/-- An ELEMENTWISE of one row of 64 FP32 elements and one input at 0x40000, with its block to be placed. -/
def elemLaunch : Launch :=
  ⟨0, 0, desc 0x0A [(208, 1), (211, 1), (216, 16), (224, 1), (256, 64), (320, 0x40000), (384, 256), (432, 0x18)], [0x64], 0, 1, true, [], []⟩
def elemDemo : State := { laneDemo [0x64] 1 with threads := ⟨[(0, some elemLaunch)], [], [], [], [], 1⟩ }
def tagDemo : State := { laneDemo [0x64] 1 with
  threads := ⟨[], [], [], [(511, some ⟨1, 1, some ⟨0, 0, true, 0, 0, 0, 1, 0⟩⟩)], [], 1⟩
  dict := { State.reset.dict with eff := tabPut [] [] (0x9160 * 256 + 1) (leBytes (2 * 2 ^ 24 + 0x60000 * 2 ^ 64) 20) } }
def fullTag : State := { tagDemo with ctrs := { tagDemo.ctrs with produced := 4 :: List.replicate 7 0 } }

theorem test_wit_blocks_events :
    (let b := { laneBlock with firstAt := some 3 }
     let s := (laneDemo [0x64] 1).setBlock 0 (some b)
     s.block 0 = some b ∧ s.launch b.launch = some (laneLaunch [0x64]) ∧ b.firstAt = some 3 ∧ b.pausedAt = none) ∧
    (let l := { laneLaunch [0x64] with nextBlock := 0 }
     launchOf (placeDemo.ctx 0) = some 0 ∧ placeDemo.launch 0 = some l ∧ l.nextBlock < l.total ∧ placeDemo.holdsPart 0 = some 0 ∧
       placeDemo.partOfStack (511 / 64) = some 0 ∧ placeDemo.unitLive 511 = true ∧ placeDemo.roomOn 511 l (fld l.desc 224 227) = true ∧
       placeDemo.power.gated.contains (.threadUnit 511) = false) ∧
    (elemDemo.launch 0 = some elemLaunch ∧ elemLaunch.isElem = true ∧ elemDemo.roomOn 511 elemLaunch 1 = true ∧ elemDemo.waitsOn (.op 0 0) = false ∧
       (elemDemo.newAccess.prepAllAt (128 * (511 / 64) + 64) 0 (elemReads elemLaunch 0)).2 = none) ∧
    ((tagDemo.sampler 511).isSome = true ∧ ((tagDemo.sampler 511).bind Sampler.tagged).isSome = true ∧ tagDemo.partOfUnit 511 = 0 ∧
      2 ^ tagDemo.sampleCtl 0 24 28 = 4 ∧ w32Diff (tagDemo.ctrs.produced.getD 0 0) (BitVec.ofNat 32 (tagDemo.effNat 0x9162 1)) ≠ 4 ∧
      w32Diff (fullTag.ctrs.produced.getD 0 0) (BitVec.ofNat 32 (fullTag.effNat 0x9162 1)) = 4) := by decide +kernel

end Sys2Proof.Tests
end

