-- ==== Sys2Proof/Tests/Effects.lean ====
section
/-! SUPPORT. Effects of single commands on small states; each expected value is the manual's or worked out from its rule by hand. -/

namespace Sys2Proof.Tests

open Sys2Proof Sys2Proof.Machine

set_option Elab.async false

/-- What a number of a next state is. -/
def seen {α : Type} (r : Host.Outcome State Fault Refusal) (f : State → α) : Option α :=
  match r with
  | .next t => some (f t)
  | _ => none

/-- A word of format V (R177). -/
def vWord (op ty d a b c more : Nat) : Nat := op + ty * 2 ^ 8 + d * 2 ^ 20 + a * 2 ^ 28 + b * 2 ^ 36 + c * 2 ^ 44 + more
/-- One thread of a group with registers by number, about to issue `ws` before a `NOP`. -/
def oneThread (ws : List Nat) (regs : List (Nat × Nat)) : State :=
  let s := laneDemo (ws ++ [0x64]) 1
  { s with threads := { s.threads with groups := [(0, some { laneGroup 1 with v := regs.map fun e => (64 * e.1, BitVec.ofNat 32 e.2) })] } }
/-- Register `d` of thread 0 after a command. -/
def regAfter (i : Instr) (ws : List Nat) (regs : List (Nat × Nat)) (d : Nat) : Option Nat :=
  (seen (exec i (oneThread ws regs)) fun t => (t.group 0).map fun g => (tabGet 0#32 g.v (64 * d)).toNat).bind id
/-- The group's predicate `p` after a command. -/
def predAfter (i : Instr) (ws : List Nat) (regs : List (Nat × Nat)) (p : Nat) : Option Nat :=
  (seen (exec i (oneThread ws regs)) fun t => (t.group 0).map fun g => (tabGet 0#64 g.preg p).toNat).bind id
/-- The group's scalar `d` after a command. -/
def scalarAfter (i : Instr) (ws : List Nat) (regs : List (Nat × Nat)) (d : Nat) : Option Nat :=
  (seen (exec i (oneThread ws regs)) fun t => (t.group 0).map fun g => (tabGet 0#64 g.sreg d).toNat).bind id

/-- R180: a shift amount counts modulo the width; the sign enters; bits rotate. -/
theorem test_shl : regAfter (.shl 0) [vWord 0x01 2 4 1 2 0 0] [(1, 0x80000001), (2, 33)] 4 = some 2 := by decide +kernel
theorem test_sar : regAfter (.sar 0) [vWord 0x03 2 4 1 2 0 0] [(1, 0x80000000), (2, 31)] 4 = some 0xFFFFFFFF := by decide +kernel
theorem test_rotl : regAfter (.rotl 0) [vWord 0x04 2 4 1 2 0 0] [(1, 0x80000001), (2, 4)] 4 = some 0x18 := by decide +kernel

/-- R180: the majority of three bits is the truth table 0xE8. -/
theorem test_lop3 : regAfter (.lop3 0) [vWord 0x0B 2 4 1 2 3 (0x8 * 2 ^ 56 + 0xE * 2 ^ 60)] [(1, 0b1100), (2, 0b1010), (3, 0b0110)] 4 = some 0b1110 := by
  decide +kernel

/-- R181's own example: I8 100 + 60 clamps to 127 and wraps to −96; 5 − 9 clamps to 0 as unsigned. -/
theorem test_iadd_sat : regAfter (.iadd 0) [vWord 0x10 0 6 2 4 0 (1 * 2 ^ 12)] [(2, 100), (4, 60)] 6 = some 127 := by decide +kernel
theorem test_iadd_wrap : regAfter (.iadd 0) [vWord 0x10 0 6 2 4 0 0] [(2, 100), (4, 60)] 6 = some 0xA0 := by decide +kernel
theorem test_isub_usat : regAfter (.isub 0) [vWord 0x11 0 6 2 4 0 (2 * 2 ^ 12)] [(2, 5), (4, 9)] 6 = some 0 := by decide +kernel

/-- R181: −1 × 2 has −1 above; 0xFFFFFFFF × 2 has 1 above. -/
theorem test_imulhi : regAfter (.imulhiS 0) [vWord 0x13 2 4 1 2 0 0] [(1, 0xFFFFFFFF), (2, 2)] 4 = some 0xFFFFFFFF ∧
    regAfter (.imulhiU 0) [vWord 0x1B 2 4 1 2 0 0] [(1, 0xFFFFFFFF), (2, 2)] 4 = some 1 := by decide +kernel

/-- R181: the most negative value gives itself when it wraps and the largest when it clamps. -/
theorem test_iabs : regAfter (.iabs 0) [vWord 0x19 2 4 1 0 0 0] [(1, 0x80000000)] 4 = some 0x80000000 ∧
    regAfter (.iabs 0) [vWord 0x19 2 4 1 0 0 (1 * 2 ^ 12)] [(1, 0x80000000)] 4 = some 0x7FFFFFFF := by decide +kernel

/-- R181: 1 + (−1)·2 + 3·4 + 5·6 + 7·8 = 97. -/
theorem test_idot8 : regAfter (.idot8 0) [vWord 0x1A 0 8 2 4 6 0] [(2, 0x070503FF), (4, 0x08060402), (6, 1)] 8 = some 97 := by decide +kernel

/-- R179: an immediate of 16 bits is sign-extended for I32, and a BF16 value for FP32. -/
theorem test_immediate : regAfter (.iadd 0) [vWord 0x10 2 4 1 0 0 (2 ^ 55 + 0xFFFF * 2 ^ 36)] [(1, 5)] 4 = some 4 ∧
    regAfter (.fadd 0) [vWord 0x20 5 4 1 0 0 (2 ^ 55 + 0x3F80 * 2 ^ 36)] [(1, 0x3F800000)] 4 = some 0x40000000 := by decide +kernel

/-- R101: 1 + 2^-24 is a tie and goes to the even 1; R105: ∞ − ∞ is the canonical NaN. -/
theorem test_fadd : regAfter (.fadd 0) [vWord 0x20 5 4 1 2 0 0] [(1, 0x3F800000), (2, 0x33800000)] 4 = some 0x3F800000 ∧
    regAfter (.fadd 0) [vWord 0x20 5 4 1 2 0 0] [(1, 0x7F800000), (2, 0xFF800000)] 4 = some 0x7FC00000 := by decide +kernel

/-- R182: one rounding: (1 + 2^-12)² − (1 + 2^-11) = 2^-24; MOD negates C. -/
theorem test_ffma : regAfter (.ffma 0) [vWord 0x22 5 4 1 1 2 (2 * 2 ^ 56)] [(1, 0x3F800800), (2, 0x3F801000)] 4 = some 0x33800000 := by decide +kernel

/-- R106: the minimum with a NaN is the other operand, and −0 lies below +0. -/
theorem test_fmin : regAfter (.fmin 0) [vWord 0x23 5 4 1 2 0 0] [(1, 0x7FC00000), (2, 0x40000000)] 4 = some 0x40000000 ∧
    regAfter (.fmin 0) [vWord 0x23 5 4 1 2 0 0] [(2, 0x80000000)] 4 = some 0x80000000 := by decide +kernel

/-- R183: the special values. -/
theorem test_approx : regAfter (.rcp 0) [vWord 0x38 5 4 1 0 0 0] [(1, 0x80000000)] 4 = some 0xFF800000 ∧
    regAfter (.rsqrt 0) [vWord 0x39 5 4 1 0 0 0] [(1, 0x80000000)] 4 = some 0xFF800000 ∧
    regAfter (.exp2 0) [vWord 0x3A 5 4 1 0 0 0] [(1, 0x43000000)] 4 = some 0x7F800000 ∧
    regAfter (.log2 0) [vWord 0x3B 5 4 1 0 0 0] [(1, 0x3F800000)] 4 = some 0 := by decide +kernel

/-- R184, R106: a NaN is unequal to itself; bit 0 of the predicate is written and no other. -/
theorem test_fcmp : predAfter (.fcmpNe 0) [vWord 0x2A 5 0 1 1 0 0] [(1, 0x7FC00000)] 0 = some allThreads ∧
    predAfter (.fcmpEq 0) [vWord 0x29 5 0 1 1 0 0] [(1, 0x7FC00000)] 0 = some (allThreads - 1) := by decide +kernel
theorem test_icmp : predAfter (.icmpSlt 0) [vWord 0x32 2 1 1 2 0 0] [(1, 0xFFFFFFFF)] 1 = some 1 ∧
    predAfter (.icmpUlt 0) [vWord 0x34 2 1 1 2 0 0] [(1, 0xFFFFFFFF)] 1 = some 0 := by decide +kernel

/-- R187: 2.5 rounds to the even 2, a NaN is 0, and 300 saturates in INT8. -/
def cWord (op src dst d a more : Nat) : Nat := op + src * 2 ^ 8 + d * 2 ^ 20 + a * 2 ^ 28 + dst * 2 ^ 46 + more
theorem test_cvt : regAfter (.cvt 0) [cWord 0x40 0x1A 0x03 4 1 0] [(1, 0x40200000)] 4 = some 2 ∧
    regAfter (.cvt 0) [cWord 0x40 0x1A 0x03 4 1 0] [(1, 0x7FC00000)] 4 = some 0 ∧
    regAfter (.cvt 0) [cWord 0x40 0x1A 0x03 4 1 0] [(1, 0x43960000)] 4 = some 127 := by decide +kernel

/-- R189's own example: an amax of 500 in MXFP8 E4M3 takes 1; with that, 500 is written as 0x78 and 3.25 as 0x3D. -/
theorem test_sclx : regAfter (.sclx 0) [cWord 0x42 0x1A 0x23 4 1 0] [(1, 0x43FA0000)] 4 = some 1 := by decide +kernel
theorem test_cvtx : regAfter (.cvtx 0) [cWord 0x41 0x1A 0x23 4 1 (2 * 2 ^ 36)] [(1, 0x43FA0000), (2, 0xFFFFFFFF)] 4 = some 0x78 ∧
    regAfter (.cvtx 0) [cWord 0x41 0x1A 0x23 4 1 (2 * 2 ^ 36)] [(1, 0x40500000), (2, 0xFFFFFFFF)] 4 = some 0x3D := by decide +kernel

/-- R197: scalar operations; the immediate of an arithmetic operation is sign-extended, that of a logic operation is not. -/
def sWord (op sop sd sa sb more : Nat) : Nat := op + sop * 2 ^ 8 + sd * 2 ^ 12 + sa * 2 ^ 18 + sb * 2 ^ 24 + more
theorem test_salu : scalarAfter (.saluAdd 0) [sWord 0x68 0 1 0 0 (2 ^ 30 + 0xFFFF * 2 ^ 48)] [] 1 = some 0x3FFFF ∧
    scalarAfter (.saluOr 0) [sWord 0x68 4 1 2 0 (2 ^ 30 + 0xFFFF * 2 ^ 48)] [] 1 = some 0xFFFF ∧
    scalarAfter (.movp 0) [sWord 0x68 10 1 0 0 0] [] 1 = some allThreads ∧
    scalarAfter (.readlane 0) [sWord 0x68 12 1 0 2 (5 * 2 ^ 32)] [(5, 9)] 1 = some 9 := by decide +kernel
theorem test_scmp : predAfter (.scmp 0) [sWord 0x69 4 0 2 0 (2 ^ 40)] [] 1 = some allThreads := by decide +kernel

/-- R190 to R192: a byte loaded with its sign; a store; an atomic that returns the old value. -/
def mWord (op size d more : Nat) : Nat := op + size * 2 ^ 8 + d * 2 ^ 20 + more
def withMem (s : State) (a : Nat) (d : List Byte) : State := { s with mem := tabPutList memDefault s.mem a d }
theorem test_ld : (seen (exec (.ld 0) (withMem (oneThread [mWord 0x50 0 4 (2 ^ 11 + 3 * 2 ^ 43)] []) 0x40003 [0x80])) fun t =>
    (t.group 0).map fun g => (tabGet 0#32 g.v 256).toNat) = some (some 0xFFFFFF80) := by decide +kernel
theorem test_st : (seen (exec (.st 0) (oneThread [mWord 0x51 1 4 0] [(4, 0x12345678)])) fun t => t.rdBytes 0x40000 4) = some [0x78, 0x56, 0, 0] := by
  decide +kernel
theorem test_atom : (seen (exec (.atomSmax 0) (withMem (oneThread [mWord 0x58 2 4 (2 ^ 11 + 6 * 2 ^ 36 + 3 * 2 ^ 59)] [(4, 5)]) 0x40000 [0xFF, 0xFF, 0xFF, 0xFF])) fun t =>
    (t.rdNat 0x40000 4, (t.group 0).map fun g => (tabGet 0#32 g.v 384).toNat)) = some (5, some 0xFFFFFFFF) := by decide +kernel

/-- R24: `COPY` and `ZERO` move and clear bytes. -/
def copyTest : Descriptor := desc 0x18 [(128, 0x40000), (192, 0x50001), (256, 3)]
theorem test_copy : (seen (exec (.copy 0) (demoWith copyTest [(0x40000, [1, 2, 3])])) fun t => t.rdBytes 0x50000 5) = some [0, 1, 2, 3, 0] := by decide +kernel
def zeroTest : Descriptor := desc 0x19 [(128, 0x40001), (192, 2)]
theorem test_zero : (seen (exec (.zero 0) (demoWith zeroTest [(0x40000, [1, 2, 3, 4])])) fun t => t.rdBytes 0x40000 4) = some [1, 0, 0, 4] := by decide +kernel

/-- R22: an opcode that is not in the table completes with 0x0102 and the opcode as DETAIL. -/
theorem test_bad_opcode : (seen (exec (.zero 0) (demo (desc 0x7F []))) fun t => (t.ctx 0).flights.map fun f => f.st) =
    some [.done (endWith 0x0102 0x7F)] := by decide +kernel

/-- R17: the record of operation 0 that ended well: one more record was produced. -/
theorem test_record : (seen (exec (.operationCompletion 0) (flying zeroTest (.done (endWith 0 0)))) fun t => (t.ctx 0).cnt.complProduced.toNat) = some 1 := by
  decide +kernel

/-- R371: of two presented sources a claim takes the one of higher priority. -/
def twoShown : State := withIrq { State.reset.irq with
  cfg := [(5, BitVec.ofNat 64 (3 + 2 ^ 4)), (6, BitVec.ofNat 64 (9 + 2 ^ 4))]
  src := [(5, shownSrc), (6, shownSrc)] }
theorem test_claim : (seen (exec (.claim 95 .s) twoShown) fun t => ((t.irq.srcOf 6).service, (t.irq.srcOf 5).service)) = some (some (95, .s), none) := by
  decide +kernel

/-- FIPS 180-4's own example: the SHA-384 of "abc" (R142). -/
theorem test_sha384 : leBytes (sha384 [0x61, 0x62, 0x63]).toNat 8 = [0xCB, 0x00, 0x75, 0x3F, 0x45, 0xA3, 0x5E, 0x8B] := by decide +kernel

/-- R453: VIN leads from OFF to BOOTING; its loss to OFF. -/
theorem test_vin : (seen (exec .vinAbsent State.reset) fun t => t.dev.state) = some .off ∧
    (seen (exec (.vinPresent 3) State.reset.goOff) fun t => (t.dev.state, t.dev.straps)) = some (.booting, 3) := by decide +kernel

/-- R275: 95 °C is the first step, and it is left below 93 °C; R411: the higher reading of a pair counts. -/
def stepped (t0 t1 : Nat) : Option Nat :=
  (seen (exec (.dramTempReading ((t0, t0 - 5) :: List.replicate 15 (0, 0))) State.reset) fun s =>
    seen (exec (.dramTempReading ((t1, t1) :: List.replicate 15 (0, 0))) s) fun t => t.dram.steps.getD 0 9).bind id
theorem test_dram_steps : stepped 950 931 = some 1 ∧ stepped 950 929 = some 0 ∧ stepped 949 0 = some 0 := by decide +kernel

/-- R422: a bucket leaks one at a time, after WINDOW ÷ THRESHOLD (the defaults of class 0x0C: 3,600,000 ms and 3), and not below zero. -/
def leaking (v : Nat) : State := { State.reset with integ := { State.reset.integ with levels := [(12 * 2 ^ 48, v)], leakFrom := [(12 * 2 ^ 48, 7)] } }
theorem test_leak : (seen (exec (.bucketLeak (12 * 2 ^ 48)) (leaking 2)) fun t => (tabGet 0 t.integ.levels (12 * 2 ^ 48), t.now)) =
      some (1, 7 + 1200000 * 1000000) ∧
    (seen (exec (.bucketLeak 3) State.reset) fun t => (tabGet 0 t.integ.levels 3, t.now)) = some (0, 0) := by decide +kernel

/-- R289, R291: an access caches the leaf and the pointer on its way, and an invalidation of part of the page removes both. -/
theorem test_translation_cached :
    (let t := ((base demoCtx demoTables).prep 0 accRead 0x40000 8).1
     t.tlb = ⟨[⟨0, 0, 2 ^ 30, 0, 1, 0x1F⟩], [⟨0, 0, 0, 2 ^ 43, 0x10000⟩], []⟩ ∧ (t.uncache 0 0x50000 0x60000).tlb = ⟨[], [], []⟩ ∧
       (t.uncache 1 0x50000 0x60000).tlb = t.tlb) := by decide +kernel

/-- R290: two pages of RUN_LOG2 1 are cached as one entry when they are contiguous, and each alone when they are not. -/
def runTables (second : Nat) : List Host.Cell :=
  [(0, 0x10001), (0x10000, 0x20001), (0x20000, 0x30001), (0x30000, 0x4011F), (0x30008, second)].foldl
    (fun m e => tabPutList memDefault m e.1 (leBytes e.2 8)) []
theorem test_run : ((base demoCtx (runTables 0x5011F)).prep 0 accRead 0x10000 8).1.tlb.leaves = [⟨0, 0, 0x20000, 0x40000, 3, 0x4011F⟩] ∧
    ((base demoCtx (runTables 0x6011F)).prep 0 accRead 0x10000 8).1.tlb.leaves = [⟨0, 0x10000, 0x10000, 0x60000, 3, 0x6011F⟩] := by decide +kernel

/-- The command in front is the one that runs, and the rest waits (R16's order of the model's queue). -/
theorem test_queue : (seen (step { State.reset with pending := [.vinAbsent, .vinPresent 1] }) fun t => (t.dev.state, t.pending)) =
    some (.off, [.vinPresent 1]) := by decide +kernel

end Sys2Proof.Tests
end

