-- ==== Sys2Proof/Tests/Events.lean ====
section
/-! SUPPORT. For the statements about faults, the register space, memory, guests, power, integrity, security, the dictionary and the lifecycle: a
state and operands that meet the hypotheses of every clause. -/

namespace Sys2Proof.Tests

open Sys2Proof Sys2Proof.Machine

set_option Elab.async false

/-- A value of the dictionary in effect and accepted. -/
def withEntry (s : State) (ix sub : Nat) (d : List Byte) : State := s.putEntry ix sub d
/-- A device in a state. -/
def inState (v : Variant) (st : DevState) : State := { State.reset with dev := { State.reset.dev with state := st, variant := v } }
def imageDemo : Image := ⟨0, 0, 0, 0⟩
/-- The dictionary answers: ALWAYS_ON is accepted. -/
def speaking (st : DevState) : State :=
  let s := inState .a1024g2 st
  { s with sec := { s.sec with images := s.sec.images.set 0 (some imageDemo) } }

/-- FaultAnswersAct. -/
def pendingDemo (w : Waiter) : State :=
  let s := flying (desc 0x18 []) (.stalled [5])
  { s with fq := { s.fq with pending := [⟨5, 0, 0, 0, 1, [w]⟩] } }
def groupDemo : Group := ⟨1, 0, [], [], [], 0, 0, 0, 0, [], 0, [5], none, none⟩
def fqDemo : State := { base demoCtx demoTables with fq := { State.reset.fq with ring := ⟨0x70000, 6, 0, 0, false⟩, waiting := [7] } }

theorem test_wit_faults :
    State.reset.pendingAt 5 = none ∧
    ((pendingDemo (.op 0 0)).pendingAt 5 = some ⟨5, 0, 0, 0, 1, [.op 0 0]⟩ ∧
      (((pendingDemo (.op 0 0)).ctx 0).flights.find? fun f => f.opIndex == 0) = some ⟨0, desc 0x18 [], .stalled [5]⟩) ∧
    (let s := { pendingDemo (.group 3) with threads := ⟨[], [], [(3, some groupDemo)], [], [], 9⟩ }
     (s.pendingAt 5).isSome = true ∧ s.group 3 = some groupDemo) ∧
    State.reset.fq.ring.base = 0 ∧
    (fqDemo.fq.waiting = [7] ∧ fqDemo.fq.ring.base ≠ 0 ∧ fqDemo.fq.ring.used < fqDemo.fq.ring.cap ∧ fqDemo.unreadable 0x70000 = none) := by
  decide +kernel

/-- RegisterAccessesAct. -/
def regAt (rd : Bool) (o n v : Nat) : RegAccess := ⟨none, rd, o, n, BitVec.ofNat 64 v⟩
def mailDemo (busy : Bool) : State :=
  State.reset.setMail 0 { Mailbox.reset with busy := busy, request := tabPutList 0 [] 0 [1, 1] }
def qpDemo (st : Nat) : State :=
  (withEntry State.reset 0x4010 1 [2]).setQp 0 { QueuePair.reset with word0 := BitVec.ofNat 64 st }
def rootDemo (mode : Nat) : State :=
  let s := withEntry (inState .a1024g2 .running) 0x4301 1 [BitVec.ofNat 8 mode]
  { s with pe1 := [⟨0, true, 0, true, 0, []⟩, ⟨0, false, 0, false, 0, []⟩] }

def portOff : State := { rootDemo 2 with pe1 := [⟨0, false, 0, true, 0, []⟩, ⟨0, false, 0, false, 0, []⟩] }

theorem test_wit_registers :
    (([0, 0x2000018, 0x2000028, 0x2000030, 0x2010000, 0x0FFFFFF8, 0x30000000, 0x3FFFFFFF8] : List Nat).all fun o =>
      !(decide (0x10000000 ≤ o) && decide (o < 0x30000000)) && o % 8 == 0 && claimOf o == none && (regAt true o 8 0).other.isNone) = true ∧
    (w32Diff 0 State.reset.fq.ring.consumer ≤ State.reset.fq.ring.used ∧ State.reset.partExists 0 = true) ∧
    (claimOf 0x2130008 = some (0, .s) ∧ claimOf 0x2130048 = some (0, .m) ∧ claimOf 0x2170008 = some (48, .s)) ∧
    ((mailDemo true).mail 0).busy = true ∧
    (((mailDemo false).mail 0).busy = false ∧ 1 ≤ ((mailDemo false).mail 0).asked.op.toNat ∧ ((mailDemo false).mail 0).asked.op.toNat ≤ 4 ∧
      ((mailDemo false).mail 0).asked.flags.getLsbD 0 = false) ∧
    ((qpDemo 0).portMode ((qpDemo 0).qpKey 0 / 1024) = 2 ∧ qpStep ((qpDemo 0).qp 0).state 2 = false ∧ qpStep ((qpDemo 0).qp 0).state 1 = true ∧
      qpStep ((qpDemo 0).qp 0).state 0 = true ∧ ((qpDemo 3).qp 0).state ≠ 4 ∧ qpStep ((qpDemo 4).qp 0).state 4 = true) ∧
    (((qpDemo 3).qp 0).fieldsKept 4 = true ∧ ((qpDemo 3).qp 0).fieldsKept (2 ^ 16 + 4) = false ∧ (inState .a1024g2 .standby).powered = false) ∧
    ((ConfigAcc.mk 0 4 true 1 none).wf = true ∧ (ConfigAcc.mk 0xFFC 4 false 0 (some 1)).wf = true ∧ (ConfigAcc.mk 0x1000 4 false 0 none).wf = true ∧
      (rootDemo 2).pe1On 0 = true ∧ (rootDemo 0).pe1On 0 = false ∧ (portOff.pe1Port 0).linkUp = false ∧
      ((rootDemo 2).pe1Port 0).linkUp = true) ∧
    (([0x10000000, 0x1FFFFFFC, 0x20000000, 0x2FFFFFFC] : List Nat).all fun o => State.reset.powered &&
      State.reset.pe1Mode (o / 0x10000000 - 1) == 0 && o % 4 == 0 && (regAt true o 4 0).other.isNone) = true := by decide +kernel

/-- R481: a store of a core in the window of PE1A reaches the port. -/
theorem test_window_write : ((rootDemo 2).windowAccess (regAt false 0x10001004 4 7)).out.io = [(0x10001004, [7, 0, 0, 0])] := by decide +kernel

/-- DramEventsAct. -/
def copyDemo : State :=
  let s := withEntry (inState .a1024g0 .running) 0x3030 1 [4]
  { s with dram := { s.dram with copying := [(0, 5)], retraining := [0] } }

theorem test_wit_dram :
    (copyDemo.dev.state ≠ .off ∧ ∀ x ∈ (List.replicate 16 (1049, 0)).take 16, x.1 < 1050 ∧ x.2 < 1050) ∧
    (tabGet 0 State.reset.integ.levels 5 = 0 ∧ tabGet 0 ({ State.reset.integ with levels := [(5, 2)] } : Integrity).levels 5 ≠ 0) ∧
    (copyDemo.dram.copying.find? fun e => e.1 == 0) = some (0, 5) ∧
    (let s := withEntry State.reset 0x9040 1 [3, 0]
     (([(0, []), (9, [])] : List (Fin 16 × List LaneEye)).filter fun e => bitAt (s.effNat 0x9040 1) e.1) = [(0, [])] ∧ ∀ e ∈ s.ctxs, e.2.st ≠ .runnable) ∧
    copyDemo.dram.retraining.contains 0 = true ∧
    (copyDemo.backed (8 * 128) = true ∧ (copyDemo.dirOf 8).st ≠ .l ∧ copyDemo.bad.contains 8 = false ∧ regionOf (8 * 128) = .dram 0) ∧
    ({ copyDemo with bad := [8] } : State).bad.contains 8 = true ∧
    (copyDemo.backed 0x100000000000 = true ∧ regionOf 0x100000000000 = .near 0 ∧ (copyDemo.dirOf (0x100000000000 / 128)).st ≠ .l) := by decide +kernel

/-- GuestCommandsAct: guest 0 in state 5 with a window of 64 KiB at 0 for every access, at 0x80000. -/
def windowWord : Nat := 1 + 7 * 2 + 16 * 2 ^ 8 + 8 * 2 ^ 80
def guestDemo (st : Nat) : State :=
  let s := withEntry (inState .a1024g2 .running) 0x4210 1 (leBytes windowWord 16)
  { s with guests := [⟨st, 0, 0, 0, [], 65536, 0⟩, ⟨2, 0, 0, 0, [], 65536, 0⟩] }
def dmaDemo (w : Nat) : State := withEntry (rootDemo 2) 0x4310 1 (leBytes w 16)
def broughtUp (ok signed : Bool) : BringupResult := ⟨ok, 0, 65536, 9, signed, []⟩

theorem test_wit_guests :
    ((guestDemo 5).guest 0).state = 5 ∧
    ((guestDemo 5).violation 0 (.malformed 0) = some 3 ∧ (guestDemo 5).violation 0 (.read 100 64) = some 2 ∧
      (guestDemo 5).violation 0 (.read 65536 1) = some 0 ∧ (guestDemo 5).violation 0 (.atomic 0 4 .add 1 0) = none) ∧
    ((guestDemo 5).violation 0 (.read 65535 1) = none ∧
      (((guestDemo 5).windows 0x4210).find? fun w => winHolds w 65535 1) = some windowWord ∧ bitAt windowWord 1 = true) ∧
    ((((guestDemo 5).busWake 0).checkPa accRead 65535 (0x80000 + 65535) 1).2 = none ∧ (((guestDemo 5).busWake 0).checkPa accWrite 0 0x80000 4).2 = none) ∧
    (((guestDemo 2).guest 0).state = 2 ∧ ((guestDemo 3).guest 0).state = 3) ∧
    ((broughtUp true true).ok = true ∧ (broughtUp true true).rootDigest.toNat = (withEntry (guestDemo 3) 0x4205 1 (leBytes 9 48)).accNat 0x4205 1 ∧
      (withEntry (guestDemo 3) 0x4205 1 (leBytes 9 48)).accNat 0x4205 1 ≠ 0 ∧ (guestDemo 3).accNat 0x4205 1 = 0) ∧
    ((rootDemo 2).rootPort 0 = true ∧ (dmaDemo windowWord).rootPort 0 = true ∧ busBad (.write 0 [1]) = false ∧
      (((dmaDemo windowWord).windows 0x4310).find? fun w => winHolds w 0 1) = some windowWord ∧ busAllowed (.write 0 [1]) windowWord = true ∧
      (((dmaDemo (windowWord - 4)).windows 0x4310).find? fun w => winHolds w 0 1) = some (windowWord - 4) ∧
      busAllowed (.write 0 [1]) (windowWord - 4) = false) ∧
    (rootDemo 1).pe1Mode 0 = 1 := by decide +kernel

/-- PowerEventsAct. -/
def poweredDemo : State := let s := base demoCtx demoTables; { s with power := { s.power with graceUntil := some 4 } }
def gatedDemo (u : GateUnit) : State := let s := base demoCtx demoTables; { s with power := { s.power with gated := [u] } }

theorem test_wit_power :
    (∀ x ∈ (List.replicate 20 (1149, 0)).take 20, x.1 < 1150 ∧ x.2 < 1150) ∧ poweredDemo.power.graceUntil = some 4 ∧
    (let s := base demoCtx []
     let d := { s with parts := s.parts.set 1 { PartSt.fresh with duty := true }, power := { s.power with firstIdle := some 0 } }
     s.power.graceUntil = none ∧ s.capCheck ⟨4841, 0, 0⟩ = some 4841 ∧ 11 * s.accNat 0x2100 3 < 10 * 4841 ∧ s.capCheck ⟨4840, 0, 0⟩ = some 4840 ∧
       10 * 4840 ≤ 11 * s.accNat 0x2100 3 ∧ (∀ p ∈ s.parts, p.duty = false) ∧ d.parts.any (fun p => p.duty) = true ∧ d.power.firstIdle = some 0) ∧
    ((TripReading.mk 5 0 0).cause.val ≠ 0 ∧ poweredDemo.dev.state ≠ .off ∧ (TripReading.mk 3 0 0).cause.val = 3 ∧ (inState .a1024g0 .standby).dev.state = .standby) ∧
    (poweredDemo.ownShares ⟨9, [(.used 0, 4), (.used 1, 2), (.idleOf 0, 1), (.package, 2)]⟩ = [(0, 4), (0, 1)] ∧
      ((EnergyShares.mk 9 [(.used 0, 4), (.used 1, 2), (.idleOf 0, 1), (.package, 2)]).shares.map Prod.snd).sum ≤ 9) ∧
    (State.reset.gateable (.tile 0) = true ∧ State.reset.power.gated.contains (.tile 0) = false) ∧
    ((gatedDemo (.stack 0)).power.gated.contains (.stack 0) = true ∧ (gatedDemo (.streamUnit 3)).power.gated.contains (.streamUnit 3) = true ∧
      (gatedDemo (.tile 0)).power.gated.contains (.tile 0) = true ∧ (gatedDemo (.tile 0)).partOfStack 0 = some 0 ∧
      ((gatedDemo (.tile 0)).integ.tiles.getD 0 []).contains 3 = true) := by decide +kernel

/-- IntegrityEventsAct: a die of one tile, of eight, and with its spare gone. -/
def tilesDemo (ts : List Nat) (spare : Bool) : State :=
  { State.reset with integ := { State.reset.integ with tiles := State.reset.integ.tiles.set 0 ts, spare := State.reset.integ.spare.set 0 spare } }
def overflowDemo : State := withEntry State.reset 0x9100 1 (leBytes (2 ^ 22) 8)

theorem test_wit_integrity :
    (([[3], List.range 8] : List (List Nat)).all fun ts =>
      let s := tilesDemo ts false
      s.integ.tiles.getD 0 [] == ts && !s.integ.computeFenced.getD 0 false && !ts.isEmpty && decide (s.now ≤ 8000000 * 0 + 1000000) && decide (tabGet 0 s.integ.shadowed 0 ≤ 0) && ts.contains 3) = true ∧
    ([Detection.lockstep .safetyMonitor].any isTrip = true ∧ [Detection.lockstep (.home 0), .sensors 3].any isTrip = false) ∧
    ((tilesDemo [] false).integ.tiles.getD 0 [] = [] ∧ 8000000 * 0 + 1000000 < ({ State.reset with now := 1000001 } : State).now ∧
      0 < tabGet 0 (State.reset.endShadow 0 0).integ.shadowed 0) ∧
    State.reset.partExists 0 = true ∧
    (([0, 3] : List Nat).all fun t => !(State.reset.bucketEvent 8 0 t).2) = true ∧
    (State.reset.fenced 0 0x0A 0 = false ∧ State.reset.fenced 0 0x09 0 = false ∧ State.reset.dev.state ≠ .off ∧ State.reset.dev.aoUp = true) ∧
    (blockPresent overflowDemo.dev.variant 0 = true ∧ bitAt (overflowDemo.eventSel 0 0) 22 = true ∧ bitAt (overflowDemo.eventSel 0 0) 23 = false) := by
  decide +kernel

/-- SecurityEventsAct: the ROM waits for an image, for the fence record, for its retry; images are accepted; commit is done. -/
def romDemo (kind : Nat) (asked : Bool) : State :=
  { State.reset with sec := { State.reset.sec with kind := kind, fenceAsked := asked } }
def answerMsg (ix flags status off : Nat) (d : List Byte) : UleelMsg :=
  ⟨1, 6, 0, BitVec.ofNat 16 ix, 0, BitVec.ofNat 8 flags, BitVec.ofNat 32 off, BitVec.ofNat 16 d.length, 0, BitVec.ofNat 32 status, d⟩
def bootedDemo (committed : Bool) : State :=
  let s := speaking .booting
  { s with sec := { s.sec with done := true, committed := committed } }

theorem test_wit_security :
    ((romDemo 0 false).fetching = true ∧ (romDemo 0 false).wantsFences = false ∧ (answerMsg 0 1 7 0 []).status ≠ 0 ∧ (romDemo 0 false).answersFetch (answerMsg 0 1 7 0 []) = true ∧
      ({ romDemo 0 false with sec := { (romDemo 0 false).sec with fetches := 1 } } : State).answersFetch (answerMsg 0 1 7 0 []) = false ∧
      (answerMsg 0 1 7 0 []).flags.getLsbD 0 = true ∧ (answerMsg 0 1 0 0 [4]).flags.getLsbD 1 = false ∧ (answerMsg 0 3 0 0 [4]).flags.getLsbD 1 = true ∧
      (answerMsg 0 3 0 0 [4]).offset.toNat = (romDemo 0 false).sec.bytes.length ∧ (answerMsg 0 3 0 0 [4]).length.toNat = 1) ∧
    ((romDemo 0 false).sec.refusals < 2 ∧ ({ romDemo 0 false with sec := { (romDemo 0 false).sec with refusals := 2 } } : State).sec.refusals = 2) ∧
    (({ romDemo 0 false with sec := { (romDemo 0 false).sec with waitUntil := some 9 } } : State).sec.waitUntil = some 9 ∧ (romDemo 0 false).dev.state = .booting) ∧
    ((romDemo 1 false).fetching = true ∧ (romDemo 1 false).wantsFences = true ∧ (answerMsg 0x80 1 0 0 []).index = 0x80) ∧
    ((bootedDemo false).dev.state = .booting ∧ (bootedDemo false).sec.done = true ∧ (bootedDemo false).integ.fences = [] ∧
      (bootedDemo false).integ.dramDegraded = 0) ∧
    ((bootedDemo false).dev.aoUp = true ∧ (bootedDemo false).image 0 ≠ none ∧ (bootedDemo false).sec.committed = false ∧
      (bootedDemo true).sec.committed = true ∧ State.reset.image 0 = none) := by decide +kernel

/-- DictionaryRequestsAct. -/
def ask (op ix sub flags off : Nat) (d : List Byte) : UleelMsg :=
  ⟨1, BitVec.ofNat 8 op, 3, BitVec.ofNat 16 ix, BitVec.ofNat 8 sub, BitVec.ofNat 8 flags, BitVec.ofNat 32 off, BitVec.ofNat 16 d.length, 0, 0, d⟩

theorem test_wit_dict_requests :
    (let s := speaking .running
     s.asks (ask 1 0x3020 1 0 0 []) = true ∧ firstCode (s.accessChecks 1 (ask 1 0x3020 1 0 0 []) (s.overrun .management) (mayRead .management 0x3020 1)) = 0 ∧ s.overrun .management = false ∧
       (({ s with dict := { s.dict with unanswered := List.replicate 16 (1, 9) } } : State).overrun .management = true) ∧
       ((s.sampled 0x3020 1).entryValue 0x3020 1).length = 4 ∧ s.readState 0x3020 1 = true ∧
       badHeader 1 (ask 1 0x0FFF 1 0 0 []) = false ∧ unknownEntry 0x0FFF 1 = true ∧ unknownEntry 0x2111 2 = false ∧
       entryAbsent .a768g0 0x2111 2 = false ∧ unknownEntry 0x4200 1 = false ∧ entryAbsent .a1024g0 0x4200 1 = true ∧
       firstCode (s.accessChecks 3 (ask 3 0x3020 1 0 3 []) (s.overrun .management) (mayRead .management 0x3020 1)) = 0) ∧
    (let s := speaking .running
     firstCode (s.writeChecks 2 .management (ask 2 0x3020 1 0 0 [100, 0, 0, 0])) = 0 ∧ wrongLength 0x3020 1 [100, 0, 0, 0] = false ∧
       s.badValue 0x3020 1 [100, 0, 0, 0] = false ∧ s.wrongState 0x3020 1 = false ∧
       firstCode (s.writeChecks 4 .management (ask 4 0x3020 1 0 0 [100])) = 0 ∧ (ask 4 0x3020 1 0 0 [100]).flags.getLsbD 1 = false) ∧
    (let s := speaking .running
     let n : Notify := ⟨1, 2, 3, 0, [], 9, 0⟩
     let t := { s with dict := { s.dict with sessions := [⟨0, .node, 1, [], 4⟩], outstanding := [n] } }
     t.dict.sessions = [⟨0, .node, 1, [], 4⟩] ∧ (t.dict.outstanding.find? fun n => n.sub == 1 && n.transaction == 2) = some n ∧ n.resends < 10) := by
  decide +kernel

/-- DictionaryCommandsAct. -/
def tokenBytes (scope : Nat) : List Byte := leBytes (0x4B544744 + 2 ^ 32 + scope * 2 ^ 64) 192

theorem test_wit_dict_commands :
    (([DevState.running, .quiesced, .standby] : List DevState).all fun st =>
      let s := speaking st
      !s.mute && s.dict.sessions.isEmpty && s.dev.state == st && !s.rawOpen && !s.overrun .management) = true ∧
    ((speaking .running).isUp = true ∧ (speaking .running).live = true ∧ (speaking .draining).live = false ∧ (speaking .ready).asReady = true) ∧
    (hasGuests (speaking .running).dev.variant = true ∧
      (([4, 7] : List Nat).all fun g => (({ speaking .running with guests := [⟨g, 0, 0, 0, [], 0, 0⟩] } : State).guest 0).state == g) = true) ∧
    (([0, 3] : List Nat).all fun c =>
      (tokenBytes c).length == 192 && decide (bitsOf (leNat (tokenBytes c)) 64 4 < 4) && tokenOk (leNat (tokenBytes c))) = true ∧
    (speaking .running).sec.tokensRefused < 8 ∧ (speaking .running).sec.verifyUntil ≤ (speaking .running).now ∧
    (let s := speaking .running
     { s with sec := { s.sec with verifyUntil := 9 } }.now < { s.sec with verifyUntil := 9 }.verifyUntil) := by decide +kernel

/-- OwnerKeyHashIsWrittenOnce. -/
theorem test_wit_owner :
    let s := speaking .ready
    let m := writeMsg 0x7010 1 (List.replicate 48 7)
    s.asks m = true ∧ m.index = 0x7010 ∧ m.sub = 1 ∧ m.data.length = 48 ∧ firstCode (s.writeChecks 2 .management m) = 0 ∧ s.sec.ownerSet = false ∧
      s.asReady = true ∧ (speaking .quiesced).dev.state = .quiesced ∧
      ({ s with sec := { s.sec with ownerSet := true } } : State).sec.ownerSet = true ∧
      (speaking .running).asks m = true ∧ firstCode ((speaking .running).writeChecks 2 .management m) = 0 ∧ (speaking .running).asReady = false := by
  decide +kernel

/-- LifecycleEventsAct. -/
def drainingDemo : State :=
  let s := base demoCtx demoTables
  { s with
    dev := { s.dev with state := .draining }
    parts := { s.part 0 with phase := .draining, drain := .eve } :: List.replicate 7 PartSt.fresh }
def quietDemo : State := { drainingDemo with parts := List.replicate 8 PartSt.fresh }
def clocked (s : State) : State := { s with dev := { s.dev with clocks := List.replicate 5 true } }
def hubDemo : State :=
  let s := clocked (speaking .running)
  { s with sec := { s.sec with images := s.sec.images.set 1 (some imageDemo) }, host := { s.host with perst := false } }
def portDemo (released : Bool) : State :=
  let s := withEntry hubDemo 0x4301 1 [1]
  { s with pe1 := [⟨0, false, 0, released, 0, []⟩, ⟨0, false, 0, false, 0, []⟩] }

theorem test_wit_lifecycle :
    (drainingDemo.dev.state = .draining ∧ drainingDemo.quietPart 0 = false ∧ (drainingDemo.part 0).running = some 0 ∧
      (((drainingDemo.advance (drainingDemo.dev.quiesceAt + 1000000 * drainingDemo.effNat 0x8063 1)).killCtx 0).part 0).phase ≠ .layoutWait) ∧
    (quietDemo.dev.state = .draining ∧ ∀ k < 8, quietDemo.quietPart k = true) ∧
    (State.reset.goOff.dev.vin = false ∧ State.reset.dev.vin = true ∧ (State.reset.dev.vin = true ∧ { State.reset.dev with aoUp := false }.aoUp = false)) ∧
    ((portDemo false).pe1Exists 0 = true ∧ (portDemo false).pe1Mode 0 ≠ 0 ∧ (portDemo false).dev.clocks.getD 3 false = true ∧ (portDemo false).hubUp = true ∧
      ((portDemo false).pe1Port 0).perstReleased = false ∧ ((portDemo true).pe1Port 0).perstReleased = true ∧
      (PcieLink.mk 6 16 (2 ^ 40)).generation ≤ (portDemo true).effNat 0x4020 2 ∧ (PcieLink.mk 6 16 (2 ^ 40)).generation ≤ 6) ∧
    (hubDemo.hubUp = true ∧ (PcieLink.mk 7 16 0).generation ≤ hubDemo.effNat 0x4020 1 ∧ hubDemo.dev.clocks.getD 2 false = true ∧ hubDemo.host.perst = false) ∧
    (hubDemo.dev.aoUp = true ∧ hubDemo.effNat 0x4400 2 = 0) := by decide +kernel

/-- StepKeepsMemoryForm, WriteAtHomeIsRead: memory of the demo state, and a write over two lines of which one is cached. -/
def cachedDemo : State :=
  let s := base demoCtx demoTables
  { s with coh := { s.coh with dir := [(0x1000, ⟨.m, some 0, [], []⟩)], copies := [(0x1000, some ⟨.m, List.replicate 128 7, 0, 0, false⟩)] } }

theorem test_wit_memory :
    (memWf (demo (desc 0 [])).mem = true ∧ ∃ t, step (demo (desc 0 [])) = .next t) ∧
    ((List.range 4).all (fun i =>
      let a := 0x8007E + i
      !ioAddr a && (cachedDemo.dirOf (a / 128)).st != .l &&
        ((cachedDemo.dirOf (a / 128)).owner == none || (cachedDemo.lineView (a / 128)).length == 128)) &&
      (cachedDemo.dirOf 0x1000).owner == some 0) = true ∧
    ioAddr 0x300000000000 = true := by
  refine ⟨⟨by decide +kernel, _, rfl⟩, by decide +kernel, by decide +kernel⟩

end Sys2Proof.Tests
end

