-- ==== Sys2Proof/Tests/Homes.lean ====
section
/-! SUPPORT. For the statements about streams and coherence: a state and operands that meet the hypotheses of every clause. -/

namespace Sys2Proof.Tests

open Sys2Proof Sys2Proof.Machine

set_option Elab.async false

/-- A burst from 0x40000 to 0x50000 through endpoint slot 1. -/
def demoBurst : Burst := ⟨9, 0x40000, 0x50000, 64, 1, 3, 0, [], false, false⟩
/-- An instance of context 0 on unit 0 that runs one word; endpoint slot 1 is of kind `k`. -/
def demoInst (w k : Nat) (hamper : Bool) (bs : List Burst) : Instance :=
  { ctx := 0, opIndex := 0, unit := 0, hamper := hamper, words := [BitVec.ofNat 64 w], pc := 0, loops := [],
    a := BitVec.ofNat 64 0x40000 :: List.replicate 7 (BitVec.ofNat 64 0x50000), init := List.replicate 8 0, c := List.replicate 8 0,
    eps := [1, BitVec.ofNat 64 k, 0, 0], bursts := bs, indexStall := none, syncing := false, softUs := 10, hardInt := 100, hardExt := 0xFFFFFFFE }
def streamDemo (x : Instance) : State := { base demoCtx demoTables with streams := ⟨[(0, some x)], 10, [], 0, 0, [], []⟩ }

/-- StreamRegisterWordsRun: every opcode, a loop of 0 and of 2^32 − 1 rounds. -/
theorem test_wit_stream_words :
    (([0x10, 0x11, 0x12, 0x18, 0x08, 0x08 + (2 ^ 32 - 1) * 2 ^ 32] : List Nat).all fun w =>
      let x := demoInst w 1 false []
      (streamDemo x).inst 0 == some x && decide (x.pc < x.words.length) && xOp (x.words.getD x.pc 0).toNat == w % 256) = true ∧
    (demoInst 0 1 false []).over = false := by decide +kernel

/-- A copy that P_0's sequencer has made and whose completion waits. -/
def copied : State := base { demoCtx with flights := [⟨0, desc 0x18 [], .done (endWith 0 0)⟩] } demoTables

def deadlined : State := (copied.putEntry 0x3041 1 (leBytes 9 4)).putEntry 0x3042 1 (leBytes 9 4)

/-- StreamTransfersRun: both transfer words; an index that a hamper program can read; a commit of each kind of destination and of a hamper program; a stall
and the hard deadlines, of an instance and of a sequencer's program. -/
theorem test_wit_stream_transfers :
    (([0x01, 0x02, 0x02 + 2 ^ 13] : List Nat).all fun w =>
      let x := demoInst w 1 false []
      let n := if bitAt w 13 then 8 else 4
      (streamDemo x).inst 0 == some x && x.mayIssue && xOp (x.words.getD x.pc 0).toNat == w % 256 &&
        ((streamDemo x).prepAllAt (streamAgent x.unit) x.ctx [(accRead, x.ar 0, n)]).2 == none && (streamDemo x).readable x.ctx (x.ar 0) n) = true ∧
    (([1, 2, 3] : List Nat).all fun k =>
      let x := demoInst 1 k false [demoBurst]
      let s := streamDemo x
      epKind (x.eps.getD demoBurst.dstSlot 0) == k && demoBurst.stalled.isEmpty && !demoBurst.sent && !x.hamper &&
        (s.newAccess.prepAllAt (streamAgent x.unit) x.ctx ((accRead, demoBurst.src, 64) :: (if k = 1 then [(accWrite, demoBurst.dst, 64)] else []))).2 == none) = true ∧
    (demoInst 1 2 true [demoBurst]).hamper = true ∧
    (let x := demoInst 1 1 false [demoBurst]
     (streamDemo x).inst 0 = some x ∧ findBurst x 9 = some demoBurst ∧ demoBurst.noticed = false ∧ (streamDemo x).external 0 demoBurst = false ∧
       x.hardInt ≠ 0xFFFFFFFF ∧ x.hardExt ≠ 0xFFFFFFFF) ∧
    (((copied.seqProgram (seqUnit (seqBursts + 11)) 0).map Prod.fst) = some 0 ∧ (copied.putEntry 0x3041 1 (leBytes 0xFFFFFFFF 4)).seqDeadline 11 0x3041 = 0xFFFFFFFF ∧
      copied.seqDeadline 11 0x3042 = 0xFFFFFFFF ∧
      deadlined.seqDeadline 11 0x3041 = 9 ∧ deadlined.seqDeadline 11 0x3042 = 9 ∧ (copied.workOf 0).stalls = [] ∧
      (({ copied with streams := { copied.streams with work := [(0, some ⟨0, 0, [], [(seqBursts, 4)]⟩)] } } : State).workOf 0).stalls = [(seqBursts, 4)]) := by
  decide +kernel

/-- A coherence demo: the directory's record of line 3, copies of it, and messages about it. -/
def homeDemo (d : DirEntry) (cs : List (Nat × Copy)) (ms : List CohMsg) : State := { State.reset with
  coh := { State.reset.coh with
    dir := tabPut DirEntry.none [] 3 d
    copies := cs.map fun e => (copyKey e.1 3, some e.2)
    msgs := ms } }
def copyIn (st : CopySt) : Copy := ⟨st, List.replicate 128 7, 1, 0, false⟩

/-- The home takes a request, and the record is as it was. -/
def admitsOk (s : State) (q : Instr) (r : Request) (d : DirEntry) : Bool :=
  requestOf q == some r && s.mayRequest r && (homeOf (r.line * 128)).isSome && s.backed (r.line * 128) && !s.agentFull r.agent && !s.lineAwaited r.line &&
    (s.onTheWay r.agent r.line).isNone && ((s.wakeFor (r.line * 128)).letIn r.agent r.line r.caches).2 &&
    ((s.wakeFor (r.line * 128)).letIn r.agent r.line r.caches).1.dirOf r.line == d &&
    !(((s.wakeFor (r.line * 128)).letIn r.agent r.line r.caches).1.bad.contains r.line)

theorem admitted {s : State} {q : Instr} {r : Request} {d : DirEntry} (h : admitsOk s q r d = true) :
    ∃ s1, Admitted s q r s1 ∧ s1.dirOf r.line = d ∧ Readable s1 r.line .clean := by
  simp only [admitsOk, Bool.and_eq_true, beq_iff_eq, Bool.not_eq_true'] at h
  exact ⟨_, ⟨h.1.1.1.1.1.1.1.1.1, h.1.1.1.1.1.1.1.1.2, h.1.1.1.1.1.1.1.2, h.1.1.1.1.1.1.2, h.1.1.1.1.1.2, h.1.1.1.1.2,
    fun _ => Option.isNone_iff_eq_none.mp h.1.1.1.2, Prod.ext rfl h.1.1.2⟩, h.1.2, by decide, h.2⟩

def dirI : DirEntry := DirEntry.none
def dirS : DirEntry := ⟨.s, none, [5, 6], []⟩
def dirE : DirEntry := ⟨.e, some 5, [], []⟩
def dirM : DirEntry := ⟨.m, some 5, [], []⟩
def dirO : DirEntry := ⟨.o, some 5, [6], []⟩
def dirL : DirEntry := ⟨.l, none, [], []⟩

/-- The requests of a unit's L1 (128), a hamper (193) and a hub (1152), with the request each is. -/
def someRequests : List (Instr × Request) :=
  [(.readShared ⟨128, .demand⟩ 3 .clean, ⟨128, 3, accRead, true, .demand⟩), (.readShared ⟨193, .demand⟩ 3 .clean, ⟨193, 3, accRead, true, .demand⟩),
   (.readExclusive ⟨128, .old⟩ 3 .clean, ⟨128, 3, accWrite, true, .old⟩), (.upgrade 128 3 .clean, ⟨128, 3, accWrite, true, .demand⟩),
   (.ownNoData ⟨128, .demand⟩ 3, ⟨128, 3, accFull, true, .demand⟩), (.readOnce 1152 3 .clean, ⟨1152, 3, accRead, false, .demand⟩),
   (.writeLine 1152 3 (List.replicate 128 1), ⟨1152, 3, accFull, false, .demand⟩),
   (.writePartial 1152 3 ⟨[(0, 1)]⟩ .clean, ⟨1152, 3, accWrite, false, .demand⟩),
   (.atomicAtHome 1152 3 ⟨0, 4, .add, 1, 0⟩ .clean, ⟨1152, 3, accAtomic, false, .demand⟩)]

/-- ReadsAtTheHome, WriteGrantsLeaveOneOwner, WholeLineWriteReplacesTheLine, WritesAtTheHome: each request at each state of the record. -/
theorem test_wit_home_states :
    ([dirI, dirS, dirE, dirM, dirO, dirL].all fun d => someRequests.all fun q => admitsOk (homeDemo d [] []) q.1 q.2 d) = true := by decide +kernel

/-- The same: an Upgrade whose sender is recorded, an owner that holds its line and one that does not. -/
theorem test_wit_home_upgrade :
    admitsOk (homeDemo dirO [] []) (.upgrade 6 3 .clean) ⟨6, 3, accWrite, true, .demand⟩ dirO = true ∧ (homeDemo dirO [] []).stillRecorded 6 3 = true ∧
    (homeDemo dirM [(5, copyIn .m)] []).ownerHolds 3 5 = true ∧ (homeDemo dirE [] []).ownerHolds 3 5 = false ∧
    (homeDemo dirI [] []).countLine 128 3 = homeDemo dirI [] [] := by decide +kernel

/-- ReadsAtTheHome: the stack cache of a unit's stack holds its line. -/
theorem test_wit_home_near :
    (let s := homeDemo dirS [(192, copyIn .s)] []
     requestOf (.readShared ⟨128, .demand⟩ 3 .clean) = some ⟨128, 3, accRead, true, .demand⟩ ∧ s.mayRequest ⟨128, 3, accRead, true, .demand⟩ = true ∧
       (s.onTheWay 128 3).isSome = true) := by decide +kernel

theorem test_wit_home_reads :
    ∃ s1, Admitted (homeDemo dirE [] []) (.readOnce 1152 3 .clean) ⟨1152, 3, accRead, false, .demand⟩ s1 ∧ s1.dirOf 3 = dirE ∧ Readable s1 3 .clean :=
  admitted (by decide +kernel)

/-- ForwardsAtTheHolder: each forward reaches an agent that holds the line, for a requester and for the home's recall; an Inval reaches a hamper. -/
def fwdDemo (k : MsgKind) (req : Nat) : State := homeDemo dirM [(5, copyIn .m)] [⟨k, 5, req, 3, [], .s, .demand⟩]

theorem test_wit_forwards :
    ([MsgKind.fwdShared, .fwdOwn, .fwdOnce, .fwdRecall, .inval].all fun k => [6, homeAgent].all fun q =>
      let s := fwdDemo k q
      s.takeFwd k 5 3 == (s, some ⟨k, 5, q, 3, [], .s, .demand⟩) && (s.heldData 5 3 ⟨[]⟩) == some (List.replicate 128 7, some (copyIn .m))) = true ∧
    isHamper 5 = false ∧ isHamper 193 = true ∧
    (let s := homeDemo dirS [] [⟨.inval, 193, 6, 3, [], .s, .demand⟩]
     s.msgFor .inval 193 3 = some ⟨.inval, 193, 6, 3, [], .s, .demand⟩ ∧ s.agentDead 193 = false) := by decide +kernel

/-- AnswersAtTheRequester. -/
theorem test_wit_answers :
    ([MsgKind.data, .dataOnce, .ack, .invalAck].all fun k =>
      (homeDemo dirS [(5, copyIn .s)] [⟨k, 5, 5, 3, [], .m, .demand⟩]).msgFor k 5 3 == some ⟨k, 5, 5, 3, [], .m, .demand⟩) = true ∧
    ([MsgKind.wbAck, .noticeAck].all fun k =>
      let s := homeDemo dirS [(5, copyIn .s)] [⟨k, 5, 5, 3, [], .m, .demand⟩]
      ((s.coh.msgs.find? fun y => (y.kind == .wbAck || y.kind == .noticeAck) && y.dest == 5 && y.line == 3) == some ⟨k, 5, 5, 3, [], .m, .demand⟩) &&
        !((s.coh.msgs ++ s.coh.heldFwds).any fun y => isFwd y.kind && y.dest == 5 && y.line == 3)) = true ∧
    (homeDemo dirS [(5, copyIn .s)] []).copyOf 5 3 = some (copyIn .s) ∧
    (let s := { homeDemo dirM [] [] with coh := { (homeDemo dirM [] []).coh with wb := [(5, 3, List.replicate 128 7)] } }
     s.agentDead 5 = false ∧ s.copyOf 5 3 = none ∧ s.wbOf 5 3 = some (List.replicate 128 7) ∧ s.msgFor .wbAck 5 3 = none) ∧
    ([CopySt.m, .o].all fun k =>
      let s := homeDemo dirM [(5, copyIn k)] []
      s.copyOf 5 3 == some (copyIn k) && !(copyIn k).stale && !s.grantDue 5 3 && !s.coh.notices.contains (5, 3)) = true ∧
    (let s := homeDemo dirE [(5, copyIn .e)] []
     s.copyOf 5 3 = some (copyIn .e) ∧ (copyIn .e).st = .e ∧ (copyIn .e).stale = false ∧ s.agentDead 5 = false) ∧
    ([MsgKind.fwdShared, .fwdRecall].all fun k =>
      let s := homeDemo dirS [] [⟨k, 5, 6, 3, [], .s, .demand⟩]
      !s.agentDead 5 && !s.grantDue 5 3 && (s.heldData 5 3 ⟨[]⟩).isNone &&
        (s.coh.msgs.find? fun y => isFwd y.kind && y.dest == 5 && y.line == 3) == some ⟨k, 5, 6, 3, [], .s, .demand⟩) = true := by decide +kernel

/-- HeartbeatsAct, DeadAgentsAreReclaimed: a live and a parked Heartbeat, one that names every agent, a die not parked, an agent to declare, sweeps and a report. -/
def deadDemo (x : DeadAgent) : State := { State.reset with coh := { State.reset.coh with dead := [x] } }
def deadSome : DeadAgent := ⟨128, true, 5, [0], 0, 0, 0, false⟩
def deadSwept : DeadAgent := ⟨128, true, 5, [0, 1, 2, 3, 4, 5, 6, 7], 9, 0, 0, false⟩

theorem test_wit_heartbeats :
    ([DieName.cs 7, .pd 1].all fun d => State.reset.dieLive d && (dieAgents d).all fun b => (dieAgents d).contains b) = true ∧
    (State.reset.irq.sliceOf 1).dieOff = false ∧ State.reset.coh.parked.contains (.cs 7) = false ∧
    agentExists State.reset.dev.variant 128 = true ∧ agentCaching 128 = true ∧ State.reset.agentDead 128 = false ∧
    ((deadDemo deadSome).coh.dead.find? fun y => y.agent == 128) = some deadSome ∧ 7 ∉ deadSome.swept ∧
    ((deadDemo deadSwept).coh.dead.find? fun y => y.agent == 128) = some deadSwept ∧ deadSwept.reported = false ∧ 8 ≤ deadSwept.swept.length := by
  decide +kernel

end Sys2Proof.Tests
end

