-- ==== Sys2Proof/Tests/Links.lean ====
section
/-! SUPPORT. For the statements about the host, the links and the fabric: a state and operands that meet the hypotheses of every clause. -/

namespace Sys2Proof.Tests

open Sys2Proof Sys2Proof.Machine

set_option Elab.async false

/-- A state with the host attached. -/
def hosted (x : Ctx) : State := let s := base x demoTables; { s with host := { s.host with detached := false } }
/-- Registers of a granted context: a hold area of 4 KiB at 0x60000. -/
def grantedRegs : CtxRegs := { demoRegs with hostBlk := settled (BitVec.ofNat 256 (CtxRegs.created.hostBlk.eff.toNat + 1 + 0x60000 * 2 ^ 128)) }
def hostCtx : Ctx := { demoCtx with regs := grantedRegs, host := { HostSide.created with egressWritten := 3 } }
/-- A registration with COMMIT: vector 1, 16 record slots, COAL_COUNT 1, COAL_US 65,000. -/
def regBytes : List Byte := leBytes (12 * 2 ^ 128 + 4 * 2 ^ 134 + 2 ^ 139 + 2 ^ 150 + 65000 * 2 ^ 166 + 2 ^ 208) 32

/-- HostAccessesAct, DetachedHostChangesNothing. -/
theorem test_wit_host_accesses :
    ((hosted hostCtx).hostMay 0 = true ∧ 0x7FFF + (leBytes 5 1).length ≤ 0x8000 ∧ State.reset.hostMay 0 = false) ∧
    (let x := (hosted hostCtx).ctx 0
     granted x = true ∧ x.st ≠ .free ∧ x.st ≠ .killed ∧ (hosted hostCtx).host.detached = false ∧ (leBytes 16 16).length = 16 ∧
       bitsOf (leNat (leBytes 16 16)) 64 16 = x.host.epoch.toNat ∧ hostBellBad x 16 0 = false ∧ hostBellBad x 17 0 = true) ∧
    (let x := (hosted hostCtx).ctx 0
     (leBytes 3 8).length = 8 ∧ x.host.egressAcked ≤ leNat (leBytes 3 8) ∧ leNat (leBytes 3 8) ≤ x.host.egressWritten) ∧
    (let x := (hosted hostCtx).ctx 0
     let v := (mergeBytes x.host.regStage 0 regBytes).toNat
     regBytes.length = 32 ∧ bitAt v 208 = true ∧ bitsOf v 192 16 = x.host.epoch.toNat ∧ badReg v (holdLog2 x) = false ∧ x.host.reg = none) := by
  decide +kernel

/-- HostEventsAct. -/
def demoReg : EgressReg := ⟨0, 0, 4, 1, 1, 9⟩
def batchCtx : Ctx := { demoCtx with
  regs := grantedRegs
  flights := [⟨0, 0, .egress 1⟩]
  host := { HostSide.created with reg := some demoReg, batches := [⟨1, 0, 64, 0, 0x40000, .waiting⟩], bells := [⟨1, 0, 5⟩] } }

theorem test_wit_host_events :
    (let s := hosted batchCtx
     let x := s.ctx 0
     let b : Batch := ⟨1, 0, 64, 0, 0x40000, .waiting⟩
     nextBatch x.host = some b ∧ x.host.reg = some demoReg ∧ batchMay x.host demoReg b = true ∧
       (x.flights.any fun f => f.opIndex == b.opIndex && f.st == .egress b.seq) = true ∧ (s.holdBatch 0 b).2 = none ∧
       x.host.bells = [⟨1, 0, 5⟩] ∧ x.host.noticed = false ∧ ingressDeadlineUs x ≠ 0xFFFFFFFF) ∧
    (let s := { hosted batchCtx with host := { (hosted batchCtx).host with fenceReads := [(0, 4)], vectors := tabPut Msix.reset [] 1 { Msix.reset with pend := true, batches := 1, since := some 8 } } }
     (s.host.fenceReads.find? fun e => e.1 == 0) = some (0, 4) ∧ (s.msix 1).since = some 8 ∧ s.coalUsOf 1 = some 9) := by decide +kernel

/-- A state whose dictionary has these values in effect. -/
def withDict (s : State) (es : List (Nat × Nat × List Byte)) : State :=
  let t := es.foldl (fun m e => tabPut [] m (256 * e.1 + e.2.1) e.2.2) []
  { s with dict := { s.dict with acc := t, eff := t } }

/-- Link port 0 in fabric mode, in a state of R305; the package is number 7 of the fabric. -/
def linkDemo (st : Nat) : State :=
  (withDict State.reset [(0x4010, 1, [1]), (0x4100, 1, leBytes 7 4)]).setPort 0 { LinkPort.reset with state := st, expect := 4095 }
/-- A flit whose CRC-32 is right. -/
def flit (decoded : Bool) (seq : Nat) (d : List Byte) : Flit :=
  ⟨BitVec.ofNat 12 seq, 0, false, 0, 0, Config.crc32 (flitHeader (BitVec.ofNat 12 seq) 0 false 0 0 0 ++ d), d, decoded, [0, 0, 0, 0, 0]⟩

theorem flit_ok (seq : Nat) (d : List Byte) : flitOk (flit true seq d) = true := by simp [flitOk, flit]

/-- LinkCommandsAct. -/
theorem test_wit_links :
    (([2, 3] : List Nat).all fun st => ((linkDemo st).port 0).state == st && (linkDemo st).portMode 0 == 1) = true ∧
    (flitOk (flit false 0 [1]) = false ∧ flitIdle (flit true 4094 [0]) (((linkDemo 2).countSymbols 0 [0, 0, 0, 0, 0]).port 0).expect = true ∧
      flitIdle (flit true 0 [1]) (((linkDemo 2).countSymbols 0 [0, 0, 0, 0, 0]).port 0).expect = false ∧
      (flit true 0 [1]).seq ≠ (((linkDemo 2).countSymbols 0 [0, 0, 0, 0, 0]).port 0).expect ∧
      (flit true 4095 [1]).seq = (((linkDemo 2).countSymbols 0 [0, 0, 0, 0, 0]).port 0).expect) ∧
    ((let s := (linkDemo 2).setPort 0 { (linkDemo 2).port 0 with retry := [[1]], resends := 8 }
      (s.port 0).state == 2 && (s.port 0).retry != [] && decide (8 ≤ (s.port 0).resends)) = true) ∧
    ((linkDemo 1).port 0).state = 1 ∧ trainedSpare [true, true, true, true, false] = some 0xFF ∧ trainedSpare [true, false, true, true, true] = some 1 ∧
    (linkDemo 1).fabricId ≠ 0xFFFFF ∧ (withDict State.reset []).fabricId = 0xFFFFF ∧
    ((linkDemo 4).port 0).state = 4 ∧ (linkDemo 4).portMode 0 ≠ 0 := by decide +kernel

/-- A packet to this package from package 8. -/
def pkt (type : Nat) (aux : Nat) (d : List Byte) : Packet :=
  { type := type, vcLevel := 0, cls := false, destId := 7, srcId := 8, destContext := 0, srcContext := 0, e2eSeq := 0, addr := 0x40000,
    aux := BitVec.ofNat 32 aux, payload := d, crcOk := true }
/-- Package 7 with context 0 in job slot 0, whose one other member is package 8. -/
def jobDemo : State :=
  let s := withDict (base demoCtx (tabPutList memDefault demoTables 0x70000 (leBytes 8 4)))
    [(0x4100, 1, leBytes 7 4), (0x8062, 1, 0 :: List.replicate 4095 0xFF), (0x8061, 1, leBytes (2 * 2 ^ 32 + 2 ^ 64 + 0x70000 * 2 ^ 128) 32)]
  s
def sentDemo (n : Nat) : State := { jobDemo with fabric := { jobDemo.fabric with unacked := [⟨8, 0, pkt 1 0 [], 5, n⟩] } }

/-- A packet in an input buffer of port 0, with a route for package 9 through port 1. -/
def bufferDemo (pk : Packet) : State :=
  let s := withDict State.reset [(0x4010, 1, [1]), (0x4010, 2, [1]), (0x4100, 1, leBytes 7 4)]
  let t := (s.setPort 0 { LinkPort.reset with state := 2, input := [(packetVc pk, pk)] }).setPort 1 { LinkPort.reset with state := 2 }
  { t with fabric := { t.fabric with shift := 20, table := tabPut 0 [] 9 (BitVec.ofNat 64 (2 + 2 ^ 34)) } }

/-- PacketCommandsAct: a packet in a buffer, of each TYPE at its bounds, for the package itself, for a package with a route and for one without. -/
theorem test_wit_buffers :
    (([0, 1, 7, 8] : List Nat).all fun t => (bufferDemo (pkt t 0 [])).nextIn 0 0 == some (pkt t 0 [])) = true ∧
    (bufferDemo (pkt 1 0 [])).fabricId = 7 ∧ (withDict State.reset []).fabricId = 0xFFFFF ∧
    (([pkt 3 0 []].any fun y => packetVc y == packetVc (pkt 1 0 [])) = true) ∧
    (let s := bufferDemo { pkt 1 0 [] with destId := 9 }
     s.routePort 9 0 = some 1 ∧ (s.port 1).queue = [] ∧ (s.port 1).mayLeave (s.raised { pkt 1 0 [] with destId := 9 }) = true ∧ s.routePort 8 0 = none ∧
       ({ s.port 1 with credits := List.replicate 8 0 } : LinkPort).mayLeave (s.raised { pkt 1 0 [] with destId := 9 }) = false) := by decide +kernel

/-- PacketCommandsAct: every TYPE at its bounds; a write of a member and of a stranger, in one part and in two; acknowledgements; resends. -/
theorem test_wit_packets :
    (1 ≤ (pkt 1 0 []).type ∧ (pkt 7 0 []).type ≤ 7 ∧ (pkt 0 0 []).type = 0 ∧ 7 < (pkt 8 0 []).type) ∧
    ((jobDemo.receive (pkt 1 0 [1])).2 = true ∧ (jobDemo.receive (pkt 1 0 [1])).1.jobMember 0 8 = true ∧
      (jobDemo.receive (pkt 1 0 [1])).1.jobMember 1 8 = false ∧ (partOf (pkt 1 0 [1]).aux.toNat).2 = 1 ∧
      (partOf (pkt 1 (2 ^ 29) [1]).aux.toNat).2 = 2) ∧
    ((pkt 2 0 []).crcOk = true ∧ (pkt 2 0 []).destId.toNat = jobDemo.fabricId ∧ (pkt 2 0 [1]).payload ≠ []) ∧
    (([2, 3] : List Nat).all fun n => ((sentDemo n).fabric.unacked.find? fun y => y.dest == 8 && y.seq == 0) == some ⟨8, 0, pkt 1 0 [], 5, n⟩) = true := by
  decide +kernel

/-- FabricCommandsAct: packets of every collective type, a run with a partner, a parade that fetches, device time. -/
def demoRun : CollRun := ⟨0, 4, 1, [BitVec.ofNat 64 7, BitVec.ofNat 64 8], 0, 9, [], [], [], [1], [], [], 5, 5, 5, 0, 0, 0, none⟩
/-- An all-to-all of two elements. -/
def demoColl : Flight := ⟨0, desc 0x10 [(448, 2), (488, 5), (496, 2)], .collective⟩
def runDemo : State := (jobDemo.setRun 0 (some demoRun)).updCtx 0 fun x => { x with flights := [demoColl] }
def collBytes (comm seq : Nat) : List Byte := collPrefix comm seq 0 9 0 0 0 0 0 0 true
/-- A plan of 2^20 + 1 bytes for package 7 with parade number 3, parents 8 and 9, at 0x100000. -/
def planBytes : List Byte :=
  leBytes ((2 ^ 20 + 1) * 2 ^ 384 + 0x100000 * 2 ^ 448 + 8 * 2 ^ 512 + 9 * 2 ^ 544 + 3 * 2 ^ 576) 76
def paradeDemo (st chunks : Nat) : State :=
  let s := withDict State.reset [(0x4100, 1, leBytes 7 4), (0x8030, 1, planBytes)]
  { s with fabric := { s.fabric with parade := ⟨st, chunks, 2, false, 5, none, [], []⟩ } }

theorem test_wit_fabric_runs :
    (runDemo.receive (pkt 3 0 (collBytes 4 1))).2 = true ∧ runDemo.run 0 = some demoRun ∧
    (collKey (pkt 4 0 (collBytes 4 1)) = (0, 4, 1)) ∧
    (jobDemo.run 0 = none ∧ (jobDemo.ctx 0).st ≠ .free ∧ pkArrived (pkt 4 0 (collBytes 4 1)) = true ∧ tabGet 0 (jobDemo.ctx 0).collSeq 4 < 1) ∧
    runDemo.runDesc 0 demoRun = some demoColl ∧ demoRun.awaits demoColl.desc 1 = true := by decide +kernel

theorem test_wit_fabric_parade :
    (let p := pkt 6 0 (leBytes 3 4 ++ leBytes 1 4)
     let s1 := ((paradeDemo 1 1).receive p).1
     ((paradeDemo 1 1).receive p).2 = true ∧ payloadNat p 0 4 = s1.planNat 576 607 ∧ s1.fabric.parade.state ≠ 0 ∧ s1.fabric.parade.state ≠ 4 ∧
       payloadNat p 4 4 < s1.fabric.parade.total) ∧
    (let p := pkt 7 0 (leBytes 3 4 ++ leBytes 0 4 ++ leBytes 0 4 ++ leBytes 5 1)
     let s1 := ((paradeDemo 1 0).receive p).1
     ((paradeDemo 1 0).receive p).2 = true ∧ payloadNat p 0 4 = s1.planNat 576 607 ∧ s1.fabric.parade.state = 1 ∧ payloadNat p 4 4 = s1.fabric.parade.chunks ∧
       p.srcId.toNat = s1.paradeParent ∧ (insNat (payloadNat p 8 4 / paradePart) s1.fabric.parade.pieces).length < (chunkLen (s1.planNat 384 447) 0 + paradePart - 1) / paradePart) ∧
    (paradeDemo 2 1).fabric.parade.state = 2 := by decide +kernel

theorem test_wit_fabric_time :
    (let s := (withDict State.reset [(0x4010, 1, [1]), (0x8010, 1, [2]), (0x8010, 2, [0])]).setPort 0 { LinkPort.reset with state := 2 }
     s.effNat 0x8010 1 = 2 ∧ s.effNat 0x8010 2 = 0 ∧ s.portLive 0 = true) ∧ (withDict State.reset [(0x8010, 1, [1])]).effNat 0x8010 1 = 1 ∧
    ((({ LinkPort.reset with timeTx := some 4 } : LinkPort).timeTx = some 4) ∧ (⟨5, some 6⟩ : TimeFlit).lastRx = some 6) ∧
    State.reset.fabric.ptp.origin = none ∧ (⟨3, 4, some 5, some 6⟩ : PtpSlave).asked = some 6 ∧
    State.reset.fabric.sourceLost = false ∧ ({ State.reset.fabric with sourceLost := true } : Fabric).sourceLost = true := by decide +kernel

/-- RdmaCommandsAct: a pair in RTS with one entry of each opcode, inbound requests with and without the key, answers to entries in flight. -/
def wqe (op len : Nat) : Nat := op + len * 2 ^ 32 + 0x40000 * 2 ^ 64 + 5 * 2 ^ 192
def rtsPair (fly : List (Nat × BitVec 512)) : QueuePair :=
  { QueuePair.reset with word0 := 3, word1 := 5, sq := BitVec.ofNat 64 (0x50000 + 4 * 2 ^ 56), sqProducer := 1, flying := fly }
def etherDemo (e : Nat) (fly : List (Nat × BitVec 512)) : State :=
  ((withDict (base demoCtx (tabPutList memDefault demoTables 0x50000 (leBytes e 64))) [(0x4010, 1, [2])]).setPort 0
    { LinkPort.reset with state := 2 }).setQp 0 (rtsPair fly)

theorem test_wit_rdma :
    (([1, 2, 3] : List Nat).all fun op =>
      let s := etherDemo (wqe op 8) []
      let t := s.qpAccess 0 accRead (s.wqeAt 0) 64
      let e := leNat (t.1.rdVAt (qpAgent 0) 0 (t.1.wqeAt 0) 64)
      qpOf 0 0 == 0 && (s.qp 0).waiting.isEmpty && s.wqeReady 0 && t.2.isNone && wqeOp e == op && wqeLen e == 8 &&
        (t.1.qpAccess 0 accRead (wqeLocal e) (wqeLen e)).2.isNone) = true ∧
    (2 ^ 31 < wqeLen (wqe 1 (2 ^ 31 + 1)) ∧ wqeOp (wqe 1 (2 ^ 31 + 1)) = 1) ∧
    (let s := etherDemo 0 []
     s.etherUp 0 = true ∧ (s.qp 0).state = 3 ∧ (s.qp 0).waiting = [] ∧ bitsOf (s.qp 0).word1.toNat 0 32 = 5 ∧
       (s.qpAccess 0 accWrite 0x40000 1).2 = none ∧ (s.qpAccess 0 accRead 0x40000 1).2 = none) ∧
    (seqPlace none 5 = .next ∧ seqPlace (some 5) 5 = .next ∧ seqPlace (some 5) 4 = .taken ∧ seqPlace (some 5) 6 = .ahead) ∧
    (([1, 3] : List Nat).all fun op =>
      ((etherDemo 0 [(6, BitVec.ofNat 512 (wqe op 8))]).qp (qpOf 0 0)).flying == [(6, BitVec.ofNat 512 (wqe op 8))] &&
        wqeOp (BitVec.ofNat 512 (wqe op 8)).toNat == op && wqeLen (BitVec.ofNat 512 (wqe op 8)).toNat == 8) = true := by decide +kernel

end Sys2Proof.Tests
end

