-- ==== Sys2Proof/Tests/Slice0.lean ====
section
/-! SUPPORT. The form checks on commands: for each, a term that it refuses. -/

namespace Sys2Proof.Tests

open Sys2Proof Sys2Proof.Machine

set_option Elab.async false

/-- A measure that passes. -/
def goodMeasure : LatchMeasure := ⟨0, [⟨0, 100, [0, 0, 0, 0, 100], 1⟩], 0, List.replicate 17 0, 0⟩
def goodTick : TickMeasure := ⟨[0, 0], List.replicate 2 (List.replicate 25 0), List.replicate 8 goodMeasure, [], []⟩
def goodPacket (d : List Byte) : Packet := ⟨1, 0, false, 0, 0, 0, 0, 0, 0, 0, d, true⟩

theorem test_wf_good : (Instr.eveLatchPoint 0 goodMeasure).wf = true ∧ (Instr.tickBoundary goodTick).wf = true := by decide +kernel

/-- R83: five levels, percentages up to 100. -/
theorem test_wf_levels : (Instr.eveLatchPoint 0 { goodMeasure with sigs := [⟨0, 0, [0, 0, 0, 0], 1⟩] }).wf = false ∧
    (Instr.releasePoint 0 { goodMeasure with sigs := [⟨0, 101, [0, 0, 0, 0, 0], 1⟩] }).wf = false ∧
    (Instr.releasePoint 0 { goodMeasure with sigs := [⟨0, 0, [0, 0, 0, 0, 101], 1⟩] }).wf = false := by decide +kernel

/-- R397: 17 grid points of a partition, 25 of a processor die, two dies; R456: eight partitions. -/
theorem test_wf_grid : (Instr.quiesceDrain 0 { goodMeasure with predictW := [] }).wf = false ∧
    (Instr.tickBoundary { goodTick with predictW := [[], []] }).wf = false ∧ (Instr.tickBoundary { goodTick with othersW := [0] }).wf = false ∧
    (Instr.tickBoundary { goodTick with parts := [] }).wf = false := by decide +kernel

/-- R317: 4,064 bytes of payload. -/
theorem test_wf_packet : (goodPacket (List.replicate 4064 0)).wf = true ∧ (goodPacket (List.replicate 4065 0)).wf = false := by decide +kernel

/-- R304: a port has five lanes. -/
theorem test_wf_lanes : (Instr.flitReceive 0 ⟨0, 0, false, 0, 0, 0, List.replicate 512 0, true, [0, 0, 0, 0]⟩).wf = false ∧
    (Instr.portTrainingDone 0 ⟨true, [true], 0⟩).wf = false := by decide +kernel

/-- R53: a line number beyond the 52-bit map. -/
theorem test_wf_line : (Instr.inval 0 (2 ^ 45)).wf = false ∧ (Instr.readShared ⟨0, .demand⟩ (2 ^ 45) .clean).wf = false := by decide

/-- R255: a WriteLine carries 128 bytes; a partial write names a byte of the line once. -/
theorem test_wf_write_line : (Instr.writeLine 0 0 [1]).wf = false := by decide
theorem test_wf_partial : (Instr.writePartial 0 0 ⟨[(128, 0)]⟩ .clean).wf = false ∧ (Instr.wbDirty 0 0 ⟨⟨[(1, 0), (1, 1)]⟩, .clean, .evict⟩).wf = false := by decide +kernel

/-- R262: an atomic is of 4 or 8 aligned bytes of the line. -/
theorem test_wf_atomic : (Instr.atomicAtHome 0 0 ⟨0, 2, .add, 0, 0⟩ .clean).wf = false ∧ (Instr.atomicAtHome 0 0 ⟨4, 8, .add, 0, 0⟩ .clean).wf = false ∧
    (Instr.atomicAtHome 0 0 ⟨128, 4, .add, 0, 0⟩ .clean).wf = false := by decide +kernel

/-- R449: a message carries up to 1,024 bytes. -/
theorem test_wf_message : (Instr.write .node ⟨1, 2, 0, 0, 0, 0, 0, 0, 0, 0, List.replicate 1025 0⟩).wf = false := by decide +kernel

/-- R481: configuration accesses of 1, 2 or 4 aligned bytes; R465: 16 GiB of registers. -/
theorem test_wf_access : (Instr.configAccess 0 ⟨0, 8, false, 0, none⟩).wf = false ∧ (Instr.configAccess 0 ⟨2, 4, false, 0, none⟩).wf = false ∧
    (Instr.registerWrite ⟨none, true, 2 ^ 34, 8, 0⟩).wf = false := by decide +kernel

/-- R275, R402: 16 stack sensors, 20 die sensors; R443: a key hash of 48 bytes. -/
theorem test_wf_sizes : (Instr.dramTempReading [(1, 1)]).wf = false ∧ (Instr.stackTempReading [(1, 1)]).wf = false ∧ (Instr.ownerDebugKeyHash .management []).wf = false := by
  decide +kernel

end Sys2Proof.Tests
end

section
/-! What the dictionary's requests answer (R446, R450 to R452, R460). -/

namespace Sys2Proof.Machine

open Sys2Proof

/-! ## Checks in order -/

/-- Checks that find no fault are passed over when further checks find none either (R452). -/
theorem firstCode_append_eq_zero {a b : List (Bool × Nat)} (ha : firstCode a = 0) (hb : firstCode b = 0) : firstCode (a ++ b) = 0 := by
  induction a with
  | nil => exact hb
  | cons e r ih =>
    obtain ⟨failing, code⟩ := e
    cases failing with
    | true => exact ha
    | false => exact ih ha

/-- A fault that is found ends the checking: what follows is not looked at (R452). -/
theorem firstCode_append_of_ne_zero {a : List (Bool × Nat)} (b : List (Bool × Nat)) (ha : firstCode a ≠ 0) : firstCode (a ++ b) = firstCode a := by
  induction a with
  | nil => exact absurd rfl ha
  | cons e r ih =>
    obtain ⟨failing, code⟩ := e
    cases failing with
    | true => rfl
    | false => exact ih ha

theorem firstCode_eq_zero_of_append {a b : List (Bool × Nat)} (h : firstCode (a ++ b) = 0) : firstCode a = 0 :=
  Decidable.byContradiction fun ha => ha ((firstCode_append_of_ne_zero b ha).symm.trans h)

theorem firstCode_accessChecks_of_busy (s : State) {op : Nat} {m : UleelMsg} (mayAccess : Bool) (hm : badHeader op m = false) :
    firstCode (s.accessChecks op m true mayAccess) = abBusy := by
  simp [State.accessChecks, firstCode, hm]

theorem firstCode_accessChecks_of_unknown (s : State) {op : Nat} {m : UleelMsg} (mayAccess : Bool) (hm : badHeader op m = false)
    (hu : unknownEntry m.index.toNat m.sub.toNat = true) : firstCode (s.accessChecks op m false mayAccess) = abUnknown := by
  simp [State.accessChecks, firstCode, hm, hu]

theorem firstCode_accessChecks_of_absent (s : State) {op : Nat} {m : UleelMsg} (mayAccess : Bool) (hm : badHeader op m = false)
    (hu : unknownEntry m.index.toNat m.sub.toNat = false) (ha : entryAbsent s.dev.variant m.index.toNat m.sub.toNat = true) :
    firstCode (s.accessChecks op m false mayAccess) = abAbsent := by
  simp [State.accessChecks, firstCode, hm, hu, ha]

/-- The checks of an access find no fault only in a message of its own OP. -/
theorem op_eq_of_firstCode_accessChecks {s : State} {op : Nat} {m : UleelMsg} {busy mayAccess : Bool}
    (h : firstCode (s.accessChecks op m busy mayAccess) = 0) : m.op.toNat = op := by
  refine Decidable.byContradiction fun hop => ?_
  have hbad : badHeader op m = true := by simp [badHeader, hop]
  simp [State.accessChecks, firstCode, hbad] at h

theorem op_eq_of_firstCode_writeChecks {s : State} {op : Nat} {o : Origin} {m : UleelMsg} (h : firstCode (s.writeChecks op o m) = 0) : m.op.toNat = op :=
  op_eq_of_firstCode_accessChecks (firstCode_eq_zero_of_append h)

/-! ## Answers -/

/-- A request beyond 16 unanswered ones is answered at once and counts no further (R451). -/
theorem State.respond_of_overrun {s : State} {o : Origin} (m : UleelMsg) (h : s.overrun o = true) : s.respond o m = s.reply o m := by
  simp [State.respond, h]

section Reads

variable {s : State} {o : Origin} {m : UleelMsg}

/-- A read whose common checks find a fault answers its code and nothing else (R452). -/
theorem State.handleRead_of_fault {c : Nat} (hm : s.asks m = true)
    (hc : firstCode (s.accessChecks 1 m (s.overrun o) (mayRead o m.index.toNat m.sub.toNat)) = c) (h0 : c ≠ 0) :
    s.handleRead o m = s.respond o (response m c 0 false false []) := by
  subst hc
  simp [State.handleRead, hm, firstCode_append_of_ne_zero _ h0, h0]

/-- A read that passes every check answers the value (R446, R450). -/
theorem State.handleRead_of_passed (hm : s.asks m = true)
    (hc : firstCode (s.accessChecks 1 m (s.overrun o) (mayRead o m.index.toNat m.sub.toNat)) = 0)
    (hl : ((s.sampled m.index.toNat m.sub.toNat).entryValue m.index.toNat m.sub.toNat).length ≤ 1024)
    (hr : s.readState m.index.toNat m.sub.toNat = true) :
    s.handleRead o m = ((s.sampled m.index.toNat m.sub.toNat).readOnce m.index.toNat m.sub.toNat).respond o
      (response m 0 0 false (s.entryPending m.index.toNat m.sub.toNat)
        ((s.sampled m.index.toNat m.sub.toNat).entryValue m.index.toNat m.sub.toNat)) := by
  have hown : firstCode [(decide (1024 < ((s.sampled m.index.toNat m.sub.toNat).entryValue m.index.toNat m.sub.toNat).length), abLength),
      (!s.readState m.index.toNat m.sub.toNat, abState)] = 0 := by
    simp [firstCode, hr, Nat.not_lt.mpr hl]
  simp [State.handleRead, hm, firstCode_append_eq_zero hc hown]

/-- A segmented read within the value that passes every check answers up to 1,024 bytes from its offset (R450). -/
theorem State.handleReadSegment_of_passed {v : List Byte} (hm : s.asks m = true)
    (hv : v = (s.sampled m.index.toNat m.sub.toNat).entryValue m.index.toNat m.sub.toNat)
    (hc : firstCode (s.accessChecks 3 m (s.overrun o) (mayRead o m.index.toNat m.sub.toNat)) = 0)
    (hl : m.offset.toNat < v.length) (hr : s.readState m.index.toNat m.sub.toNat = true) :
    s.handleReadSegment o m = ((s.sampled m.index.toNat m.sub.toNat).readOnce m.index.toNat m.sub.toNat).respond o
      (response m 0 m.offset.toNat (decide (v.length ≤ m.offset.toNat + (slice v m.offset.toNat 1024).length))
        (s.entryPending m.index.toNat m.sub.toNat) (slice v m.offset.toNat 1024)) := by
  have hown : firstCode [(decide (v.length < m.offset.toNat) || (m.offset.toNat == v.length && m.offset.toNat != 0), abSegment),
      (!s.readState m.index.toNat m.sub.toNat, abState)] = 0 := by
    simp [firstCode, hr, Nat.le_of_lt hl, Nat.ne_of_lt hl]
  subst hv
  simp [State.handleReadSegment, hm, firstCode_append_eq_zero hc hown]

end Reads

section Writes

variable {s : State} {o : Origin} {m : UleelMsg}

/-- A whole value that passes every check is accepted, and the answer is what its acceptance gave (R446, R458). -/
theorem State.takeValue_of_passed {before : List (Bool × Nat)} {d : List Byte} (hb : firstCode before = 0)
    (hv : s.badValue m.index.toNat m.sub.toNat d = false) (hw : s.wrongState m.index.toNat m.sub.toNat = false) {r : State × Nat × List Byte}
    (hr : r = s.acceptValue o m.index.toNat m.sub.toNat (cleanValue m.index.toNat m.sub.toNat d)) :
    s.takeValue o m before d = r.1.respond o (response m r.2.1 (if m.op = 4 then m.offset.toNat else 0) false
      (r.2.1 == 0 && r.1.entryPending m.index.toNat m.sub.toNat) r.2.2) := by
  subst hr
  have hown : firstCode [(s.badValue m.index.toNat m.sub.toNat d, abValue), (s.wrongState m.index.toNat m.sub.toNat, abState)] = 0 := by
    simp [firstCode, hv, hw]
  simp [State.takeValue, firstCode_append_eq_zero hb hown]

/-- A write that passes every check is accepted whole; its answer's OFFSET is 0 (R449, R450). -/
theorem State.handleWrite_of_passed (hm : s.asks m = true) (hc : firstCode (s.writeChecks 2 o m) = 0)
    (hl : wrongLength m.index.toNat m.sub.toNat m.data = false) (hv : s.badValue m.index.toNat m.sub.toNat m.data = false)
    (hw : s.wrongState m.index.toNat m.sub.toNat = false) {r : State × Nat × List Byte}
    (hr : r = s.acceptValue o m.index.toNat m.sub.toNat (cleanValue m.index.toNat m.sub.toNat m.data)) :
    s.handleWrite o m = r.1.respond o (response m r.2.1 0 false (r.2.1 == 0 && r.1.entryPending m.index.toNat m.sub.toNat) r.2.2) := by
  have hlen : firstCode [(wrongLength m.index.toNat m.sub.toNat m.data, abLength)] = 0 := by simp [firstCode, hl]
  have hop : m.op ≠ 4 := fun h => absurd (op_eq_of_firstCode_writeChecks hc) (by simp [h])
  have htake := State.takeValue_of_passed (firstCode_append_eq_zero hc hlen) hv hw hr
  rw [if_neg hop] at htake
  simpa [State.handleWrite, hm] using htake

/-- With no session in progress, a first segment without LAST that passes the checks begins one (R450). -/
theorem State.handleWriteSegment_begins (hm : s.asks m = true) (hs : s.dict.sessions = []) (hc : firstCode (s.writeChecks 4 o m) = 0)
    (hoff : m.offset = 0) (hlast : m.flags.getLsbD 1 = false) :
    s.handleWriteSegment o m = ({ s with dict := { s.dict with
      sessions := [⟨entryKey m.index.toNat m.sub.toNat, o, m.transaction, m.data, s.now⟩] } } : State).respond o (response m 0 0 false false []) := by
  have hpass := firstCode_append_eq_zero hc (b := [(false, abLength), (false, abSegment)]) rfl
  simp [-BitVec.getLsbD_eq_getElem, State.handleWriteSegment, State.endSession, hm, hs, hoff, hlast, hpass]

end Writes

/-! ## Sessions and notifications -/

/-- The only session in progress ends 1 s after its last segment (R450). -/
theorem execSegmentSessionTimeout_single {s : State} {x : Session} (hx : s.dict.sessions = [x]) :
    execSegmentSessionTimeout s = .next { s with now := max s.now (x.since + 1000000000), dict := { s.dict with sessions := [] } } := by
  simp [execSegmentSessionTimeout, hx, sortBy, insBy, State.endSession, State.advance]

/-- A notification that was sent again fewer than 10 times is sent again, 100 ms after the last time (R460). -/
theorem execNotifyResend_again {s : State} {q : Fin 4} {tr : BitVec 16} {n : Notify}
    (hn : (s.dict.outstanding.find? fun n => n.sub == q.val && n.transaction == tr) = some n) (hr : n.resends < 10) :
    execNotifyResend q tr s = .next (({ s with
      now := max s.now (n.since + 100000000)
      dict := { s.dict with outstanding := (s.dict.outstanding.filter fun x => !(x.sub == q.val && x.transaction == tr)) ++
        [{ n with resends := n.resends + 1, since := max s.now (n.since + 100000000) }] } } : State).emitNotify q n.data) := by
  simp [execNotifyResend, hn, hr, State.advance]

/-! ## The statement -/

/-- Settles O54: each clause is the lemma above about the request's handler. -/
theorem dictionaryRequestsAct : Obligations.DictionaryRequestsAct := by
  unfold Obligations.DictionaryRequestsAct
  rintro s o m _ _ v q tr hm rfl rfl hv
  refine ⟨?read, ?overrun, ?unknown, ?absent, ?readSegment, ?write, ?writeSegment, ?timeout, ?ack, ?resend⟩
  case read =>
    intro hc hl hr
    subst hv
    exact congrArg _ (State.handleRead_of_passed hm hc hl hr)
  case overrun =>
    intro hb ho
    have hc := firstCode_accessChecks_of_busy s (mayRead o m.index.toNat m.sub.toNat) hb
    exact congrArg _ ((State.handleRead_of_fault hm (ho ▸ hc) (by decide)).trans (State.respond_of_overrun _ ho))
  case unknown =>
    intro hb ho hu
    have hc := firstCode_accessChecks_of_unknown s (mayRead o m.index.toNat m.sub.toNat) hb hu
    exact congrArg _ (State.handleRead_of_fault hm (ho ▸ hc) (by decide))
  case absent =>
    intro hb ho hu ha
    have hc := firstCode_accessChecks_of_absent s (mayRead o m.index.toNat m.sub.toNat) hb hu ha
    exact congrArg _ (State.handleRead_of_fault hm (ho ▸ hc) (by decide))
  case readSegment =>
    rintro hc hl hr _ rfl
    exact congrArg _ (State.handleReadSegment_of_passed hm hv hc hl hr)
  case write =>
    intro hc hl hbv hw r hr
    exact congrArg _ (State.handleWrite_of_passed hm hc hl hbv hw hr)
  case writeSegment =>
    intro hs hc hoff hlast
    exact congrArg _ (State.handleWriteSegment_begins hm hs hc hoff hlast)
  case timeout => exact fun x hx => execSegmentSessionTimeout_single hx
  case ack => rfl
  case resend =>
    rintro n hn hr _ rfl
    exact execNotifyResend_again hn hr

end Sys2Proof.Machine
end

section
/-! What operations do when they are taken, when they stand first and when they complete; what a doorbell and a consumer count do; what the boundaries of
a partition do (R12 to R42, R399, R456, R505, R527). -/

namespace Sys2Proof.Machine

open Sys2Proof

/-! ## Taking an operation -/

section Taking

variable {s s2 t : State} {k op c ix : Nat} {d : Descriptor} {run : RunOp} {st : FlightSt}

/-- A partition that may take its context's next operation consumes it and runs it (R16, R18, R20, R22). -/
theorem Taken.takeOp_eq (h : Taken s k op c ix d s2) (run : RunOp) :
    s.takeOp k op run = landed (run s2 c ix d).1 c ix d (run s2 c ix d).2 := by
  obtain ⟨turn, fetched, -, opcode, awake, rfl, rfl⟩ := h
  rcases hf : s.fetchOp c with ⟨s1, hit | d'⟩
  · simp [hf, Except.toOption] at fetched
  · obtain rfl : d' = d := by simpa [hf, Except.toOption] using fetched
    simp [State.takeOp, turn, hf, opcode, awake, landed]

/-- The same where the run is known. -/
theorem Taken.takeOp_eq_landed (h : Taken s k op c ix d s2) (hr : run s2 c ix d = (t, st)) : s.takeOp k op run = landed t c ix d st := by
  rw [h.takeOp_eq, hr]

end Taking

@[simp] theorem State.noteBoundary_mem (s : State) (c : Nat) (d : Descriptor) (st : FlightSt) : (s.noteBoundary c d st).mem = s.mem := by
  cases st <;> rfl

@[simp] theorem State.ctx_noteBoundary_host (s : State) (c : Nat) (d : Descriptor) (st : FlightSt) :
    ((s.noteBoundary c d st).ctx c).host = (s.ctx c).host := by
  cases st <;> simp [State.noteBoundary]

@[simp] theorem landed_mem (s : State) (c ix : Nat) (d : Descriptor) (st : FlightSt) : (landed s c ix d st).mem = s.mem := by
  simp [landed, State.setFlight]

@[simp] theorem ctx_landed_host (s : State) (c ix : Nat) (d : Descriptor) (st : FlightSt) : ((landed s c ix d st).ctx c).host = (s.ctx c).host := by
  simp [landed, State.setFlight]

/-- Each row of the table of operations names the opcode that its command takes and how it runs (R22). -/
theorem exec_operationRow {e : (Fin 8 → Instr) × Nat × RunOp} (he : e ∈ operationRows) (p : Fin 8) (s : State) :
    exec (e.1 p) s = .next (s.takeOp p e.2.1 e.2.2) := by
  simp only [operationRows, List.mem_cons, List.not_mem_nil, or_false] at he
  rcases he with rfl | rfl | rfl | rfl | rfl | rfl | rfl | rfl | rfl | rfl | rfl | rfl | rfl | rfl | rfl | rfl | rfl | rfl | rfl <;> rfl

/-- Settles O3: the row's command takes the operation, and what is taken runs. -/
theorem takenOperationRuns : Obligations.TakenOperationRuns := by
  unfold Obligations.TakenOperationRuns
  intro e he s s2 p c ix d h
  rw [exec_operationRow he, h.takeOp_eq]

/-! ## The plain operations as they are taken -/

section Plain

variable {s t : State} {c ix : Nat} {d : Descriptor}

/-- One access that was prepared for a context's sequencer was not refused (R225). -/
theorem Prepared.prep_eq {acc va n : Nat} (h : Prepared s c [(acc, va, n)] t) : s.prep c acc va n = (t, none) := by
  have hall : s.prepAllAt (s.seqAgent c) c [(acc, va, n)] = (t, none) := h
  rcases hp : s.prepAt (s.seqAgent c) c acc va n with ⟨s1, _ | hit⟩
  · simpa [State.prep, State.prepAllAt, hp] using hall
  · simp [State.prepAllAt, hp] at hall

theorem runZero_of_prepared (hc : (headerCheck d zeroFields).orElse (badField [badAddr d 128 1, badLength d 192]) = none)
    (hp : PreparedOp s c (zeroParts (fld d 128 191) (fld d 192 255)) t) :
    runZero s c ix d = ended ((zeroParts (fld d 128 191) (fld d 192 255)).foldl (fun u q => u.zeroPart c q) t) (endWith 0 0) := by
  have hall : s.prepAll c (zeroParts (fld d 128 191) (fld d 192 255)) = (t, none) := hp
  simp [runZero, hc, hall]

theorem runCopy_of_prepared (hc : copyCheck s c d = none) (hf : flag d 320 = false)
    (hp : PreparedOp s c [(accRead, fld d 128 191, fld d 256 319), (accWrite, fld d 192 255, fld d 256 319)] t) :
    runCopy s c ix d = ended (t.outV c (fld d 192 255) (t.rdV c (fld d 128 191) (fld d 256 319))) (endWith 0 0) := by
  have hall : s.prepAll c [(accRead, fld d 128 191, fld d 256 319), (accWrite, fld d 192 255, fld d 256 319)] = (t, none) := hp
  simp [runCopy, hc, hf, hall]

/-- The egress sequence that the next batch of a context gets (R353). -/
def nextSeq (x : Ctx) : Nat := x.host.egressWritten + x.host.batches.countP (fun b => b.st == .waiting) + 1

/-- An egress `COPY` becomes a batch that waits (R353). -/
theorem runCopy_of_egress (hc : copyCheck s c d = none) (hf : flag d 320 = true) :
    runCopy s c ix d = (s.updCtx c fun y => { y with host := { y.host with
      batches := y.host.batches ++ [⟨nextSeq (s.ctx c), fld d 192 255, fld d 256 319, ix, fld d 128 191, .waiting⟩] } }, .egress (nextSeq (s.ctx c))) := by
  simp [runCopy, hc, hf, nextSeq]

theorem runFence_of_passed (hc : headerCheck d [(128, 128), (129, 129), (130, 130), (131, 131)] = none) :
    runFence s c ix d = (if flag d 130 && !s.host.detached then
      { s with host := { s.host with fenceReads := s.host.fenceReads ++ [(c, s.now)] } } else s, .atHead) := by
  simp [runFence, hc]

theorem runEve_of_passed {k : Nat} (hc : (headerCheck d [(128, 191), (192, 192)]).orElse (badField [badAddr d 128 64]) = none)
    (hk : s.holdsPart c = some k) :
    runEve s c ix d = ((s.updPart k fun q => { q with phase := .draining, drain := .eve, drainFrom := s.now, intervalFrom := none }).updCtx c
      fun x => { x with yielded := flag d 192 }, .eve s.now none) := by
  simp [runEve, hc, hk]

theorem runSignal_of_passed (hc : (headerCheck d [(128, 191), (192, 255), (256, 257), (258, 258), (272, 284)]).orElse
    (badField [badAddr d 128 8, (fld d 256 257 == 3, 256)]) = none) : runSignal s c ix d = (s, .atHead) := by
  simp [runSignal, hc]

theorem runTimestamp_of_passed (hc : (headerCheck d [(128, 191)]).orElse (badField [badAddr d 128 16]) = none) :
    runTimestamp s c ix d = (s, .atHead) := by
  simp [runTimestamp, hc]

end Plain

section Waits

variable {s t : State} {c ix : Nat} {d : Descriptor} (hp : Prepared s c [(accRead, fld d 128 191, 8)] t) (dl : Option Nat)
include hp

/-- An evaluation of a `WAIT` whose condition holds ends it (R27). -/
theorem State.tryWait_of_holds (hw : waitHolds (fld d 256 257) (t.rdVNat c (fld d 128 191) 8) (fld d 192 255) = true) :
    s.tryWait c ix d dl = ended (t.unpark c) (endWith 0 0) := by
  simp [State.tryWait, State.evalWait, hp.prep_eq, hw]

/-- An evaluation of a `WAIT` whose condition does not hold parks the context at a boundary position, and waits (R27). -/
theorem State.tryWait_of_not_holds (hw : waitHolds (fld d 256 257) (t.rdVNat c (fld d 128 191) 8) (fld d 192 255) = false) :
    s.tryWait c ix d dl = (if (t.ctx c).atBoundary then t.park c else t, .waiting dl) := by
  simp [State.tryWait, State.evalWait, hp.prep_eq, hw]

end Waits

theorem runWait_of_passed {s : State} {c ix : Nat} {d : Descriptor}
    (hc : (headerCheck d [(128, 191), (192, 255), (256, 257), (288, 319)]).orElse
      (badField [badAddr d 128 8, (fld d 256 257 == 3, 256)]) = none) :
    runWait s c ix d = s.tryWait c ix d (if fld d 288 319 = 0 then none else some (s.now + 1000 * fld d 288 319)) := by
  simp [runWait, hc]

/-- Settles O5: each clause is the taking of the operation with the lemma above about its run. -/
theorem plainOperationsRun : Obligations.PlainOperationsRun := by
  unfold Obligations.PlainOperationsRun
  intro s s2 s3 p c ix d
  refine ⟨?zero, ?copy, ?egress, ?fence, ?eve, ?wait, ?signal, ?timestamp⟩
  case zero => exact fun h hc hp => congrArg _ (h.takeOp_eq_landed (runZero_of_prepared hc hp))
  case copy => exact fun h hc hf hp => congrArg _ (h.takeOp_eq_landed (runCopy_of_prepared hc hf hp))
  case egress =>
    intro h hc hf
    exact ⟨_, congrArg Host.Outcome.next (h.takeOp_eq_landed (runCopy_of_egress hc hf)), nextSeq (s2.ctx c), by simp, by simp⟩
  case fence => exact fun h hc => congrArg _ (h.takeOp_eq_landed (runFence_of_passed hc))
  case eve => exact fun h hc hk => congrArg _ (h.takeOp_eq_landed (runEve_of_passed hc hk))
  case wait =>
    intro h hc hp
    refine congrArg Host.Outcome.next ?_
    split
    next hw => exact h.takeOp_eq_landed ((runWait_of_passed hc).trans (State.tryWait_of_holds hp _ hw))
    next hw => exact h.takeOp_eq_landed ((runWait_of_passed hc).trans (State.tryWait_of_not_holds hp _ (by simpa using hw)))
  case signal => exact fun h hc => congrArg _ (h.takeOp_eq_landed (runSignal_of_passed hc))
  case timestamp => exact fun h hc => congrArg _ (h.takeOp_eq_landed (runTimestamp_of_passed hc))

/-! ## Operations that stand first -/

section Acts

variable {s t : State} {c ix : Nat} {d : Descriptor}

/-- The update of a `SIGNAL`, atomic, with its interrupt (R23, R25). -/
theorem State.actSignal_of_prepared (hp : Prepared s c [(accAtomic, fld d 128 191, 8)] t) :
    s.actSignal c ix d =
      ended (let u := t.wrV c (fld d 128 191) (leBytes (signalNew (fld d 256 257) (t.rdVNat c (fld d 128 191) 8) (fld d 192 255)) 8)
        if flag d 258 then u.raise (fld d 272 284) else u) (endWith 0 0) := by
  simp [State.actSignal, hp.prep_eq]

/-- The record of a `TIMESTAMP` (R23, R25). -/
theorem State.actTimestamp_of_prepared (hp : Prepared s c [(accWrite, fld d 128 191, 16)] t) :
    s.actTimestamp c ix d =
      ended (t.wrV c (fld d 128 191) (leBytes (s.now % 2 ^ 64 + ix % 2 ^ 64 * 2 ^ 64) 16)) (endWith 0 0) := by
  simp [State.actTimestamp, hp.prep_eq]

end Acts

section Head

variable {s t : State} {c : Fin 4096} {f : Flight} {fs : List Flight} {r : OpResult}
  (hpow : s.powered = true) (hf : (s.ctx c).flights = f :: fs) (hrec : (s.ctx c).records = [])
include hpow hf hrec

/-- An operation that stands with its result completes (R19). -/
theorem execOperationCompletion_of_done (hst : f.st = .done r) : execOperationCompletion c s = .next (s.complete c f r) := by
  simp [execOperationCompletion, hf, hrec, hpow, hst]

/-- An operation that acts at the head and ends there completes (R19, R25). -/
theorem execOperationCompletion_of_ended (hst : f.st = .atHead) (ha : s.actAtHead c f = ended t r) :
    execOperationCompletion c s = .next (t.complete c f r) := by
  simp [execOperationCompletion, hf, hrec, hpow, hst, ha, ended]

end Head

/-- A result carries a flag only with status `OK_FLAGGED` (R29). -/
theorem flagged_status (spread overflow : Bool) (n sl : Nat) :
    (flagged spread overflow n sl).status = if spread || overflow then 1 else 0 := by
  unfold flagged; split <;> rfl

theorem flagged_flags (spread overflow : Bool) (n sl : Nat) :
    (flagged spread overflow n sl).spread = spread ∧ (flagged spread overflow n sl).overflow = overflow := by
  unfold flagged
  split
  next => exact ⟨rfl, rfl⟩
  next h =>
    obtain ⟨hs, ho⟩ : spread = false ∧ overflow = false := by simpa using h
    exact ⟨hs.symm, ho.symm⟩

/-- Settles O6: what acts at the head ends there and completes. -/
theorem signalActsAtTheHead : Obligations.SignalActsAtTheHead := by
  unfold Obligations.SignalActsAtTheHead
  refine ⟨?head, ?flags⟩
  case head =>
    intro s s1 c f r hpow hf hst hrec
    refine ⟨fun hop hp => ?signal, fun hop hp => ?timestamp⟩
    case signal =>
      have ha : s.actAtHead c f = s.actSignal c f.opIndex f.desc := by simp [State.actAtHead, hop]
      exact execOperationCompletion_of_ended hpow hf hrec hst (ha.trans (State.actSignal_of_prepared hp))
    case timestamp =>
      have ha : s.actAtHead c f = s.actTimestamp c f.opIndex f.desc := by simp [State.actAtHead, hop]
      exact execOperationCompletion_of_ended hpow hf hrec hst (ha.trans (State.actTimestamp_of_prepared hp))
  case flags =>
    rintro spread overflow n sl r rfl
    obtain ⟨hs, ho⟩ := flagged_flags spread overflow n sl
    rw [flagged_status, hs, ho]
    cases spread <;> cases overflow <;> decide

/-! ## Doorbells and consumer counts -/

theorem State.whenPowered_of_powered {s : State} (f : State → State) (h : s.powered = true) : s.whenPowered f = .next (f s) := by
  simp [State.whenPowered, h]

/-- While the domains are gated or stopped a write does nothing (R409). -/
theorem State.whenPowered_of_not_powered {s : State} (f : State → State) (h : s.powered = false) : s.whenPowered f = .next s := by
  simp [State.whenPowered, h]

section Bells

variable {s : State} {c : Nat} {v : W32}

/-- A doorbell of a FREE context counts an access error (R469). -/
theorem State.ringBell_of_free (h : (s.ctx c).st = .free) :
    s.ringBell c v = { s with fq := { s.fq with accessErrors := satInc 32 s.fq.accessErrors } } := by
  simp [State.ringBell, h]

/-- A doorbell that the context's state or grant does not take is counted and ignored (R12, R16). -/
theorem State.ringBell_of_ignored (hfree : (s.ctx c).st ≠ .free)
    (h : granted (s.ctx c) = true ∨ (s.ctx c).st = .killed ∨ ((s.ctx c).st = .stopped ∧ qLog2 (s.ctx c) = 0)) :
    s.ringBell c v = s.updCtx c fun y => { y with cnt := { y.cnt with doorbellsIgnored := satInc 16 y.cnt.doorbellsIgnored } } := by
  simp [State.ringBell, hfree, or_assoc, h]

section Heard

variable (hfree : (s.ctx c).st ≠ .free) (hgrant : granted (s.ctx c) = false) (hkill : (s.ctx c).st ≠ .killed)
  (hring : ¬((s.ctx c).st = .stopped ∧ qLog2 (s.ctx c) = 0))
include hfree hgrant hkill hring

/-- A doorbell within the ring is the new producer count (R16). -/
theorem State.ringBell_of_good (hb : bellBad (s.ctx c) v = false) :
    s.ringBell c v = s.updCtx c fun y => { y with cnt := { y.cnt with queueProducer := v } } := by
  simp [State.ringBell, hfree, hgrant, hkill, hring, hb]

/-- A doorbell that moves the count backwards or past the ring halts the context (R17). -/
theorem State.ringBell_of_bad (hb : bellBad (s.ctx c) v = true) : s.ringBell c v = s.haltRecord c 0x0106 v.toNat := by
  simp [State.ringBell, hfree, hgrant, hkill, hring, hb]

end Heard

theorem State.freeRecords_of_free (h : (s.ctx c).st = .free) : s.freeRecords c v = s := by
  simp [State.freeRecords, h]

/-- A consumer count up to what was produced is taken, and then what waited for a slot is written (R18, R472). -/
theorem State.freeRecords_of_within (hfree : (s.ctx c).st ≠ .free)
    (h : w32Diff v (s.ctx c).cnt.complConsumed ≤ w32Diff (s.ctx c).cnt.complProduced (s.ctx c).cnt.complConsumed) :
    s.freeRecords c v = (s.updCtx c fun y => { y with cnt := { y.cnt with complConsumed := v } }).writeWaiting c := by
  simp [State.freeRecords, hfree, Nat.not_lt.mpr h]

/-- A consumer count past the producer is refused and counted (R472). -/
theorem State.freeRecords_of_past (hfree : (s.ctx c).st ≠ .free)
    (h : w32Diff (s.ctx c).cnt.complProduced (s.ctx c).cnt.complConsumed < w32Diff v (s.ctx c).cnt.complConsumed) :
    s.freeRecords c v = s.updCtx c fun y => { y with cnt := { y.cnt with writesRefused := satInc 16 y.cnt.writesRefused } } := by
  simp [State.freeRecords, hfree, h]

end Bells

/-- Settles O8: both writes pass the gate of R409, and then the lemmas above say what each does. -/
theorem doorbellsAndConsumerCounts : Obligations.DoorbellsAndConsumerCounts := by
  unfold Obligations.DoorbellsAndConsumerCounts
  have hbell (s : State) (c : Fin 4096) (v : BitVec 32) : exec (.doorbell c v) s = s.whenPowered fun t => t.ringBell c v := rfl
  have hcount (s : State) (c : Fin 4096) (v : BitVec 32) : exec (.complConsumedWrite c v) s = s.whenPowered fun t => t.freeRecords c v := rfl
  refine ⟨fun s c v hpow => ?gated, fun s c v hpow => ?_⟩
  case gated =>
    rw [hbell, hcount]
    exact ⟨State.whenPowered_of_not_powered _ hpow, State.whenPowered_of_not_powered _ hpow⟩
  rw [hbell, hcount, State.whenPowered_of_powered _ hpow, State.whenPowered_of_powered _ hpow]
  refine ⟨fun hfree hgrant hkill hring => ⟨?good, ?bad⟩, ?ignored, fun hfree => ⟨?freeBell, ?freeCount⟩, fun hfree => ⟨?within, ?past⟩⟩
  case good => exact fun hb => congrArg _ (State.ringBell_of_good hfree hgrant hkill hring hb)
  case bad => exact fun hb => congrArg _ (State.ringBell_of_bad hfree hgrant hkill hring hb)
  case ignored => exact fun hfree h => congrArg _ (State.ringBell_of_ignored hfree h)
  case freeBell => exact congrArg _ (State.ringBell_of_free hfree)
  case freeCount => exact congrArg _ (State.freeRecords_of_free hfree)
  case within => exact fun h => congrArg _ (State.freeRecords_of_within hfree h)
  case past => exact fun h => congrArg _ (State.freeRecords_of_past hfree h)

/-! ## What follows a taken operation -/

section Recorded

variable {s t : State} {c : Nat}

/-- The oldest record that waits is written where it can be, and then those behind it (R17, R295). -/
theorem State.writeEach_of_written {w : WaitingRecord} {ws : List WaitingRecord} (hfl : (s.ctx c).flights = []) (hrec : (s.ctx c).records = [])
    (hsp : complSpace (s.ctx c) = true) (hwait : s.recordsWait c = false)
    (hw : s.writeRecord c (recordWord (s.ctx c).cnt.nextOp 0 w.status 0 (endWith w.status w.detail) (s.ctx c).cnt.eveCount.toNat) = (t, none)) :
    s.writeEach c (w :: ws) = t.writeEach c ws := by
  simp [State.writeEach, hfl, hrec, hsp, hwait, hw]

section Waiting

variable {f : Flight} {fs : List Flight} {dl : Option Nat} (hf : (s.ctx c).flights = f :: fs) (hst : f.st = .waiting dl)
include hf hst

theorem waitingFlight_of_waiting : waitingFlight (s.ctx c) = some (f, dl) := by simp [waitingFlight, hf, hst]

theorem waitStalls_of_waiting : waitStalls (s.ctx c) = false := by simp [waitStalls, hf, hst]

/-- A `WAIT` that waits is evaluated again, its deadline as it was (R27). -/
theorem State.reevaluate_of_tried {st : FlightSt} (ht : s.tryWait c f.opIndex f.desc dl = (t, st)) : s.reevaluate c = t.setFlight c f.opIndex st := by
  simp [State.reevaluate, waitingFlight_of_waiting hf hst, ht]

end Waiting

end Recorded

section Timed

variable {s : State} {c : Fin 4096} {f : Flight} {fs : List Flight}

/-- A `WAIT` that waits is not stalled, so that `WAIT_REEVALUATE` evaluates it (R27, R295). -/
theorem execWaitReevaluate_of_waiting {dl : Option Nat} (hf : (s.ctx c).flights = f :: fs)
    (hst : f.st = .waiting dl) : execWaitReevaluate c s = .next (s.reevaluate c) := by
  simp [execWaitReevaluate, waitStalls_of_waiting hf hst]

/-- A `WAIT` whose deadline passes ends with 0x0413 (R27). -/
theorem execWaitTimeout_of_deadline {n : Nat} (hf : (s.ctx c).flights = f :: fs)
    (hst : f.st = .waiting (some n)) : execWaitTimeout c s = .next ((s.advance n).setFlight c f.opIndex (.done (endWith 0x0413 0))) := by
  simp [execWaitTimeout, waitingFlight_of_waiting hf hst]

end Timed

section Seats

variable {s : State} {p : Fin 8} {c : Nat}

/-- An idle partition seats the context that is chosen (R42). -/
theorem execIdlePartitionChoose_of_chosen (hex : s.partExists p = true) (hseq : s.seqLive p = true) (hph : (s.part p).phase = .idle)
    (htake : s.taking = true) (hc : (s.choose p).2 = some c) : execIdlePartitionChoose p s = .next ((s.choose p).1.seat p (some c)) := by
  simp [execIdlePartitionChoose, hex, hseq, hph, htake, hc]

/-- The Eve interval of a running partition passes its next 50 ms (R37). -/
theorem execEveOverdue_of_running {n : Nat} (hrun : (s.part p).running = some c) (hint : (s.part p).intervalFrom = some n)
    (hph : (s.part p).phase = .running) (hlive : s.live = true) :
    execEveOverdue p s = .next (((s.advance (n + 50000000 * ((s.part p).overdue + 1))).updPart p
      fun y => { y with overdue := y.overdue + 1 }).postNotice c 0x0C01 0) := by
  simp [execEveOverdue, hrun, hint, hph, hlive]

end Seats

/-- Settles O9: each clause is the lemma above about its event; a `WAIT` is split on its condition. -/
theorem contractEventsComplete : Obligations.ContractEventsComplete := by
  unfold Obligations.ContractEventsComplete
  refine ⟨?completion, ?record, fun s s1 c f fs dl hf hst => ⟨fun hp => ?reevaluate, ?timeout⟩, ?choose, ?overdue⟩
  case completion => exact fun s c f fs r hf hst hpow hrec => execOperationCompletion_of_done hpow hf hrec hst
  case record =>
    intro s s1 c w ws hw hfl hrec hsp hwait hwr
    have hall : s.writeWaiting c = s1.writeEach c ws := by
      rw [State.writeWaiting, hw, State.writeEach_of_written hfl hrec hsp hwait hwr]
    exact congrArg _ hall
  case reevaluate =>
    refine (execWaitReevaluate_of_waiting hf hst).trans (congrArg _ ?_)
    split
    next hw => exact State.reevaluate_of_tried hf hst (State.tryWait_of_holds hp dl hw)
    next hw => exact State.reevaluate_of_tried hf hst (State.tryWait_of_not_holds hp dl (by simpa using hw))
  case timeout =>
    rintro n rfl
    exact execWaitTimeout_of_deadline hf hst
  case choose => exact fun s p c hex hseq hph htake hc => execIdlePartitionChoose_of_chosen hex hseq hph htake hc
  case overdue => exact fun s p c n hrun hint hph hlive => execEveOverdue_of_running hrun hint hph hlive

/-! ## The boundaries of a partition -/

/-- The context that gave a partition up is charged for the array time of the drain (R42, R527). -/
def State.chargeHolder (s : State) (k ns : Nat) : State :=
  match (s.part k).running with
  | some c => (s.charge c ns).updCtx c fun x => { x with cnt := { x.cnt with eveArrayNs := x.cnt.eveArrayNs + ns } }
  | none => s

/-- The state in which the idle inserted in a partition has ended and is counted, at an average power of `w` (R399). -/
def State.endIdle (s : State) (k w : Nat) : State :=
  ((s.advance (s.part k).idleUntil).countSpan (20 + k) 0x407 0 (s.part k).running ((s.part k).idleUntil - (s.part k).lastLatch)).updPart k
    fun y => { y with idleUntil := 0, idleAvgW := some w, phase := .draining }

section Drains

variable {s : State} {p : Fin 8} (m : LatchMeasure) (hph : (s.part p).phase = .draining) (hd : s.drained p = true)
include hph hd

/-- The drain of a release point is over: the steps of a latch point without an Eve (R527). -/
theorem execReleasePoint_of_drained (hdr : (s.part p).drain = .release) :
    execReleasePoint p m s = .next (((s.chargeHolder p m.arrayNs).latchSteps p none m).1.afterLatch p) :=
  if_pos ⟨hph, hdr, hd⟩

/-- The quiesce drain is over: the steps of a latch point without an Eve (R505). -/
theorem execQuiesceDrain_of_drained (hdr : (s.part p).drain = .quiesce) :
    execQuiesceDrain p m s = .next ((s.latchSteps p none m).1.afterLatch p) :=
  if_pos ⟨hph, hdr, hd⟩

end Drains

section Idle

variable {s : State} {p : Fin 8} {c : Nat} (w : Nat) (hph : (s.part p).phase = .idleInserted)
include hph

/-- The inserted idle of a partition that no context holds ends (R399). -/
theorem execDutyCycleIdleEnd_of_unheld (hrun : (s.part p).running = none) :
    execDutyCycleIdleEnd p w s = .next ((s.endIdle p w).seatNext p true) := by
  simp only [execDutyCycleIdleEnd, State.endIdle, hph, hrun, if_true]

/-- The inserted idle of a partition whose context has no Eve ends (R399). -/
theorem execDutyCycleIdleEnd_of_noEve (hrun : (s.part p).running = some c) (he : eveFlight ((s.endIdle p w).ctx c) = none) :
    execDutyCycleIdleEnd p w s = .next ((s.endIdle p w).seatNext p false) := by
  simp only [State.endIdle, hrun] at he
  simp only [execDutyCycleIdleEnd, State.endIdle, hph, hrun, he, if_true]

/-- The inserted idle before the record of an Eve ends: the Eve completes unless records wait before it (R295, R399). -/
theorem execDutyCycleIdleEnd_of_eve {f : Flight} (hrun : (s.part p).running = some c) (he : eveFlight ((s.endIdle p w).ctx c) = some f) :
    execDutyCycleIdleEnd p w s =
      .next (if ((s.endIdle p w).ctx c).records = [] then (s.endIdle p w).completeEve p c f else s.endIdle p w) := by
  simp only [State.endIdle, hrun] at he
  simp only [execDutyCycleIdleEnd, State.endIdle, hph, hrun, he, if_true, List.isEmpty_iff]
  split <;> rfl

end Idle

/-- A change of layout that every touched partition has reached takes effect (R57). -/
theorem execLayoutChange_of_reached {s : State} (hdue : s.dev.layoutDue = true) (hany : s.anyTouched = true) (hall : s.allReached = true) :
    execLayoutChange s = .next s.changeLayout := by
  simp [execLayoutChange, hdue, hany, hall]

/-- A tick while the device is on moves device time to the next boundary and performs what falls there (R38 to R40, R456). -/
theorem execTickBoundary_of_on {s : State} (m : TickMeasure) (hup : s.dev.aoUp = true) (hon : s.dev.state ≠ .off) :
    execTickBoundary m s = .next
      ((List.range 28).foldl (fun t b => t.mirrorBlock b)
        ((List.range 8).foldl (fun t k => t.tickPart k (m.parts.getD k noMeasure))
          (((s.advance (nextTick s.now)).tickSettings m).tickStragglers.tickParade)).tickLayout) := by
  have hgo : ¬(!(s.advance (nextTick s.now)).dev.aoUp || (s.advance (nextTick s.now)).dev.state == .off) = true := by simp [hup, hon]
  exact if_neg hgo

/-- Settles O11: each clause is the lemma above about its boundary; the end of inserted idle is split on the holder and its Eve. -/
theorem boundariesComplete : Obligations.BoundariesComplete := by
  unfold Obligations.BoundariesComplete
  refine ⟨?eve, ?release, ?quiesce, ?idle, ?layout, ?tick⟩
  case eve =>
    intro s s1 p m c a l f hready hclose
    refine ⟨_, ?_, _, _, _, rfl, rfl, rfl, rfl⟩
    change execEveLatchPoint p m s = _
    simp only [execEveLatchPoint, hready, hclose]
  case release => exact fun s p m hph hdr hd => execReleasePoint_of_drained m hph hd hdr
  case quiesce => exact fun s p m hph hdr hd => execQuiesceDrain_of_drained m hph hd hdr
  case idle =>
    intro s p w hph
    cases hrun : (s.part p).running with
    | none => exact ⟨_, execDutyCycleIdleEnd_of_unheld w hph hrun, s.endIdle p w, by rw [State.endIdle, hrun], fun _ => rfl, nofun⟩
    | some c =>
      cases he : eveFlight ((s.endIdle p w).ctx c) with
      | none =>
        refine ⟨_, execDutyCycleIdleEnd_of_noEve w hph hrun he, s.endIdle p w, by rw [State.endIdle, hrun], nofun, ?_⟩
        rintro _ ⟨⟩
        exact ⟨fun _ => rfl, fun f hf => by simp [he] at hf⟩
      | some f =>
        refine ⟨_, execDutyCycleIdleEnd_of_eve w hph hrun he, s.endIdle p w, by rw [State.endIdle, hrun], nofun, ?_⟩
        rintro _ ⟨⟩
        refine ⟨fun hn => by simp [he] at hn, fun g hg hrec => ?_⟩
        obtain rfl : f = g := by simpa [he] using hg
        exact if_pos hrec
  case layout => exact fun s hdue hany hall => execLayoutChange_of_reached hdue hany hall
  case tick => exact fun s m hup hon => execTickBoundary_of_on m hup hon

end Sys2Proof.Machine
end

section
/-! What the array, kernel, stream, collective and Almanac operations do when they are taken: all of an operation's reads are made there, a KERNEL's
arguments among them, and so are the writes of one that computes (R64 to R73, R114, R121, R136, R142, R143, R159, R160, R204, R328; logs 43 and 119). -/

namespace Sys2Proof.Machine

open Sys2Proof

@[simp] theorem State.noteBoundary_coh (s : State) (c : Nat) (d : Descriptor) (st : FlightSt) : (s.noteBoundary c d st).coh = s.coh := by
  cases st <;> rfl

@[simp] theorem State.noteBoundary_out (s : State) (c : Nat) (d : Descriptor) (st : FlightSt) : (s.noteBoundary c d st).out = s.out := by
  cases st <;> rfl

@[simp] theorem landed_coh (s : State) (c ix : Nat) (d : Descriptor) (st : FlightSt) : (landed s c ix d st).coh = s.coh := by
  simp [landed]

@[simp] theorem landed_out (s : State) (c ix : Nat) (d : Descriptor) (st : FlightSt) : (landed s c ix d st).out = s.out := by
  simp [landed]

/-- Where the first check passes, the second one decides (R22). -/
@[simp] theorem Reject.orElse_of_none (r : Reject) : Reject.orElse none r = r := rfl

/-- The three commands for products run alike (R70 to R72). -/
theorem exec_productRow {e : (Fin 8 → Instr) × Nat} (he : e ∈ ([(.matmul, 1), (.batchedMatmul, 2), (.raggedMatmul, 3)] : List ((Fin 8 → Instr) × Nat)))
    (p : Fin 8) (s : State) : exec (e.1 p) s = .next (s.takeOp p e.2 runProduct) := by
  simp only [List.mem_cons, List.not_mem_nil, or_false] at he
  rcases he with rfl | rfl | rfl <;> rfl

section Runs

variable {s t u : State} {c ix : Nat} {d : Descriptor}

/-- The accesses of an operation that were prepared for it were not refused (R225, R236). -/
theorem PreparedOp.prepAll_eq {l : List (Nat × Nat × Nat)} (h : PreparedOp s c l t) : s.prepAll c l = (t, none) := h

/-- The same for the accesses that one agent makes. -/
theorem PreparedBy.prepAllAt_eq {a : Nat} {l : List (Nat × Nat × Nat)} (h : PreparedBy s a c l t) : s.prepAllAt a c l = (t, none) := h

/-! ### Array operations -/

/-- A product whose formats and signature pass computes its jobs and writes them (R64, R67, R83). -/
theorem State.prodRun_of_prepared (hm : Machine.mismatch (pAFmt d) (pBFmt d) = none) (hpin : s.pinFails c d (prodSig d) = false)
    (hp : PreparedOp s c (prodExtents (s.ctx c) d (s.prodJobs c d)) t) :
    s.prodRun c ix d = (t.useSig c d (prodSig d) (prodBlocks d (s.prodJobs c d))).prodWrite c d (s.prodJobs c d) := by
  simp [State.prodRun, hm, hpin, hp.prepAll_eq]

/-- A product without a sequence table runs once its descriptor passes (R70, R71). -/
theorem runProduct_of_plain (hc : (headerCheck d (prodFields (dOpcode d))).orElse (prodBadField d) = none) (hop : dOpcode d ≠ 3) :
    runProduct s c ix d = s.prodRun c ix d := by
  simp [runProduct, hc, hop]

/-- A ragged product reads its sequence table and checks it before it runs (R72). -/
theorem runProduct_of_ragged (hc : (headerCheck d (prodFields (dOpcode d))).orElse (prodBadField d) = none) (hop : dOpcode d = 3)
    (hp : Prepared s c [(accRead, fld d 1632 1695, 8 * fld d 1696 1708)] t)
    (hr : rangesOk (pM d) (t.seqEntries c (fld d 1632 1695) (fld d 1696 1708)) = true) : runProduct s c ix d = t.prodRun c ix d := by
  rw [hop] at hc
  simp [runProduct, hc, hop, hp.prep_eq, hr]

/-- `ATTENTION` reads its sequence table, then its operands, and writes its outputs (R73). -/
theorem runAttention_of_prepared (hc : (headerCheck d attnFields).orElse (attnBadField d) = none)
    (hq : Prepared s c [(accRead, fld d 704 767, 16 * fld d 768 780)] t)
    (hr : rangesOk (2 ^ 33) ((t.attnSeqs c d).map fun q => (q.qOff, q.qLen)) = true)
    (hm : mismatch (tQFmt d) (fld d 792 799) = none) (hpin : t.pinFails c d (attnSig d) = false)
    (hp : PreparedOp t c ((t.attnSeqs c d).flatMap (attnExtents d)) u) :
    runAttention s c ix d = (u.useSig c d (attnSig d) (attnBlocks d)).attnWrite c d (t.attnSeqs c d) := by
  simp only [runAttention, hc, hq.prep_eq, hr, hm, hpin, hp.prepAll_eq, Reject.orElse_of_none, Bool.not_true, Bool.false_eq_true, if_false]

theorem runConvert_of_prepared (hc : (headerCheck d convFields).orElse (convBadField d) = none)
    (hp : PreparedOp s c (convExtents (s.ctx c) d) t) : runConvert s c ix d = t.convWrite c d := by
  simp [runConvert, hc, hp.prepAll_eq]

section Update

variable (hc : (headerCheck d updFields).orElse (updBadField d) = none) (hmode : (uMaster d == cFp64) = (pol (s.ctx c) 0 0 == 1))
  (hp : PreparedOp s c (updReads (s.ctx c) d) t)
include hc hmode hp

/-- An `UPDATE` without an Almanac is never held: it writes its tensors (R121, R136). -/
theorem runUpdate_of_no_almanac {l : List UpdElem} (hl : l = (t.updElems c d).flatMap id) (hper : polPeriod (s.ctx c) = 0)
    (hw : PreparedOp t c (updWrites d) u) {w : State × Tally} (hwr : w = u.updWrite c d (t.updElems c d)) :
    runUpdate s c ix d = (w.1, .computed (w.2.result 0) { afterTally (s.ctx c) w.2 with
      gradNonfinite := l.countP UpdElem.nonfinite, ratioHigh := false, update := some (false, swOf l, sdwOf l), events := [] }) := by
  subst hl hwr
  simp [runUpdate, hc, hmode, hp.prepAll_eq, hper, hw.prepAll_eq]

/-- An `UPDATE` whose Almanac holds those with gradients that are not finite ends without a write (R136). -/
theorem runUpdate_of_held (hper : polPeriod (s.ctx c) ≠ 0) (hpol : pol (s.ctx c) 24 24 = 1)
    (hnf : ((t.updElems c d).flatMap id).countP UpdElem.nonfinite ≠ 0) :
    ∃ a, runUpdate s c ix d = (t, .computed (endWith 0 0) a) := by
  simp only [runUpdate, hc, hmode, hp.prepAll_eq, bne_self_eq_false, Bool.false_eq_true, if_false, Reject.orElse_of_none]
  rw [if_pos (by simp only [bne_iff_ne.mpr hper, bne_iff_ne.mpr hnf, hpol, beq_self_eq_true, Bool.and_self, Bool.or_true])]
  exact ⟨_, rfl⟩

end Update

/-! ### Launches, streams and collectives -/

/-- An `ELEMENTWISE` starts blocks of 64 elements (R160). -/
theorem runElementwise_of_prepared (hc : (headerCheck d (elemFields d)).orElse (elemBadField d) = none)
    (hcode : Prepared s c [(accCode, fld d 128 191, 8 * fld d 192 207)] t) (hok : codeOk (fld d 216 223) true (t.readCode c d) = true)
    (hp : PreparedOp t c (elemExtents d) u) :
    runElementwise s c ix d = u.startLaunch ⟨c, ix, d, t.readCode c d, 0, (eRows d * eCols d + 63) / 64, true, [], []⟩ := by
  simp [runElementwise, hc, hcode.prep_eq, hok, hp.prepAll_eq]

/-- A `KERNEL` starts its blocks with the arguments that it reads, or with zeros where it names none (R159). -/
theorem runKernel_of_prepared (hc : (headerCheck d kernelFields).orElse (kernelBadField d) = none)
    (hcode : Prepared s c [(accCode, fld d 128 191, 8 * fld d 192 207)] t) (hok : codeOk (fld d 208 215) false (t.readCode c d) = true)
    (hnone : fld d 256 319 = 0 → u = t) (hsome : fld d 256 319 ≠ 0 → Prepared t c [(accRead, fld d 256 319, 128)] u) :
    runKernel s c ix d = u.startLaunch ⟨c, ix, d, t.readCode c d, 0, fld d 320 351 * fld d 352 367 * fld d 368 383, false,
      if fld d 256 319 = 0 then List.replicate 16 0 else (List.range 16).map fun i => BitVec.ofNat 64 (u.rdVNat c (fld d 256 319 + 8 * i) 8), []⟩ := by
  by_cases harg : fld d 256 319 = 0
  · obtain rfl := hnone harg
    simp [runKernel, hc, hcode.prep_eq, hok, harg]
  · simp [runKernel, hc, hcode.prep_eq, hok, harg, (hsome harg).prep_eq]

/-- A `STREAM` whose program passes waits while the units of its partition are busy, and else starts on them (R204, R205). -/
theorem runStream_of_prepared {k n : Nat} {ws : List W64} (hk : k = s.partOfCtx c) (hn : n = if fld d 192 196 = 0 then 32 else fld d 192 196)
    (hc : (headerCheck d streamFields).orElse (streamBadField d (s.stacks k).length) = none)
    (hp : Prepared s c [(accCode, fld d 128 191, 8 * n)] t)
    (hws : ws = (List.range n).map fun i => BitVec.ofNat 64 (t.rdVNat c (fld d 128 191 + 8 * i) 8)) (hok : progOk (streamEps d) ws = true)
    (hjob : ((streamEps d).any (fun e => epKind e == 3) && !s.jobComplete c) = false) :
    runStream s c ix d = if t.streamsBusy k then (t, .streamWait) else t.startStream c ix k d ws := by
  subst hk hn hws
  simp only [runStream, hc, hp.prep_eq, hok, hjob, Bool.not_true, Bool.false_eq_true, if_false]

/-- A `COLLECTIVE` reads its members and arrives (R328). -/
theorem runCollective_of_prepared {ms : List W64} {n : Nat} (hc : (headerCheck d collFields).orElse (collBadField d) = none)
    (hp : PreparedOp s c [(accRead, fld d 256 319, 8 * kRanks d)] t)
    (hms : ms = (List.range (kRanks d)).map fun i => BitVec.ofNat 64 (t.rdVNat c (fld d 256 319 + 8 * i) 8))
    (hn : n = rowBytes (kFmt d) (sendCount d (kRank d))) (hmem : membersBad t c d ms = false) (hjob : t.jobComplete c = true)
    (hio : PreparedBy t hub0Agent c
      ((if n = 0 then [] else [(accRead, kSend d, n)]) ++ [(accWrite, kRecv d, rowBytes (kFmt d) (recvCount d))]) u) :
    ∃ st, runCollective s c ix d = (u.arriveColl c ix d ms, st) := by
  subst hms hn
  simp only [runCollective, hc, hp.prepAll_eq, hmem, hjob, hio.prepAllAt_eq, Bool.not_true, Bool.false_eq_true, if_false]
  exact ⟨_, rfl⟩

/-! ### The Almanac -/

/-- At a boundary an image is written: the header, then the slots (R142). -/
theorem runAlmanacSave_of_prepared (hb : (s.ctx c).atBoundary = true)
    (hc : (headerCheck d [(128, 191), (192, 255)]).orElse (badField [badAddr d 128 64,
      (polPeriod (s.ctx c) == 0 || decide (fld d 192 255 < imageBytes (s.ctx c)), 192)]) = none)
    (hp : PreparedOp s c [(accRead, slotAddr (s.ctx c) 0, 8192 * polPeriod (s.ctx c)), (accWrite, fld d 128 191, imageBytes (s.ctx c))] t)
    {slots : List Byte} (hs : slots = t.rdV c (slotAddr (s.ctx c) 0) (8192 * polPeriod (s.ctx c))) :
    runAlmanacSave s c ix d = ended (t.wrV c (fld d 128 191) (imageHeader t c slots ++ slots)) (endWith 0 0) := by
  subst hs
  simp only [runAlmanacSave, hc, hb, hp.prepAll_eq, if_true, Reject.orElse_of_none]

section Load

variable {x : Ctx} {img : List Byte} (hb : (s.ctx c).atBoundary = true)
  (hc : (headerCheck d [(128, 191), (192, 255)]).orElse (badField [badAddr d 128 64]) = none) (hx : x = s.ctx c) (hper : polPeriod x ≠ 0)
  (hlen : fld d 192 255 = imageBytes x) (hp : Prepared s c [(accRead, fld d 128 191, imageBytes x)] t)
  (himg : img = t.rdV c (fld d 128 191) (imageBytes x))
include hb hc hx hper hlen hp himg

/-- An image that does not belong to the context is refused (R143). -/
theorem runAlmanacLoad_of_bad_image (hbad : imageOk x img = false) : runAlmanacLoad s c ix d = rejected t (0x0410, 6) := by
  subst hx himg
  simp [runAlmanacLoad, hc, hb, hper, hlen, hp.prep_eq, hbad]

/-- An image that belongs to the context becomes its region: the slots rotated to its Eve count, the rest cleared (R143). -/
theorem runAlmanacLoad_of_good_image (hok : imageOk x img = true) (hw : Prepared t c [(accWrite, polAddr x, regionBytes (polPeriod x))] u) :
    runAlmanacLoad s c ix d = ended ((u.wrVAll c ((polAddr x, List.replicate 4 0) ::
      (polAddr x + 64, List.replicate 2048 0) :: (List.range (polPeriod x)).map fun j =>
        (slotAddr x (loadedSlot x (leNat ((img.drop 8).take 4)) j), (img.drop (512 + 8192 * j)).take 8192))).updCtx c
      fun y => { y with cnt := { y.cnt with almEvents := 0 } }) (endWith 0 0) := by
  subst hx himg
  simp [runAlmanacLoad, hc, hb, hper, hlen, hp.prep_eq, hok, hw.prep_eq, -List.reduceReplicate]

end Load

end Runs

/-- Settles O46: each clause is the taking of the operation with the lemma above about its run. -/
theorem computingOperationsRun : Obligations.ComputingOperationsRun := by
  unfold Obligations.ComputingOperationsRun
  intro s s2 sT s3 s4 p c ix d
  refine ⟨?product, ?attention, ?convert, ?update, ?elementwise, ?kernel, ?stream, ?collective, ?save, ?load⟩
  case product =>
    rintro e he h hc hragged hplain hm hpin hp _ rfl
    rw [← h.opcode] at hc hragged hplain
    refine (exec_productRow he p s).trans (congrArg _ (h.takeOp_eq_landed ?_))
    by_cases hop : dOpcode d = 3
    · obtain ⟨htab, hr⟩ := hragged hop
      exact (runProduct_of_ragged hc hop htab hr).trans (State.prodRun_of_prepared hm hpin hp)
    · obtain rfl := hplain hop
      exact (runProduct_of_plain hc hop).trans (State.prodRun_of_prepared hm hpin hp)
  case attention =>
    rintro h hc hq hr hm hpin hp _ rfl
    exact congrArg _ (h.takeOp_eq_landed (runAttention_of_prepared hc hq hr hm hpin hp))
  case convert => exact fun h hc hp => congrArg _ (h.takeOp_eq_landed (runConvert_of_prepared hc hp))
  case update =>
    rintro h hc hmode hp l hl
    refine ⟨fun hper hw w hwr => ?written, fun hper hpol hnf => ?held⟩
    case written => exact congrArg _ (h.takeOp_eq_landed (runUpdate_of_no_almanac hc hmode hp hl hper hw hwr))
    case held =>
      obtain ⟨a, ha⟩ := runUpdate_of_held (ix := ix) hc hmode hp hper hpol (hl ▸ hnf)
      exact ⟨_, congrArg Host.Outcome.next (h.takeOp_eq_landed ha), landed_mem .., landed_coh .., landed_out ..⟩
  case elementwise =>
    rintro h hc hcode hok hp _ rfl
    exact congrArg _ (h.takeOp_eq_landed (runElementwise_of_prepared hc hcode hok hp))
  case kernel =>
    rintro h hc hcode hok hnone hsome _ rfl
    exact congrArg _ (h.takeOp_eq_landed (runKernel_of_prepared hc hcode hok hnone hsome))
  case stream =>
    intro h k n hk hn hc hp ws hws hok hjob
    have hrun := runStream_of_prepared (ix := ix) hk hn hc hp hws hok hjob
    refine congrArg Host.Outcome.next ?_
    split
    next hbusy => exact h.takeOp_eq_landed (hrun.trans (if_pos hbusy))
    next hidle => exact h.takeOp_eq_landed (hrun.trans (if_neg hidle))
  case collective =>
    intro h hc hp ms n hms hn hmem hjob hio
    obtain ⟨st, hrun⟩ := runCollective_of_prepared (ix := ix) hc hp hms hn hmem hjob hio
    exact ⟨st, congrArg _ (h.takeOp_eq_landed hrun)⟩
  case save =>
    intro h hb hc hp slots hs
    exact congrArg _ (h.takeOp_eq_landed (runAlmanacSave_of_prepared hb hc hp hs))
  case load =>
    intro h hb hc x hx hper hlen hp img himg hw
    refine congrArg Host.Outcome.next ?_
    split
    next hok => exact h.takeOp_eq_landed (runAlmanacLoad_of_good_image hb hc hx hper hlen hp himg hok hw)
    next hbad => exact h.takeOp_eq_landed (runAlmanacLoad_of_bad_image hb hc hx hper hlen hp himg (by simpa using hbad))

end Sys2Proof.Machine
end

section
/-! What the commits of the three blocks of a context register set do, and what a translation invalidation does (R118, R299, R344, R468, R474). -/

namespace Sys2Proof.Machine

open Sys2Proof

section Blocks

variable {s : State} {b : Nat} {w : W64} {v : Nat} {x : Ctx} (hx : x = s.ctx (s.bank b).sel) (hlive : x.st ≠ .free)
include hx hlive

section Policy

variable (hv : v = stagedBlock (s.bank b) 0x180 8 x.regs.policy.acc.toNat w)
include hv

/-- A policy block outside its ranges sets `POLICY_REJECTED`, is counted and changes no setting (R118). -/
theorem State.commitPolicy_of_bad (hbad : badPolicy v = true) :
    s.commitPolicy b w = ((s.unstage b 0x180 8).setCtx (s.bank b).sel
      { x with regs := { x.regs with policyRejected := true } }).refuseWrite (s.bank b).sel := by
  simp only [State.commitPolicy, ← hx, ← hv, if_neg hlive, if_pos hbad]

/-- A policy block within its ranges is held for its boundary, and its bit 31 clears `POLICY_REJECTED` (R117, R118). -/
theorem State.commitPolicy_of_good (hgood : badPolicy v = false) :
    s.commitPolicy b w = (s.unstage b 0x180 8).setCtx (s.bank b).sel { x with regs := { x.regs with
      policy := ⟨BitVec.ofNat 512 (policyFields v), x.regs.policy.eff, true⟩, policyRejected := x.regs.policyRejected && !bitAt v 31 } } := by
  simp only [State.commitPolicy, ← hx, ← hv, if_neg hlive, if_neg (Bool.eq_false_iff.mp hgood)]

end Policy

section Translation

variable (hv : v = stagedBlock (s.bank b) 0x1C0 2 x.regs.xlate.acc.toNat w)
include hv

/-- A table root that is not aligned to 64 KiB refuses the block (R299). -/
theorem State.commitTranslation_of_unaligned (hbad : bitsOf v 0 16 ≠ 0) :
    s.commitTranslation b w = (s.unstage b 0x1C0 2).refuseWrite (s.bank b).sel := by
  simp only [State.commitTranslation, ← hx, ← hv, if_neg hlive, if_pos hbad]

/-- A translation block with an aligned root is held for its boundary (R299). -/
theorem State.commitTranslation_of_aligned (hgood : bitsOf v 0 16 = 0) :
    s.commitTranslation b w = (s.unstage b 0x1C0 2).setCtx (s.bank b).sel { x with regs := { x.regs with
      xlate := ⟨BitVec.ofNat 128 (bitsOf v 0 52 + bitsOf v 63 33 * 2 ^ 63), x.regs.xlate.eff, true⟩ } } := by
  simp only [State.commitTranslation, ← hx, ← hv, if_neg hlive, if_neg (not_not_intro hgood)]

end Translation

section HostBlock

variable (hv : v = stagedBlock (s.bank b) 0x1E0 4 x.regs.hostBlk.acc.toNat w)
include hv

/-- A host block outside its ranges is refused (R344). -/
theorem State.commitHost_of_bad (hbad : badHost x v = true) : s.commitHost b w = (s.unstage b 0x1E0 4).refuseWrite (s.bank b).sel := by
  simp only [State.commitHost, ← hx, ← hv, if_neg hlive, if_pos hbad]

/-- A host block within its ranges is held for its boundary (R344). -/
theorem State.commitHost_of_good (hgood : badHost x v = false) :
    s.commitHost b w = (s.unstage b 0x1E0 4).setCtx (s.bank b).sel { x with regs := { x.regs with
      hostBlk := ⟨BitVec.ofNat 256 (hostFields v), x.regs.hostBlk.eff, true⟩ } } := by
  simp only [State.commitHost, ← hx, ← hv, if_neg hlive, if_neg (Bool.eq_false_iff.mp hgood)]

end HostBlock

section Invalidation

variable {pages : Nat} {r : Nat × Nat}
  (hr : r = if pages = 0 then (0, 2 ^ 56)
    else (bitsOf x.regs.invalVa.toNat 16 40 * 2 ^ 16, bitsOf x.regs.invalVa.toNat 16 40 * 2 ^ 16 + 65536 * pages))
include hr

/-- With no invalidation held, the range written is held, and `DONE` is cleared (R474). -/
theorem State.submitInval_of_none (hh : x.regs.invalHeld = none) :
    s.submitInval b pages = s.setCtx (s.bank b).sel { x with regs := { x.regs with invalHeld := some r, invalDone := false } } := by
  simp only [State.submitInval, ← hx, ← hr, if_neg hlive, hh]

/-- A range joins the one that is held: the least range that covers both is held, and `DONE` is cleared (R474). -/
theorem State.submitInval_of_held {h : Nat × Nat} (hh : x.regs.invalHeld = some h) :
    s.submitInval b pages = s.setCtx (s.bank b).sel { x with regs := { x.regs with
      invalHeld := some (min h.1 r.1, max h.2 r.2), invalDone := false } } := by
  simp only [State.submitInval, ← hx, ← hr, if_neg hlive, hh]

end Invalidation

end Blocks

/-- Settles O13: the device runs, so each commit acts; a block is split on its check, an invalidation on what is held and on its page count. -/
theorem blockCommitsHold : Obligations.BlockCommitsHold := by
  unfold Obligations.BlockCommitsHold
  rintro s b w pages _ x rfl hx hlive hpow
  have hpolicy : exec (.policyBlockCommit b w) s = .next (s.commitPolicy b w) :=
    State.whenPowered_of_powered (fun t => t.commitPolicy b w) hpow
  have hxlate : exec (.translationBlockCommit b w) s = .next (s.commitTranslation b w) :=
    State.whenPowered_of_powered (fun t => t.commitTranslation b w) hpow
  have hhost : exec (.hostBlockCommit b w) s = .next (s.commitHost b w) :=
    State.whenPowered_of_powered (fun t => t.commitHost b w) hpow
  have hinval : exec (.translationInvalidate b pages) s = .next (s.submitInval b pages.toNat) :=
    State.whenPowered_of_powered (fun t => t.submitInval b pages.toNat) hpow
  refine ⟨fun v hv => hpolicy.trans (congrArg _ ?policy), fun v hv => hxlate.trans (congrArg _ ?xlate),
    fun v hv => hhost.trans (congrArg _ ?host), ?inval⟩
  case policy =>
    split
    next hbad => exact State.commitPolicy_of_bad hx hlive hv hbad
    next hgood => exact State.commitPolicy_of_good hx hlive hv (Bool.eq_false_iff.mpr hgood)
  case xlate =>
    split
    next hbad => exact State.commitTranslation_of_unaligned hx hlive hv hbad
    next hgood => exact State.commitTranslation_of_aligned hx hlive hv (Decidable.not_not.mp hgood)
  case host =>
    split
    next hbad => exact State.commitHost_of_bad hx hlive hv hbad
    next hgood => exact State.commitHost_of_good hx hlive hv (Bool.eq_false_iff.mpr hgood)
  case inval =>
    rintro _ rfl
    refine hinval.trans (congrArg _ ?_)
    cases hh : x.regs.invalHeld with
    | none => exact State.submitInval_of_none hx hlive rfl hh
    | some h =>
      refine (State.submitInval_of_held hx hlive rfl hh).trans ?_
      by_cases hp : pages.toNat = 0
      · simp only [if_pos hp]
      · simp only [if_neg hp]

end Sys2Proof.Machine
end

section
/-! What the register, conversion, matrix and control instructions of lanes do to their group, and what one of them leaves of the package: the rules of
issuing, of an instruction's end and of a block's end are said once (R148 to R171, R176 to R189, R194 to R198, R496, R497). -/

namespace Sys2Proof.Machine

open Sys2Proof

/-! ## A lane that may issue -/

section Lanes

variable {s : State} {g : Nat} {x : Lane}

/-- A lane names its group and what the group stands in: its block and the launch of that block (R148). -/
theorem State.laneAt_eq_some (h : s.laneAt g = some x) : s.block x.grp.blk = some x.blk ∧ s.launch x.blk.launch = some x.lch := by
  unfold State.laneAt at h
  split at h
  next => cases h
  next grp _ =>
    split at h
    next => cases h
    next b hb =>
      split at h
      next => cases h
      next l hl =>
        split at h
        next =>
          obtain rfl := Option.some.inj h
          exact ⟨hb, hl⟩
        next => cases h

/-- An instruction that touches only registers runs where its words stand (R176). -/
theorem State.laneReg_of_lane {is : Nat → Bool} {f : Lane → Group → Group} (h : s.laneAt g = some x) (hw : is x.w = true) :
    s.laneReg g is f = s.retire x (f x x.past) 0 (maskOf (x.grp.covered x.w)) := by
  simp only [State.laneReg, h, hw, if_true]

/-- Where other words stand it does nothing. -/
theorem State.laneReg_of_other {is : Nat → Bool} {f : Lane → Group → Group} (h : s.laneAt g = some x) (hw : is x.w = false) :
    s.laneReg g is f = s := by
  simp only [State.laneReg, h, hw, Bool.false_eq_true, if_false]

/-- An instruction that its opcode alone names runs where that opcode stands. -/
theorem State.laneReg_of_opcode {op : Nat} {f : Lane → Group → Group} (h : s.laneAt g = some x) (hw : wOp x.w = op) :
    s.laneReg g (fun w => wOp w == op) f = s.retire x (f x x.past) 0 (maskOf (x.grp.covered x.w)) :=
  State.laneReg_of_lane h (beq_iff_eq.mpr hw)

end Lanes

/-! ## Each register command is one run of registers -/

theorem exec_vectorRow {e : (Nat → Instr) × Nat × Nat × ElemFn} (he : e ∈ vectorRows) (g : Nat) (s : State) :
    ∃ f, exec (e.1 g) s = .next (laneVec e.2.1 e.2.2.1 f g s) := by
  simp only [vectorRows, List.mem_cons, List.not_mem_nil, or_false] at he
  rcases he with rfl | rfl | rfl | rfl | rfl | rfl | rfl | rfl | rfl | rfl | rfl | rfl | rfl | rfl | rfl | rfl | rfl | rfl | rfl | rfl | rfl | rfl |
    rfl | rfl | rfl | rfl | rfl | rfl | rfl <;> exact ⟨_, rfl⟩

theorem exec_compareRow {e : (Nat → Instr) × Nat × Nat × (Nat → (w : Nat) → BitVec w → BitVec w → Bool)} (he : e ∈ compareRows)
    (g : Nat) (s : State) :
    ∃ f, exec (e.1 g) s = .next (cmpVec e.2.1 e.2.2.1 f g s) := by
  simp only [compareRows, List.mem_cons, List.not_mem_nil, or_false] at he
  rcases he with rfl | rfl | rfl | rfl | rfl | rfl | rfl | rfl | rfl | rfl <;> exact ⟨_, rfl⟩

theorem exec_scalarRow {e : (Nat → Instr) × Nat × Bool × (BitVec 64 → BitVec 64 → BitVec 64)} (he : e ∈ scalarRows) (g : Nat) (s : State) :
    ∃ f, exec (e.1 g) s = .next (saluOp e.2.1 e.2.2.1 f g s) := by
  simp only [scalarRows, List.mem_cons, List.not_mem_nil, or_false] at he
  rcases he with rfl | rfl | rfl | rfl | rfl | rfl | rfl | rfl | rfl | rfl <;> exact ⟨_, rfl⟩

/-- A conversion writes what its row of the table says into the registers that DST_FMT takes (R186 to R189). -/
theorem exec_conversionRow {e : (Nat → Instr) × Nat × (Lane → Nat → Num → Nat)} (he : e ∈ conversionRows) (g : Nat) (s : State) :
    exec (e.1 g) s = .next (convLane e.2.1 e.2.2 g s) := by
  simp only [conversionRows, List.mem_cons, List.not_mem_nil, or_false] at he
  rcases he with rfl | rfl | rfl
  · rfl
  · rfl
  · simp only [BitVec.toNat_ofInt]
    rfl

/-- Each of the register commands is one run of registers (R176). -/
theorem exec_registerLaneCommand {i : Instr} {g : Nat} (hi : i ∈ registerLaneCommands g) (s : State) :
    ∃ is f, exec i s = .next (s.laneReg g is f) := by
  simp only [registerLaneCommands, List.mem_append, List.mem_map] at hi
  obtain (((⟨e, he, rfl⟩ | ⟨e, he, rfl⟩) | ⟨e, he, rfl⟩) | ⟨e, he, rfl⟩) | hi := hi
  · obtain ⟨f, hf⟩ := exec_vectorRow he g s
    exact ⟨_, _, hf⟩
  · obtain ⟨f, hf⟩ := exec_compareRow he g s
    exact ⟨_, _, hf⟩
  · obtain ⟨f, hf⟩ := exec_scalarRow he g s
    exact ⟨_, _, hf⟩
  · exact ⟨_, _, exec_conversionRow he g s⟩
  · simp only [List.mem_cons, List.not_mem_nil, or_false] at hi
    rcases hi with rfl | rfl | rfl | rfl | rfl | rfl | rfl | rfl | rfl | rfl | rfl <;> exact ⟨_, _, rfl⟩

/-! ## What the counting of an issue leaves -/

/-- Only counters and the interrupt controller differ. -/
def State.CountersOnly (s t : State) : Prop := t = { s with ctrs := { s.ctrs with blocks := t.ctrs.blocks }, irq := t.irq }

theorem State.CountersOnly.refl (s : State) : s.CountersOnly s := rfl

theorem State.CountersOnly.trans {s t u : State} (h : s.CountersOnly t) (h' : t.CountersOnly u) : s.CountersOnly u :=
  Eq.trans h' (congrArg (fun v : State => { v with ctrs := { v.ctrs with blocks := u.ctrs.blocks }, irq := u.irq }) h)

theorem State.CountersOnly.threads {s t : State} (h : s.CountersOnly t) : t.threads = s.threads := (congrArg State.threads h :)
theorem State.CountersOnly.ctx {s t : State} (h : s.CountersOnly t) (c : Nat) : t.ctx c = s.ctx c := (congrArg (State.ctx · c) h :)

/-- A counter that wraps raises the source of its block, and nothing else (R487). -/
theorem State.addCounter_countersOnly (s : State) (b i n : Nat) : s.CountersOnly (s.addCounter b i n) := by
  unfold State.addCounter State.wrapCounter
  dsimp only
  repeat' split
  all_goals rfl

theorem State.countEv_countersOnly (s : State) (b code unit : Nat) (c : Option Nat) (n : Nat) : s.CountersOnly (s.countEv b code unit c n) := by
  unfold State.countEv
  split
  · rfl
  · refine List.foldlRecOn (motive := s.CountersOnly) _ _ (.refl s) fun t ht i _ => ?_
    dsimp only
    split
    · exact ht.trans ((t.addCounter_countersOnly b i _).trans rfl)
    · exact ht

/-- An event that no enabled selector names counts nowhere (R485). -/
theorem State.countEv_of_unselected {s : State} {b code : Nat} (h : ∀ j < 8, bitAt (s.eventSel b j) 22 = true → bitsOf (s.eventSel b j) 0 12 ≠ code)
    (unit : Nat) (c : Option Nat) (n : Nat) : s.countEv b code unit c n = s := by
  unfold State.countEv
  split
  · rfl
  · refine List.foldlRecOn (motive := (· = s)) _ _ rfl fun t ht i hi => ?_
    subst ht
    have hsel : selTakes (t.eventSel b i) code unit c = false := by
      simpa [selTakes] using fun hon hcode => absurd hcode (h i (List.mem_range.mp hi) hon)
    simp only [hsel, Bool.false_eq_true, if_false]

/-! ## What the end of an instruction leaves -/

/-- Only the threads' state, the count of skipped samples and context `c` differ. -/
structure State.ThreadsOnly (c : Nat) (s t : State) : Prop where
  rest : t = { s with threads := t.threads, ctxs := t.ctxs, ctrs := { s.ctrs with skipped := t.ctrs.skipped } }
  others : ∀ c', c' ≠ c → t.ctx c' = s.ctx c'

namespace State.ThreadsOnly

variable {c : Nat} {s t u : State}

theorem refl (c : Nat) (s : State) : s.ThreadsOnly c s := ⟨rfl, fun _ _ => rfl⟩

theorem trans (h : s.ThreadsOnly c t) (h' : t.ThreadsOnly c u) : s.ThreadsOnly c u where
  rest := h'.rest.trans
    (congrArg (fun v : State => { v with threads := u.threads, ctxs := u.ctxs, ctrs := { v.ctrs with skipped := u.ctrs.skipped } }) h.rest)
  others c' hc := (h'.others c' hc).trans (h.others c' hc)

theorem irq (h : s.ThreadsOnly c t) : t.irq = s.irq := (congrArg State.irq h.rest :)
theorem blocks (h : s.ThreadsOnly c t) : t.ctrs.blocks = s.ctrs.blocks := (congrArg (fun v : State => v.ctrs.blocks) h.rest :)

/-- Counters that count, and then threads that go on: what stays of the state (R150, R496). -/
theorem after_counters (h : s.CountersOnly t) (h' : t.ThreadsOnly c u) :
    u = { s with threads := u.threads, ctxs := u.ctxs, ctrs := { u.ctrs with produced := s.ctrs.produced }, irq := u.irq } := by
  have hkept : u = { t with threads := u.threads, ctxs := u.ctxs, ctrs := { u.ctrs with produced := t.ctrs.produced }, irq := u.irq } := by
    simp only [h'.irq, h'.blocks]
    exact h'.rest
  exact hkept.trans (congrArg
    (fun v : State => { v with threads := u.threads, ctxs := u.ctxs, ctrs := { u.ctrs with produced := v.ctrs.produced }, irq := u.irq }) h)

theorem foldl {α : Type} {f : State → α → State} (hf : ∀ (t : State) a, t.ThreadsOnly c (f t a)) (l : List α) (s : State) : s.ThreadsOnly c (l.foldl f s) :=
  List.foldlRecOn (motive := s.ThreadsOnly c) l f (.refl c s) fun t ht a _ => ht.trans (hf t a)

theorem setGroup (c : Nat) (s : State) (g : Nat) (x : Option Group) : s.ThreadsOnly c (s.setGroup g x) := ⟨rfl, fun _ _ => rfl⟩

theorem setGroups (c : Nat) (s : State) (f : Nat × Group → Option Group) (gs : List (Nat × Group)) :
    s.ThreadsOnly c (gs.foldl (fun (t : State) e => t.setGroup e.1 (f e)) s) := .foldl (fun t e => .setGroup c t e.1 (f e)) gs s

theorem setBlock (c : Nat) (s : State) (b : Nat) (x : Option Block) : s.ThreadsOnly c (s.setBlock b x) := ⟨rfl, fun _ _ => rfl⟩
theorem setLaunch (c : Nat) (s : State) (l : Nat) (x : Option Launch) : s.ThreadsOnly c (s.setLaunch l x) := ⟨rfl, fun _ _ => rfl⟩
theorem setSampler (c : Nat) (s : State) (v : Nat) (x : Option Sampler) : s.ThreadsOnly c (s.setSampler v x) := ⟨rfl, fun _ _ => rfl⟩
theorem skipSample (c : Nat) (s : State) (k : Nat) : s.ThreadsOnly c (s.skipSample k) := ⟨rfl, fun _ _ => rfl⟩

theorem setFlight (c : Nat) (s : State) (ix : Nat) (st : FlightSt) : s.ThreadsOnly c (s.setFlight c ix st) :=
  ⟨rfl, fun c' hc => (State.ctx_updCtx s c c' _).trans (if_neg hc)⟩

/-- An issue counts down the sampler of its unit, tags what it counted to, or skips a sample (R496). -/
theorem sampleIssue (c : Nat) (s : State) (k v c' : Nat) (tag : Tagged) : s.ThreadsOnly c (s.sampleIssue k v c' tag) := by
  unfold State.sampleIssue
  split
  · exact .refl c s
  · split
    · exact .refl c s
    · split
      · exact .setSampler c s v _
      · dsimp only
        split
        · exact (skipSample c s k).trans (.setSampler c _ v _)
        · exact .setSampler c s v _

end State.ThreadsOnly

/-- Of the threads' state an issue changes the samplers alone (R496). -/
theorem State.sampleIssue_threads (s : State) (k u c : Nat) (tag : Tagged) :
    (s.sampleIssue k u c tag).threads = { s.threads with samplers := (s.sampleIssue k u c tag).threads.samplers } := by
  unfold State.sampleIssue
  dsimp only
  repeat' split
  all_goals rfl

theorem State.launch_setGroups (s : State) (f : Nat × Group → Option Group) (gs : List (Nat × Group)) (l : Nat) :
    (gs.foldl (fun (t : State) e => t.setGroup e.1 (f e)) s).launch l = s.launch l :=
  State.foldl_keeps (State.launch · l) _ (fun t e => t.launch_setGroup e.1 l (f e)) gs s

@[simp] theorem Block.launch_pauseTo (b : Block) (now : Nat) (paused : Bool) : (b.pauseTo now paused).launch = b.launch := by
  unfold Block.pauseTo
  repeat' split
  all_goals rfl

/-- A group that ends leaves its launch what it was but for the outputs kept (R161). -/
theorem Launch.capture_eq (l : Launch) (h : Group) : l.capture h = { l with outs := (l.capture h).outs } := by
  unfold Launch.capture
  split <;> rfl

section Ends

variable {s : State} {l : Launch} (hl : l.isElem = false)
include hl

/-- A launch that is no `ELEMENTWISE` writes nothing at its end (R159). -/
theorem State.endLaunch_threadsOnly (s : State) (ix : Nat) : s.ThreadsOnly l.ctx (s.endLaunch ix l) := by
  simp only [State.endLaunch, hl, Bool.false_eq_true, if_false]
  exact (State.ThreadsOnly.setLaunch l.ctx s ix none).trans (.setFlight l.ctx _ _ _)

theorem State.endBlock_threadsOnly (bid : Nat) {b : Block} (hb : s.launch b.launch = some l) : s.ThreadsOnly l.ctx (s.endBlock bid b) := by
  have hcleared : s.ThreadsOnly l.ctx (((s.groupsOf b).foldl (fun (t : State) e => t.setGroup e.1 none) s).setBlock bid none) :=
    (State.ThreadsOnly.setGroups l.ctx s (fun _ => none) _).trans (.setBlock l.ctx _ bid none)
  have hkept : ((s.groupsOf b).foldl (fun (x : Launch) e => x.capture e.2) l).isElem = false ∧
      ((s.groupsOf b).foldl (fun (x : Launch) e => x.capture e.2) l).ctx = l.ctx :=
    List.foldlRecOn (motive := fun x : Launch => x.isElem = false ∧ x.ctx = l.ctx) _ _ ⟨hl, rfl⟩ fun x hx e _ => by
      rw [x.capture_eq e.2]
      exact hx
  obtain ⟨helem, hctx⟩ := hkept
  simp only [State.endBlock, hb]
  refine hcleared.trans ?_
  split
  · exact hctx ▸ State.endLaunch_threadsOnly helem _ b.launch
  · exact .setLaunch l.ctx _ _ _

/-- A barrier that completes, a pause and the end of a block change threads, blocks and launches, and the operation that ends with them (R159, R167, R168). -/
theorem State.refreshBlock_threadsOnly {bid : Nat} {b : Block} (hb : s.block bid = some b) (hlaunch : s.launch b.launch = some l) :
    s.ThreadsOnly l.ctx (s.refreshBlock bid) := by
  have hrest : ∀ (u : State) (y : Block), s.ThreadsOnly l.ctx u → u.launch b.launch = some l → y.launch = b.launch →
      s.ThreadsOnly l.ctx (if ((u.setBlock bid (some y)).groupsOf y).all fun e => e.2.over then (u.setBlock bid (some y)).endBlock bid y
        else u.setBlock bid (some y)) := fun u y hu hul hy => by
    refine (hu.trans (.setBlock l.ctx u bid (some y))).trans ?_
    split
    · exact State.endBlock_threadsOnly hl bid (by rw [hy, State.launch_setBlock, hul])
    · exact .refl l.ctx _
  simp only [State.refreshBlock, hb]
  cases barrierDone (s.groupsOf b) with
  | true => exact hrest _ _ (.setGroups l.ctx s _ _) ((s.launch_setGroups _ _ _).trans hlaunch) rfl
  | false => exact hrest s _ (.refl l.ctx s) hlaunch (b.launch_pauseTo _ _)

end Ends

/-! ## The frame of a register instruction -/

/-- The state in which an issue has been counted, before it is sampled: codes 0x011 and 0x012 for its slot, 0x013 for an `MMA` (R148, R489). -/
def State.countIssue (s : State) (x : Lane) : State :=
  let s1 := s.countEv (x.blk.unit / 64) (if secondSlot x.w then 0x012 else 0x011) (x.blk.unit % 64) (some x.lch.ctx) 1
  if wOp x.w = 0x70 then s1.countEv (x.blk.unit / 64) 0x013 (x.blk.unit % 64) (some x.lch.ctx) 1 else s1

/-- No enabled selector of a stack's counters names an issue. -/
def State.NoIssueSelected (s : State) (b : Nat) : Prop :=
  ∀ j < 8, ∀ n ∈ [0x011, 0x012, 0x013], bitAt (s.eventSel b j) 22 = true → bitsOf (s.eventSel b j) 0 12 ≠ n

section Issue

variable (s : State) (x : Lane)

/-- An issue is counted, then sampled (R148, R496). -/
theorem State.noteIssue_eq (va mask : Nat) :
    s.noteIssue x va mask = (s.countIssue x).sampleIssue (s.partOfUnit x.blk.unit) x.blk.unit x.lch.ctx
      ⟨x.g, x.grp.num, secondSlot x.w, x.lch.ctx, x.lch.opIndex, x.grp.pc, BitVec.ofNat 64 mask, va⟩ := rfl

theorem State.countIssue_countersOnly : s.CountersOnly (s.countIssue x) := by
  unfold State.countIssue
  dsimp only
  split
  · exact (State.countEv_countersOnly s _ _ _ _ _).trans (State.countEv_countersOnly _ _ _ _ _ _)
  · exact State.countEv_countersOnly s _ _ _ _ _

theorem State.countIssue_of_unselected (h : s.NoIssueSelected (x.blk.unit / 64)) : s.countIssue x = s := by
  have hslot : s.countEv (x.blk.unit / 64) (if secondSlot x.w then 0x012 else 0x011) (x.blk.unit % 64) (some x.lch.ctx) 1 = s :=
    State.countEv_of_unselected (fun j hj => h j hj _ (by split <;> simp)) _ _ _
  have hmatrix : s.countEv (x.blk.unit / 64) 0x013 (x.blk.unit % 64) (some x.lch.ctx) 1 = s :=
    State.countEv_of_unselected (fun j hj => h j hj _ (by simp)) _ _ _
  simp only [State.countIssue, hslot, hmatrix, ite_self]

/-- Of the threads' state an issue changes the samplers alone. -/
theorem State.noteIssue_threads (va mask : Nat) :
    (s.noteIssue x va mask).threads = { s.threads with samplers := (s.noteIssue x va mask).threads.samplers } := by
  have hcount : (s.countIssue x).threads = s.threads := (s.countIssue_countersOnly x).threads
  rw [State.noteIssue_eq, State.sampleIssue_threads, hcount]

@[simp] theorem State.block_noteIssue (va mask b : Nat) : (s.noteIssue x va mask).block b = s.block b := by
  rw [State.block, State.noteIssue_threads]
  rfl

@[simp] theorem State.launch_noteIssue (va mask l : Nat) : (s.noteIssue x va mask).launch l = s.launch l := by
  rw [State.launch, State.noteIssue_threads]
  rfl

end Issue

/-- What an instruction of a lane of a launch that is no `ELEMENTWISE` changes beyond the counters (R150, R159, R176). -/
theorem State.retire_threadsOnly {s : State} {g : Nat} {x : Lane} (hx : s.laneAt g = some x) (helem : x.lch.isElem = false) (h : Group) (va mask : Nat) :
    (s.countIssue x).ThreadsOnly x.lch.ctx (s.retire x h va mask) := by
  obtain ⟨hblock, hlaunch⟩ := State.laneAt_eq_some hx
  have hissue : (s.countIssue x).ThreadsOnly x.lch.ctx (s.noteIssue x va mask) := State.ThreadsOnly.sampleIssue _ _ _ _ _ _
  refine (hissue.trans (.setGroup x.lch.ctx _ x.g _)).trans (State.refreshBlock_threadsOnly helem (b := x.blk) ?_ ?_)
  · rw [State.block_setGroup, State.block_noteIssue, hblock]
  · rw [State.launch_setGroup, State.launch_noteIssue, hlaunch]

/-- Settles O27: a register command either leaves the state or runs its registers, and then the issue is counted and the rest is the threads' alone. -/
theorem registerInstructionsFrame : Obligations.RegisterInstructionsFrame := by
  unfold Obligations.RegisterInstructionsFrame
  intro s t g x hx helem i hi ht
  obtain ⟨is, f, hrun⟩ := exec_registerLaneCommand hi s
  obtain rfl : s.laneReg g is f = t := Host.Outcome.next.inj (hrun.symm.trans ht)
  cases hw : is x.w with
  | false =>
    rw [State.laneReg_of_other hx hw]
    exact ⟨rfl, fun _ => ⟨rfl, rfl⟩, fun _ _ => rfl⟩
  | true =>
    rw [State.laneReg_of_lane hx hw]
    have hcount := s.countIssue_countersOnly x
    have hrest := State.retire_threadsOnly hx helem (f x x.past) 0 (maskOf (x.grp.covered x.w))
    refine ⟨hrest.after_counters hcount, fun hquiet => ?quiet, fun c hc => (hrest.others c hc).trans (hcount.ctx c)⟩
    case quiet =>
      rw [State.countIssue_of_unselected s x hquiet] at hrest
      exact ⟨hrest.blocks, hrest.irq⟩

/-! ## The other vector instructions -/

section Matrix

variable {s : State} {g : Nat} {x : Lane} (hx : s.laneAt g = some x) (hw : wOp x.w = 0x70)
include hx hw

/-- An `MMA` of a group with every thread active writes its fragment of D (R165). -/
theorem execMma_of_all (hall : x.grp.active.toNat = allThreads) : execMma g s = .next (s.retire x (mmaGroup x x.past) 0 allThreads) := by
  simp only [execMma, hx, hw, hall, ne_eq, not_true_eq_false, if_false, if_true]

/-- An `MMA` of a group with a thread inactive is the group fault `DIVERGENT_MATRIX` (R166). -/
theorem execMma_of_divergent (hsome : x.grp.active.toNat ≠ allThreads) :
    execMma g s = .next (s.groupFault x.blk.launch x.lch x.blk 0x0701
      (groupFaultRecord x.lch x.blk 1 x.grp.num x.grp.pc 0 x.grp.active.toNat 0 s.now
        [(x.grp.num, allThreads - (x.grp.active ||| x.grp.exited).toNat)])) := by
  simp only [execMma, hx, hw, hsome, ne_eq, not_true_eq_false, if_false]

end Matrix

/-- Settles O22: each opcode runs its registers on the group past the instruction, an `MMA` by its active mask. -/
theorem otherVectorInstructionsRun : Obligations.OtherVectorInstructionsRun := by
  unfold Obligations.OtherVectorInstructionsRun
  intro s g x hx
  refine ⟨fun hw => ?sel, fun hw => ?idot8, fun e he hw => ?conversion, fun hw => ⟨?matrix, ?divergent⟩⟩
  case sel => exact congrArg Host.Outcome.next (State.laneReg_of_opcode hx hw)
  case idot8 => exact congrArg Host.Outcome.next (State.laneReg_of_opcode hx hw)
  case conversion => exact (exec_conversionRow he g s).trans (congrArg _ (State.laneReg_of_opcode hx hw))
  case matrix => exact execMma_of_all hx hw
  case divergent => exact execMma_of_divergent hx hw

/-! ## The control instructions -/

theorem pushIf_eq_append (b : Bool) (e : Reconv) (l : List Reconv) : pushIf b e l = (if b then [e] else []) ++ l := by
  cases b <;> rfl

section Branch

variable {x : Lane} {h : Group} {t n j : Nat} (ht : t = (x.grp.active.toNat &&& predMask x.grp x.w)) (hn : n = x.grp.active.toNat - t)
  (hj : j = 8 * xJoin x.w)
include ht hn

/-- A branch that every active thread takes goes to its target (R164). -/
theorem braGroup_of_all (h0 : n = 0) : braGroup x h = { h with pc := 8 * xTarget x.w } := by
  simp only [braGroup, ← ht, ← hn, h0, if_true]

/-- A branch that no active thread takes goes on in order (R164). -/
theorem braGroup_of_none (h0 : n ≠ 0) (h1 : t = 0) : braGroup x h = h := by
  rw [h1] at ht hn
  simp only [braGroup, ← ht, ← hn, h0, if_true, if_false]

include hj

/-- A branch that some active threads take runs these first; the others wait on the stack, above the join (R164). -/
theorem braGroup_of_some (h0 : n ≠ 0) (h1 : t ≠ 0) :
    braGroup x h = { h with
      stack := (if x.grp.pc + 8 != j then [⟨x.grp.pc + 8, BitVec.ofNat 64 n, j⟩] else []) ++
        (if j != x.grp.join then [⟨j, x.grp.active, x.grp.join⟩] else []) ++ x.grp.stack,
      pc := 8 * xTarget x.w, active := BitVec.ofNat 64 t, join := j } := by
  simp only [braGroup, ← ht, ← hn, ← hj, h0, h1, if_false, pushIf_eq_append, List.append_assoc]

end Branch

/-- A barrier instruction makes the active threads wait (R167). -/
theorem execBar_of_lane {s : State} {g : Nat} {x : Lane} (hx : s.laneAt g = some x) (hw : wOp x.w = 0x63) : execBar g s = .next (s.arrive x) := by
  simp only [execBar, hx, hw, if_true]

/-- Settles O24: each opcode runs its registers on the group past the instruction, a branch by how its threads split, and a barrier arrives. -/
theorem controlInstructionsRun : Obligations.ControlInstructionsRun := by
  unfold Obligations.ControlInstructionsRun
  rintro s g x hx _ rfl
  refine ⟨fun hw t n j ht hn hj => ?branch, fun hw => ?jump, fun hw => ?exit, fun hw => ?nop, fun hw => ?fence, execBar_of_lane hx⟩
  case branch =>
    have hrun : exec (.bra g) s = .next (s.retire x (braGroup x x.past) 0 (maskOf (x.grp.covered x.w))) :=
      congrArg Host.Outcome.next (State.laneReg_of_opcode hx hw)
    refine ⟨fun h0 => ?all, fun h0 h1 => ?none, fun h0 h1 => ?some⟩
    case all => rw [hrun, braGroup_of_all ht hn h0]
    case none => rw [hrun, braGroup_of_none ht hn h0 h1]
    case some => rw [hrun, braGroup_of_some ht hn hj h0 h1]
  case jump => exact congrArg Host.Outcome.next (State.laneReg_of_opcode hx hw)
  case exit => exact congrArg Host.Outcome.next (State.laneReg_of_opcode hx hw)
  case nop => exact congrArg Host.Outcome.next (State.laneReg_of_opcode hx hw)
  case fence => exact congrArg Host.Outcome.next (State.laneReg_of_opcode hx hw)

/-! ## The events of blocks and samplers -/

/-- The deadline of a generation that is pending and not paused (R168). -/
theorem Block.expiresAt_of_running {b : Block} {t : Nat} (l : Launch) (hf : b.firstAt = some t) (hp : b.pausedAt = none) :
    b.expiresAt l = some (t + 1000 * l.deadlineUs + b.pausedNs) := by
  simp only [Block.expiresAt, hf, hp]

/-- A block whose deadline no other block of its operation comes before, nor a lower one at the same time, is the one that faults (R171). -/
theorem State.firstExpired_self {s : State} {l : Launch} {b : Block} {due : Nat}
    (h : ∀ y ∈ s.threads.blocks.filterMap Prod.snd, y.launch = b.launch → ∀ u, y.expiresAt l = some u → due < u ∨ (due = u ∧ b.num ≤ y.num)) :
    s.firstExpired l b due = (b, due) := by
  refine List.foldlRecOn (motive := (· = (b, due))) _ _ rfl fun a ha y hy => ?_
  subst ha
  cases hu : y.expiresAt l with
  | none => rfl
  | some u =>
    have hlater : ¬(y.launch = b.launch ∧ (u < due ∨ (u = due ∧ y.num < b.num))) := by
      rintro ⟨hlaunch, hfirst⟩
      have := h y hy hlaunch u hu
      omega
    exact if_neg hlater

/-- A barrier whose deadline expires is the group fault of the block that expired first (R168, R169, R171). -/
theorem execBarrierTimeout_of_expired {s : State} {blk due at_ : Nat} {b0 b : Block} {l : Launch} (hblock : s.block blk = some b0)
    (hlaunch : s.launch b0.launch = some l) (hdue : b0.expiresAt l = some due) (hfirst : (b, at_) = s.firstExpired l b0 due)
    {miss : List (Nat × Nat)} (hmiss : miss = ((s.groupsOf b).filter fun e => e.2.missing != 0).map fun e => (e.2.num, e.2.missing)) :
    execBarrierTimeout blk s = .next ((s.advance at_).groupFault b.launch l b 0x0702
      (groupFaultRecord l b 2 ((miss.map Prod.fst).headD 0) b.firstPc l.deadlineUs 0 (miss.foldl (fun a e => a ||| 2 ^ e.1) 0) (max s.now at_) miss)) := by
  subst hmiss
  simp only [execBarrierTimeout, hblock, hlaunch, hdue, ← hfirst]
  rfl

section Placing

variable {s : State} {c : Fin 4096} {u : Fin 512} {ix k split : Nat} {l : Launch} (hix : launchOf (s.ctx c) = some ix) (hl : s.launch ix = some l)
  (hsplit : split = if l.isElem then tabGet 1 s.threads.splits u else fld l.desc 224 227) (hleft : l.nextBlock < l.total)
  (hholds : s.holdsPart c = some k) (hpart : s.partOfStack (u / 64) = some k) (hlive : s.unitLive u = true)
  (hawake : s.power.gated.contains (.threadUnit u) = false) (hroom : s.roomOn u l split = true)
include hix hl hsplit hleft hholds hpart hlive hawake hroom

/-- A launch with blocks left goes on a unit of its partition that works, is awake and has room (R152, R155, R159). -/
theorem execBlockPlace_of_room : execBlockPlace c u s =
    .next (if !l.isElem then s.placeBlock ix u split l else if s.waitsOn (.op l.ctx l.opIndex) then s else s.placeElem ix u split l) := by
  subst hsplit
  simp only [execBlockPlace, hix, hl]
  exact if_pos ⟨hleft, by rw [hholds]; rfl, hpart.trans hholds.symm, hlive, by rw [hawake]; rfl, hroom⟩

end Placing

/-- A block of an `ELEMENTWISE` is placed when the reads that supply it are served (R161, R215). -/
theorem State.placeElem_of_prepared {s s1 : State} {u : Nat} {l : Launch}
    (hp : PreparedBy s.newAccess (128 * (u / 64) + 64) l.ctx (elemReads l l.nextBlock) s1) (ix split : Nat) :
    s.placeElem ix u split l = s1.placeBlock ix u split l := by
  simp only [State.placeElem, hp.prepAllAt_eq]

@[simp] theorem State.wrBytes_ctrs (s : State) (pa : Nat) (d : List Byte) : (s.wrBytes pa d).ctrs = s.ctrs := by
  simp only [wrBytes_frame]

@[simp] theorem State.wrHome_ctrs (s : State) (pa : Nat) (d : List Byte) : (s.wrHome pa d).ctrs = s.ctrs := by
  refine State.foldl_keeps State.ctrs _ (fun t i => ?_) _ s
  dsimp only
  split
  · exact t.wrBytes_ctrs _ _
  · rfl

section Samples

variable {s : State} {u : Fin 512} {y : Sampler} {x : Tagged} {k n size : Nat} (m : SampleMeasure) (hs : s.sampler u = some y)
  (hx : y.tagged = some x) (hk : k = s.partOfUnit u)
  (hn : n = w32Diff (s.ctrs.produced.getD k 0) (BitVec.ofNat 32 (s.effNat 0x9162 (k + 1)))) (hsize : size = 2 ^ s.sampleCtl k 24 28)
include hs hx hk hn hsize

/-- With the sample ring full the tagged instruction's sample is skipped (R497). -/
theorem execSampleRecordWrite_of_full (hfull : n = size) :
    execSampleRecordWrite u m s = .next ((s.setSampler u (some { y with tagged := none })).skipSample k) := by
  subst hk hn hsize
  simp only [execSampleRecordWrite, hs, hx, if_pos hfull]

/-- With room in the sample ring the tagged instruction's record is written at the producer count, which goes on by one (R497). -/
theorem execSampleRecordWrite_of_room (hroom : n ≠ size) :
    ∃ t, execSampleRecordWrite u m s = .next t ∧ t.ctrs.produced = s.ctrs.produced.set k (s.ctrs.produced.getD k 0 + 1) ∧
      t.mem = ((s.setSampler u (some { y with tagged := none })).wrHome
        (s.sampleCtl k 64 115 + 64 * ((s.ctrs.produced.getD k 0).toNat % size)) (leBytes (sampleRecord u x m s.now) 64)).mem := by
  subst hk hn hsize
  simp only [execSampleRecordWrite, hs, hx, if_neg hroom]
  refine ⟨_, rfl, ?_⟩
  split <;> simp

end Samples

/-- Settles O28: a deadline that expires is the fault of the block that expired first, a placed block is what the unit's room allows, and a sample goes by the
ring's room. -/
theorem blockEventsRun : Obligations.BlockEventsRun := by
  unfold Obligations.BlockEventsRun
  refine ⟨?barrier, ?place, ?sample⟩
  case barrier =>
    rintro s blk t _ b0 l hblock hlaunch hfirst hpause rfl
    have hdue := Block.expiresAt_of_running l hfirst hpause
    exact ⟨fun b at_ miss hb hmiss => execBarrierTimeout_of_expired hblock hlaunch hdue hb hmiss, State.firstExpired_self⟩
  case place =>
    intro s c u ix k split l hix hl hsplit hleft hholds hpart hlive hawake hroom
    have hrun := execBlockPlace_of_room hix hl hsplit hleft hholds hpart hlive hawake hroom
    refine ⟨fun helem => ?kernel, fun helem hwaits s1 hp => ?elementwise⟩
    case kernel =>
      simp only [helem, Bool.not_false, if_true] at hrun
      exact hrun
    case elementwise =>
      simp only [helem, hwaits, Bool.not_true, Bool.false_eq_true, if_false, State.placeElem_of_prepared hp] at hrun
      exact hrun
  case sample =>
    intro s u m y x k n size hs hx hk hn hsize
    exact ⟨execSampleRecordWrite_of_full m hs hx hk hn hsize, execSampleRecordWrite_of_room m hs hx hk hn hsize⟩

end Sys2Proof.Machine
end

section
/-! What reads of a group's registers find after writes, and how a value packs the elements of a type (R150, R176, R178). -/

namespace Sys2Proof.Machine

open Sys2Proof

/-! ## Reading and writing the registers of a group -/

namespace Group

variable (g : Group)

/-- A write of a register is what a read of it finds, and no other register of any thread reads differently (R150). -/
theorem reg_setReg {t u : Nat} (ht : t < 64) (hu : u < 64) (r v q : Nat) :
    (g.setReg r t v).reg q u = if q = r ∧ u = t then v % 2 ^ 32 else g.reg q u := by
  have hkey : 64 * q + u = 64 * r + t ↔ q = r ∧ u = t := by omega
  simp only [reg, setReg, tabGet_tabPut, hkey]
  split
  · exact BitVec.toNat_ofNat _ _
  · rfl

theorem reg_lt (r t : Nat) : g.reg r t < 2 ^ 32 := BitVec.isLt _

theorem sc_setSc (i v j : Nat) : (g.setSc i v).sc j = if j = i then v % 2 ^ 64 else g.sc j := by
  simp only [sc, setSc, tabGet_tabPut]
  split
  · exact BitVec.toNat_ofNat _ _
  · rfl

theorem sc_lt (i : Nat) : g.sc i < 2 ^ 64 := BitVec.isLt _

theorem pr_setPr (i v j : Nat) : (g.setPr i v).pr j = if j = i then v % 2 ^ 64 else g.pr j := by
  simp only [pr, setPr, tabGet_tabPut]
  split
  · exact BitVec.toNat_ofNat _ _
  · rfl

theorem pr_lt (i : Nat) : g.pr i < 2 ^ 64 := BitVec.isLt _

theorem val_lt (pair : Bool) (r t : Nat) : g.val pair r t < 2 ^ (if pair then 64 else 32) := by
  have hlow := g.reg_lt r t
  have hhigh := g.reg_lt (r + 1) t
  cases pair with
  | false => exact hlow
  | true =>
    simp only [val, if_true]
    omega

/-- Of the group a write of a register or a pair changes the registers alone (R176). -/
theorem setVal_eq (pair : Bool) (r t v : Nat) : g.setVal pair r t v = { g with v := (g.setVal pair r t v).v } := by
  cases pair <;> rfl

section Threads

variable {t u : Nat} (ht : t < 64) (hu : u < 64)
include ht

/-- A register or a pair reads back what was written into it, as wide as it is (R178). -/
theorem val_setVal_same (pair : Bool) (r v : Nat) : (g.setVal pair r t v).val pair r t = v % 2 ^ (if pair then 64 else 32) := by
  cases pair with
  | false => simp only [val, setVal, Bool.false_eq_true, if_false, reg_setReg _ ht ht, and_self, if_true]
  | true =>
    simp only [val, setVal, if_true, reg_setReg _ ht ht, Nat.left_eq_add, Nat.one_ne_zero, false_and, if_false, true_and]
    omega

include hu

/-- A write of a register or a pair leaves the other threads, and the thread's other registers. -/
theorem reg_setVal_other {pair : Bool} {r q : Nat} (h : u ≠ t ∨ (q ≠ r ∧ (pair = true → q ≠ r + 1))) (v : Nat) :
    (g.setVal pair r t v).reg q u = g.reg q u := by
  cases pair with
  | false =>
    simp only [setVal, Bool.false_eq_true, if_false, reg_setReg _ ht hu]
    exact if_neg fun heq => h.elim (· heq.2) (·.1 heq.1)
  | true =>
    simp only [setVal, if_true, reg_setReg _ ht hu]
    rw [if_neg fun heq => h.elim (· heq.2) (·.2 rfl heq.1), if_neg fun heq => h.elim (· heq.2) (·.1 heq.1)]

end Threads

/-! A value written for each of some threads. -/

section Fold

variable {pair : Bool} {d : Nat} {f : Nat → Nat} {ts : List Nat} (hts : ∀ t ∈ ts, t < 64)
include hts

theorem reg_foldl_setVal_other {q u : Nat} (hu : u < 64) (hother : u ∉ ts ∨ (q ≠ d ∧ (pair = true → q ≠ d + 1))) (h : Group) :
    (ts.foldl (fun g t => g.setVal pair d t (f t)) h).reg q u = h.reg q u := by
  refine List.foldlRecOn (motive := fun g : Group => g.reg q u = h.reg q u) _ _ rfl fun g hg t ht => ?_
  refine (g.reg_setVal_other (hts t ht) hu ?_ _).trans hg
  exact hother.imp_left fun hmem => ne_of_mem_of_not_mem ht hmem |>.symm

theorem val_foldl_setVal {u : Nat} (hu : u ∈ ts) (h : Group) :
    (ts.foldl (fun g t => g.setVal pair d t (f t)) h).val pair d u = f u % 2 ^ (if pair then 64 else 32) := by
  induction ts generalizing h with
  | nil => cases hu
  | cons t ts ih =>
    have hrest : ∀ w ∈ ts, w < 64 := fun w hw => hts w (List.mem_cons_of_mem t hw)
    by_cases hmem : u ∈ ts
    · exact ih hrest hmem _
    · obtain rfl : u = t := (List.mem_cons.mp hu).resolve_right hmem
      have hu64 := hts u List.mem_cons_self
      rw [List.foldl_cons]
      simp only [val, reg_foldl_setVal_other hrest hu64 (.inl hmem)]
      exact h.val_setVal_same hu64 pair d (f u)

end Fold

theorem lt_of_mem_covered {g : Group} {w t : Nat} (h : t ∈ g.covered w) : t < 64 := List.mem_range.mp (List.mem_filter.mp h).1

end Group

namespace Lane

variable (x : Lane) (h : Group) (pair : Bool) (d : Nat) (f : Nat → Nat)

/-- Of the group the write of a result changes the registers alone (R176). -/
theorem putVec_eq : x.putVec h pair d f = { h with v := (x.putVec h pair d f).v } := by
  refine List.foldlRecOn (motive := fun g : Group => g = { h with v := g.v }) _ _ rfl fun g hg t _ => ?_
  exact (g.setVal_eq pair d t (f t)).trans (congrArg (fun k : Group => { k with v := (g.setVal pair d t (f t)).v }) hg)

variable {x}

/-- A covered thread's destination holds its result, as wide as the destination is (R176, R178). -/
theorem val_putVec {t : Nat} (ht : t ∈ x.grp.covered x.w) : (x.putVec h pair d f).val pair d t = f t % 2 ^ (if pair then 64 else 32) :=
  Group.val_foldl_setVal (fun _ => Group.lt_of_mem_covered) ht h

variable {pair d}

/-- The registers of the threads that are not covered, and the registers beside the destination, stay (R176). -/
theorem reg_putVec_other {r t : Nat} (ht : t < 64) (hother : t ∉ x.grp.covered x.w ∨ (r ≠ d ∧ (pair = true → r ≠ d + 1))) :
    (x.putVec h pair d f).reg r t = h.reg r t :=
  Group.reg_foldl_setVal_other (fun _ => Group.lt_of_mem_covered) ht hother h

end Lane

/-! ## Packed elements -/

/-- `n` elements of `w` bits, the first lowest. -/
def packElems (w n : Nat) (e : Nat → Nat) : Nat := (List.range n).foldl (fun r h => r + e h % 2 ^ w * 2 ^ (w * h)) 0

theorem packElems_succ (w n : Nat) (e : Nat → Nat) : packElems w (n + 1) e = packElems w n e + e n % 2 ^ w * 2 ^ (w * n) := by
  simp only [packElems, List.range_succ, List.foldl_append, List.foldl_cons, List.foldl_nil]

theorem packElems_lt (w n : Nat) (e : Nat → Nat) : packElems w n e < 2 ^ (w * n) := by
  induction n with
  | zero => exact Nat.two_pow_pos _
  | succ n ih =>
    have helem : e n % 2 ^ w + 1 ≤ 2 ^ w := Nat.mod_lt _ (Nat.two_pow_pos w)
    calc packElems w (n + 1) e = packElems w n e + e n % 2 ^ w * 2 ^ (w * n) := packElems_succ w n e
      _ < (e n % 2 ^ w + 1) * 2 ^ (w * n) := by rw [Nat.add_mul]; omega
      _ ≤ 2 ^ w * 2 ^ (w * n) := Nat.mul_le_mul_right _ helem
      _ = 2 ^ (w * (n + 1)) := by rw [← Nat.pow_add, Nat.mul_add_one, Nat.add_comm]

/-- Each of the packed elements reads back. -/
theorem bitsOf_packElems (w : Nat) {n k : Nat} (e : Nat → Nat) (hk : k < n) : bitsOf (packElems w n e) (w * k) w = e k % 2 ^ w := by
  induction n with
  | zero => omega
  | succ n ih =>
    simp only [bitsOf, Nat.shiftRight_eq_div_pow] at ih ⊢
    rw [packElems_succ]
    obtain hlt | rfl := Nat.lt_succ_iff_lt_or_eq.mp hk
    · obtain ⟨m, rfl⟩ := Nat.exists_eq_add_of_lt hlt
      have hsplit : e (k + m + 1) % 2 ^ w * 2 ^ (w * (k + m + 1)) = 2 ^ (w * k) * (2 ^ w * (e (k + m + 1) % 2 ^ w * 2 ^ (w * m))) := by
        rw [Nat.mul_add_one, Nat.mul_add, Nat.pow_add, Nat.pow_add]
        ac_rfl
      rw [hsplit, Nat.add_mul_div_left _ _ (Nat.two_pow_pos _), Nat.add_mul_mod_self_left, ih hlt]
    · rw [Nat.add_mul_div_right _ _ (Nat.two_pow_pos _), Nat.div_eq_of_lt (packElems_lt w k e), Nat.zero_add, Nat.mod_mod]

/-! ## The shapes of types -/

theorem typeW_pos (ty : Nat) : 0 < typeW ty := by
  unfold typeW
  repeat' split
  all_goals omega

/-- The elements of a type fill the register or the pair (R178). -/
theorem typeW_mul_typeN (ty : Nat) : typeW ty * typeN ty = if typePair ty then 64 else 32 := by
  refine Nat.mul_div_cancel' ?_
  by_cases h2 : ty = 2
  · subst h2; decide
  · by_cases h5 : ty = 5
    · subst h5; decide
    · have hpair : typePair ty = true := by simp only [typePair, bne_iff_ne, Bool.and_eq_true, ne_eq, h2, h5, not_false_eq_true, and_self]
      simp only [hpair, if_true, typeW]
      repeat' split
      all_goals decide

theorem elemOf_lt (ty v k : Nat) : elemOf ty v k < 2 ^ typeW ty := Nat.mod_lt _ (Nat.two_pow_pos _)

/-- An element of a result is what the operation makes of the elements of the sources (R178). -/
theorem elemOf_eachElem {ty k : Nat} (f : Nat → Nat → Nat → Nat) (a b c : Nat) (hk : k < typeN ty) :
    elemOf ty (eachElem ty f a b c % 2 ^ (if typePair ty then 64 else 32)) k =
      f (elemOf ty a k) (elemOf ty b k) (elemOf ty c k) % 2 ^ typeW ty := by
  have hpack : eachElem ty f a b c = packElems (typeW ty) (typeN ty) fun h => f (elemOf ty a h) (elemOf ty b h) (elemOf ty c h) := rfl
  rw [hpack, ← typeW_mul_typeN, Nat.mod_eq_of_lt (packElems_lt _ _ _)]
  exact bitsOf_packElems _ _ hk

end Sys2Proof.Machine
end

section
/-! What the operations of lanes on numbers are on words: signed values, clamped results, shifts, rotations and three-input functions (R94, R180, R181). -/

namespace Sys2Proof.Machine

open Sys2Proof

/-! ## Bits and signed values -/

theorem bitAt_eq_testBit (v i : Nat) : bitAt v i = v.testBit i := by
  rw [Nat.testBit_eq_decide_div_mod_eq, bitAt, Nat.shiftRight_eq_div_pow]
  rfl

theorem natCast_two_pow (n : Nat) : ((2 ^ n : Nat) : Int) = 2 ^ n := Int.natCast_pow 2 n

theorem toNat_emod_two_pow_lt (w : Nat) (v : Int) : (v % (2 ^ w : Int)).toNat < 2 ^ w := by
  have hpos : (0 : Int) < 2 ^ w := Int.pow_pos (by decide)
  rw [Int.toNat_lt (Int.emod_nonneg v (Int.ne_of_gt hpos)), natCast_two_pow]
  exact Int.emod_lt_of_pos v hpos

theorem ofNat_emod_eq_ofInt (w : Nat) (v : Int) : BitVec.ofNat w (v % (2 ^ w : Int)).toNat = BitVec.ofInt w v := by
  refine BitVec.eq_of_toNat_eq ?_
  rw [BitVec.toNat_ofNat, BitVec.toNat_ofInt, Nat.mod_eq_of_lt (toNat_emod_two_pow_lt w v), natCast_two_pow]

section Words

variable {w : Nat}

theorem ofNat_toNat_self (a : BitVec w) : BitVec.ofNat w a.toNat = a := by rw [BitVec.ofNat_toNat, BitVec.setWidth_eq]

theorem ofNat_mul_two_pow (a : BitVec w) (n : Nat) : BitVec.ofNat w (a.toNat * 2 ^ n) = a <<< n := by
  refine BitVec.eq_of_toNat_eq ?_
  rw [BitVec.toNat_ofNat, BitVec.toNat_shiftLeft, Nat.shiftLeft_eq]

theorem ofNat_div_two_pow (a : BitVec w) (n : Nat) : BitVec.ofNat w (a.toNat / 2 ^ n) = a >>> n := by
  rw [← Nat.shiftRight_eq_div_pow, ← BitVec.toNat_ushiftRight, ofNat_toNat_self]

theorem ofNat_min (a b : BitVec w) : BitVec.ofNat w (min a.toNat b.toNat) = if a.ult b then a else b := by
  simp only [BitVec.ult, decide_eq_true_eq]
  split
  · rw [Nat.min_eq_left (Nat.le_of_lt ‹_›), ofNat_toNat_self]
  · rw [Nat.min_eq_right (Nat.le_of_not_lt ‹_›), ofNat_toNat_self]

theorem ofNat_max (a b : BitVec w) : BitVec.ofNat w (max a.toNat b.toNat) = if a.ult b then b else a := by
  simp only [BitVec.ult, decide_eq_true_eq]
  split
  · rw [Nat.max_eq_right (Nat.le_of_lt ‹_›), ofNat_toNat_self]
  · rw [Nat.max_eq_left (Nat.le_of_not_lt ‹_›), ofNat_toNat_self]

theorem ofNat_rotlBits (a : BitVec w) {n : Nat} (hn : n < w) : BitVec.ofNat w (rotlBits w a.toNat n) = a.rotateLeft n := by
  have hsplit : 2 ^ w = 2 ^ (w - n) * 2 ^ n := by rw [← Nat.pow_add, Nat.sub_add_cancel (Nat.le_of_lt hn)]
  have hlow : a.toNat / 2 ^ (w - n) < 2 ^ n := Nat.div_lt_of_lt_mul (hsplit ▸ a.isLt)
  have hhigh : a.toNat * 2 ^ n % 2 ^ w = (a.toNat % 2 ^ (w - n)) <<< n := by rw [hsplit, Nat.mul_mod_mul_right, Nat.shiftLeft_eq]
  have hval : rotlBits w a.toNat n = (a.rotateLeft n).toNat := by
    rw [BitVec.toNat_rotateLeft, Nat.mod_eq_of_lt hn, Nat.shiftRight_eq_div_pow, Nat.shiftLeft_eq, rotlBits, hhigh]
    exact Nat.shiftLeft_add_eq_or_of_lt hlow _
  rw [hval, ofNat_toNat_self]

variable (hw : 0 < w)
include hw

/-- Two's complement is what a word read as signed holds (R94). -/
theorem signedOf_toNat (a : BitVec w) : signedOf w a.toNat = a.toInt := by
  have hhalf : 2 ^ w = 2 * 2 ^ (w - 1) := by rw [← Nat.pow_succ', Nat.succ_eq_add_one, Nat.sub_add_cancel hw]
  have hsign : a.toNat < 2 ^ (w - 1) ↔ 2 * a.toNat < 2 ^ w := by omega
  simp only [signedOf, BitVec.toInt_eq_toNat_cond, hsign, natCast_two_pow]

theorem satRead_toNat (sat : Nat) (a : BitVec w) : satRead sat w a.toNat = readInt sat a := by
  simp only [satRead, readInt, signedOf_toNat hw]

theorem ofNat_sarBits (a : BitVec w) (n : Nat) : BitVec.ofNat w (sarBits w a.toNat n) = a.sshiftRight n := by
  rw [sarBits, ofNat_emod_eq_ofInt, signedOf_toNat hw, BitVec.sshiftRight, Int.shiftRight_eq_div_pow, natCast_two_pow]

theorem signedOf_lt_iff_slt (a b : BitVec w) : signedOf w a.toNat < signedOf w b.toNat ↔ a.slt b = true := by
  rw [signedOf_toNat hw, signedOf_toNat hw, BitVec.slt_iff_toInt_lt]

theorem ofNat_ite_signedOf_lt (a b p q : BitVec w) :
    BitVec.ofNat w (if signedOf w a.toNat < signedOf w b.toNat then p.toNat else q.toNat) = if a.slt b then p else q := by
  simp only [signedOf_lt_iff_slt hw, apply_ite (BitVec.ofNat w), ofNat_toNat_self]

end Words

/-- An exact result is written as its low bits, or clamped once (R181). -/
theorem ofNat_satWrite (sat w : Nat) (v : Int) : BitVec.ofNat w (satWrite sat w v) = writeInt w sat v := by
  unfold satWrite writeInt
  dsimp only
  rw [ofNat_emod_eq_ofInt]
  by_cases h0 : sat = 0
  · simp only [h0, if_true]
  · by_cases h2 : sat = 2
    · simp only [h2, if_true, Nat.reduceEqDiff, if_false]
    · simp only [h0, h2, if_false]

/-! ## Three-input functions of bits -/

/-- The bits of a three-input function are one-bit elements. -/
theorem lopBits_eq_packElems (tt w a b c : Nat) :
    lopBits tt w a b c = packElems 1 w fun i => b2n (bitAt tt (4 * b2n (bitAt a i) + 2 * b2n (bitAt b i) + b2n (bitAt c i))) := by
  have hbit : ∀ v : Bool, b2n v % 2 ^ 1 = b2n v := by decide
  simp only [lopBits, packElems, hbit, Nat.one_mul]

/-- A bit of a three-input function is the bit of the table that the three bits name (R180). -/
theorem testBit_lopBits {w i : Nat} (tt a b c : Nat) (hi : i < w) :
    (lopBits tt w a b c).testBit i = bitAt tt (4 * b2n (a.testBit i) + 2 * b2n (b.testBit i) + b2n (c.testBit i)) := by
  have hread := bitsOf_packElems 1 (fun i => b2n (bitAt tt (4 * b2n (bitAt a i) + 2 * b2n (bitAt b i) + b2n (bitAt c i)))) hi
  rw [← lopBits_eq_packElems, bitsOf, Nat.one_mul, Nat.shiftRight_eq_div_pow, Nat.pow_one] at hread
  rw [Nat.testBit_eq_decide_div_mod_eq, hread]
  simp only [bitAt_eq_testBit]
  cases tt.testBit _ <;> rfl

theorem getLsbD_foldl_or {w : Nat} (p : Nat → Bool) (e : Nat → BitVec w) (i : Nat) (l : List Nat) (r : BitVec w) :
    (l.foldl (fun r j => if p j then r ||| e j else r) r).getLsbD i = (r.getLsbD i || l.any fun j => p j && (e j).getLsbD i) := by
  induction l generalizing r with
  | nil => exact (Bool.or_false _).symm
  | cons j l ih =>
    rw [List.foldl_cons, ih, List.any_cons, ← Bool.or_assoc]
    cases p j with
    | false => simp only [Bool.false_eq_true, if_false, Bool.false_and, Bool.or_false]
    | true => simp only [if_true, BitVec.getLsbD_or, Bool.true_and]

theorem getLsbD_tableFn {w i : Nat} (wd : Nat) (a b c : BitVec w) (hi : i < w) :
    (tableFn wd w a b c).getLsbD i = bitAt (lopTable wd) (4 * b2n (a.getLsbD i) + 2 * b2n (b.getLsbD i) + b2n (c.getLsbD i)) := by
  have hterm : ∀ x y z : Bool, ∀ j < 8, ((if bitAt j 2 then x else !x) && (if bitAt j 1 then y else !y) && (if bitAt j 0 then z else !z)) =
      (j == 4 * b2n x + 2 * b2n y + b2n z) := by decide
  have hindex : ∀ x y z : Bool, 4 * b2n x + 2 * b2n y + b2n z < 8 := by decide
  have hlit : ∀ (q : Bool) (v : BitVec w), (if q then v else ~~~v).getLsbD i = if q then v.getLsbD i else !v.getLsbD i := fun q v => by
    cases q with
    | false => simp only [Bool.false_eq_true, if_false, BitVec.getLsbD_not, hi, decide_true, Bool.true_and]
    | true => simp only [if_true]
  rw [tableFn, getLsbD_foldl_or, BitVec.getLsbD_zero, Bool.false_or]
  simp only [BitVec.getLsbD_and, hlit]
  rw [Bool.eq_iff_iff, List.any_eq_true]
  constructor
  · rintro ⟨j, hj, hbits⟩
    rw [hterm _ _ _ j (List.mem_range.mp hj), Bool.and_eq_true, beq_iff_eq] at hbits
    exact hbits.2 ▸ hbits.1
  · intro hbit
    refine ⟨4 * b2n (a.getLsbD i) + 2 * b2n (b.getLsbD i) + b2n (c.getLsbD i), List.mem_range.mpr (hindex _ _ _), ?_⟩
    rw [hterm _ _ _ _ (hindex _ _ _), hbit, beq_self_eq_true]
    rfl

theorem ofNat_lopBits {w : Nat} (wd : Nat) (a b c : BitVec w) : BitVec.ofNat w (lopBits (lopTable wd) w a.toNat b.toNat c.toNat) = tableFn wd w a b c := by
  refine BitVec.eq_of_getLsbD_eq fun i hi => ?_
  rw [BitVec.getLsbD_ofNat, testBit_lopBits _ _ _ _ hi, getLsbD_tableFn wd a b c hi, decide_eq_true hi, Bool.true_and]
  rfl

end Sys2Proof.Machine
end

section
/-! What the vector instructions, the compares and the scalar instructions of lanes write (R176 to R184, R197). -/

namespace Sys2Proof.Machine

open Sys2Proof

/-! ## What the vector instructions do to an element -/

/-- What the model does to the elements of A, B and C, read as numbers, is `e` of them as words. -/
def ComputesElem (f : Nat → Nat → Nat → Nat → Nat → Nat) (e : ElemFn) : Prop :=
  ∀ wd w, 0 < w → ∀ a b c : BitVec w, BitVec.ofNat w (f wd w a.toNat b.toNat c.toNat) = e wd w a b c

theorem computesElem_exactInt (f : Int → Int → Int → Int) :
    ComputesElem (fun wd w a b c => satWrite (vSat wd) w (f (satRead (vSat wd) w a) (satRead (vSat wd) w b) (satRead (vSat wd) w c))) (exactInt f) := by
  intro wd w hw a b c
  simp only [satRead_toNat hw, ofNat_satWrite, exactInt]

theorem computesElem_imulhiS : ComputesElem (fun _ w a b _ => ((signedOf w a * signedOf w b / (2 ^ w : Int)) % (2 ^ w : Int)).toNat)
    fun _ w a b _ => BitVec.ofInt w (a.toInt * b.toInt / 2 ^ w) := by
  intro wd w hw a b c
  simp only [signedOf_toNat hw, ofNat_emod_eq_ofInt]

theorem computesElem_iabs :
    ComputesElem (fun wd w a _ _ => satWrite (vSat wd) w (signedOf w a).natAbs) fun wd w a _ _ => writeInt w (vSat wd) a.toInt.natAbs := by
  intro wd w hw a b c
  simp only [signedOf_toNat hw, ofNat_satWrite]

/-- Each row runs its element function on the elements (R180 to R184). -/
theorem vectorRow_computes : ∀ e ∈ vectorRows, ∃ f, (∀ g s, exec (e.1 g) s = .next (laneVec e.2.1 e.2.2.1 f g s)) ∧ ComputesElem f e.2.2.2 := by
  simp only [vectorRows, List.forall_mem_cons]
  exact ⟨
    -- shifts, rotations and bit operations (R180)
    ⟨_, fun _ _ => rfl, fun _ _ _ a _ _ => ofNat_mul_two_pow a _⟩,
    ⟨_, fun _ _ => rfl, fun _ _ _ a _ _ => ofNat_div_two_pow a _⟩,
    ⟨_, fun _ _ => rfl, fun _ _ hw a _ _ => ofNat_sarBits hw a _⟩,
    ⟨_, fun _ _ => rfl, fun _ _ hw a b _ => ofNat_rotlBits a (Nat.mod_lt b.toNat hw)⟩,
    ⟨_, fun _ _ => rfl, fun _ _ _ a b _ => ofNat_toNat_self (a &&& b)⟩,
    ⟨_, fun _ _ => rfl, fun _ _ _ a b _ => ofNat_toNat_self (a ||| b)⟩,
    ⟨_, fun _ _ => rfl, fun _ _ _ a b _ => ofNat_toNat_self (a ^^^ b)⟩,
    ⟨_, fun _ _ => rfl, fun wd _ _ a b c => ofNat_lopBits wd a b c⟩,
    -- integer arithmetic (R181)
    ⟨_, fun _ _ => rfl, computesElem_exactInt fun a b _ => a + b⟩,
    ⟨_, fun _ _ => rfl, computesElem_exactInt fun a b _ => a - b⟩,
    ⟨_, fun _ _ => rfl, computesElem_exactInt fun a b _ => a * b⟩,
    ⟨_, fun _ _ => rfl, computesElem_imulhiS⟩,
    ⟨_, fun _ _ => rfl, computesElem_exactInt fun a b c => a * b + c⟩,
    ⟨_, fun _ _ => rfl, fun _ _ hw a b _ => ofNat_ite_signedOf_lt hw a b a b⟩,
    ⟨_, fun _ _ => rfl, fun _ _ _ a b _ => ofNat_min a b⟩,
    ⟨_, fun _ _ => rfl, fun _ _ hw a b _ => ofNat_ite_signedOf_lt hw a b b a⟩,
    ⟨_, fun _ _ => rfl, fun _ _ _ a b _ => ofNat_max a b⟩,
    ⟨_, fun _ _ => rfl, computesElem_iabs⟩,
    ⟨_, fun _ _ => rfl, fun _ _ _ _ _ _ => rfl⟩,
    -- floating point (R182), approximations (R183) and the move (R184)
    ⟨_, fun _ _ => rfl, fun _ _ _ _ _ _ => rfl⟩,
    ⟨_, fun _ _ => rfl, fun _ _ _ _ _ _ => rfl⟩,
    ⟨_, fun _ _ => rfl, fun _ _ _ _ _ _ => rfl⟩,
    ⟨_, fun _ _ => rfl, fun _ _ _ _ _ _ => rfl⟩,
    ⟨_, fun _ _ => rfl, fun _ _ _ _ _ _ => rfl⟩,
    ⟨_, fun _ _ => rfl, fun _ _ _ _ _ _ => rfl⟩,
    ⟨_, fun _ _ => rfl, fun _ _ _ _ _ _ => rfl⟩,
    ⟨_, fun _ _ => rfl, fun _ _ _ _ _ _ => rfl⟩,
    ⟨_, fun _ _ => rfl, fun _ _ _ _ _ _ => rfl⟩,
    ⟨_, fun _ _ => rfl, fun _ _ _ _ b _ => ofNat_toNat_self b⟩, fun _ h => nomatch h⟩

/-- Settles O20: a row runs its registers, and an element of a covered thread's destination is what the row's function makes of the sources' elements. -/
theorem vectorInstructionsComputeElements : Obligations.VectorInstructionsComputeElements := by
  unfold Obligations.VectorInstructionsComputeElements
  intro e he s g x hx hw
  obtain ⟨f, hrun, hf⟩ := vectorRow_computes e he
  refine ⟨x.runVec x.past e.2.2.1 (f x.w (typeW (vTy x.w))), ?run, x.putVec_eq _ _ _ _, fun t ht k hk => ?elem, fun r t => ?frame⟩
  case run => exact (hrun g s).trans (congrArg Host.Outcome.next (State.laneReg_of_opcode hx hw))
  case elem =>
    have hword : ∀ v, (BitVec.ofNat (typeW (vTy x.w)) (elemOf (vTy x.w) v k)).toNat = elemOf (vTy x.w) v k := fun v =>
      Nat.mod_eq_of_lt (elemOf_lt _ _ _)
    rw [Lane.runVec, Lane.val_putVec _ _ _ _ ht, elemOf_eachElem _ _ _ _ hk, ← hf x.w _ (typeW_pos _)]
    simp only [hword]
    exact BitVec.eq_of_toNat_eq (by simp only [BitVec.toNat_ofNat, Nat.mod_mod])
  case frame => exact Lane.reg_putVec_other x.past _

/-! ## The operands of compares and scalar instructions -/

theorem sext_lt (w n v : Nat) : sext w n v < 2 ^ n := toNat_emod_two_pow_lt n _

theorem encodeFlt_cFp64_lt (v : Num) : (encodeFlt cFp64 v).1 < 2 ^ 64 := by
  have hnan : canonNan cFp64 < 2 ^ 64 := by decide
  have hinf : ∀ n, signBit cFp64 n + maxCode cFp64 + 1 < 2 ^ 64 := by decide
  have hfinite : ∀ n r, r ≤ maxCode cFp64 → signBit cFp64 n + r < 2 ^ 64 := fun n r hr => by
    have := hinf n
    omega
  have hHas : hasInf cFp64 = true := by decide
  cases v with
  | nan => exact hnan
  | inf n => simpa only [encodeFlt, hHas, if_true] using hinf n
  | fin n m e =>
    simp only [encodeFlt, hHas, if_true]
    split
    · split
      · exact Nat.two_pow_pos 64
      · exact hfinite n _ ‹_›
    · exact hinf n

section OneElement

variable {ty : Nat} (hn : typeN ty = 1)
include hn

/-- A type of one element is as wide as its register or pair (R178). -/
theorem typeW_of_one : typeW ty = if typePair ty then 64 else 32 := by rw [← typeW_mul_typeN, hn, Nat.mul_one]

theorem splat_of_one (e : Nat) : splat ty e = e := by
  simp only [splat, hn, List.range_one, List.foldl_cons, List.foldl_nil, Nat.mul_zero, Nat.pow_zero, Nat.mul_one, Nat.zero_add]

theorem srcVal_lt (g : Group) (f : Nat) (sc : Bool) (t : Nat) : srcVal g ty f sc t < 2 ^ typeW ty := by
  rw [typeW_of_one hn, srcVal]
  cases sc with
  | false => exact g.val_lt _ _ _
  | true =>
    cases typePair ty with
    | false => exact Nat.mod_lt _ (Nat.two_pow_pos 32)
    | true => exact g.sc_lt _

/-- An immediate widens to no more than the element (R179). -/
theorem immElem_lt (kind : Nat) {wide : Bool} {v : Nat} (hv : v < 2 ^ 32) (hshort : wide ≠ true → v < 2 ^ 16) :
    immElem kind ty wide v < 2 ^ typeW ty := by
  have hwidth : typeW ty = 32 ∨ typeW ty = 64 := by
    rw [typeW_of_one hn]
    cases typePair ty <;> decide
  have hword : 2 ^ 32 ≤ 2 ^ typeW ty := Nat.pow_le_pow_right (by decide) (by omega)
  have hmod : v % 2 ^ typeW ty < 2 ^ typeW ty := Nat.mod_lt _ (Nat.two_pow_pos _)
  have hfp64 : ∀ u, ty = 8 → (encodeFlt cFp64 u).1 < 2 ^ typeW ty := fun u h8 => by
    subst h8
    exact encodeFlt_cFp64_lt u
  unfold immElem
  extract_lets w k
  clear_value k
  by_cases hfloat : k = 2
  · rw [if_pos hfloat]
    split
    · split
      · omega
      · split
        · exact hfp64 _ ‹ty = 8›
        · omega
    · have hsmall := hshort ‹_›
      split
      · omega
      · split
        · exact hfp64 _ ‹ty = 8›
        · omega
  · rw [if_neg hfloat]
    split
    · exact hmod
    · split
      · split
        · exact hmod
        · have hlong : typeW ty = 64 := by omega
          rw [hlong]
          exact sext_lt 32 64 v
      · split
        · exact hmod
        · exact sext_lt 16 w v

end OneElement

namespace Lane

variable {x : Lane} (hn : typeN (vTy x.w) = 1) (t : Nat)
include hn

theorem srcA_lt : x.srcA t < 2 ^ typeW (vTy x.w) := srcVal_lt hn _ _ _ _

theorem srcB_lt (kind : Nat) : x.srcB kind t < 2 ^ typeW (vTy x.w) := by
  unfold srcB
  split
  · rw [splat_of_one hn]
    split
    · exact immElem_lt hn kind (Nat.mod_lt _ (Nat.two_pow_pos 32)) (absurd rfl)
    · have himm : bitsOf x.w 36 16 < 2 ^ 16 := Nat.mod_lt _ (Nat.two_pow_pos 16)
      exact immElem_lt hn kind (Nat.lt_trans himm (by decide)) fun _ => himm
  · exact srcVal_lt hn _ _ _ _

end Lane

/-! ## Compares -/

/-- What the model finds of A and B, read as numbers, is `e` of them as words. -/
def ComputesCond (f : Nat → Nat → Nat → Nat → Bool) (e : Nat → (w : Nat) → BitVec w → BitVec w → Bool) : Prop :=
  ∀ wd w, 0 < w → ∀ a b : BitVec w, f wd w a.toNat b.toNat = e wd w a b

theorem toNat_beq_toNat {w : Nat} (a b : BitVec w) : (a.toNat == b.toNat) = (a == b) := by
  rw [Bool.eq_iff_iff, beq_iff_eq, beq_iff_eq, BitVec.toNat_inj]

/-- Each row writes what its condition finds (R184). -/
theorem compareRow_computes : ∀ e ∈ compareRows, ∃ f, (∀ g s, exec (e.1 g) s = .next (cmpVec e.2.1 e.2.2.1 f g s)) ∧ ComputesCond f e.2.2.2 := by
  simp only [compareRows, List.forall_mem_cons]
  exact ⟨⟨_, fun _ _ => rfl, fun _ _ _ a b => toNat_beq_toNat a b⟩,
    ⟨_, fun _ _ => rfl, fun _ _ _ a b => congrArg not (toNat_beq_toNat a b)⟩,
    ⟨_, fun _ _ => rfl, fun _ _ hw a b => by simp only [signedOf_toNat hw, BitVec.slt]⟩,
    ⟨_, fun _ _ => rfl, fun _ _ hw a b => by simp only [signedOf_toNat hw, BitVec.sle]⟩,
    ⟨_, fun _ _ => rfl, fun _ _ _ _ _ => rfl⟩,
    ⟨_, fun _ _ => rfl, fun _ _ _ _ _ => rfl⟩,
    ⟨_, fun _ _ => rfl, fun _ _ _ _ _ => rfl⟩,
    ⟨_, fun _ _ => rfl, fun _ _ _ _ _ => rfl⟩,
    ⟨_, fun _ _ => rfl, fun _ _ _ _ _ => rfl⟩,
    ⟨_, fun _ _ => rfl, fun _ _ _ _ _ => rfl⟩, fun _ h => nomatch h⟩

/-- A put bit stands between the bits above it and those below. -/
theorem putBit_eq (p t : Nat) (v : Bool) : putBit p t v = 2 ^ t * (2 * (p / 2 ^ t / 2) + b2n v) + p % 2 ^ t := by
  have hbit : b2n v % 2 ^ 1 = b2n v := by cases v <;> rfl
  have hsplit : p = 2 ^ t * (2 * (p / 2 ^ t / 2)) + p / 2 ^ t % 2 * 2 ^ t + p % 2 ^ t := by
    conv => lhs; rw [← Nat.div_add_mod p (2 ^ t), ← Nat.div_add_mod (p / 2 ^ t) 2, Nat.mul_add, Nat.mul_comm (2 ^ t) (_ % 2)]
  rw [putBit, setBits, bitsOf, Nat.shiftRight_eq_div_pow, hbit, Nat.pow_one, Nat.mul_add, Nat.mul_comm (2 ^ t) (b2n v)]
  omega

/-- A bit that is put is what a read of it finds, and no other bit reads differently. -/
theorem bitAt_putBit (p t : Nat) (v : Bool) (i : Nat) : bitAt (putBit p t v) i = if i = t then v else bitAt p i := by
  have hlow : p % 2 ^ t < 2 ^ t := Nat.mod_lt _ (Nat.two_pow_pos t)
  rw [bitAt_eq_testBit, bitAt_eq_testBit, putBit_eq, Nat.testBit_two_pow_mul_add _ hlow]
  obtain hlt | rfl | hgt := Nat.lt_trichotomy i t
  · rw [if_pos hlt, if_neg (Nat.ne_of_lt hlt), Nat.testBit_mod_two_pow, decide_eq_true hlt, Bool.true_and]
  · rw [if_neg (Nat.lt_irrefl i), if_pos rfl, Nat.sub_self, Nat.testBit_zero]
    rw [Nat.mul_add_mod]
    cases v <;> rfl
  · have hbit : b2n v < 2 := by cases v <;> decide
    have hhalf : (2 * (p / 2 ^ t / 2) + b2n v) / 2 = p / 2 ^ t / 2 := by omega
    obtain ⟨n, hn⟩ : ∃ n, i - t = n + 1 := ⟨i - t - 1, by omega⟩
    rw [if_neg (Nat.not_lt_of_gt hgt), if_neg (Nat.ne_of_gt hgt), hn, Nat.testBit_succ, hhalf, ← Nat.testBit_succ, Nat.testBit_div_two_pow]
    exact congrArg p.testBit (by omega)

theorem bitAt_foldl_putBit (v : Nat → Bool) (i : Nat) (ts : List Nat) (p : Nat) :
    bitAt (ts.foldl (fun p t => putBit p t (v t)) p) i = if i ∈ ts then v i else bitAt p i := by
  induction ts generalizing p with
  | nil => exact (if_neg List.not_mem_nil).symm
  | cons t ts ih =>
    rw [List.foldl_cons, ih, bitAt_putBit]
    by_cases hmem : i ∈ ts
    · rw [if_pos hmem, if_pos (List.mem_cons_of_mem t hmem)]
    · rw [if_neg hmem]
      by_cases heq : i = t
      · rw [if_pos heq, if_pos (heq ▸ List.mem_cons_self), heq]
      · rw [if_neg heq, if_neg fun h => (List.mem_cons.mp h).elim heq hmem]

/-- Settles O21: a row puts the bits of the covered threads, and its predicate keeps all 64. -/
theorem comparesWriteCoveredBits : Obligations.ComparesWriteCoveredBits := by
  unfold Obligations.ComparesWriteCoveredBits
  intro e he s g x hx hw hn
  obtain ⟨f, hrun, hf⟩ := compareRow_computes e he
  refine ⟨_, (hrun g s).trans (congrArg Host.Outcome.next (State.laneReg_of_opcode hx hw)), rfl, fun i hi => ?other, fun t ht => ?bit⟩
  case other => exact (Group.pr_setPr _ _ _ _).trans (if_neg hi)
  case bit =>
    have hcond := hf x.w _ (typeW_pos (vTy x.w)) (BitVec.ofNat _ (x.srcA t)) (BitVec.ofNat _ (x.srcB e.2.2.1 t))
    rw [BitVec.toNat_ofNat, BitVec.toNat_ofNat, Nat.mod_eq_of_lt (Lane.srcA_lt hn t), Nat.mod_eq_of_lt (Lane.srcB_lt hn t _)] at hcond
    rw [Group.pr_setPr, if_pos rfl, bitAt_eq_testBit, Nat.testBit_mod_two_pow, decide_eq_true ht, Bool.true_and, ← bitAt_eq_testBit,
      bitAt_foldl_putBit, hcond]

/-! ## Scalar instructions -/

theorem scalB_lt (x : Lane) (signed : Bool) : scalB x signed < 2 ^ 64 := by
  have himm : (if bitAt x.w 31 then x.ext % 2 ^ 32 else bitsOf x.w 48 16) < 2 ^ 64 := by
    split
    · omega
    · exact Nat.lt_trans (Nat.mod_lt _ (Nat.two_pow_pos 16)) (by decide)
  unfold scalB
  split
  · cases signed with
    | false => exact himm
    | true => exact sext_lt _ _ _
  · exact x.grp.sc_lt _

theorem ofNat_add_complement (a b : BitVec 64) : BitVec.ofNat 64 (a.toNat + (2 ^ 64 - b.toNat)) = a - b := by
  refine BitVec.eq_of_toNat_eq ?_
  rw [BitVec.toNat_ofNat, BitVec.toNat_sub, Nat.add_comm]

/-- Each row runs its function on `s[SA]` and B (R197). -/
theorem scalarRow_computes : ∀ e ∈ scalarRows, ∃ f, (∀ g s, exec (e.1 g) s = .next (saluOp e.2.1 e.2.2.1 f g s)) ∧
    ∀ a b : BitVec 64, BitVec.ofNat 64 (f a.toNat b.toNat) = e.2.2.2 a b := by
  simp only [scalarRows, List.forall_mem_cons]
  exact ⟨⟨_, fun _ _ => rfl, fun a b => (BitVec.ofNat_add a.toNat b.toNat).trans (by rw [ofNat_toNat_self, ofNat_toNat_self])⟩,
    ⟨_, fun _ _ => rfl, ofNat_add_complement⟩,
    ⟨_, fun _ _ => rfl, fun a b => (BitVec.ofNat_mul a.toNat b.toNat).trans (by rw [ofNat_toNat_self, ofNat_toNat_self])⟩,
    ⟨_, fun _ _ => rfl, fun a b => ofNat_toNat_self (a &&& b)⟩,
    ⟨_, fun _ _ => rfl, fun a b => ofNat_toNat_self (a ||| b)⟩,
    ⟨_, fun _ _ => rfl, fun a b => ofNat_toNat_self (a ^^^ b)⟩,
    ⟨_, fun _ _ => rfl, fun a _ => ofNat_mul_two_pow a _⟩,
    ⟨_, fun _ _ => rfl, fun a _ => ofNat_div_two_pow a _⟩,
    ⟨_, fun _ _ => rfl, fun a _ => ofNat_sarBits (by decide) a _⟩,
    ⟨_, fun _ _ => rfl, fun _ b => ofNat_toNat_self b⟩, fun _ h => nomatch h⟩

section Writes

variable {s : State} {x : Lane} {i : Instr} {d v m : Nat} (hv : v < 2 ^ 64)
include hv

/-- A command that writes a scalar register leaves the others and the rest of the group. -/
theorem exec_setSc_frame (hi : exec i s = .next (s.retire x (x.past.setSc d v) 0 m)) :
    ∃ h : Group, exec i s = .next (s.retire x h 0 m) ∧ h = { x.past with sreg := h.sreg } ∧ h.sc d = v ∧ ∀ j, j ≠ d → h.sc j = x.grp.sc j :=
  ⟨_, hi, rfl, (Group.sc_setSc _ _ _ _).trans ((if_pos rfl).trans (Nat.mod_eq_of_lt hv)), fun _ hj => (Group.sc_setSc _ _ _ _).trans (if_neg hj)⟩

/-- A command that writes a predicate leaves the others and the rest of the group. -/
theorem exec_setPr_frame (hi : exec i s = .next (s.retire x (x.past.setPr d v) 0 m)) :
    ∃ h : Group, exec i s = .next (s.retire x h 0 m) ∧ h = { x.past with preg := h.preg } ∧ h.pr d = v ∧ ∀ j, j ≠ d → h.pr j = x.grp.pr j :=
  ⟨_, hi, rfl, (Group.pr_setPr _ _ _ _).trans ((if_pos rfl).trans (Nat.mod_eq_of_lt hv)), fun _ hj => (Group.pr_setPr _ _ _ _).trans (if_neg hj)⟩

end Writes

/-- The words of one scalar operation (R197). -/
theorem salu_word_of_opcode {w sop : Nat} (hw : wOp w = 0x68) (hsop : bitsOf w 8 4 = sop) : (wOp w == 0x68 && bitsOf w 8 4 == sop) = true := by
  simp only [hw, hsop, beq_self_eq_true, Bool.and_true]

/-- Settles O23: each command is one write of a scalar register or of a predicate; a row's value is its function of the words it reads. -/
theorem scalarInstructionsWriteOneRegister : Obligations.ScalarInstructionsWriteOneRegister := by
  unfold Obligations.ScalarInstructionsWriteOneRegister
  intro s g x hx
  refine ⟨fun e he hw hsop => ?row, fun i hw v hi => ?scalar, fun i d v hi => ?predicate⟩
  case row =>
    obtain ⟨f, hrun, hf⟩ := scalarRow_computes e he
    obtain ⟨h, hnext, hframe, hd, hother⟩ := exec_setSc_frame (Nat.mod_lt _ (Nat.two_pow_pos 64))
      ((hrun g s).trans (congrArg Host.Outcome.next (State.laneReg_of_lane hx (salu_word_of_opcode hw hsop))))
    refine ⟨h, hnext, hframe, hd.trans ?_, hother⟩
    rw [← hf, BitVec.toNat_ofNat, BitVec.toNat_ofNat, BitVec.toNat_ofNat, Nat.mod_eq_of_lt (x.grp.sc_lt _), Nat.mod_eq_of_lt (scalB_lt x _)]
  case scalar =>
    obtain ⟨rfl, hsop, rfl⟩ | ⟨rfl, hsop, rfl⟩ := hi
    · exact exec_setSc_frame (x.grp.pr_lt _) (congrArg Host.Outcome.next (State.laneReg_of_lane hx (salu_word_of_opcode hw hsop)))
    · exact exec_setSc_frame (Nat.lt_trans (x.grp.reg_lt _ _) (by decide)) (congrArg Host.Outcome.next (State.laneReg_of_lane hx (salu_word_of_opcode hw hsop)))
  case predicate =>
    obtain ⟨rfl, hw, hsop, rfl, rfl⟩ | ⟨rfl, hw, rfl, rfl⟩ := hi
    · exact exec_setPr_frame (x.grp.sc_lt _) (congrArg Host.Outcome.next (State.laneReg_of_lane hx (salu_word_of_opcode hw hsop)))
    · have hmask : (if scmpCond (bitsOf x.w 8 4) (x.grp.sc (bitsOf x.w 18 6)) (scalB x true) then 2 ^ 64 - 1 else 0) < 2 ^ 64 := by split <;> decide
      exact exec_setPr_frame hmask (congrArg Host.Outcome.next (State.laneReg_of_opcode hx hw))

end Sys2Proof.Machine
end

section
/-! What the memory instructions of lanes do when every access is served: the threads act in order, and then the group goes on (R190 to R193, R195). -/

namespace Sys2Proof.Machine

open Sys2Proof

/-- Each row is one memory instruction of the lanes, run thread by thread (R190 to R192). -/
theorem exec_memoryRow : ∀ e ∈ memoryRows, ∀ (g : Nat) (s : State), exec (e.1 g) s = .next (s.laneMem g e.2.1 e.2.2.1 e.2.2.2) := by
  simp only [memoryRows, List.forall_mem_append, List.forall_mem_map, List.forall_mem_cons, List.not_mem_nil, false_imp_iff, implies_true, and_true]
  refine ⟨⟨?_, ?_, ?_⟩, ?_, ?_, ?_, ?_, ?_, ?_, ?_, ?_, ?_, ?_, ?_⟩ <;> exact fun _ _ => rfl

/-- What the first covered thread gives, 0 where none is covered: the address that an issue is sampled with (R496). -/
def Lane.lead (x : Lane) (va : Nat → Nat) : Nat :=
  match x.grp.covered x.w with
  | t :: _ => va t
  | [] => 0

/-- With every access served the group goes past the instruction with what its threads loaded (R192, R195). -/
theorem State.laneMem_of_served {s : State} {g : Nat} {x : Lane} {is : Nat → Bool} {f : Lane → ThreadRun} (hx : s.laneAt g = some x)
    (hw : is x.w = true) (hfirst : x.grp.replay = none) {r : MemRun} (hr : (x.grp.covered x.w).foldl (memStep x (f x)) ⟨s, x.grp, [], [], none⟩ = r)
    (hfailed : r.failed = []) (hdead : r.dead = none) (va : Lane → Nat → Nat) :
    s.laneMem g is va f = ((r.st.noteIssue x (x.lead (va x)) (maskOf (x.grp.covered x.w))).setGroup g
      (some ({ r.grp with pc := x.next, replay := none }.settle x.lch.codeEnd 34))).refreshBlock x.grp.blk := by
  simp only [State.laneMem, hx, hw, hfirst, hr, hfailed, hdead, Bool.not_true, Bool.false_eq_true, if_false, if_true, List.isEmpty_nil,
    Option.isSome_none]
  rfl

/-- A `PREFETCH` refuses no thread and leaves the group (R193). -/
theorem prefetchThread_eq (x : Lane) (s : State) (h : Group) (t : Nat) : prefetchThread x s h t = ((prefetchThread x s h t).1, h, none) := by
  unfold prefetchThread
  split
  · rfl
  · split <;> rfl

theorem memStep_of_served {x : Lane} {f : ThreadRun} {r : MemRun} {t : Nat} {s : State} {h : Group} (hdead : r.dead = none)
    (hf : f r.st r.grp t = (s, h, none)) : memStep x f r t = { r with st := s, grp := h } := by
  simp only [memStep, hdead, hf, Option.isSome_none, Bool.false_eq_true, if_false]

/-- The threads of a `PREFETCH` act one after the other, and none fails (R193). -/
theorem foldl_memStep_prefetch (x : Lane) (h : Group) (ts : List Nat) (s : State) :
    ts.foldl (memStep x (prefetchThread x)) ⟨s, h, [], [], none⟩ = ⟨ts.foldl (fun a t => (prefetchThread x a h t).1) s, h, [], [], none⟩ := by
  induction ts generalizing s with
  | nil => rfl
  | cons t ts ih =>
    rw [List.foldl_cons, List.foldl_cons, memStep_of_served rfl (prefetchThread_eq x s h t)]
    exact ih _

/-- Settles O25: a row and a `PREFETCH` are both memory instructions whose accesses are served, the latter whatever its threads find. -/
theorem memoryInstructionsRun : Obligations.MemoryInstructionsRun := by
  unfold Obligations.MemoryInstructionsRun
  intro s g x hx hfirst
  refine ⟨fun e he hw r hr hfailed hdead => ?row, fun hw u hu => ?prefetch⟩
  case row => exact (exec_memoryRow e he g s).trans (congrArg _ (State.laneMem_of_served hx hw hfirst hr.symm hfailed hdead e.2.2.1))
  case prefetch =>
    have hthreads := foldl_memStep_prefetch x x.grp (x.grp.covered x.w) s
    rw [← hu] at hthreads
    exact congrArg Host.Outcome.next
      (State.laneMem_of_served (is := fun w => wOp w == 0x53) (f := prefetchThread) hx (beq_iff_eq.mpr hw) hfirst hthreads rfl rfl
        fun x t => memAddr x.grp x.w t 1)

end Sys2Proof.Machine
end

section
/-! What the words, the transfers and the deadlines of stream programs do (R207 to R222, R227). -/

namespace Sys2Proof.Machine

open Sys2Proof

/-! ## The register words of a stream program -/

section Words

variable {s : State} {i : Nat} {x : Instance}

/-- A live program that stands at a word of the opcode runs it (R207, R211). -/
theorem State.streamReg_of_opcode {op : Nat} (f : Instance → Nat → Instance) (hx : s.liveInst i = some x) (hpc : x.pc < x.words.length)
    (hop : xOp (x.words.getD x.pc 0).toNat = op) : s.streamReg i op f = s.putInst i (f x (x.words.getD x.pc 0).toNat) := by
  simp only [State.streamReg, hx]
  exact if_pos ⟨hpc, hop⟩

/-- An address register takes an exact value modulo 2^64 (R207). -/
theorem Instance.setAr_emod (x : Instance) (r : Nat) (v : Int) :
    x.setAr r (v % (2 ^ 64 : Int)).toNat = { x with a := x.a.set r (BitVec.ofInt 64 v) } := by
  rw [Instance.setAr, ofNat_emod_eq_ofInt]

/-- An address register plus an exact value, as a 64-bit sum (R207). -/
theorem ofInt_toNat_add {w : Nat} (a : BitVec w) (v : Int) : BitVec.ofInt w (a.toNat + v) = a + BitVec.ofInt w v := by
  rw [BitVec.ofInt_add, BitVec.ofInt_natCast, ofNat_toNat_self]

/-- A counter's multiple of an exact value, as a 64-bit product (R207). -/
theorem ofInt_toNat_mul {w n : Nat} (c : BitVec n) (v : Int) : BitVec.ofInt w (c.toNat * v) = c.setWidth w * BitVec.ofInt w v := by
  rw [BitVec.ofInt_mul, BitVec.ofInt_natCast, BitVec.ofNat_toNat]

/-- The distance of an address from its initial value, wrapped and added back, as a 64-bit sum (R207). -/
theorem ofNat_wrap (a start : BitVec 64) (m : Nat) :
    BitVec.ofNat 64 (start.toNat + (a.toNat + 2 ^ 64 - start.toNat) % 2 ^ 64 % m) = start + BitVec.ofNat 64 ((a - start).toNat % m) := by
  have hdist : (a.toNat + 2 ^ 64 - start.toNat) % 2 ^ 64 = (a - start).toNat := by bv_omega
  rw [BitVec.ofNat_add, ofNat_toNat_self, hdist]

/-- A change of a program that is not over stays with it (R206). -/
theorem State.putInst_of_not_over {y : Instance} (h : y.over = false) :
    s.putInst i y = s.setInst i (some { y with syncing := y.syncing && !y.bursts.isEmpty }) := by
  simp [State.putInst, h]

end Words

/-- Settles O29: each word is what `streamReg` runs, its register arithmetic read modulo 2^64. -/
theorem streamRegisterWordsRun : Obligations.StreamRegisterWordsRun := by
  unfold Obligations.StreamRegisterWordsRun
  rintro s i _ x hx hpc rfl
  refine ⟨fun hop => ?add, fun hop => ?madd, fun hop => ?wrap, fun hop => ?sync, fun hop n hn => ?loop, fun y hy => ?frame⟩
  case add =>
    refine congrArg Host.Outcome.next ((State.streamReg_of_opcode _ hx hpc hop).trans ?_)
    simp only [Instance.setAr_emod, Instance.ar, ofInt_toNat_add]
  case madd =>
    refine congrArg Host.Outcome.next ((State.streamReg_of_opcode _ hx hpc hop).trans ?_)
    simp only [Instance.setAr_emod, Instance.ar, ofInt_toNat_add, ofInt_toNat_mul]
  case wrap =>
    refine congrArg Host.Outcome.next ((State.streamReg_of_opcode _ hx hpc hop).trans ?_)
    simp only [Instance.setAr, Instance.ar, ofNat_wrap]
  case sync => exact congrArg Host.Outcome.next (State.streamReg_of_opcode _ hx hpc hop)
  case loop =>
    subst hn
    exact congrArg Host.Outcome.next (State.streamReg_of_opcode _ hx hpc hop)
  case frame =>
    rw [State.putInst_of_not_over hy]
    exact ⟨rfl, State.inst_setInst_same s i _⟩


/-! ## Transfers and commits -/

/-- One access that was prepared for an agent was not refused. -/
theorem PreparedBy.prepAt_eq {s t : State} {a c acc va n : Nat} (h : PreparedBy s a c [(acc, va, n)] t) : s.prepAt a c acc va n = (t, none) := by
  have hall := h.prepAllAt_eq
  rcases hp : s.prepAt a c acc va n with ⟨s1, _ | hit⟩
  · simpa [State.prepAllAt, hp] using hall
  · simp [State.prepAllAt, hp] at hall

section Transfers

variable {s : State} {i w : Nat} {x : Instance}

section Words

variable (hx : s.liveInst i = some x) (hpc : x.pc < x.words.length) (hw : w = (x.words.getD x.pc 0).toNat) (hmay : x.mayIssue = true)

include hx hpc hw hmay

/-- An `XFER` that may issue puts a burst in flight between its two addresses (R208, R211). -/
theorem execXfer_of_mayIssue (hop : xOp w = 0x01) : execXfer i s = .next (s.issueBurst i
    (if bitAt w 22 then x.setAr (bitsOf w 8 3) (x.ar (bitsOf w 8 3) + 2 ^ xLen w) else x) w (x.ar (bitsOf w 8 3)) (x.ar (xDstAr w))) := by
  subst hw
  simp only [execXfer, hx]
  exact if_pos ⟨hpc, hop, hmay⟩

variable {n ia : Nat} {y : Instance} {go : State → State} (hop : xOp w = 0x02) (hn : n = if bitAt w 13 then 8 else 4) (hia : ia = x.ar (bitsOf w 8 3))
  (hy : y = x.setAr (bitsOf w 8 3) (ia + n)) (hgo : ∀ t, go t = t.issueBurst i y w
    ((y.ar (bitsOf w 14 3) + leNat (t.rdVAt (streamAgent x.unit) x.ctx ia n) * 2 ^ bitsOf w 28 6) % 2 ^ 64) (y.ar (xDstAr w)))

include hop hn hia hy hgo

/-- A `GATHER` whose index read is prepared issues its burst (R208). -/
theorem execGather_of_prepared {s1 : State} (hham : x.hamper = false) (hp : PreparedBy s (streamAgent x.unit) x.ctx [(accRead, ia, n)] s1) :
    execGather i s = .next (go s1) := by
  have hprep := hp.prepAt_eq
  subst hw hn hia hy
  simp only [execGather, hx, hpc, hop, hmay, hham, and_self, if_true, Bool.false_eq_true, if_false, hprep, hgo]

/-- A `GATHER` of a hamper program reads an index that can be read, and else drops its burst (R227). -/
theorem execGather_of_hamper (hham : x.hamper = true) : execGather i s =
    .next (if s.readable x.ctx ia n then go (s.walkFor x.unit x.ctx ia n) else (s.countDrop x.unit (some x.ctx)).putInst i y.past) := by
  subst hw hn hia hy
  simp only [execGather, hx, hpc, hop, hmay, hham, and_self, if_true, hgo]

end Words

section Commits

variable {b : Burst} {r : List Burst} (hx : s.liveInst i = some x) (hb : x.bursts = b :: r) (hstalled : b.stalled = []) (hsent : b.sent = false)

include hx hb hstalled hsent

/-- A burst of a hamper program commits when its lines can be placed, and waits at a home that cannot serve one yet (R226, R250). -/
theorem execBurstCommit_of_hamper (hham : x.hamper = true) : execBurstCommit i s =
    .next (match s.newAccess.placePrefetch x b with | some u => u.dropHead i x | none => s) := by
  simp only [execBurstCommit, hx, hb, hstalled, hsent, hham, List.isEmpty_nil, Bool.not_true, Bool.or_self, Bool.false_eq_true, if_false, if_true]
  cases s.newAccess.placePrefetch x b <;> rfl

/-- A burst whose accesses are prepared commits by the kind of its target: sent, written or placed (R208, R212 to R214, R226). -/
theorem execBurstCommit_of_prepared {k : Nat} {s1 : State} {d : List Byte} (hk : k = epKind (x.eps.getD b.dstSlot 0)) (hham : x.hamper = false)
    (hp : PreparedBy s.newAccess (streamAgent x.unit) x.ctx ((accRead, b.src, b.len) :: (if k = 1 then [(accWrite, b.dst, b.len)] else [])) s1)
    (hd : d = s1.rdVAt (streamAgent x.unit) x.ctx b.src b.len) : execBurstCommit i s = .next (
      if k = 3 then (s1.sendBurst x b d).setInst i (some { x with bursts := { b with sent := true } :: r })
      else if k = 1 then (s1.wrVAt (streamAgent x.unit) x.ctx b.dst d).dropHead i x
      else match s1.placePrefetch x b with | some u => u.dropHead i x | none => s) := by
  have hall := hp.prepAllAt_eq
  subst hk hd
  simp only [execBurstCommit, hx, hb, hstalled, hsent, hham, hall, List.isEmpty_nil, Bool.not_true, Bool.or_self, Bool.false_eq_true, if_false]
  split
  · rfl
  · split
    · rfl
    · cases s1.placePrefetch x b <;> rfl

end Commits

end Transfers

/-! ## Deadlines of a stream program's bursts -/

section Deadlines

variable {s s1 : State} {i n us f : Nat} {x : Instance} {b : Burst} (hi : i < seqBursts) (hx : s.liveInst i = some x) (hfind : findBurst x n = some b)
  (hstalled : b.stalled = []) (hsent : b.sent = false) (hs1 : s1 = s.free.2) (hf : f = b.from_ + s.free.1)

include hi hx hfind hstalled hsent hs1 hf

/-- The soft deadline of a burst posts its notice once (R219, R220). -/
theorem execStreamStall_of_unnoticed (hnoticed : b.noticed = false) : execStreamStall i n s =
    .next (((s1.advance (f + 1000 * x.softUs)).setInst i (some { x with
      bursts := x.bursts.map fun e => if e.num = n then { e with noticed := true, from_ := f } else e })).postNotice x.ctx 0x0C02 x.unit) := by
  subst hs1 hf
  simp only [execStreamStall, Nat.not_le.mpr hi, if_false, hx, hfind, hnoticed, hstalled, hsent, List.isEmpty_nil, Bool.not_true, Bool.or_self,
    Bool.false_eq_true]
  rfl

/-- The hard deadline of a burst cancels its hamper program, or ends its operation (R220, R227). -/
theorem execStreamStarved_of_deadline (hus : us = if s.external x.ctx b then x.hardExt else x.hardInt) (hset : us ≠ 0xFFFFFFFF) :
    execStreamStarved i n s = .next (if x.hamper then
        ((({ (s1.advance (f + 1000 * us)) with streams := { s.streams with cancelled := s.streams.cancelled + 1 } }).countEv (x.unit / 16) 0x023 (x.unit % 16)
          (some x.ctx) 1).dropInsts x.ctx x.opIndex)
      else (s1.advance (f + 1000 * us)).stopStream x.ctx x.opIndex (endWith 0x0501 x.unit)) := by
  subst hs1 hf hus
  simp only [execStreamStarved, Nat.not_le.mpr hi, if_false, hx, hfind, hset, hstalled, hsent, List.isEmpty_nil, Bool.not_true, Bool.false_eq_true,
    or_self]
  split <;> rfl

end Deadlines

/-! ## Deadlines of a sequencer's bursts -/

/-- Replaces what a context's sequencer runs for its operation. -/
def State.setWork (s : State) (c : Nat) (w : SeqWork) : State :=
  { s with streams := { s.streams with work := tabPut none s.streams.work c (some w) } }

@[simp] theorem State.workOf_setWork (s : State) (c : Nat) (w : SeqWork) : (s.setWork c w).workOf c = w := by
  simp [State.workOf, State.setWork]

/-- The hard deadline of a sequencer's burst is that of one of the two classes (R218, R222). -/
theorem State.seqDeadline_ofClass (s : State) (u : Nat) (p : Prop) [Decidable p] :
    s.seqDeadline u (if p then 0x3041 else 0x3042) = s.seqDeadline u 0x3041 ∨
      s.seqDeadline u (if p then 0x3041 else 0x3042) = s.seqDeadline u 0x3042 := by
  split
  · exact .inl rfl
  · exact .inr rfl

/-- A starved operation ends: a launch stops, and any other stands as done (R220). -/
def State.endStarved (s : State) (c op u : Nat) (f : Flight) : State :=
  match f.st with
  | .launched l => s.stopLaunch l (endWith 0x0501 u)
  | _ => s.setFlight c op (.done (endWith 0x0501 u))

section Sequencer

variable {s : State} {i u op c : Nat} {f : Flight} (hi : seqBursts ≤ i) (hu : u = seqUnit i) (hprog : s.seqProgram u op = some (c, f))

include hi hu hprog

/-- A burst that was noticed is not noticed again (R220). -/
theorem execStreamStall_of_seq_noticed (h : ∃ e ∈ (s.workOf c).stalls, e.1 = i) : execStreamStall i op s = .next s := by
  have hany : ((s.workOf c).stalls.any fun e => e.1 == i) = true := by simpa using h
  simp only [execStreamStall, hi, if_true, State.stallSeq, ← hu, hprog, hany]

/-- The soft deadline of a sequencer's burst posts its notice and records it as noticed, counted from a free time after its operation's taking
(R219, R220). -/
theorem execStreamStall_of_seq_unnoticed (h : ∀ e ∈ (s.workOf c).stalls, e.1 ≠ i) {from_ : Nat} (hfrom : from_ = (s.workOf c).at_ + s.free.1) :
    execStreamStall i op s = .next (((s.free.2.advance (from_ + 1000 * s.seqDeadline u 0x3040)).setWork c
      { s.workOf c with stalls := (s.workOf c).stalls ++ [(i, from_)] }).postNotice c 0x0C02 u) := by
  subst hfrom
  have hany : ((s.workOf c).stalls.any fun e => e.1 == i) = false := by simpa using h
  have hfind : ((s.workOf c).stalls.find? fun e => e.1 == i) = none := by simpa using h
  simp only [execStreamStall, hi, if_true, State.stallSeq, ← hu, hprog, hany, Bool.false_eq_true, if_false, State.seqFrom, hfind]
  rfl

/-- A sequencer's burst without a hard deadline of either class starves no operation (R222). -/
theorem execStreamStarved_of_seq_unset (hint : s.seqDeadline u 0x3041 = 0xFFFFFFFF) (hext : s.seqDeadline u 0x3042 = 0xFFFFFFFF) :
    execStreamStarved i op s = .next s := by
  have hus := (s.seqDeadline_ofClass u (s.free.1 % 2 = 0)).elim (·.trans hint) (·.trans hext)
  simp only [execStreamStarved, hi, if_true, State.starveSeq, ← hu, hprog, hus]

/-- The hard deadline of a sequencer's burst, of the class that its source has, discards what was not committed and ends the operation (R220, R222). -/
theorem execStreamStarved_of_seq_set {ext t kept : Nat × State} {us : Nat} (hext : ext = s.free) (ht : t = ext.2.seqFrom c i) (hkept : kept = t.2.free)
    (hus : us = s.seqDeadline u (if ext.1 % 2 = 0 then 0x3041 else 0x3042)) (hset : us ≠ 0xFFFFFFFF) :
    execStreamStarved i op s = .next (((kept.2.advance (t.1 + 1000 * us)).discardOutput (s.workOf c) kept.1).endStarved c op u f) := by
  subst hkept ht hext
  simp only [execStreamStarved, hi, if_true, State.starveSeq, ← hu, hprog, ← hus, hset, if_false]
  rfl

end Sequencer

/-- Settles O30: transfers, commits, and the deadlines of a program's own bursts and of a sequencer's, each by the lemma above about its command. -/
theorem streamTransfersRun : Obligations.StreamTransfersRun := by
  unfold Obligations.StreamTransfersRun
  refine ⟨fun s i w x hx => ⟨fun hpc hw hmay => ⟨?xfer, ?gather⟩, fun b r k hb hstalled hsent hk => ⟨?hamper, ?commit⟩⟩, ?deadlines, ?sequencer⟩
  case xfer => exact execXfer_of_mayIssue hx hpc hw hmay
  case gather =>
    intro hop n ia y go hn hia hy hgo
    exact ⟨fun hham s1 hp => execGather_of_prepared hx hpc hw hmay hop hn hia hy hgo hham hp,
      execGather_of_hamper hx hpc hw hmay hop hn hia hy hgo⟩
  case hamper =>
    intro hham
    have hcommit := execBurstCommit_of_hamper hx hb hstalled hsent hham
    exact ⟨fun u hu => hcommit.trans (by rw [hu]), fun hu => hcommit.trans (by rw [hu])⟩
  case commit =>
    intro hham s1 d hp hd
    exact (execBurstCommit_of_prepared hx hb hstalled hsent hk hham hp hd).trans (by rfl)
  case deadlines =>
    intro s s1 i n us f x b hi hx hfind hstalled hsent hs1 hf hus
    exact ⟨execStreamStall_of_unnoticed hi hx hfind hstalled hsent hs1 hf, execStreamStarved_of_deadline hi hx hfind hstalled hsent hs1 hf hus⟩
  case sequencer =>
    intro s i u op c f hi hu hprog
    refine ⟨execStreamStall_of_seq_noticed hi hu hprog, fun h => ?stall, execStreamStarved_of_seq_unset hi hu hprog, fun hint hext => ?starved⟩
    case stall =>
      refine ⟨_, execStreamStall_of_seq_unnoticed hi hu hprog h rfl, _, _, Nat.le_add_right _ s.free.1, ?_, rfl, rfl⟩
      rw [State.workOf_setWork]
    case starved =>
      have hclass := s.seqDeadline_ofClass u (s.free.1 % 2 = 0)
      have hset := hclass.elim (fun h => h ▸ hint) (fun h => h ▸ hext)
      exact ⟨_, execStreamStarved_of_seq_set hi hu hprog rfl rfl rfl rfl hset, _, _, _, _, _, hclass, rfl, by rfl⟩

end Sys2Proof.Machine
end

section
/-! What the homes and the holders of the coherent pool do with reads, grants for writing, forwards and Invals (R225, R226, R236, R243, R250 to R258, R262,
R267, R277). -/

namespace Sys2Proof.Machine

open Sys2Proof

/-! ## A request that its home takes -/

section Homes

variable {s s1 : State}

/-- A request that the home takes now is served in the state after its lookup (R250). -/
theorem Admitted.request_eq {q : Instr} {r : Request} (h : Admitted s q r s1) : s.request q = s1.serveRequest q := by
  obtain ⟨hasks, hmay, hhome, hbacked, hleft, hfirst, haway, hon⟩ := h
  have hnear : ¬ (r.acc = accRead ∧ (s.onTheWay r.agent r.line).isSome = true) := fun hn => by simp [haway hn.1] at hn
  have hnone : (homeOf (r.line * 128)).isNone = false := by simpa using hhome
  simp only [State.request, hasks, hmay, hnone, hnear, hleft, State.enter, hfirst, State.handle, hbacked, hon, Bool.not_true, Bool.false_eq_true, if_false]

/-- A request that a cache on its way serves gets its data there (R225, R236). -/
theorem State.request_of_near {q : Instr} {r : Request} {v : Served} (hasks : requestOf q = some r) (hmay : s.mayRequest r = true)
    (hhome : (homeOf (r.line * 128)).isSome = true) (hacc : r.acc = accRead) (hv : s.onTheWay r.agent r.line = some v) :
    s.request q = s.serveNear r.line v := by
  have hnone : (homeOf (r.line * 128)).isNone = false := by simpa using hhome
  simp [State.request, hasks, hmay, hnone, hacc, hv]

/-! ## A read of memory at the home -/

variable {a ln acc : Nat} {e : Ecc} {why : ReqCause}

theorem State.noteEcc_of_not_corrected (s : State) (ln : Nat) (he : e ≠ .corrected) : s.noteEcc ln e = s := by simp [State.noteEcc, he]

theorem State.homeRead_of_readable (h : Readable s ln e) : s.homeRead a ln acc e why = (s.noteEcc ln e, some (s.memLine ln)) := by
  obtain ⟨hecc, hbad⟩ := h
  simp only [State.homeRead, hecc, hbad, decide_false, Bool.or_self, Bool.false_eq_true, if_false]

theorem State.homeRead_of_not_readable (h : ¬ Readable s ln e) : s.homeRead a ln acc e why = ((s.loseStored ln).refuse a ln acc 7 why, none) := by
  have hlost : (decide (e = .uncorrectable) || s.bad.contains ln) = true := Decidable.byContradiction fun hgood => by
    rw [Bool.not_eq_true, Bool.or_eq_false_iff, decide_eq_false_iff_not] at hgood
    exact h hgood
  simp only [State.homeRead, hlost, if_true]

theorem State.grantData_of_readable {g : CopySt} {k : DirEntry → DirEntry} (h : Readable s ln e) :
    s.grantData a ln acc e why g k = ((s.noteEcc ln e).setDir ln (k (s.dirOf ln))).post ⟨.data, a, a, ln, s.memLine ln, g, why⟩ := by
  simp only [State.grantData, State.homeRead_of_readable h]

theorem State.grantData_of_not_readable {g : CopySt} {k : DirEntry → DirEntry} (h : ¬ Readable s ln e) :
    s.grantData a ln acc e why g k = (s.loseStored ln).refuse a ln acc 7 why := by
  simp only [State.grantData, State.homeRead_of_not_readable h]

/-! ## ReadShared and ReadOnce -/

theorem State.sharedAt_of_lost (hst : (s.dirOf ln).st = .l) : s.sharedAt a ln e why = s.refuse a ln 0 6 why := by
  simp only [State.sharedAt, hst]

theorem State.sharedAt_of_unheld (hst : (s.dirOf ln).st = .i) :
    s.sharedAt a ln e why = s.grantData a ln 0 e why (if isHamper a then .s else .e) fun _ => firstReader a := by
  simp only [State.sharedAt, hst]

theorem State.sharedAt_of_shared (hst : (s.dirOf ln).st = .s) : s.sharedAt a ln e why = s.grantData a ln 0 e why .s fun x => x.addSharer a := by
  simp only [State.sharedAt, hst]

/-- The record of a line that its owner is to share with a reader (R257). -/
def DirEntry.sharedWith (d : DirEntry) (o a : Nat) : DirEntry :=
  match d.st with
  | .e => ⟨.s, Option.none, [o, a], []⟩
  | .m => ⟨.o, some o, [a], []⟩
  | _ => d.addSharer a

/-- A line that another agent owns is forwarded to the reader (R257). -/
theorem State.sharedAt_of_owned {o : Nat} (ho : (s.dirOf ln).owner = some o) (hne : o ≠ a)
    (hst : (s.dirOf ln).st = .e ∨ (s.dirOf ln).st = .m ∨ (s.dirOf ln).st = .o) :
    s.sharedAt a ln e why = (s.setDir ln ((s.dirOf ln).sharedWith o a)).post ⟨.fwdShared, o, a, ln, [], .s, why⟩ := by
  rcases hst with hst | hst | hst <;> simp only [State.sharedAt, DirEntry.sharedWith, hst, ho, hne, if_false]

theorem State.onceAt_of_lost (hst : (s.dirOf ln).st = .l) : s.onceAt a ln e = s.refuse a ln 0 6 .demand := by
  simp only [State.onceAt, hst]

/-- A ReadOnce of an owned line is forwarded, and the record stays (R262). -/
theorem State.onceAt_of_owned {o : Nat} (hst : (s.dirOf ln).st ≠ .l) (ho : (s.dirOf ln).owner = some o) :
    s.onceAt a ln e = s.post ⟨.fwdOnce, o, a, ln, [], .s, .demand⟩ := by
  simp only [State.onceAt, ho]

theorem State.onceAt_of_readable (hst : (s.dirOf ln).st ≠ .l) (ho : (s.dirOf ln).owner = none) (h : Readable s ln e) :
    s.onceAt a ln e = (s.noteEcc ln e).post ⟨.dataOnce, a, a, ln, s.memLine ln, .s, .demand⟩ := by
  simp only [State.onceAt, ho, State.homeRead_of_readable h]

/-! ## A read that a cache on its way serves -/

theorem State.hit_dir (s : State) (a ln : Nat) : (s.hit a ln).coh.dir = s.coh.dir := by
  unfold State.hit
  split <;> rfl

theorem State.hit_mem (s : State) (a ln : Nat) : (s.hit a ln).mem = s.mem := by
  unfold State.hit
  split <;> rfl

/-- A read served on its way changes no record of the directory (R225, R236). -/
theorem State.serveNear_dir (s : State) (ln : Nat) (v : Served) : (s.serveNear ln v).coh.dir = s.coh.dir := by
  cases v with
  | cache b c => exact s.hit_dir b ln
  | hamper => rfl
  | home => rfl

theorem State.serveNear_mem (s : State) (ln : Nat) (v : Served) : (s.serveNear ln v).mem = s.mem := by
  cases v with
  | cache b c => exact s.hit_mem b ln
  | hamper => rfl
  | home => rfl

end Homes

/-- Settles O31: the home serves the request in the state after its lookup, by the case of the record that stands there. -/
theorem readsAtTheHome : Obligations.ReadsAtTheHome := by
  unfold Obligations.ReadsAtTheHome
  intro s s1 s2 a ln e why r d
  refine ⟨fun hadm hs2 hd => ?shared, fun hadm hs2 hd => ?once, fun i v hi hasks hmay hhome hv => ?near⟩
  case shared =>
    have hexec : exec (.readShared ⟨a, why⟩ ln e) s = .next (s2.sharedAt a ln e why) := by
      subst hs2
      exact congrArg Host.Outcome.next hadm.request_eq
    subst hd
    rw [hexec]
    refine ⟨fun hst hread => ?unheld, fun hst hread => ?unreadable, fun hst hread => ?sharers,
      fun o ho hne => ⟨fun hst => ?e, fun hst => ?m, fun hst => ?o⟩, fun hst => ?lost⟩
    case unheld => rw [State.sharedAt_of_unheld hst, State.grantData_of_readable hread]
    case unreadable =>
      rcases hst with hst | hst
      · rw [State.sharedAt_of_unheld hst, State.grantData_of_not_readable hread]
      · rw [State.sharedAt_of_shared hst, State.grantData_of_not_readable hread]
    case sharers => rw [State.sharedAt_of_shared hst, State.grantData_of_readable hread]
    case e => rw [State.sharedAt_of_owned ho hne (.inl hst), DirEntry.sharedWith, hst]
    case m => rw [State.sharedAt_of_owned ho hne (.inr (.inl hst)), DirEntry.sharedWith, hst]
    case o => rw [State.sharedAt_of_owned ho hne (.inr (.inr hst)), DirEntry.sharedWith, hst]
    case lost => rw [State.sharedAt_of_lost hst]
  case once =>
    have hexec : exec (.readOnce a ln e) s = .next (s2.onceAt a ln e) := by
      subst hs2
      exact congrArg Host.Outcome.next hadm.request_eq
    subst hd
    rw [hexec]
    exact ⟨fun hst => congrArg _ (State.onceAt_of_lost hst), fun hst o ho => congrArg _ (State.onceAt_of_owned hst ho),
      fun hst ho hread => congrArg _ (State.onceAt_of_readable hst ho hread)⟩
  case near =>
    refine ⟨?_, s.serveNear_dir r.line v, s.serveNear_mem r.line v⟩
    rcases hi with rfl | rfl <;> cases hasks <;> exact congrArg Host.Outcome.next (State.request_of_near rfl hmay hhome rfl hv)

/-! ## Grants for writing -/

section Grants

variable {s : State} {a ln : Nat} {e : Ecc} {why : ReqCause}

/-- Counting a line on a page changes partitions alone. -/
theorem State.countLine_frame (s : State) (a ln : Nat) : s.countLine a ln = { s with parts := (s.countLine a ln).parts } := by
  unfold State.countLine
  split
  · rfl
  · split <;> rfl

@[simp] theorem State.countLine_coh (s : State) (a ln : Nat) : (s.countLine a ln).coh = s.coh := by rw [State.countLine_frame]
@[simp] theorem State.countLine_dev (s : State) (a ln : Nat) : (s.countLine a ln).dev = s.dev := by rw [State.countLine_frame]
@[simp] theorem State.countLine_bad (s : State) (a ln : Nat) : (s.countLine a ln).bad = s.bad := by rw [State.countLine_frame]

@[simp] theorem State.dirOf_countLine (s : State) (a ln m : Nat) : (s.countLine a ln).dirOf m = s.dirOf m := by simp only [State.dirOf, State.countLine_coh]

@[simp] theorem State.agentDead_countLine (s : State) (a ln b : Nat) : (s.countLine a ln).agentDead b = s.agentDead b := by
  simp only [State.agentDead, State.countLine_coh]

theorem State.foldl_post_msgs {α : Type} (f : α → CohMsg) (l : List α) (s : State) :
    (l.foldl (fun t h => t.post (f h)) s).coh.msgs = s.coh.msgs ++ l.map f := by
  induction l generalizing s with
  | nil => simp
  | cons h l ih =>
    have hpost : (s.post (f h)).coh.msgs = s.coh.msgs ++ [f h] := rfl
    rw [List.foldl_cons, ih, hpost, List.map_cons, List.append_assoc, List.singleton_append]

theorem State.foldl_post_dir {α : Type} (f : α → CohMsg) (l : List α) (s : State) : (l.foldl (fun t h => t.post (f h)) s).coh.dir = s.coh.dir :=
  State.foldl_keeps (fun t => t.coh.dir) (fun t h => t.post (f h)) (fun _ _ => rfl) l s

/-- The agents that an Inval goes to: those of the targets that are on the part, live and not the requester (R251, R257). -/
def State.invalTargets (s : State) (req : Nat) (targets : List Nat) : List Nat :=
  targets.filter fun t => t != req && agentExists s.dev.variant t && !s.agentDead t

theorem State.invalidate_msgs (s : State) (ln req : Nat) (targets : List Nat) :
    (s.invalidate ln req targets).coh.msgs = s.coh.msgs ++ (s.invalTargets req targets).map fun h => ⟨.inval, h, req, ln, [], .s, .demand⟩ := by
  have hposts := State.foldl_post_msgs (fun h => ⟨.inval, h, req, ln, [], .s, .demand⟩) (s.invalTargets req targets) s
  simp only [State.invalidate]
  split <;> exact hposts

@[simp] theorem State.dirOf_invalidate (s : State) (ln req : Nat) (targets : List Nat) (m : Nat) : (s.invalidate ln req targets).dirOf m = s.dirOf m := by
  have hposts := State.foldl_post_dir (fun h => ⟨.inval, h, req, ln, [], .s, .demand⟩) (s.invalTargets req targets) s
  refine congrArg (fun l => tabGet DirEntry.none l m) ?_
  simp only [State.invalidate]
  split <;> exact hposts

@[simp] theorem State.invalidate_nil (s : State) (ln req : Nat) : s.invalidate ln req [] = s := rfl

/-- A line granted for writing: the record names its one owner, the message `m` goes out, and the targets are told (R253, R257). -/
def State.grantOwn (s : State) (a ln : Nat) (m : CohMsg) (targets : List Nat) : State := ((s.setDir ln (ownedBy a)).post m).invalidate ln a targets

@[simp] theorem State.dirOf_grantOwn (s : State) (a ln : Nat) (m : CohMsg) (targets : List Nat) : (s.grantOwn a ln m targets).dirOf ln = ownedBy a := by
  rw [State.grantOwn, State.dirOf_invalidate]
  exact State.dirOf_setDir_same s ln _

theorem State.mem_grantOwn_msgs (s : State) (a ln : Nat) (m : CohMsg) (targets : List Nat) : m ∈ (s.grantOwn a ln m targets).coh.msgs := by
  simp [State.grantOwn, State.invalidate_msgs, State.post]

/-- Every target but the requester that is on the part and live is sent an Inval (R251, R257). -/
theorem State.inval_mem_grantOwn_msgs (s : State) (m : CohMsg) {targets : List Nat} {h : Nat} (hmem : h ∈ targets) (hne : h ≠ a)
    (hex : agentExists s.dev.variant h = true) (hlive : s.agentDead h = false) :
    ⟨.inval, h, a, ln, [], .s, .demand⟩ ∈ (s.grantOwn a ln m targets).coh.msgs := by
  have hlive' : ((s.setDir ln (ownedBy a)).post m).agentDead h = false := hlive
  have htarget : h ∈ ((s.setDir ln (ownedBy a)).post m).invalTargets a targets := by simp [State.invalTargets, hmem, hne, hex, hlive']
  rw [State.grantOwn, State.invalidate_msgs]
  exact List.mem_append_right _ (List.mem_map_of_mem htarget)

/-- A line that another agent owns is forwarded for writing, and the sharers of one in O are told (R257). -/
theorem State.exclusive_of_owned {o : Nat} (ho : (s.dirOf ln).owner = some o) (hne : o ≠ a)
    (hst : (s.dirOf ln).st = .e ∨ (s.dirOf ln).st = .m ∨ (s.dirOf ln).st = .o) :
    s.exclusive a ln e why = s.grantOwn a ln ⟨.fwdOwn, o, a, ln, [], .m, why⟩
      (if (s.dirOf ln).st = .o then (s.dirOf ln).holders.filter fun h => h != o else []) := by
  rcases hst with hst | hst | hst <;> simp only [State.exclusive, State.grantOwn, hst, ho, hne, reduceCtorEq, if_false, if_true, State.invalidate_nil]

/-- An agent owns the line, or its data stand at the home (R253). -/
theorem DirEntry.owned_or_unowned {d : DirEntry} (hl : d.st ≠ .l) :
    (∃ o, d.owner = some o ∧ (d.st = .e ∨ d.st = .m ∨ d.st = .o)) ∨ d.owner = Option.none ∨ d.st = .i ∨ d.st = .s := by
  cases ho : d.owner with
  | none => exact .inr (.inl rfl)
  | some o => cases hst : d.st <;> simp_all

/-- A line that no other agent's data stand for is granted for writing from memory (R257). -/
theorem State.exclusive_of_readable (hl : (s.dirOf ln).st ≠ .l) (hread : Readable s ln e)
    (hown : (s.dirOf ln).owner = none ∨ (s.dirOf ln).st = .i ∨ (s.dirOf ln).st = .s) :
    s.exclusive a ln e why = (s.noteEcc ln e).grantOwn a ln ⟨.data, a, a, ln, s.memLine ln, .m, why⟩ (s.dirOf ln).holders := by
  rcases hown with hown | hst | hst
  · cases hst : (s.dirOf ln).st with
    | l => exact absurd hst hl
    | i | s | e | m | o => simp only [State.exclusive, hst, hown, State.homeRead_of_readable hread, State.grantOwn]
  · simp only [State.exclusive, hst, State.homeRead_of_readable hread, State.grantOwn]
  · simp only [State.exclusive, hst, State.homeRead_of_readable hread, State.grantOwn]

/-- A ReadExclusive of a readable line leaves its requester the one owner; sharers are told, and another owner is sent the forward (R253, R257). -/
theorem State.exclusive_leaves (hl : (s.dirOf ln).st ≠ .l) (hown : (s.dirOf ln).owner ≠ some a) (hread : Readable s ln e) :
    (s.exclusive a ln e why).dirOf ln = ownedBy a ∧
      (e ≠ .corrected → (s.dirOf ln).st = .s ∨ (s.dirOf ln).st = .o → ∀ h ∈ (s.dirOf ln).holders, h ≠ a → (s.dirOf ln).owner ≠ some h →
        agentExists s.dev.variant h = true → s.agentDead h = false → ⟨.inval, h, a, ln, [], .s, .demand⟩ ∈ (s.exclusive a ln e why).coh.msgs) ∧
      (∀ o, (s.dirOf ln).owner = some o → (s.dirOf ln).st = .e ∨ (s.dirOf ln).st = .m ∨ (s.dirOf ln).st = .o →
        ⟨.fwdOwn, o, a, ln, [], .m, why⟩ ∈ (s.exclusive a ln e why).coh.msgs) := by
  rcases DirEntry.owned_or_unowned hl with ⟨o, ho, hst⟩ | hnone
  · have hne : o ≠ a := fun h => hown (h ▸ ho)
    rw [State.exclusive_of_owned ho hne hst]
    refine ⟨State.dirOf_grantOwn _ _ _ _ _, fun _ hshared h hmem hh hho hex hlive => ?_, fun p hp _ => ?_⟩
    · have hst_o : (s.dirOf ln).st = .o := by
        rcases hshared with hshared | hshared
        · simp [hshared] at hst
        · exact hshared
      have hoh : h ≠ o := fun heq => hho (heq ▸ ho)
      rw [if_pos hst_o]
      exact s.inval_mem_grantOwn_msgs _ (List.mem_filter.mpr ⟨hmem, bne_iff_ne.mpr hoh⟩) hh hex hlive
    · cases ho.symm.trans hp
      exact State.mem_grantOwn_msgs _ _ _ _ _
  · rw [State.exclusive_of_readable hl hread hnone]
    refine ⟨State.dirOf_grantOwn _ _ _ _ _, fun he _ h hmem hh _ hex hlive => ?_, fun o ho howned => ?_⟩
    · rw [State.noteEcc_of_not_corrected _ _ he]
      exact s.inval_mem_grantOwn_msgs _ hmem hh hex hlive
    · rcases hnone with hnone | hst | hst
      · simp [hnone] at ho
      · simp [hst] at howned
      · simp [hst] at howned

/-- The Upgrade of a recorded sharer is granted without data (R257). -/
theorem State.upgradeAt_of_recorded (hst : (s.dirOf ln).st = .s ∨ (s.dirOf ln).st = .o) (hrec : s.stillRecorded a ln = true) :
    s.upgradeAt a ln e = s.grantOwn a ln ⟨.ack, a, a, ln, [], .m, .demand⟩ (s.dirOf ln).holders := by
  have hgranted : (((s.dirOf ln).st == .s || (s.dirOf ln).st == .o) && s.stillRecorded a ln) = true := by simpa [hrec] using hst
  simp only [State.upgradeAt, hgranted, if_true, State.grantOwn]

/-- A line that is to be written whole is no longer uncorrectable (R257, R268). -/
def State.dropBad (s : State) (ln : Nat) : State := { s with bad := s.bad.filter fun l => l != ln }

@[simp] theorem State.dropBad_dev (s : State) (ln : Nat) : (s.dropBad ln).dev = s.dev := rfl
@[simp] theorem State.agentDead_dropBad (s : State) (ln b : Nat) : (s.dropBad ln).agentDead b = s.agentDead b := rfl

/-- An OwnNoData is granted a line of zeros (R257, R268). -/
theorem State.ownAt_eq (s : State) (a ln : Nat) (why : ReqCause) :
    s.ownAt a ln why = (s.dropBad ln).grantOwn a ln ⟨.ack, a, a, ln, List.replicate 128 0, .m, why⟩ (s.dirOf ln).holders := rfl

end Grants

/-- Settles O32: each of the three requests ends in `grantOwn`, whose record and messages are known. -/
theorem writeGrantsLeaveOneOwner : Obligations.WriteGrantsLeaveOneOwner := by
  unfold Obligations.WriteGrantsLeaveOneOwner
  rintro s s1 a ln e why r d i hadm rfl hform
  rcases hform with ⟨rfl, hl, hown, hread⟩ | ⟨rfl, hst, hrec⟩ | rfl
  case inl =>
    have hexec : exec (.readExclusive ⟨a, why⟩ ln e) s = .next ((s1.countLine a ln).exclusive a ln e why) := by
      cases hadm.asks
      exact congrArg Host.Outcome.next hadm.request_eq
    have hleaves := State.exclusive_leaves (s := s1.countLine a ln) (a := a) (e := e) (why := why) (by simpa using hl) (by simpa using hown)
      (by simpa [Readable] using hread)
    simp only [State.dirOf_countLine, State.countLine_dev, State.agentDead_countLine] at hleaves
    obtain ⟨hone, htold, hforwarded⟩ := hleaves
    exact ⟨_, hexec, hone, htold, fun o _ => hforwarded o⟩
  case inr.inl =>
    have hexec : exec (.upgrade a ln e) s = .next (s1.grantOwn a ln ⟨.ack, a, a, ln, [], .m, .demand⟩ (s1.dirOf ln).holders) := by
      cases hadm.asks
      exact congrArg Host.Outcome.next (hadm.request_eq.trans (State.upgradeAt_of_recorded hst hrec))
    exact ⟨_, hexec, State.dirOf_grantOwn _ _ _ _ _, fun _ _ h hmem hne _ hex hlive => s1.inval_mem_grantOwn_msgs _ hmem hne hex hlive,
      fun o hi => by cases hi⟩
  case inr.inr =>
    have hexec : exec (.ownNoData ⟨a, why⟩ ln) s = .next (((s1.countLine a ln).dropBad ln).grantOwn a ln
        ⟨.ack, a, a, ln, List.replicate 128 0, .m, why⟩ (s1.dirOf ln).holders) := by
      cases hadm.asks
      rw [← State.dirOf_countLine s1 a ln ln, ← State.ownAt_eq]
      exact congrArg Host.Outcome.next hadm.request_eq
    refine ⟨_, hexec, State.dirOf_grantOwn _ _ _ _ _, fun _ _ h hmem hne _ hex hlive => State.inval_mem_grantOwn_msgs _ _ hmem hne ?_ ?_,
      fun o hi => by cases hi⟩
    · rwa [State.dropBad_dev, State.countLine_dev]
    · rwa [State.agentDead_dropBad, State.agentDead_countLine]

/-! ## Forwards and Invals at the holder -/

section Holders

variable {s : State} {ln : Nat} {m : CohMsg}

/-- A holder that acts on a forward answers it from the data it has (R257, R258). -/
theorem Received.answerFwd_eq {k : MsgKind} {a : Nat} {w : PartialWrite} {e : Ecc} {d : List Byte} {c : Option Copy} (hr : Received s k a ln m)
    (hd : s.heldData a ln w = some (d, c)) (he : e ≠ .uncorrectable) (f : State → CohMsg → List Byte → Option Copy → State) :
    s.answerFwd k a ln w e f = (f ((if e = .corrected then s.cacheError a ln else s).unpost m) m d c).goOn := by
  have htake : s.takeFwd k a ln = (s, some m) := hr
  simp only [State.answerFwd, htake, hd, he, if_false]

/-- A block whose symbol code fails is lost and its requester refused (R243). -/
theorem Received.answerFwd_of_uncorrectable {k : MsgKind} {a : Nat} {w : PartialWrite} {d : List Byte} {c : Option Copy} (hr : Received s k a ln m)
    (hd : s.heldData a ln w = some (d, c)) (f : State → CohMsg → List Byte → Option Copy → State) {v : State} (hv : v = (s.loseBlock a ln).unpost m) :
    s.answerFwd k a ln w .uncorrectable f = (if m.requester = homeAgent then v.endRecall ln
      else (if (v.dirOf ln).st = .l then v else v.setDir ln DirEntry.none).refuse m.requester ln 0 7 m.why).goOn := by
  have htake : s.takeFwd k a ln = (s, some m) := hr
  subst hv
  simp only [State.answerFwd, htake, hd, if_true]

/-- An Inval that reaches an agent takes its copy, and is answered whether or not there was one (R251). -/
theorem execInval_of_taken {a : Fin 2048} (h : s.takeInval a ln = (s, some m)) {v : State}
    (hv : v = if isHamper a then ((s.unpost m).dropCopy a ln).dropHamperLine (a / 128) ln else (s.unpost m).dropCopy a ln) :
    execInval a ln s = .next (if m.requester = homeAgent then v.endRecall ln
      else v.post ⟨.invalAck, m.requester, m.requester, ln, [], .s, m.why⟩).goOn := by
  subst hv
  simp only [execInval, h]

end Holders

/-- Settles O35: a forward is answered from the held data, an Inval by the loss of the copy, each by the lemma above. -/
theorem forwardsAtTheHolder : Obligations.ForwardsAtTheHolder := by
  unfold Obligations.ForwardsAtTheHolder
  rintro s u a ln w e m d x rfl hd
  refine ⟨fun he => ?held, ?uncorrectable, fun hr hham => ?inval, fun hm hham hlive v hv => ?hamper⟩
  case held =>
    refine ⟨fun hr => ?_, fun hr => ?_, fun hr => ?_, fun hr => ?_⟩ <;> exact congrArg Host.Outcome.next (hr.answerFwd_eq hd he _)
  case uncorrectable =>
    rintro rfl k i hi hr v hv
    simp only [List.mem_cons, Prod.mk.injEq, List.not_mem_nil, or_false] at hi
    rcases hi with ⟨rfl, rfl⟩ | ⟨rfl, rfl⟩ | ⟨rfl, rfl⟩ | ⟨rfl, rfl⟩ <;>
      exact congrArg Host.Outcome.next (hr.answerFwd_of_uncorrectable hd _ hv)
  case inval =>
    have htake : s.takeInval a ln = (s, some m) := by
      have htake : s.takeFwd .inval a ln = (s, some m) := hr
      simp [State.takeInval, hham, htake]
    exact execInval_of_taken htake (by simp [hham])
  case hamper =>
    have htake : s.takeInval a ln = (s, some m) := by simp [State.takeInval, hham, hlive, hm]
    exact execInval_of_taken htake (by simp [hham, hv])

end Sys2Proof.Machine
end

section
/-! Every step keeps memory in its canonical form (R229, R250, R499). Only writes, takings of lines and clearings change memory, and each keeps the form; every
other operation leaves memory or is composed of operations that keep the form. So there is one lemma for each operation over the state, in the model's order:
`_mem` says that it leaves memory, `_memWf` that it keeps the form, `_outcomeWf` that a command's answer has it. -/

namespace Sys2Proof.Machine

open Sys2Proof

/-! ### The form of an answer, and of states that branch or fold -/

/-- The next state of an answer, where it has one, has its memory in the canonical form. -/
def outcomeWf (r : Res) : Prop := ∀ t, r = .next t → memWf t.mem = true

@[simp] theorem outcomeWf_next (t : State) : outcomeWf (.next t) ↔ memWf t.mem = true :=
  ⟨fun h => h t rfl, fun h _ ht => Host.Outcome.next.inj ht ▸ h⟩

theorem next_outcomeWf {t : State} (h : memWf t.mem = true) : outcomeWf (.next t) := (outcomeWf_next t).2 h

theorem next_outcomeWf_of_mem {s t : State} (h : memWf s.mem = true) (ht : t.mem = s.mem) : outcomeWf (.next t) := next_outcomeWf (ht ▸ h)

theorem ite_memWf {p : Prop} [Decidable p] {a b : State} (ha : memWf a.mem = true) (hb : memWf b.mem = true) :
    memWf (if p then a else b).mem = true := by
  split <;> assumption

/-- The form of memory after an operation whose way to run is chosen. -/
theorem runIte_memWf {p : Prop} [Decidable p] {f g : RunOp} {s : State} {c ix : Nat} {d : Descriptor} (hf : memWf (f s c ix d).1.mem = true)
    (hg : memWf (g s c ix d).1.mem = true) : memWf ((if p then f else g) s c ix d).1.mem = true := by
  split <;> assumption

theorem foldl_memWf {β : Type} {f : State → β → State} {l : List β} {s : State} (h : memWf s.mem = true)
    (hf : ∀ t b, memWf t.mem = true → memWf (f t b).mem = true) : memWf (l.foldl f s).mem = true :=
  foldl_keeps (fun t => memWf t.mem = true) f l s h hf

theorem foldl_mem {β : Type} {f : State → β → State} (hf : ∀ t b, (f t b).mem = t.mem) (l : List β) (s : State) : (l.foldl f s).mem = s.mem :=
  State.foldl_keeps State.mem f hf l s

/-! ### Time, contexts and partitions -/

@[simp] theorem State.free_mem (s : State) : s.free.2.mem = s.mem := rfl

theorem whenPowered_outcomeWf {s : State} {f : State → State} (h : memWf s.mem = true)
    (hf : ∀ {t : State}, memWf t.mem = true → memWf (f t).mem = true) : outcomeWf (s.whenPowered f) :=
  next_outcomeWf (ite_memWf (hf h) h)

/-! ### The interrupt controller -/

theorem execCoalesceTimeout_outcomeWf {n : Fin 8192} {s : State} (h : memWf s.mem = true) : outcomeWf (execCoalesceTimeout n s) := by
  unfold execCoalesceTimeout
  dsimp only
  repeat' split
  all_goals simp [h]

theorem execRerouteTimeout_outcomeWf {n : Fin 8192} {s : State} (h : memWf s.mem = true) : outcomeWf (execRerouteTimeout n s) := by
  unfold execRerouteTimeout
  dsimp only
  repeat' split
  all_goals simp [h]

@[simp] theorem State.claimRead_mem (s : State) (k : Nat) (lv : IrqLevel) : (s.claimRead k lv).mem = s.mem := by
  unfold State.claimRead
  repeat' split
  all_goals simp

@[simp] theorem State.completeWrite_mem (s : State) (k : Nat) (lv : IrqLevel) (v : W64) : (s.completeWrite k lv v).mem = s.mem := by
  unfold State.completeWrite
  dsimp only
  repeat' split
  all_goals simp

@[simp] theorem State.setPendWrite_mem (s : State) (die : Nat) (v : W64) : (s.setPendWrite die v).mem = s.mem := by
  unfold State.setPendWrite
  split <;> simp

@[simp] theorem State.maskSource_mem (s : State) (n : Nat) (v : W64) : (s.maskSource n v).mem = s.mem := rfl

@[simp] theorem State.setThreshold_mem (s : State) (k : Nat) (lv : IrqLevel) (v : W64) : (s.setThreshold k lv v).mem = s.mem := by
  unfold State.setThreshold
  dsimp only
  repeat' split
  all_goals simp

/-! ### Notices and events -/

@[simp] theorem State.notifyOne_mem (s : State) (i cls logIx : Nat) (d : List Byte) : (s.notifyOne i cls logIx d).mem = s.mem := rfl

@[simp] theorem State.notify_mem (s : State) (cls logIx : Nat) (d : List Byte) (skip : Option Nat) : (s.notify cls logIx d skip).mem = s.mem := by
  unfold State.notify
  grind [foldl_mem, State.notifyOne_mem]

@[simp] theorem State.postEvent_mem (s : State) (code die detail : Nat) (skip : Option Nat) : (s.postEvent code die detail skip).mem = s.mem := by
  simp [State.postEvent]

@[simp] theorem State.toDevState_mem (s : State) (d : DevState) : (s.toDevState d).mem = s.mem := by
  unfold State.toDevState
  split <;> simp

@[simp] theorem State.refreshRun_mem (s : State) : s.refreshRun.mem = s.mem := by
  unfold State.refreshRun
  repeat' split
  all_goals simp

@[simp] theorem State.wrapCounter_mem (s : State) (b i v : Nat) : (s.wrapCounter b i v).mem = s.mem := by
  unfold State.wrapCounter
  dsimp only
  split <;> simp

@[simp] theorem State.countSpan_mem (s : State) (b code unit : Nat) (ctx : Option Nat) (ns : Nat) : (s.countSpan b code unit ctx ns).mem = s.mem := by
  unfold State.countSpan
  grind [foldl_mem, State.addCounter_mem, State.markSeen_mem]

@[simp] theorem State.setMsix_mem (s : State) (v : Nat) (x : Msix) : (s.setMsix v x).mem = s.mem := rfl

@[simp] theorem State.emitMsix_mem (s : State) (v : Nat) : (s.emitMsix v).mem = s.mem := rfl

@[simp] theorem State.sendVector_mem (s : State) (v : Nat) : (s.sendVector v).mem = s.mem := by
  unfold State.sendVector
  dsimp only
  split <;> simp

/-! ### Memory -/

@[simp] theorem State.wakeFor_mem (s : State) (pa : Nat) : (s.wakeFor pa).mem = s.mem := by
  unfold State.wakeFor
  repeat' split
  all_goals simp

theorem wrHome_memWf {s : State} {pa : Nat} {d : List Byte} (h : memWf s.mem = true) : memWf (s.wrHome pa d).mem = true := by
  unfold State.wrHome
  grind [foldl_memWf, wrBytes_memWf]

/-! ### Leaky buckets and fences -/

@[simp] theorem State.capChanged_mem (s : State) : s.capChanged.mem = s.mem := rfl

@[simp] theorem State.degrade_mem (s : State) : s.degrade.mem = s.mem := by
  unfold State.degrade
  dsimp only
  repeat' split
  all_goals simp

@[simp] theorem State.addFence_mem (s : State) (die cls ix cause : Nat) : (s.addFence die cls ix cause).mem = s.mem := by
  unfold State.addFence
  split <;> simp

@[simp] theorem State.startLeak_mem (s : State) (k t : Nat) : (s.startLeak k t).mem = s.mem := rfl

@[simp] theorem State.rowRoom_mem (s : State) (die ix : Nat) : (s.rowRoom die ix).mem = s.mem := by
  unfold State.rowRoom
  dsimp only
  repeat' split
  all_goals simp

@[simp] theorem State.bucketEvent_mem (s : State) (cls die ix : Nat) : (s.bucketEvent cls die ix).1.mem = s.mem := by
  unfold State.bucketEvent
  dsimp only
  repeat' split
  all_goals simp

@[simp] theorem State.bucketNotice_mem (s : State) (cls die ix : Nat) : (s.bucketNotice cls die ix).mem = s.mem := by
  simp [State.bucketNotice]

@[simp] theorem State.discardLines_mem (s : State) (p : Nat → Bool) : (s.discardLines p).mem = s.mem := rfl

@[simp] theorem State.useSpare_mem (s : State) (k : Nat) : (s.useSpare k).mem = s.mem := rfl

theorem countError_memWf {s : State} {cls die ix : Nat} {f : State → State} (h : memWf s.mem = true)
    (hf : ∀ {t : State}, memWf t.mem = true → memWf (f t).mem = true) : memWf (s.countError cls die ix f).mem = true := by
  unfold State.countError
  grind [!State.bucketEvent_mem, State.bucketNotice_mem]

/-! ### The caches -/

@[simp] theorem State.toWb_mem (s : State) (a ln : Nat) (d : List Byte) : (s.toWb a ln d).mem = s.mem := rfl

theorem evict_memWf {s : State} {a ln : Nat} {c : Copy} (h : memWf s.mem = true) : memWf (s.evict a ln c).mem = true := by
  unfold State.evict
  repeat' split
  all_goals simp [memWrite_memWf, h]

theorem fill_memWf {s : State} {a ln : Nat} {st : CopySt} {age : Nat} {d : List Byte} (h : memWf s.mem = true) : memWf (s.fill a ln st age d).mem = true := by
  unfold State.fill
  grind [foldl_memWf, State.setCopy_mem, State.toWb_mem, evict_memWf]

theorem giveUpLine_memWf {s : State} {a ln : Nat} (h : memWf s.mem = true) : memWf (s.giveUpLine a ln).mem = true := by
  unfold State.giveUpLine
  dsimp only
  repeat' split
  all_goals simp [memWrite_memWf, evict_memWf, h]

theorem giveUpWays_memWf {s : State} {a w : Nat} (h : memWf s.mem = true) : memWf (s.giveUpWays a w).mem = true :=
  foldl_memWf h fun _ _ ht => giveUpLine_memWf ht

@[simp] theorem State.countReclaim_mem (s : State) (a lost dropped : Nat) : (s.countReclaim a lost dropped).mem = s.mem := rfl

@[simp] theorem State.dropDue_mem (s : State) (a ln : Nat) : (s.dropDue a ln).mem = s.mem := rfl

@[simp] theorem State.endRecall_mem (s : State) (ln : Nat) : (s.endRecall ln).mem = s.mem := by
  unfold State.endRecall
  split <;> simp

theorem reclaimRecord_memWf {s1 : State} {ln a : Nat} (h : memWf s1.mem = true) : memWf (s1.reclaimRecord ln a).mem = true := by
  unfold State.reclaimRecord
  dsimp only
  repeat' split
  all_goals simp [loseLine_memWf, h]

theorem reclaimAccess_memWf {s : State} {ln : Nat} (h : memWf s.mem = true) : memWf (s.reclaimAccess ln).mem = true := by
  unfold State.reclaimAccess
  grind [foldl_memWf, loseLine_memWf, State.countReclaim_mem, reclaimRecord_memWf]

theorem reclaimIn_memWf {s : State} {l0 l1 : Nat} (h : memWf s.mem = true) : memWf (s.reclaimIn l0 l1).mem = true := by
  unfold State.reclaimIn
  grind [foldl_memWf, reclaimAccess_memWf]

theorem roomFor_memWf {s : State} {ln : Nat} (h : memWf s.mem = true) : memWf (s.roomFor ln).mem = true := by
  unfold State.roomFor
  dsimp only
  repeat' split
  all_goals simp [takeLine_memWf, h]

theorem shareDir_memWf {s0 : State} {a ln : Nat} {first : DirEntry} (h : memWf s0.mem = true) {t : State × CopySt}
    (ht : s0.shareDir a ln first = some t) : memWf t.1.mem = true := by
  unfold State.shareDir at ht
  grind [State.setDir_mem, State.setCopy_mem, memWrite_memWf, roomFor_memWf]

theorem shareLine_memWf {s : State} {a ln age : Nat} (h : memWf s.mem = true) : memWf (s.shareLine a ln age).mem = true := by
  unfold State.shareLine
  split
  · next e => exact fill_memWf (shareDir_memWf h e)
  · exact h

theorem shareHamper_memWf {s : State} {n side ln : Nat} (h : memWf s.mem = true) : memWf (s.shareHamper n side ln).1.mem = true := by
  unfold State.shareHamper
  split
  · next t st e => exact shareDir_memWf (t := (t, st)) h e
  · exact h

theorem readLine_memWf {s : State} {a ln age : Nat} (h : memWf s.mem = true) : memWf (s.readLine a ln age).mem = true := by
  unfold State.readLine
  grind [State.hit_mem, shareLine_memWf]

theorem ownLine_memWf {s0 : State} {a ln age : Nat} {was : Option Copy} (h : memWf s0.mem = true) : memWf (s0.ownLine a ln age was).mem = true := by
  unfold State.ownLine
  dsimp only
  repeat' split
  all_goals simp [fill_memWf, roomFor_memWf, h]

theorem bringLine_memWf {s : State} {a ln age : Nat} (h : memWf s.mem = true) : memWf (s.bringLine a ln age).mem = true := by
  unfold State.bringLine
  grind [State.hit_mem, shareLine_memWf]

theorem readLines_memWf {s : State} {a pa n age : Nat} (h : memWf s.mem = true) : memWf (s.readLines a pa n age).mem = true := by
  unfold State.readLines
  grind [foldl_memWf, readLine_memWf]

theorem wrBytesBy_memWf {s : State} {a pa age : Nat} {d : List Byte} (h : memWf s.mem = true) : memWf (s.wrBytesBy a pa age d).mem = true := by
  unfold State.wrBytesBy
  grind [foldl_memWf, wrBytes_memWf, ownLine_memWf]

theorem zeroLinesBy_memWf {s : State} {a l0 l1 age : Nat} (h : memWf s.mem = true) : memWf (s.zeroLinesBy a l0 l1 age).mem = true := by
  unfold State.zeroLinesBy
  grind [foldl_memWf, zeroLines_memWf, ownLine_memWf]

/-! ### Translation, faults and demand-zero pages -/

@[simp] theorem State.takeFrame_mem (s : State) (l : List Nat) : (s.takeFrame l).1.mem = s.mem := by
  induction l generalizing s with
  | nil => rfl
  | cons p ps ih =>
    unfold State.takeFrame
    dsimp only
    repeat' split
    all_goals simp [ih]

@[simp] theorem State.notePlaced_mem (s : State) (c k d : Nat) : (s.notePlaced c k d).mem = s.mem := rfl

theorem allocZero_memWf {s : State} {c entryPa e : Nat} (h : memWf s.mem = true) : memWf (s.allocZero c entryPa e).1.mem = true := by
  unfold State.allocZero
  grind [State.raise_mem, wrBytes_memWf, zeroLines_memWf, !State.takeFrame_mem, State.notePlaced_mem]

@[simp] theorem State.countPage_mem (s : State) (a c va pa n : Nat) : (s.countPage a c va pa n).mem = s.mem := by
  unfold State.countPage
  split <;> simp

@[simp] theorem State.countLine_mem (s : State) (a ln : Nat) : (s.countLine a ln).mem = s.mem := by
  unfold State.countLine
  repeat' split
  all_goals simp

theorem checkPa_memWf {s : State} {acc va pa n : Nat} (h : memWf s.mem = true) : memWf (s.checkPa acc va pa n).1.mem = true := by
  unfold State.checkPa
  dsimp only
  repeat' split
  all_goals simp [loseLine_memWf, reclaimIn_memWf, h]

theorem reach_memWf {s : State} {a c acc va pa n : Nat} {count : Bool} (h : memWf s.mem = true) : memWf (s.reach a c acc va pa n count).1.mem = true := by
  unfold State.reach
  grind [readLines_memWf, State.cacheWalk_mem, State.uncache_mem, State.countPage_mem, !checkPa_memWf]

theorem prepPage_memWf {s : State} {a c acc va n : Nat} (h : memWf s.mem = true) : memWf (s.prepPage a c acc va n).1.mem = true := by
  unfold State.prepPage
  grind [State.dropWeak_mem, State.uncache_mem, !allocZero_memWf, !reach_memWf]

theorem prepFrom_memWf {s : State} {a c acc : Nat} {fuel va n : Nat} (h : memWf s.mem = true) : memWf (s.prepFrom a c acc fuel va n).1.mem = true := by
  induction fuel generalizing s va n with
  | zero => exact h
  | succ fuel ih =>
    unfold State.prepFrom
    grind [!prepPage_memWf]

theorem prepAt_memWf {s : State} {a c acc va n : Nat} (h : memWf s.mem = true) : memWf (s.prepAt a c acc va n).1.mem = true :=
  prepFrom_memWf h

theorem prepAllAt_memWf {s : State} {a c : Nat} {l : List (Nat × Nat × Nat)} (h : memWf s.mem = true) : memWf (s.prepAllAt a c l).1.mem = true := by
  induction l generalizing s with
  | nil => exact h
  | cons e r ih =>
    unfold State.prepAllAt
    grind [!prepAt_memWf]

theorem prep_memWf {s : State} {c acc va n : Nat} (h : memWf s.mem = true) : memWf (s.prep c acc va n).1.mem = true :=
  prepAt_memWf h

@[simp] theorem State.feedAgent_mem (s : State) (c : Nat) : (s.feedAgent c).2.mem = s.mem := by
  unfold State.feedAgent
  split <;> simp

theorem prepAll_memWf {s : State} {c : Nat} {l : List (Nat × Nat × Nat)} (h : memWf s.mem = true) : memWf (s.prepAll c l).1.mem = true := by
  induction l generalizing s with
  | nil => exact h
  | cons e r ih =>
    unfold State.prepAll
    grind [!prepAt_memWf, !State.feedAgent_mem]

theorem wrVFrom_memWf {s : State} {a c : Nat} {fuel va : Nat} {d : List Byte} (h : memWf s.mem = true) : memWf (s.wrVFrom a c fuel va d).mem = true := by
  induction fuel generalizing s va d with
  | zero => exact h
  | succ fuel ih =>
    unfold State.wrVFrom
    exact ite_memWf h (ih (wrBytesBy_memWf h))

theorem wrVAt_memWf {s : State} {a c va : Nat} {d : List Byte} (h : memWf s.mem = true) : memWf (s.wrVAt a c va d).mem = true :=
  wrVFrom_memWf h

theorem wrV_memWf {s : State} {c va : Nat} {d : List Byte} (h : memWf s.mem = true) : memWf (s.wrV c va d).mem = true :=
  wrVAt_memWf h

theorem zeroVFrom_memWf {s : State} {a c age : Nat} {fuel va n : Nat} (h : memWf s.mem = true) : memWf (s.zeroVFrom a c age fuel va n).mem = true := by
  induction fuel generalizing s va n with
  | zero => exact h
  | succ fuel ih =>
    unfold State.zeroVFrom
    exact ite_memWf h (ih (ite_memWf (wrBytes_memWf _ _ _ h) (zeroLinesBy_memWf h)))

@[simp] theorem State.noteOld_mem (s : State) (c va n : Nat) : (s.noteOld c va n).mem = s.mem := by
  unfold State.noteOld
  split <;> simp

theorem outV_memWf {s : State} {c va : Nat} {d : List Byte} (h : memWf s.mem = true) : memWf (s.outV c va d).mem = true := by
  simp [State.outV, wrV_memWf, h]

theorem wrVAll_memWf {s : State} {c : Nat} {ws : List (Nat × List Byte)} (h : memWf s.mem = true) : memWf (s.wrVAll c ws).mem = true :=
  foldl_memWf h fun _ _ ht => outV_memWf ht

theorem discardOutput_memWf {s : State} {w : SeqWork} {keep : Nat} (h : memWf s.mem = true) : memWf (s.discardOutput w keep).mem = true :=
  foldl_memWf h fun _ _ ht => wrBytes_memWf _ _ _ ht

theorem drainFq_memWf {s : State} {l : List (BitVec 512)} (h : memWf s.mem = true) : memWf (s.drainFq l).mem = true := by
  induction l generalizing s with
  | nil => exact h
  | cons r rest ih =>
    unfold State.drainFq
    dsimp only
    refine ite_memWf h ?_
    split
    · exact ite_memWf h (by simp [h])
    · exact ih (by simp [wrBytes_memWf, h])

theorem tryFq_memWf {s : State} (h : memWf s.mem = true) : memWf s.tryFq.mem = true :=
  drainFq_memWf h

theorem postFq_memWf {s : State} {r : BitVec 512} (h : memWf s.mem = true) : memWf (s.postFq r).mem = true :=
  drainFq_memWf h

@[simp] theorem State.takeIndex_mem (s : State) : s.takeIndex.2.mem = s.mem := rfl

theorem postIndexed_memWf {s : State} {w : Nat} (h : memWf s.mem = true) : memWf (s.postIndexed w).1.mem = true :=
  postFq_memWf h

theorem fencePc_memWf {s : State} {d c unit cause : Nat} (h : memWf s.mem = true) : memWf (s.fencePc d c unit cause).mem = true := by
  unfold State.fencePc
  split <;> simp [postIndexed_memWf, h]

theorem failPc_memWf {s : State} {d c cause : Nat} (h : memWf s.mem = true) : memWf (s.failPc d c cause).mem = true := by
  unfold State.failPc
  grind [foldl_memWf, State.setPc_mem, fencePc_memWf]

theorem failRow_memWf {s : State} {d c row cause : Nat} (h : memWf s.mem = true) : memWf (s.failRow d c row cause).mem = true := by
  unfold State.failRow
  split <;> simp [failPc_memWf, h]

theorem countDramError_memWf {s : State} {d c row : Nat} (h : memWf s.mem = true) : memWf (s.countDramError d c row).mem = true := by
  unfold State.countDramError
  grind [countError_memWf, failPc_memWf, failRow_memWf]

theorem noteCorrected_memWf {s : State} {d c row : Nat} (h : memWf s.mem = true) : memWf (s.noteCorrected d c row).mem = true := by
  simp [State.noteCorrected, countDramError_memWf, h]

theorem noteUncorrectable_memWf {s : State} {d c row : Nat} (h : memWf s.mem = true) : memWf (s.noteUncorrectable d c row).mem = true :=
  countDramError_memWf h

theorem lineReport_memWf {s : State} {ln reaction : Nat} (h : memWf s.mem = true) : memWf (s.lineReport ln reaction).mem = true := by
  unfold State.lineReport
  dsimp only
  repeat' split
  all_goals simp [postIndexed_memWf, noteUncorrectable_memWf, h]

theorem hardFault_memWf {s : State} {c agent opIx acc : Nat} {h : Hit} (hwf : memWf s.mem = true) : memWf (s.hardFault c agent opIx acc h).2.mem = true :=
  postFq_memWf hwf

theorem faultAt_memWf {s : State} {c agent opIx acc : Nat} {h : Hit} {w : Waiter} (hwf : memWf s.mem = true) :
    memWf (s.faultAt c agent opIx acc h w).2.mem = true := by
  unfold State.faultAt
  repeat' split
  all_goals simp [postFq_memWf, lineReport_memWf, hardFault_memWf, hwf]

/-! ### The operation contract -/

@[simp] theorem State.beginRelease_mem (s : State) (c : Nat) : (s.beginRelease c).mem = s.mem := by
  unfold State.beginRelease
  split <;> simp

@[simp] theorem State.halt_mem (s : State) (c status opIx : Nat) : (s.halt c status opIx).mem = s.mem := by
  unfold State.halt
  dsimp only
  repeat' split
  all_goals simp

@[simp] theorem State.lostRecord_mem (s : State) (c src : Nat) : (s.lostRecord c src).mem = s.mem := by
  unfold State.lostRecord
  split <;> simp

theorem drainRecords_memWf {s : State} {c : Nat} {l : List (Nat × List Byte × Nat)} (h : memWf s.mem = true) : memWf (s.drainRecords c l).mem = true := by
  induction l generalizing s with
  | nil => simp [State.drainRecords, h]
  | cons e rest ih =>
    unfold State.drainRecords
    grind [State.updCtx_mem, State.raise_mem, !prep_memWf, wrV_memWf, !faultAt_memWf, State.halt_mem, State.lostRecord_mem]

theorem postRecord_memWf {s : State} {c va : Nat} {d : List Byte} {src : Nat} (h : memWf s.mem = true) : memWf (s.postRecord c va d src).mem = true := by
  unfold State.postRecord
  split <;> simp [drainRecords_memWf, h]

theorem postNotice_memWf {s : State} {c code detail : Nat} (h : memWf s.mem = true) : memWf (s.postNotice c code detail).mem = true := by
  unfold State.postNotice
  dsimp only
  repeat' split
  all_goals simp [postRecord_memWf, h]

theorem writeRecord_memWf {s : State} {c word : Nat} (h : memWf s.mem = true) : memWf (s.writeRecord c word).1.mem = true := by
  unfold State.writeRecord
  grind [State.updCtx_mem, !prep_memWf, wrV_memWf]

@[simp] theorem State.afterCompletion_mem (s : State) (c : Nat) (f : Flight) (status : Nat) : (s.afterCompletion c f status).mem = s.mem := by
  unfold State.afterCompletion
  split <;> simp

theorem finish_memWf {s : State} {c : Nat} {f : Flight} {r : OpResult} (h : memWf s.mem = true) : memWf (s.finish c f r).mem = true := by
  unfold State.finish
  grind [State.raise_mem, !faultAt_memWf, State.halt_mem, !writeRecord_memWf, State.dropFlight_mem, State.setFlight_mem, State.afterCompletion_mem]

theorem writeEach_memWf {s : State} {c : Nat} {l : List WaitingRecord} (h : memWf s.mem = true) : memWf (s.writeEach c l).mem = true := by
  induction l generalizing s with
  | nil => simp [State.writeEach, h]
  | cons w rest ih =>
    unfold State.writeEach
    grind [State.updCtx_mem, !writeRecord_memWf, !faultAt_memWf, State.halt_mem]

theorem writeWaiting_memWf {s : State} {c : Nat} (h : memWf s.mem = true) : memWf (s.writeWaiting c).mem = true :=
  writeEach_memWf h

theorem haltRecord_memWf {s : State} {c status detail : Nat} (h : memWf s.mem = true) : memWf (s.haltRecord c status detail).mem = true := by
  simp [State.haltRecord, writeWaiting_memWf, h]

@[simp] theorem ended_mem (s : State) (r : OpResult) : (ended s r).1.mem = s.mem := rfl

@[simp] theorem rejected_mem (s : State) (x : Nat × Nat) : (rejected s x).1.mem = s.mem := rfl

theorem opFaultBy_memWf {s : State} {agent c opIx acc : Nat} {h : Hit} (hwf : memWf s.mem = true) : memWf (s.opFaultBy agent c opIx acc h).1.mem = true := by
  unfold State.opFaultBy
  split <;> simp [faultAt_memWf, hwf]

theorem opFault_memWf {s : State} {c opIx acc : Nat} {h : Hit} (hwf : memWf s.mem = true) : memWf (s.opFault c opIx acc h).1.mem = true :=
  opFaultBy_memWf hwf

theorem fetchOp_memWf {s : State} {c : Nat} (h : memWf s.mem = true) : memWf (s.fetchOp c).1.mem = true := by
  unfold State.fetchOp
  grind [!prep_memWf]

@[simp] theorem State.beginWork_mem (s : State) (c : Nat) : (s.beginWork c).mem = s.mem := rfl

@[simp] theorem State.consume_mem (s : State) (c : Nat) (d : Descriptor) : (s.consume c d).mem = s.mem := rfl

theorem takeOp_memWf {s : State} {k op : Nat} {run : RunOp} (h : memWf s.mem = true)
    (hrun : ∀ {t : State} {c ix : Nat} {d : Descriptor}, memWf t.mem = true → memWf (run t c ix d).1.mem = true) : memWf (s.takeOp k op run).mem = true := by
  unfold State.takeOp
  grind (gen := 20) [!faultAt_memWf, State.halt_mem, State.setFlight_mem, !fetchOp_memWf, State.consume_mem, State.noteBoundary_mem]

@[simp] theorem State.passEmpty_mem (s : State) (l : List Nat) : (s.passEmpty l).1.mem = s.mem := by
  induction l generalizing s with
  | nil => rfl
  | cons c rest ih =>
    unfold State.passEmpty
    split <;> simp [ih]

@[simp] theorem State.drr_mem (s : State) (k cls : Nat) : (s.drr k cls).1.mem = s.mem := by
  unfold State.drr
  grind [State.updCtx_mem, State.updPart_mem, !State.passEmpty_mem]

@[simp] theorem State.choose_mem (s : State) (k : Nat) : (s.choose k).1.mem = s.mem := by
  unfold State.choose
  split <;> simp

@[simp] theorem State.seat_mem (s : State) (k : Nat) (c : Option Nat) : (s.seat k c).mem = s.mem := by
  unfold State.seat
  split <;> simp

@[simp] theorem State.charge_mem (s : State) (c ns : Nat) : (s.charge c ns).mem = s.mem := rfl

theorem execIdlePartitionChoose_outcomeWf {p : Fin 8} {s : State} (h : memWf s.mem = true) : outcomeWf (execIdlePartitionChoose p s) := by
  unfold execIdlePartitionChoose
  dsimp only
  repeat' split
  all_goals simp [h]

theorem execEveOverdue_outcomeWf {p : Fin 8} {s : State} (h : memWf s.mem = true) : outcomeWf (execEveOverdue p s) := by
  unfold execEveOverdue
  dsimp only
  repeat' split
  all_goals simp [postNotice_memWf, h]

theorem ringBell_memWf {s : State} {c : Nat} {producer : W32} (h : memWf s.mem = true) : memWf (s.ringBell c producer).mem = true := by
  unfold State.ringBell
  dsimp only
  repeat' with_reducible apply ite_memWf
  all_goals simp [haltRecord_memWf, h]

theorem freeRecords_memWf {s : State} {c : Nat} {v : W32} (h : memWf s.mem = true) : memWf (s.freeRecords c v).mem = true := by
  unfold State.freeRecords
  dsimp only
  repeat' split
  all_goals simp [writeWaiting_memWf, h]

/-! ### The Almanac -/

theorem almEvent_memWf {s : State} {c opIx eve : Nat} {e : AlmEvent} (h : memWf s.mem = true) : memWf (s.almEvent c opIx eve e).mem = true := by
  simp [State.almEvent, postRecord_memWf, h]

theorem takeTrap_memWf {s : State} {c : Nat} {f : Flight} {r : OpResult} {t : TrapNote} (h : memWf s.mem = true) :
    memWf (s.takeTrap c f r t).1.mem = true := by
  unfold State.takeTrap
  dsimp only
  split <;> simp [postRecord_memWf, h]

theorem settle_memWf {s : State} {c : Nat} {f : Flight} {r : OpResult} {a : Aftermath} (h : memWf s.mem = true) : memWf (s.settle c f r a).1.mem = true := by
  unfold State.settle
  grind [foldl_memWf, State.setCtx_mem, postRecord_memWf, almEvent_memWf, !takeTrap_memWf]

theorem pushHistories_memWf {s : State} {c slot : Nat} (h : memWf s.mem = true) : memWf (s.pushHistories c slot).mem = true := by
  unfold State.pushHistories
  grind [foldl_memWf, State.updCtx_mem, !prep_memWf, !faultAt_memWf, State.halt_mem, postRecord_memWf]

theorem closeLayer_memWf {s : State} {c opIx : Nat} (h : memWf s.mem = true) : memWf (s.closeLayer c opIx).mem = true := by
  unfold State.closeLayer
  grind [State.setCtx_mem, State.updCtx_mem, postRecord_memWf, almEvent_memWf, pushHistories_memWf]

theorem clearRegion_memWf {s : State} {c : Nat} (h : memWf s.mem = true) : memWf (s.clearRegion c).mem = true := by
  unfold State.clearRegion
  grind [foldl_memWf, State.setCtx_mem, State.updCtx_mem, wrBytes_memWf, zeroLines_memWf, !prep_memWf, !faultAt_memWf, State.halt_mem]

/-! ### Decompositions -/

@[simp] theorem State.markTiles_mem (s : State) (c k : Nat) : (s.markTiles c k).mem = s.mem := rfl

@[simp] theorem State.useSig_mem (s : State) (c : Nat) (d : Descriptor) (q : SigKey) (blocks : Nat) : (s.useSig c d q blocks).mem = s.mem := by
  unfold State.useSig
  dsimp only
  split <;> simp

@[simp] theorem State.adapt_mem (s : State) (k : Nat) (ms : List SigMeasure) : (s.adapt k ms).1.mem = s.mem := rfl

/-! ### Products -/

theorem prodWrite_memWf {s : State} {c : Nat} {d : Descriptor} {js : List Job} (h : memWf s.mem = true) : memWf (s.prodWrite c d js).1.mem = true :=
  foldl_memWf h fun _ _ ht => wrVAll_memWf ht

theorem prodRun_memWf {s : State} {c ix : Nat} {d : Descriptor} (h : memWf s.mem = true) : memWf (s.prodRun c ix d).1.mem = true := by
  unfold State.prodRun
  grind [!prepAll_memWf, !rejected_mem, !opFault_memWf, State.useSig_mem, !prodWrite_memWf]

theorem runProduct_memWf {s : State} {c ix : Nat} {d : Descriptor} (h : memWf s.mem = true) : memWf (runProduct s c ix d).1.mem = true := by
  unfold runProduct
  grind [!prep_memWf, !rejected_mem, !opFault_memWf, !prodRun_memWf]

/-! ### Attention -/

theorem attnWrite_memWf {s : State} {c : Nat} {d : Descriptor} {qs : List AttnSeq} (h : memWf s.mem = true) : memWf (s.attnWrite c d qs).1.mem = true := by
  unfold State.attnWrite
  grind [foldl_memWf, outV_memWf, wrVAll_memWf]

theorem runAttention_memWf {s : State} {c ix : Nat} {d : Descriptor} (h : memWf s.mem = true) : memWf (runAttention s c ix d).1.mem = true := by
  unfold runAttention
  grind [!prep_memWf, !prepAll_memWf, !rejected_mem, !opFault_memWf, State.useSig_mem, !attnWrite_memWf]

/-! ### The plain operations -/

theorem zeroPart_memWf {s : State} {c : Nat} {p : Nat × Nat × Nat} (h : memWf s.mem = true) : memWf (s.zeroPart c p).mem = true := by
  unfold State.zeroPart
  split <;> simp [wrV_memWf, zeroVFrom_memWf, h]

theorem runZero_memWf {s : State} {c ix : Nat} {d : Descriptor} (h : memWf s.mem = true) : memWf (runZero s c ix d).1.mem = true := by
  unfold runZero
  grind [foldl_memWf, !prepAll_memWf, !ended_mem, !rejected_mem, !opFault_memWf, zeroPart_memWf]

theorem runCopy_memWf {s : State} {c ix : Nat} {d : Descriptor} (h : memWf s.mem = true) : memWf (runCopy s c ix d).1.mem = true := by
  unfold runCopy
  grind [State.updCtx_mem, !prepAll_memWf, outV_memWf, !ended_mem, !rejected_mem, !opFault_memWf]

theorem runFence_memWf {s : State} {c ix : Nat} {d : Descriptor} (h : memWf s.mem = true) : memWf (runFence s c ix d).1.mem = true := by
  unfold runFence
  repeat' split
  all_goals simp [rejected_mem, h]

theorem runEve_memWf {s : State} {c ix : Nat} {d : Descriptor} (h : memWf s.mem = true) : memWf (runEve s c ix d).1.mem = true := by
  unfold runEve
  repeat' split
  all_goals simp [rejected_mem, h]

theorem evalWait_memWf {s : State} {c : Nat} {d : Descriptor} (h : memWf s.mem = true) : memWf (s.evalWait c d).1.mem = true := by
  unfold State.evalWait
  grind [!prep_memWf]

@[simp] theorem State.park_mem (s : State) (c : Nat) : (s.park c).mem = s.mem := by
  unfold State.park
  repeat' split
  all_goals simp

@[simp] theorem State.unpark_mem (s : State) (c : Nat) : (s.unpark c).mem = s.mem := rfl

theorem tryWait_memWf {s : State} {c ix : Nat} {d : Descriptor} {deadline : Option Nat} (h : memWf s.mem = true) :
    memWf (s.tryWait c ix d deadline).1.mem = true := by
  unfold State.tryWait
  grind [!ended_mem, !opFault_memWf, !evalWait_memWf, State.park_mem, State.unpark_mem]

theorem runWait_memWf {s : State} {c ix : Nat} {d : Descriptor} (h : memWf s.mem = true) : memWf (runWait s c ix d).1.mem = true := by
  unfold runWait
  split <;> simp [rejected_mem, tryWait_memWf, h]

theorem runSignal_memWf {s : State} {c ix : Nat} {d : Descriptor} (h : memWf s.mem = true) : memWf (runSignal s c ix d).1.mem = true := by
  unfold runSignal
  split <;> simp [rejected_mem, h]

theorem runTimestamp_memWf {s : State} {c ix : Nat} {d : Descriptor} (h : memWf s.mem = true) : memWf (runTimestamp s c ix d).1.mem = true := by
  unfold runTimestamp
  split <;> simp [rejected_mem, h]

theorem actSignal_memWf {s : State} {c ix : Nat} {d : Descriptor} (h : memWf s.mem = true) : memWf (s.actSignal c ix d).1.mem = true := by
  unfold State.actSignal
  grind [State.raise_mem, !prep_memWf, wrV_memWf, !ended_mem, !opFault_memWf]

theorem actTimestamp_memWf {s : State} {c ix : Nat} {d : Descriptor} (h : memWf s.mem = true) : memWf (s.actTimestamp c ix d).1.mem = true := by
  unfold State.actTimestamp
  grind [!prep_memWf, wrV_memWf, !ended_mem, !opFault_memWf]

theorem actAtHead_memWf {s : State} {c : Nat} {f : Flight} (h : memWf s.mem = true) : memWf (s.actAtHead c f).1.mem = true := by
  unfold State.actAtHead
  repeat' split
  all_goals simp [actSignal_memWf, actTimestamp_memWf, h]

theorem reevaluate_memWf {s : State} {c : Nat} (h : memWf s.mem = true) : memWf (s.reevaluate c).mem = true := by
  unfold State.reevaluate
  split <;> simp [tryWait_memWf, h]

theorem execWaitReevaluate_outcomeWf {c : Fin 4096} {s : State} (h : memWf s.mem = true) : outcomeWf (execWaitReevaluate c s) := by
  unfold execWaitReevaluate
  split <;> simp [reevaluate_memWf, h]

theorem execWaitTimeout_outcomeWf {c : Fin 4096} {s : State} (h : memWf s.mem = true) : outcomeWf (execWaitTimeout c s) := by
  unfold execWaitTimeout
  split <;> simp [h]

/-! ### The host port -/

@[simp] theorem State.discardWrite_mem (s : State) (c : Nat) : (s.discardWrite c).mem = s.mem := by
  unfold State.discardWrite
  split <;> simp

@[simp] theorem State.refuseBell_mem (s : State) (c : Nat) : (s.refuseBell c).mem = s.mem := by
  simp [State.refuseBell]

theorem ingressOk_memWf {s : State} {c : Nat} {l : List (Nat × Nat × Nat)} (h : memWf s.mem = true) : memWf (s.ingressOk c l).1.mem = true := by
  induction l generalizing s with
  | nil => exact h
  | cons e r ih =>
    unfold State.ingressOk
    grind [!prepPage_memWf]

theorem ingressPart_memWf {s : State} {c : Nat} {queue : Bool} {n : W32} {va lo : Nat} {d : List Byte} (h : memWf s.mem = true) :
    memWf (s.ingressPart c queue n va lo d).mem = true := by
  unfold State.ingressPart
  grind [wrVAt_memWf, !faultAt_memWf, State.updHost_mem, State.discardWrite_mem, !ingressOk_memWf]

@[simp] theorem State.advanceHost_mem (s : State) (c : Nat) : (s.advanceHost c).mem = s.mem := rfl

theorem ingressWrite_memWf {s : State} {c : Nat} {queue : Bool} {fuel off : Nat} {d : List Byte} (h : memWf s.mem = true) :
    memWf (s.ingressWrite c queue fuel off d).mem = true := by
  induction fuel generalizing s off d with
  | zero => exact h
  | succ fuel ih =>
    unfold State.ingressWrite
    exact ite_memWf h (ih (ite_memWf (by simp [h]) (ingressPart_memWf h)))

theorem execIngressQueueWrite_outcomeWf {c : Fin 4096} {off : Nat} {d : List Byte} {s : State} (h : memWf s.mem = true) :
    outcomeWf (execIngressQueueWrite c off d s) := by
  unfold execIngressQueueWrite
  split <;> simp [ingressWrite_memWf, h]

theorem execIngressDataWrite_outcomeWf {c : Fin 4096} {off : Nat} {d : List Byte} {s : State} (h : memWf s.mem = true) :
    outcomeWf (execIngressDataWrite c off d s) := by
  unfold execIngressDataWrite
  split <;> simp [ingressWrite_memWf, h]

theorem execWindowARead_outcomeWf {p : HostPage} {off : Nat} {n : Nat} {s : State} (h : memWf s.mem = true) : outcomeWf (execWindowARead p off n s) := by
  unfold execWindowARead
  split <;> simp [h]

theorem execHostDoorbell_outcomeWf {c : Fin 4096} {off : Nat} {d : List Byte} {s : State} (h : memWf s.mem = true) :
    outcomeWf (execHostDoorbell c off d s) := by
  unfold execHostDoorbell
  dsimp only
  repeat' split
  all_goals simp [haltRecord_memWf, h]

theorem execEgressAck_outcomeWf {c : Fin 4096} {off : Nat} {d : List Byte} {s : State} (h : memWf s.mem = true) : outcomeWf (execEgressAck c off d s) := by
  unfold execEgressAck
  dsimp only
  repeat' split
  all_goals simp [h]

@[simp] theorem State.emitBatch_mem (s : State) (c : Nat) (r : EgressReg) (b : Batch) : (s.emitBatch c r b).mem = s.mem := by
  simp [State.emitBatch]

@[simp] theorem State.countBatch_mem (s : State) (r : EgressReg) : (s.countBatch r).mem = s.mem := by
  unfold State.countBatch
  dsimp only
  split <;> simp

theorem execEgressRegistration_outcomeWf {c : Fin 4096} {off : Nat} {d : List Byte} {s : State} (h : memWf s.mem = true) :
    outcomeWf (execEgressRegistration c off d s) := by
  unfold execEgressRegistration
  grind [outcomeWf_next, foldl_memWf, State.ungate_mem, State.updHost_mem, State.discardWrite_mem, State.emitBatch_mem, State.countBatch_mem]

theorem execIngressIncomplete_outcomeWf {c : Fin 4096} {s : State} (h : memWf s.mem = true) : outcomeWf (execIngressIncomplete c s) := by
  unfold execIngressIncomplete
  dsimp only
  repeat' split
  all_goals simp [postNotice_memWf, h]

theorem execIngressExpired_outcomeWf {c : Fin 4096} {s : State} (h : memWf s.mem = true) : outcomeWf (execIngressExpired c s) := by
  unfold execIngressExpired
  dsimp only
  repeat' split
  all_goals simp [haltRecord_memWf, h]

theorem holdBatch_memWf {s : State} {c : Nat} {b : Batch} (h : memWf s.mem = true) : memWf (s.holdBatch c b).1.mem = true := by
  unfold State.holdBatch
  grind [!prepAllAt_memWf, !prepAll_memWf, wrVAt_memWf]

theorem execEgressBatchIssue_outcomeWf {c : Fin 4096} {s : State} (h : memWf s.mem = true) : outcomeWf (execEgressBatchIssue c s) := by
  unfold execEgressBatchIssue
  grind [outcomeWf_next, State.setFlight_mem, !opFaultBy_memWf, State.updHost_mem, State.emitBatch_mem, State.countBatch_mem, !holdBatch_memWf]

theorem detachCtx_memWf {s : State} {c : Nat} (h : memWf s.mem = true) : memWf (s.detachCtx c).mem = true := by
  unfold State.detachCtx
  dsimp only
  repeat' split
  all_goals simp [holdBatch_memWf, h]

theorem detach_memWf {s : State} (h : memWf s.mem = true) : memWf s.detach.mem = true := by
  unfold State.detach
  grind [foldl_memWf, detachCtx_memWf]

theorem attach_memWf {s : State} (h : memWf s.mem = true) : memWf s.attach.mem = true := by
  unfold State.attach
  grind [foldl_memWf, State.raise_mem, State.sendVector_mem, State.updHost_mem, detach_memWf]

theorem execEgressReadTimeout_outcomeWf {c : Fin 4096} {s : State} (h : memWf s.mem = true) : outcomeWf (execEgressReadTimeout c s) := by
  unfold execEgressReadTimeout
  split <;> simp [detach_memWf, h]

theorem execHostDetach_outcomeWf {cause : DetachCause} {s : State} (h : memWf s.mem = true) : outcomeWf (execHostDetach cause s) :=
  next_outcomeWf (detach_memWf h)

theorem execMsixCoalesceTimeout_outcomeWf {v : Fin 2048} {s : State} (h : memWf s.mem = true) : outcomeWf (execMsixCoalesceTimeout v s) := by
  unfold execMsixCoalesceTimeout
  split <;> simp [h]

theorem execMsixMaskWrite_outcomeWf {off : Fin 65536} {d : BitVec 32} {s : State} (h : memWf s.mem = true) : outcomeWf (execMsixMaskWrite off d s) := by
  unfold execMsixMaskWrite
  dsimp only
  repeat' split
  all_goals simp [h]

/-! ### The link layer -/

@[simp] theorem State.emitFlit_mem (s : State) (p : Nat) (seq : BitVec 12) (data : List Byte) : (s.emitFlit p seq data).mem = s.mem := rfl

@[simp] theorem State.emitIdle_mem (s : State) (p : Nat) : (s.emitIdle p).mem = s.mem := rfl

@[simp] theorem State.emitData_mem (s : State) (p : Nat) (data : List Byte) : (s.emitData p data).mem = s.mem := by
  simp [State.emitData]

@[simp] theorem State.emitPacket_mem (s : State) (p : Nat) (pk : Packet) : (s.emitPacket p pk).mem = s.mem := by
  unfold State.emitPacket
  grind [foldl_mem, State.countEv_mem, State.setPort_mem, State.emitData_mem]

@[simp] theorem State.pumpPort_mem (s : State) (p : Nat) (fuel : Nat) : (s.pumpPort p fuel).mem = s.mem := by
  induction fuel generalizing s with
  | zero => rfl
  | succ fuel ih =>
    unfold State.pumpPort
    split <;> simp [ih]

@[simp] theorem State.answerFlit_mem (s : State) (p : Nat) : (s.answerFlit p).mem = s.mem := by
  unfold State.answerFlit
  dsimp only
  split <;> simp

@[simp] theorem State.returnCredits_mem (s : State) (p : Nat) : (s.returnCredits p).mem = s.mem := by
  unfold State.returnCredits
  dsimp only
  split <;> simp

@[simp] theorem State.launchPacket_mem (s : State) (p : Nat) (pk : Packet) : (s.launchPacket p pk).mem = s.mem := by
  simp [State.launchPacket]

/-! ### The fabric -/

@[simp] theorem State.toPortState_mem (s : State) (p st : Nat) : (s.toPortState p st).mem = s.mem := by
  unfold State.toPortState
  repeat' split
  all_goals simp

@[simp] theorem State.dropPacket_mem (s : State) (hub : Nat) : (s.dropPacket hub).mem = s.mem := by
  simp [State.dropPacket]

@[simp] theorem State.route_mem (s : State) (pk : Packet) (h : Nat) : (s.route pk h).mem = s.mem := by
  unfold State.route
  repeat' split
  all_goals simp

@[simp] theorem State.send_mem (s : State) (type : Nat) (dest : Nat) (dctx sctx : Nat) (addr aux : Nat) (payload : List Byte) :
    (s.send type dest dctx sctx addr aux payload).mem = s.mem := by
  unfold State.send
  repeat' split
  all_goals simp

@[simp] theorem State.ackPacket_mem (s : State) (pk : Packet) (payload : List Byte) : (s.ackPacket pk payload).mem = s.mem := by
  simp [State.ackPacket]

@[simp] theorem State.receive_mem (s : State) (pk : Packet) : (s.receive pk).1.mem = s.mem := by
  unfold State.receive
  dsimp only
  repeat' split
  all_goals simp

@[simp] theorem State.leadingCause_mem (s : State) (c comm : Nat) : (s.leadingCause c comm).2.2.mem = s.mem := by
  unfold State.leadingCause
  extract_lets x since span idle r
  have hr : r.2.2.mem = s.mem := List.foldlRecOn (motive := fun a : Nat × (Nat × Nat) × State => a.2.2.mem = s.mem) _ _ rfl fun a ha e _ => by
    extract_lets f own cost
    split <;> exact ha
  split <;> exact hr

@[simp] theorem State.sendRank_mem (s : State) (c : Nat) (r : CollRun) (type rank chunk : Nat) (d : List Byte) :
    (s.sendRank c r type rank chunk d).mem = s.mem := by
  simp [State.sendRank]

@[simp] theorem State.endWait_mem (s : State) (c : Nat) (r : CollRun) : (s.endWait c r).mem = s.mem := by
  simp [State.endWait]

@[simp] theorem State.losePeer_mem (s : State) (c lostId : Nat) : (s.losePeer c lostId).mem = s.mem := by
  unfold State.losePeer
  grind [foldl_mem, State.setFlight_mem, State.setRun_mem, State.sendRank_mem, State.endWait_mem]

@[simp] theorem State.abandonRun_mem (s : State) (c : Nat) : (s.abandonRun c).mem = s.mem := by
  unfold State.abandonRun
  grind [foldl_mem, State.setRun_mem, State.sendRank_mem, State.endWait_mem]

/-! ### Units and samples -/

@[simp] theorem State.skipSample_mem (s : State) (k : Nat) : (s.skipSample k).mem = s.mem := rfl

@[simp] theorem State.startSampling_mem (s : State) (k : Nat) : (s.startSampling k).mem = s.mem := by
  unfold State.startSampling
  grind [foldl_mem, State.setSampler_mem]

@[simp] theorem State.sampleIssue_mem (s : State) (k u c : Nat) (tag : Tagged) : (s.sampleIssue k u c tag).mem = s.mem := by
  unfold State.sampleIssue
  repeat' split
  all_goals simp

@[simp] theorem State.dropTag_mem (s : State) (k u : Nat) : (s.dropTag k u).mem = s.mem := by
  unfold State.dropTag
  repeat' split
  all_goals simp

/-! ### Thread groups -/

@[simp] theorem State.noteIssue_mem (s : State) (x : Lane) (va : Nat) (mask : Nat) : (s.noteIssue x va mask).mem = s.mem := by
  unfold State.noteIssue
  repeat' split
  all_goals simp

theorem writeOuts_memWf {s : State} {l : Launch} (h : memWf s.mem = true) : memWf (s.writeOuts l).1.mem = true := by
  unfold State.writeOuts
  exact List.foldlRecOn (motive := fun a : State × Tally => memWf a.1.mem = true) _ _ h fun a ha n _ => wrVAll_memWf ha

theorem endLaunch_memWf {s : State} {ix : Nat} {l : Launch} (h : memWf s.mem = true) : memWf (s.endLaunch ix l).mem = true := by
  unfold State.endLaunch
  grind [State.newAccess_mem, !prepAll_memWf, !faultAt_memWf, State.setFlight_mem, State.setLaunch_mem, !writeOuts_memWf]

theorem endBlock_memWf {s : State} {bid : Nat} {b : Block} (h : memWf s.mem = true) : memWf (s.endBlock bid b).mem = true := by
  unfold State.endBlock
  grind [foldl_memWf, State.setGroup_mem, State.setBlock_mem, State.setLaunch_mem, endLaunch_memWf]

theorem refreshBlock_memWf {s : State} {bid : Nat} (h : memWf s.mem = true) : memWf (s.refreshBlock bid).mem = true := by
  unfold State.refreshBlock
  grind [foldl_memWf, State.setGroup_mem, State.setBlock_mem, endBlock_memWf]

theorem retire_memWf {s : State} {x : Lane} {h : Group} {va mask : Nat} (hwf : memWf s.mem = true) : memWf (s.retire x h va mask).mem = true := by
  simp [State.retire, refreshBlock_memWf, hwf]

theorem laneReg_memWf {s : State} {g : Nat} {is : Nat → Bool} {f : Lane → Group → Group} (h : memWf s.mem = true) : memWf (s.laneReg g is f).mem = true := by
  unfold State.laneReg
  repeat' split
  all_goals simp [retire_memWf, h]

@[simp] theorem State.clearLaunch_mem (s : State) (ix : Nat) : (s.clearLaunch ix).mem = s.mem := by
  unfold State.clearLaunch
  grind [foldl_mem, State.dropTag_mem, State.setGroup_mem, State.setBlock_mem, State.setLaunch_mem]

@[simp] theorem State.stopLaunch_mem (s : State) (ix : Nat) (r : OpResult) : (s.stopLaunch ix r).mem = s.mem := by
  unfold State.stopLaunch
  split <;> simp

theorem dumpBlock_memWf {s : State} {l : Launch} {b : Block} (h : memWf s.mem = true) : memWf (s.dumpBlock l b).mem = true := by
  unfold State.dumpBlock
  dsimp only
  split <;> simp [postRecord_memWf, h]

theorem groupFault_memWf {s : State} {ix : Nat} {l : Launch} {b : Block} {status rec : Nat} (h : memWf s.mem = true) :
    memWf (s.groupFault ix l b status rec).mem = true := by
  unfold State.groupFault
  dsimp only
  split <;> simp [postRecord_memWf, dumpBlock_memWf, h]

theorem accessFault_memWf {s : State} {ix status index : Nat} {bid : Nat} (h : memWf s.mem = true) : memWf (s.accessFault ix status index bid).mem = true := by
  unfold State.accessFault
  split <;> simp [dumpBlock_memWf, h]

theorem execBarrierTimeout_outcomeWf {blk : Nat} {s : State} (h : memWf s.mem = true) : outcomeWf (execBarrierTimeout blk s) := by
  unfold execBarrierTimeout
  repeat' split
  all_goals simp [groupFault_memWf, h]

theorem execSampleRecordWrite_outcomeWf {u : Fin 512} {m : SampleMeasure} {s : State} (h : memWf s.mem = true) : outcomeWf (execSampleRecordWrite u m s) := by
  unfold execSampleRecordWrite
  dsimp only
  repeat' split
  all_goals simp [wrHome_memWf, h]

/-! ### Stream programs -/

@[simp] theorem State.startStream_mem (s : State) (c ix k : Nat) (d : Descriptor) (ws : List W64) : (s.startStream c ix k d ws).1.mem = s.mem :=
  foldl_mem (fun _ _ => State.setInst_mem ..) _ _

theorem runStream_memWf {s : State} {c ix : Nat} {d : Descriptor} (h : memWf s.mem = true) : memWf (runStream s c ix d).1.mem = true := by
  unfold runStream
  grind [!prep_memWf, !rejected_mem, !opFault_memWf, !State.startStream_mem]

theorem wakeStream_memWf {s : State} {k : Nat} (h : memWf s.mem = true) : memWf (s.wakeStream k).mem = true := by
  unfold State.wakeStream
  grind [!runStream_memWf, State.setFlight_mem]

theorem wakeUnit_memWf {s : State} {v : Nat} (h : memWf s.mem = true) : memWf (s.wakeUnit v).mem = true := by
  unfold State.wakeUnit
  split <;> simp [wakeStream_memWf, h]

theorem dropInsts_memWf {s : State} {c ix : Nat} (h : memWf s.mem = true) : memWf (s.dropInsts c ix).mem = true := by
  unfold State.dropInsts
  grind [foldl_memWf, State.setInst_mem, wakeStream_memWf]

theorem stopStream_memWf {s : State} {c ix : Nat} {r : OpResult} (h : memWf s.mem = true) : memWf (s.stopStream c ix r).mem = true :=
  dropInsts_memWf h

theorem putInst_memWf {s : State} {i : Nat} {x : Instance} (h : memWf s.mem = true) : memWf (s.putInst i x).mem = true := by
  unfold State.putInst
  dsimp only
  repeat' split
  all_goals simp [wakeStream_memWf, h]

theorem streamReg_memWf {s : State} {i op : Nat} {f : Instance → Nat → Instance} (h : memWf s.mem = true) : memWf (s.streamReg i op f).mem = true := by
  unfold State.streamReg
  dsimp only
  repeat' split
  all_goals simp [putInst_memWf, h]

theorem issueBurst_memWf {s : State} {i : Nat} {x : Instance} {w src dst : Nat} (h : memWf s.mem = true) : memWf (s.issueBurst i x w src dst).mem = true :=
  putInst_memWf h

theorem execXfer_outcomeWf {i : Nat} {s : State} (h : memWf s.mem = true) : outcomeWf (execXfer i s) := by
  unfold execXfer
  dsimp only
  repeat' split
  all_goals simp [issueBurst_memWf, h]

theorem instFault_memWf {s : State} {i n acc : Nat} {x : Instance} {h : Hit} (hwf : memWf s.mem = true) : memWf (s.instFault i n acc x h).1.mem = true := by
  unfold State.instFault
  split <;> simp [faultAt_memWf, stopStream_memWf, hwf]

@[simp] theorem State.countDrop_mem (s : State) (u : Nat) (c : Option Nat) : (s.countDrop u c).mem = s.mem := by
  simp [State.countDrop]

@[simp] theorem State.walkFor_mem (s : State) (u c va n : Nat) : (s.walkFor u c va n).mem = s.mem := by
  simp [State.walkFor]

theorem execGather_outcomeWf {i : Nat} {s : State} (h : memWf s.mem = true) : outcomeWf (execGather i s) := by
  unfold execGather
  grind [outcomeWf_next, !prepAt_memWf, State.setInst_mem, putInst_memWf, issueBurst_memWf, !instFault_memWf, State.countDrop_mem, State.walkFor_mem]

theorem placePrefetch_memWf {s0 : State} {x : Instance} {b : Burst} (h : memWf s0.mem = true) : memWf ((s0.placePrefetch x b).getD s0).mem = true := by
  unfold State.placePrefetch
  extract_lets s n side ls held fresh r
  have hs : s.mem = s0.mem := by grind [foldl_mem, State.walkFor_mem]
  have hr : memWf r.1.mem = true := by
    refine List.foldlRecOn (motive := fun t : State × Bool => memWf t.1.mem = true) _ _ (by rw [hs]; exact h) fun t ht l _ => ?_
    split
    · exact shareHamper_memWf ht
    · exact ht
  split
  · simpa [hs] using h
  · split
    · exact hr
    · exact h

@[simp] theorem State.sendBurst_mem (s : State) (x : Instance) (b : Burst) (d : List Byte) : (s.sendBurst x b d).mem = s.mem := by
  unfold State.sendBurst
  split <;> simp

theorem dropHead_memWf {s : State} {i : Nat} {x : Instance} (h : memWf s.mem = true) : memWf (s.dropHead i x).mem = true := by
  simp [State.dropHead, putInst_memWf, h]

theorem execBurstCommit_outcomeWf {i : Nat} {s : State} (h : memWf s.mem = true) : outcomeWf (execBurstCommit i s) := by
  unfold execBurstCommit
  grind (gen := 20) [outcomeWf_next, State.newAccess_mem, !prepAllAt_memWf, wrVAt_memWf, State.setInst_mem, !instFault_memWf, !placePrefetch_memWf,
    State.sendBurst_mem, dropHead_memWf]

@[simp] theorem State.countFrom_mem (s : State) (b : Burst) : (s.countFrom b).2.mem = s.mem := rfl

@[simp] theorem State.seqFrom_mem (s : State) (c i : Nat) : (s.seqFrom c i).2.mem = s.mem := rfl

theorem stallSeq_memWf {s : State} {i op : Nat} (h : memWf s.mem = true) : memWf (s.stallSeq i op).mem = true := by
  unfold State.stallSeq
  dsimp only
  repeat' split
  all_goals simp [postNotice_memWf, h]

theorem execStreamStall_outcomeWf {i : Nat} {n : Nat} {s : State} (h : memWf s.mem = true) : outcomeWf (execStreamStall i n s) := by
  unfold execStreamStall
  repeat' split
  all_goals simp [postNotice_memWf, stallSeq_memWf, h]

theorem starveSeq_memWf {s : State} {i op : Nat} (h : memWf s.mem = true) : memWf (s.starveSeq i op).mem = true := by
  unfold State.starveSeq
  dsimp only
  split
  · exact h
  · refine ite_memWf h ?_
    split <;> simp [discardOutput_memWf, h]

theorem execStreamStarved_outcomeWf {i : Nat} {n : Nat} {s : State} (h : memWf s.mem = true) : outcomeWf (execStreamStarved i n s) := by
  unfold execStreamStarved
  dsimp only
  repeat' split
  all_goals simp [dropInsts_memWf, stopStream_memWf, starveSeq_memWf, h]

theorem burstAcked_memWf {s : State} {num status : Nat} (h : memWf s.mem = true) : memWf (s.burstAcked num status).mem = true := by
  unfold State.burstAcked
  repeat' split
  all_goals simp [stopStream_memWf, putInst_memWf, h]

theorem burstUnreachable_memWf {s : State} {num dest : Nat} (h : memWf s.mem = true) : memWf (s.burstUnreachable num dest).mem = true := by
  unfold State.burstUnreachable
  split <;> simp [stopStream_memWf, h]

@[simp] theorem State.turnHamper_mem (s : State) (k : Nat) : (s.turnHamper k).mem = s.mem := rfl

@[simp] theorem State.emptyHampers_mem (s : State) (k : Nat) : (s.emptyHampers k).mem = s.mem := rfl

/-! ### Queue pairs -/

@[simp] theorem State.roceAnswer_mem (s : State) (key op psn : Nat) (d : List Byte) : (s.roceAnswer key op psn d).mem = s.mem := by
  unfold State.roceAnswer
  grind

theorem qpAccess_memWf {s : State} {key acc va n : Nat} (h : memWf s.mem = true) : memWf (s.qpAccess key acc va n).1.mem = true := by
  unfold State.qpAccess
  split <;> simp [prepAt_memWf, h]

@[simp] theorem State.qpWaits_mem (s : State) (key : Nat) (w : QpWait) : (s.qpWaits key w).mem = s.mem := rfl

theorem qpRefused_memWf {s : State} {key acc : Nat} {h : Hit} {w : QpWait} {f : State → State} (hwf : memWf s.mem = true)
    (hf : ∀ {t : State}, memWf t.mem = true → memWf (f t).mem = true) : memWf (s.qpRefused key acc h w f).mem = true := by
  unfold State.qpRefused
  grind [!faultAt_memWf, State.qpWaits_mem]

@[simp] theorem State.qpState_mem (s : State) (key st : Nat) : (s.qpState key st).mem = s.mem := rfl

theorem postCq_memWf {s : State} {key ix status : Nat} {recv : Bool} {bytes : Nat} (h : memWf s.mem = true) :
    memWf (s.postCq key ix status recv bytes).mem = true := by
  unfold State.postCq
  grind [wrVAt_memWf, State.setQp_mem, !qpAccess_memWf, State.qpWaits_mem, qpRefused_memWf, State.qpState_mem]

theorem flushList_memWf {s : State} {key : Nat} {recv : Bool} {l : List Nat} (h : memWf s.mem = true) : memWf (s.flushList key recv l).mem = true :=
  foldl_memWf h fun _ _ ht => postCq_memWf ht

theorem flushQp_memWf {s : State} {key : Nat} (h : memWf s.mem = true) : memWf (s.flushQp key).mem = true := by
  simp [State.flushQp, flushList_memWf, h]

theorem errorQp_memWf {s : State} {key : Nat} (h : memWf s.mem = true) : memWf (s.errorQp key).mem = true := by
  unfold State.errorQp
  split <;> simp [flushQp_memWf, h]

theorem endWqe_memWf {s : State} {key ix e status : Nat} (h : memWf s.mem = true) : memWf (s.endWqe key ix e status).mem = true := by
  unfold State.endWqe
  split <;> simp [postCq_memWf, h]

@[simp] theorem State.consumeWqe_mem (s : State) (key ix e : Nat) (fly : Bool) : (s.consumeWqe key ix e fly).mem = s.mem := rfl

theorem failWqe_memWf {s : State} {key ix e : Nat} (h : memWf s.mem = true) : memWf (s.failWqe key ix e).mem = true :=
  endWqe_memWf h

theorem issueWqe_memWf {s : State} {key ix e op : Nat} (h : memWf s.mem = true) : memWf (s.issueWqe key ix e op).mem = true := by
  unfold State.issueWqe
  grind [State.sendRoce_mem, !qpAccess_memWf, qpRefused_memWf, State.consumeWqe_mem, failWqe_memWf]

theorem runWqe_memWf {s : State} {key op : Nat} (h : memWf s.mem = true) : memWf (s.runWqe key op).mem = true := by
  unfold State.runWqe
  grind [!qpAccess_memWf, qpRefused_memWf, failWqe_memWf, issueWqe_memWf]

theorem endReceive_memWf {s : State} {key status n : Nat} (h : memWf s.mem = true) : memWf (s.endReceive key status n).mem = true :=
  postCq_memWf h

theorem failReceive_memWf {s : State} {key psn : Nat} (h : memWf s.mem = true) : memWf (s.failReceive key psn).mem = true := by
  simp [State.failReceive, endReceive_memWf, h]

theorem receiveSend_memWf {s : State} {key : Nat} {q : RdmaInbound} {d : List Byte} (h : memWf s.mem = true) : memWf (s.receiveSend key q d).mem = true := by
  unfold State.receiveSend
  grind [wrVAt_memWf, State.setQp_mem, State.roceAnswer_mem, !qpAccess_memWf, qpRefused_memWf, endReceive_memWf, failReceive_memWf]

theorem performInbound_memWf {s : State} {key : Nat} {q : RdmaInbound} (h : memWf s.mem = true) : memWf (s.performInbound key q).mem = true := by
  unfold State.performInbound
  grind [wrVAt_memWf, State.roceAnswer_mem, !qpAccess_memWf, qpRefused_memWf, receiveSend_memWf]

theorem landRead_memWf {s : State} {key ix e : Nat} {d : List Byte} (h : memWf s.mem = true) : memWf (s.landRead key ix e d).mem = true := by
  unfold State.landRead
  grind [wrVAt_memWf, !qpAccess_memWf, qpRefused_memWf, endWqe_memWf]

theorem qpAttempt_memWf {s : State} {key : Nat} {w : QpWait} (h : memWf s.mem = true) : memWf (s.qpAttempt key w).mem = true := by
  unfold State.qpAttempt
  split <;> simp [postCq_memWf, runWqe_memWf, performInbound_memWf, landRead_memWf, h]

theorem qpRun_memWf {s : State} {key : Nat} {l : List QpWait} (h : memWf s.mem = true) : memWf (s.qpRun key l).mem = true := by
  induction l generalizing s with
  | nil => exact h
  | cons w rest ih =>
    unfold State.qpRun
    refine ite_memWf (ih h) (ite_memWf (ih (qpAttempt_memWf h)) ?_)
    simp [qpAttempt_memWf, h]

theorem qpDo_memWf {s : State} {key : Nat} {w : QpWait} (h : memWf s.mem = true) : memWf (s.qpDo key w).mem = true := by
  unfold State.qpDo
  split <;> simp [qpAttempt_memWf, h]

theorem qpRetry_memWf {s : State} {key : Nat} (h : memWf s.mem = true) : memWf (s.qpRetry key).mem = true :=
  qpRun_memWf h

theorem qpFail_memWf {s : State} {key : Nat} {w : QpWait} (h : memWf s.mem = true) : memWf (s.qpFail key w).mem = true := by
  unfold State.qpFail
  repeat' split
  all_goals simp [endWqe_memWf, failWqe_memWf, failReceive_memWf, h]

theorem qpDecline_memWf {s : State} {key : Nat} (h : memWf s.mem = true) : memWf (s.qpDecline key).mem = true := by
  unfold State.qpDecline
  dsimp only
  repeat' split
  all_goals simp [qpRun_memWf, qpFail_memWf, h]

theorem dropQpWaits_memWf {s : State} {c : Nat} (h : memWf s.mem = true) : memWf (s.dropQpWaits c).mem = true :=
  foldl_memWf h fun _ _ ht => qpDecline_memWf ht

/-! ### Killing a context -/

theorem dropCtxInsts_memWf {s : State} {c : Nat} (h : memWf s.mem = true) : memWf (s.dropCtxInsts c).mem = true :=
  foldl_memWf h fun _ _ ht => dropInsts_memWf ht

theorem killCtx_memWf {s : State} {c : Nat} (h : memWf s.mem = true) : memWf (s.killCtx c).mem = true := by
  unfold State.killCtx
  grind [foldl_memWf, State.updCtx_mem, State.refreshRun_mem, State.sendVector_mem, State.beginRelease_mem, State.abandonRun_mem,
    State.clearLaunch_mem, dropQpWaits_memWf, dropCtxInsts_memWf]

/-! ### Containment -/

@[simp] theorem State.notifyReport_mem (s : State) (rep : List Byte) (recs : List (List Byte)) : (s.notifyReport rep recs).mem = s.mem := by
  unfold State.notifyReport
  grind [foldl_mem, State.notify_mem]

theorem report_memWf {s : State} {w : Nat} {ctxs : List (Nat × Nat)} (h : memWf s.mem = true) : memWf (s.report w ctxs).mem = true := by
  unfold State.report
  extract_lets a ix r
  rw [State.notifyReport_mem]
  exact List.foldlRecOn (motive := fun t : State × List (List Byte) => memWf t.1.mem = true) _ _ (postIndexed_memWf h)
    fun t ht e _ => postIndexed_memWf ht

theorem killSpan_memWf {s : State} {ctxs : List (Nat × Nat)} (h : memWf s.mem = true) : memWf (s.killSpan ctxs).mem = true :=
  foldl_memWf h fun _ _ ht => killCtx_memWf ht

theorem unitReport_memWf {s : State} {diag cls die ix : Nat} {transient spare degraded : Bool} {since : Nat} {ctxs : List (Nat × Nat)}
    (h : memWf s.mem = true) : memWf (s.unitReport diag cls die ix transient spare degraded since ctxs).mem = true :=
  report_memWf h

@[simp] theorem State.declareDead_mem (s : State) (a : Nat) (fatal : Bool) : (s.declareDead a fatal).mem = s.mem := by
  unfold State.declareDead
  grind [foldl_mem, State.endRecall_mem]

@[simp] theorem State.refitSigs_mem (s : State) (k : Nat) : (s.refitSigs k).mem = s.mem := rfl

theorem fenceDie_memWf {s : State} {n diag cause : Nat} {since : Nat} {span : List (Nat × Nat)} (h : memWf s.mem = true) :
    memWf (s.fenceDie n diag cause since span).mem = true := by
  unfold State.fenceDie
  grind [foldl_memWf, State.degrade_mem, State.addFence_mem, killSpan_memWf, unitReport_memWf, State.declareDead_mem, State.refitSigs_mem]

@[simp] theorem State.endShadow_mem (s : State) (n w : Nat) : (s.endShadow n w).mem = s.mem := rfl

theorem fenceTile_memWf {s : State} {n tile diag cause : Nat} (h : memWf s.mem = true) : memWf (s.fenceTile n tile diag cause).mem = true := by
  unfold State.fenceTile
  dsimp only
  repeat' split
  all_goals simp [killSpan_memWf, unitReport_memWf, h]

theorem fenceThreadUnit_memWf {s : State} {u diag cause : Nat} (h : memWf s.mem = true) : memWf (s.fenceThreadUnit u diag cause).mem = true := by
  simp [State.fenceThreadUnit, killSpan_memWf, unitReport_memWf, h]

theorem fenceStreamUnit_memWf {s : State} {v diag cause : Nat} (h : memWf s.mem = true) : memWf (s.fenceStreamUnit v diag cause).mem = true := by
  unfold State.fenceStreamUnit
  dsimp only
  repeat' split
  all_goals simp [killSpan_memWf, unitReport_memWf, fenceDie_memWf, h]

theorem fenceWay_memWf {s : State} {n way diag cause : Nat} (h : memWf s.mem = true) : memWf (s.fenceWay n way diag cause).mem = true := by
  simp [State.fenceWay, unitReport_memWf, h]

theorem packageFault_memWf {s : State} {diag cls die ix : Nat} (h : memWf s.mem = true) : memWf (s.packageFault diag cls die ix).mem = true := by
  unfold State.packageFault
  grind [foldl_memWf, State.toDevState_mem, detach_memWf, State.toPortState_mem, report_memWf]

theorem cutGuest_memWf {s : State} {g cause addr : Nat} (h : memWf s.mem = true) : memWf (s.cutGuest g cause addr).mem = true :=
  postFq_memWf h

theorem fencePd_memWf {s : State} {m diag cause : Nat} (h : memWf s.mem = true) : memWf (s.fencePd m diag cause).mem = true := by
  unfold State.fencePd
  grind [foldl_memWf, State.degrade_mem, State.addFence_mem, unitReport_memWf, State.declareDead_mem, packageFault_memWf]

theorem tileEvent_memWf {s : State} {n tile diag : Nat} (h : memWf s.mem = true) : memWf (s.tileEvent n tile diag).mem = true := by
  unfold State.tileEvent
  grind [countError_memWf, fenceTile_memWf]

@[simp] theorem State.tilePassed_mem (s : State) (n tile : Nat) : (s.tilePassed n tile).mem = s.mem := rfl

theorem mismatch_memWf {s : State} {n shadow checker : Nat} {r : SentinelResult} (h : memWf s.mem = true) :
    memWf (s.mismatch n shadow checker r).mem = true := by
  unfold State.mismatch
  repeat' split
  all_goals simp [fenceDie_memWf, fenceTile_memWf, tileEvent_memWf, h]

theorem execSentinelWindow_outcomeWf {cs : Fin 8} {w : Nat} {r : SentinelResult} {s : State} (h : memWf s.mem = true) :
    outcomeWf (execSentinelWindow cs w r s) := by
  unfold execSentinelWindow
  dsimp only
  repeat' split
  all_goals simp [fenceTile_memWf, mismatch_memWf, h]

/-! ### Vector instructions -/

theorem laneVec_memWf {op kind : Nat} {f : Nat → Nat → Nat → Nat → Nat → Nat} {g : Nat} {s : State} (h : memWf s.mem = true) :
    memWf (laneVec op kind f g s).mem = true :=
  laneReg_memWf h

theorem intVec_memWf {op : Nat} {f : Int → Int → Int → Int} {g : Nat} {s : State} (h : memWf s.mem = true) : memWf (intVec op f g s).mem = true :=
  laneVec_memWf h

theorem fltVec_memWf {op : Nat} {f : Num → Num → Num → Num} {g : Nat} {s : State} (h : memWf s.mem = true) : memWf (fltVec op f g s).mem = true :=
  laneVec_memWf h

theorem approxVec_memWf {op : Nat} {f : Nat → Nat} {g : Nat} {s : State} (h : memWf s.mem = true) : memWf (approxVec op f g s).mem = true :=
  laneVec_memWf h

theorem cmpVec_memWf {op kind : Nat} {f : Nat → Nat → Nat → Nat → Bool} {g : Nat} {s : State} (h : memWf s.mem = true) :
    memWf (cmpVec op kind f g s).mem = true :=
  laneReg_memWf h

theorem convLane_memWf {op : Nat} {f : Lane → Nat → Num → Nat} {g : Nat} {s : State} (h : memWf s.mem = true) : memWf (convLane op f g s).mem = true :=
  laneReg_memWf h

theorem execMma_outcomeWf {g : Nat} {s : State} (h : memWf s.mem = true) : outcomeWf (execMma g s) := by
  unfold execMma
  repeat' split
  all_goals simp [retire_memWf, groupFault_memWf, h]

/-! ### Memory instructions of lanes -/

@[simp] theorem State.locWrite_mem (s : State) (x : Lane) (a : Nat) (d : List Byte) : (s.locWrite x a d).mem = s.mem := by
  unfold State.locWrite
  repeat' split
  all_goals simp

theorem memStep_memWf {x : Lane} {f : ThreadRun} {r : MemRun} {t : Nat} (h : memWf r.st.mem = true)
    (hf : ∀ {s : State} {y : Group} {u : Nat}, memWf s.mem = true → memWf (f s y u).1.mem = true) : memWf (memStep x f r t).st.mem = true := by
  unfold memStep
  grind [!faultAt_memWf]

theorem laneMem_memWf {s : State} {g : Nat} {is : Nat → Bool} {va : Lane → Nat → Nat} {f : Lane → ThreadRun} (h : memWf s.mem = true)
    (hf : ∀ {x : Lane} {t : State} {y : Group} {u : Nat}, memWf t.mem = true → memWf (f x t y u).1.mem = true) : memWf (s.laneMem g is va f).mem = true := by
  unfold State.laneMem
  split
  · exact h
  · next x _ =>
    refine ite_memWf h ?_
    extract_lets ts r lead note
    have hr : memWf r.st.mem = true := List.foldlRecOn (motive := fun r : MemRun => memWf r.st.mem = true) _ _ h
      fun r hr t _ => memStep_memWf hr hf
    have hn : memWf (note r.st).mem = true := ite_memWf hr (by simp [hr])
    clear_value note r
    split
    · exact accessFault_memWf hn
    · exact ite_memWf (refreshBlock_memWf (by simp [hn])) (refreshBlock_memWf (by simp [hn]))

theorem ldThread_memWf {x : Lane} {s : State} {y : Group} {t : Nat} (h : memWf s.mem = true) : memWf (ldThread x s y t).1.mem = true := by
  unfold ldThread
  grind [State.newAccess_mem, !prepAt_memWf]

theorem stThread_memWf {x : Lane} {s : State} {y : Group} {t : Nat} (h : memWf s.mem = true) : memWf (stThread x s y t).1.mem = true := by
  unfold stThread
  grind [State.newAccess_mem, !prepAt_memWf, wrVAt_memWf, State.locWrite_mem]

theorem zeroThread_memWf {x : Lane} {s : State} {y : Group} {t : Nat} (h : memWf s.mem = true) : memWf (zeroThread x s y t).1.mem = true := by
  unfold zeroThread
  grind [State.newAccess_mem, !prepAt_memWf, zeroVFrom_memWf]

theorem prefetchLine_memWf {s : State} {a ln age : Nat} {write : Bool} (h : memWf s.mem = true) : memWf (s.prefetchLine a ln age write).mem = true := by
  unfold State.prefetchLine
  grind [takeLine_memWf, State.hit_mem, ownLine_memWf, bringLine_memWf]

theorem prefetchThread_memWf {x : Lane} {s : State} {y : Group} {t : Nat} (h : memWf s.mem = true) : memWf (prefetchThread x s y t).1.mem = true := by
  unfold prefetchThread
  repeat' split
  all_goals simp [prefetchLine_memWf, h]

theorem atomThread_memWf {x : Lane} {s : State} {y : Group} {t : Nat} (h : memWf s.mem = true) : memWf (atomThread x s y t).1.mem = true := by
  unfold atomThread
  grind [State.newAccess_mem, !prepAt_memWf, wrVAt_memWf, State.locWrite_mem]

theorem laneAtom_memWf {k g : Nat} {s : State} (h : memWf s.mem = true) : memWf (laneAtom k g s).mem = true := by
  unfold laneAtom
  grind [laneMem_memWf, !atomThread_memWf]

/-! ### The homes of the coherent pool -/

@[simp] theorem State.invalidate_mem (s : State) (ln req : Nat) (targets : List Nat) : (s.invalidate ln req targets).mem = s.mem := by
  unfold State.invalidate
  grind [foldl_mem, State.post_mem]

theorem endByLine_memWf {s : State} {c op kind ix : Nat} (h : memWf s.mem = true) : memWf (s.endByLine c op kind ix).mem = true := by
  unfold State.endByLine
  repeat' split
  all_goals simp [stopStream_memWf, h]

theorem coreFault_memWf {s : State} {k a cause acc kind ln : Nat} {va : BitVec 64} (h : memWf s.mem = true) :
    memWf (s.coreFault k a cause acc kind ln va).mem = true := by
  unfold State.coreFault
  split <;> simp [hardFault_memWf, h]

theorem refuse_memWf {s : State} {a ln acc kind : Nat} {why : ReqCause} (h : memWf s.mem = true) : memWf (s.refuse a ln acc kind why).mem = true := by
  unfold State.refuse
  repeat' split
  all_goals simp [hardFault_memWf, faultAt_memWf, endByLine_memWf, coreFault_memWf, h]

theorem noteEcc_memWf {s : State} {ln : Nat} {e : Ecc} (h : memWf s.mem = true) : memWf (s.noteEcc ln e).mem = true := by
  unfold State.noteEcc
  grind [countError_memWf, noteCorrected_memWf, fenceWay_memWf]

theorem loseStored_memWf {s : State} {ln : Nat} (h : memWf s.mem = true) : memWf (s.loseStored ln).mem = true := by
  unfold State.loseStored
  grind [loseLine_memWf, countError_memWf, lineReport_memWf, fenceWay_memWf]

theorem homeRead_memWf {s : State} {a ln acc : Nat} {e : Ecc} {why : ReqCause} (h : memWf s.mem = true) : memWf (s.homeRead a ln acc e why).1.mem = true := by
  unfold State.homeRead
  split <;> simp [refuse_memWf, noteEcc_memWf, loseStored_memWf, h]

theorem fenceCacheWay_memWf {s : State} {a way diag cause : Nat} (h : memWf s.mem = true) : memWf (s.fenceCacheWay a way diag cause).mem = true := by
  unfold State.fenceCacheWay
  grind [foldl_memWf, State.setCopy_mem, State.degrade_mem, State.addFence_mem, giveUpLine_memWf, unitReport_memWf]

theorem cacheError_memWf {s : State} {a ln : Nat} (h : memWf s.mem = true) : memWf (s.cacheError a ln).mem = true := by
  unfold State.cacheError
  grind [countError_memWf, fenceWay_memWf, fenceCacheWay_memWf]

theorem blockReport_memWf {s : State} {a way : Nat} (h : memWf s.mem = true) : memWf (s.blockReport a way).mem = true := by
  simp [State.blockReport, postIndexed_memWf, h]

theorem loseBlock_memWf {s : State} {a ln : Nat} (h : memWf s.mem = true) : memWf (s.loseBlock a ln).mem = true := by
  unfold State.loseBlock
  grind [State.setDir_mem, State.setCopy_mem, loseLine_memWf, cacheError_memWf, blockReport_memWf]

theorem answerForDead_memWf {s : State} {m : CohMsg} (h : memWf s.mem = true) : memWf (s.answerForDead m).mem = true := by
  unfold State.answerForDead
  dsimp only
  repeat' split
  all_goals simp [loseLine_memWf, refuse_memWf, h]

theorem reclaimLine_memWf {s : State} {ln a : Nat} (h : memWf s.mem = true) : memWf (s.reclaimLine ln a).mem = true := by
  unfold State.reclaimLine
  grind [foldl_memWf, State.endRecall_mem, reclaimRecord_memWf, answerForDead_memWf]

theorem lookup_memWf {s : State} {ln : Nat} (h : memWf s.mem = true) : memWf (s.lookup ln).mem = true :=
  foldl_memWf h fun _ _ ht => reclaimLine_memWf ht

@[simp] theorem State.recall_mem (s : State) (ln : Nat) (d : DirEntry) : (s.recall ln d).mem = s.mem := by
  unfold State.recall
  split <;> simp

@[simp] theorem State.room_mem (s : State) (ln : Nat) : (s.room ln).1.mem = s.mem := by
  unfold State.room
  dsimp only
  repeat' split
  all_goals simp

theorem letIn_memWf {s : State} {a ln : Nat} {entry : Bool} (h : memWf s.mem = true) : memWf (s.letIn a ln entry).1.mem = true := by
  unfold State.letIn
  dsimp only
  repeat' split
  all_goals simp [lookup_memWf, h]

theorem grantData_memWf {s : State} {a ln acc : Nat} {e : Ecc} {why : ReqCause} {g : CopySt} {k : DirEntry → DirEntry} (h : memWf s.mem = true) :
    memWf (s.grantData a ln acc e why g k).mem = true := by
  unfold State.grantData
  grind [State.setDir_mem, State.post_mem, !homeRead_memWf]

theorem sharedAt_memWf {s : State} {a ln : Nat} {e : Ecc} {why : ReqCause} (h : memWf s.mem = true) : memWf (s.sharedAt a ln e why).mem = true := by
  unfold State.sharedAt
  dsimp only
  repeat' split
  all_goals simp [refuse_memWf, grantData_memWf, h]

theorem exclusive_memWf {s : State} {a ln : Nat} {e : Ecc} {why : ReqCause} (h : memWf s.mem = true) : memWf (s.exclusive a ln e why).mem = true := by
  unfold State.exclusive
  grind [State.setDir_mem, State.post_mem, State.invalidate_mem, refuse_memWf, !homeRead_memWf, grantData_memWf]

theorem upgradeAt_memWf {s : State} {a ln : Nat} {e : Ecc} (h : memWf s.mem = true) : memWf (s.upgradeAt a ln e).mem = true := by
  unfold State.upgradeAt
  dsimp only
  split <;> simp [exclusive_memWf, h]

@[simp] theorem State.ownAt_mem (s : State) (a ln : Nat) (why : ReqCause) : (s.ownAt a ln why).mem = s.mem := by
  simp [State.ownAt]

theorem onceAt_memWf {s : State} {a ln : Nat} {e : Ecc} (h : memWf s.mem = true) : memWf (s.onceAt a ln e).mem = true := by
  unfold State.onceAt
  grind [State.post_mem, refuse_memWf, !homeRead_memWf]

theorem mergeAtHome_memWf {s : State} {a ln acc : Nat} {e : Ecc} {f : List Byte → List Byte} (h : memWf s.mem = true) :
    memWf (s.mergeAtHome a ln acc e f).mem = true := by
  unfold State.mergeAtHome
  grind [memWrite_memWf, takeLine_memWf, refuse_memWf, !homeRead_memWf]

theorem serveRequest_memWf {s1 : State} {i : Instr} (h : memWf s1.mem = true) : memWf (s1.serveRequest i).mem = true := by
  unfold State.serveRequest
  dsimp only
  repeat' split
  all_goals simp [wrBytes_memWf, sharedAt_memWf, exclusive_memWf, upgradeAt_memWf, onceAt_memWf, mergeAtHome_memWf, h]

theorem handle_memWf {s : State} {q : Instr} {r : Request} (h : memWf s.mem = true) : memWf (s.handle q r).1.mem = true := by
  unfold State.handle
  grind [State.wakeFor_mem, refuse_memWf, !letIn_memWf, serveRequest_memWf]

theorem enter_memWf {s : State} {q : Instr} {r : Request} (h : memWf s.mem = true) : memWf (s.enter q r).mem = true := by
  unfold State.enter
  grind [!handle_memWf]

theorem retryHome_memWf {s : State} {q : Instr} (h : memWf s.mem = true) : memWf (s.retryHome q).mem = true := by
  unfold State.retryHome
  grind [!handle_memWf]

theorem retryAgent_memWf {s : State} {q : Instr} (h : memWf s.mem = true) : memWf (s.retryAgent q).mem = true := by
  unfold State.retryAgent
  repeat' split
  all_goals simp [enter_memWf, h]

theorem goOn_memWf {s : State} (h : memWf s.mem = true) : memWf s.goOn.mem = true := by
  unfold State.goOn
  grind [foldl_memWf, retryHome_memWf, retryAgent_memWf]

theorem unhomed_memWf {s : State} {q : Instr} {r : Request} (h : memWf s.mem = true) : memWf (s.unhomed q r).mem = true := by
  unfold State.unhomed
  grind [foldl_memWf, State.answer_mem, State.wakeFor_mem, wrBytes_memWf, refuse_memWf]

theorem request_memWf {s : State} {q : Instr} (h : memWf s.mem = true) : memWf (s.request q).mem = true := by
  unfold State.request
  grind [enter_memWf, unhomed_memWf, State.serveNear_mem]

/-! ### The holders of the coherent pool -/

@[simp] theorem State.takeFwd_mem (s : State) (k : MsgKind) (a ln : Nat) : (s.takeFwd k a ln).1.mem = s.mem := by
  unfold State.takeFwd
  repeat' split
  all_goals simp

@[simp] theorem State.releaseFwds_mem (s : State) (a ln : Nat) : (s.releaseFwds a ln).mem = s.mem := rfl

theorem answerFwd_memWf {s : State} {k : MsgKind} {a ln : Nat} {w : PartialWrite} {e : Ecc} {f : State → CohMsg → List Byte → Option Copy → State}
    (h : memWf s.mem = true) (hf : ∀ {t : State} {m : CohMsg} {d : List Byte} {c : Option Copy}, memWf t.mem = true → memWf (f t m d c).mem = true) :
    memWf (s.answerFwd k a ln w e f).mem = true := by
  unfold State.answerFwd
  grind [State.setDir_mem, State.endRecall_mem, State.unpost_mem, refuse_memWf, cacheError_memWf, loseBlock_memWf, goOn_memWf, !State.takeFwd_mem]

theorem execFwdShared_outcomeWf {a : Fin 2048} {ln : Nat} {h : HeldLine} {s : State} (hwf : memWf s.mem = true) : outcomeWf (execFwdShared a ln h s) := by
  unfold execFwdShared
  grind [outcomeWf_next, State.setCopy_mem, State.post_mem, answerFwd_memWf]

theorem execFwdOwn_outcomeWf {a : Fin 2048} {ln : Nat} {h : HeldLine} {s : State} (hwf : memWf s.mem = true) : outcomeWf (execFwdOwn a ln h s) := by
  unfold execFwdOwn
  grind [outcomeWf_next, State.setCopy_mem, State.post_mem, answerFwd_memWf]

theorem execFwdOnce_outcomeWf {a : Fin 2048} {ln : Nat} {h : HeldLine} {s : State} (hwf : memWf s.mem = true) : outcomeWf (execFwdOnce a ln h s) := by
  unfold execFwdOnce
  grind [outcomeWf_next, State.setCopy_mem, State.post_mem, answerFwd_memWf]

theorem execFwdRecall_outcomeWf {a : Fin 2048} {ln : Nat} {h : HeldLine} {s : State} (hwf : memWf s.mem = true) : outcomeWf (execFwdRecall a ln h s) := by
  unfold execFwdRecall
  grind [outcomeWf_next, State.setCopy_mem, memWrite_memWf, State.endRecall_mem, answerFwd_memWf]

@[simp] theorem State.dropCopy_mem (s : State) (a ln : Nat) : (s.dropCopy a ln).mem = s.mem := by
  unfold State.dropCopy
  split <;> simp

@[simp] theorem State.dropHamperLine_mem (s : State) (n ln : Nat) : (s.dropHamperLine n ln).mem = s.mem := rfl

@[simp] theorem State.takeInval_mem (s : State) (a ln : Nat) : (s.takeInval a ln).1.mem = s.mem := by
  unfold State.takeInval
  split <;> simp

theorem execInval_outcomeWf {a : Fin 2048} {ln : Nat} {s : State} (h : memWf s.mem = true) : outcomeWf (execInval a ln s) := by
  unfold execInval
  grind [outcomeWf_next, State.endRecall_mem, State.post_mem, State.unpost_mem, goOn_memWf, State.dropCopy_mem, State.dropHamperLine_mem,
    !State.takeInval_mem]

@[simp] theorem State.fillHamper_mem (s : State) (n ln : Nat) : (s.fillHamper n ln).mem = s.mem := by
  unfold State.fillHamper
  dsimp only
  split <;> simp

@[simp] theorem State.grantDone_mem (s : State) (a ln : Nat) : (s.grantDone a ln).mem = s.mem := by
  unfold State.grantDone
  split <;> simp

@[simp] theorem State.setL1_mem (s : State) (core side ln : Nat) (x : Option L1Line) : (s.setL1 core side ln x).mem = s.mem := rfl

@[simp] theorem State.fillL1_mem (s : State) (core side ln : Nat) (low high : Bool) : (s.fillL1 core side ln low high).mem = s.mem := by
  unfold State.fillL1
  grind [foldl_mem, State.setL1_mem]

@[simp] theorem State.fillCore_mem (s : State) (a ln : Nat) (why : ReqCause) : (s.fillCore a ln why).mem = s.mem := by
  unfold State.fillCore
  dsimp only
  repeat' split
  all_goals simp

theorem fillGrant_memWf {s : State} {a ln : Nat} {m : CohMsg} {d : List Byte} (h : memWf s.mem = true) : memWf (s.fillGrant a ln m d).mem = true := by
  unfold State.fillGrant
  repeat' split
  all_goals simp [fill_memWf, h]

theorem execData_outcomeWf {a : Fin 2048} {ln : Nat} {s : State} (h : memWf s.mem = true) : outcomeWf (execData a ln s) := by
  unfold execData
  split <;> simp [goOn_memWf, fillGrant_memWf, h]

theorem execDataOnce_outcomeWf {a : Fin 2048} {ln : Nat} {s : State} (h : memWf s.mem = true) : outcomeWf (execDataOnce a ln s) := by
  unfold execDataOnce
  split <;> simp [goOn_memWf, h]

theorem execAck_outcomeWf {a : Fin 2048} {ln : Nat} {s : State} (h : memWf s.mem = true) : outcomeWf (execAck a ln s) := by
  unfold execAck
  split <;> simp [goOn_memWf, fillGrant_memWf, h]

theorem execInvalAck_outcomeWf {a : Fin 2048} {ln : Nat} {s : State} (h : memWf s.mem = true) : outcomeWf (execInvalAck a ln s) := by
  unfold execInvalAck
  split <;> simp [goOn_memWf, h]

theorem serve_memWf {s : State} {m : CohMsg} {a : Nat} {e : Ecc} (h : memWf s.mem = true) : memWf (s.serve m a e).mem = true := by
  unfold State.serve
  grind [State.setDir_mem, State.post_mem, refuse_memWf, !homeRead_memWf]

theorem execNotHeld_outcomeWf {a : Fin 2048} {ln : Nat} {e : Ecc} {s : State} (h : memWf s.mem = true) : outcomeWf (execNotHeld a ln e s) := by
  unfold execNotHeld
  repeat' split
  all_goals simp [goOn_memWf, serve_memWf, h]

theorem homeWriteback_memWf {s : State} {a ln : Nat} {kept : Bool} (h : memWf s.mem = true) : memWf (s.homeWriteback a ln kept).mem = true := by
  unfold State.homeWriteback
  dsimp only
  repeat' split
  all_goals simp [memWrite_memWf, h]

theorem writeBack_memWf {s : State} {a ln : Nat} {w : PartialWrite} {why : WbReason} (h : memWf s.mem = true) : memWf (s.writeBack a ln w why).mem = true := by
  unfold State.writeBack
  dsimp only
  repeat' split
  all_goals simp [evict_memWf, h]

theorem execWbDirty_outcomeWf {a : Fin 2048} {ln : Nat} {x : WriteBack} {s : State} (h : memWf s.mem = true) : outcomeWf (execWbDirty a ln x s) := by
  unfold execWbDirty
  grind [outcomeWf_next, cacheError_memWf, loseBlock_memWf, goOn_memWf, homeWriteback_memWf, writeBack_memWf]

theorem execDirtyNotice_outcomeWf {a : Fin 2048} {ln : Nat} {w : PartialWrite} {s : State} (h : memWf s.mem = true) :
    outcomeWf (execDirtyNotice a ln w s) := by
  unfold execDirtyNotice
  repeat' split
  all_goals simp [h]

theorem execWbAck_outcomeWf {a : Fin 2048} {ln : Nat} {s : State} (h : memWf s.mem = true) : outcomeWf (execWbAck a ln s) := by
  unfold execWbAck
  repeat' split
  all_goals simp [goOn_memWf, h]

@[simp] theorem State.heartbeatCause_mem (s : State) : s.heartbeatCause.2.mem = s.mem := rfl

theorem fencePair_memWf {s : State} {m k diag cause : Nat} (h : memWf s.mem = true) : memWf (s.fencePair m k diag cause).mem = true := by
  unfold State.fencePair
  dsimp only
  repeat' with_reducible apply ite_memWf
  all_goals simp [unitReport_memWf, packageFault_memWf, h]

theorem fenceAgent_memWf {s : State} {a diag : Nat} (h : memWf s.mem = true) : memWf (s.fenceAgent a diag).mem = true := by
  unfold State.fenceAgent
  dsimp only
  repeat' with_reducible apply ite_memWf
  all_goals simp [fenceDie_memWf, fenceThreadUnit_memWf, fencePd_memWf, fencePair_memWf, h]

theorem execHeartbeatSend_outcomeWf {d : DieName} {s : State} (h : memWf s.mem = true) : outcomeWf (execHeartbeatSend d s) := by
  unfold execHeartbeatSend
  dsimp only
  repeat' split
  all_goals simp [h]

@[simp] theorem State.heard_mem (s : State) (d : DieName) : (s.heard d).mem = s.mem := rfl

theorem execHeartbeat_outcomeWf {h : HeartbeatMsg} {s : State} (hwf : memWf s.mem = true) : outcomeWf (execHeartbeat h s) := by
  unfold execHeartbeat
  grind [outcomeWf_next, foldl_memWf, State.declareDead_mem, goOn_memWf, fenceAgent_memWf, State.heard_mem]

theorem execHeartbeatLoss_outcomeWf {d : DieName} {s : State} (h : memWf s.mem = true) : outcomeWf (execHeartbeatLoss d s) := by
  unfold execHeartbeatLoss
  grind [outcomeWf_next, foldl_memWf, State.advance_mem, State.declareDead_mem, fenceDie_memWf, fencePd_memWf, goOn_memWf, !State.heartbeatCause_mem]

theorem execDeclare_outcomeWf {a : Fin 2048} {fatal : Bool} {s : State} (h : memWf s.mem = true) : outcomeWf (execDeclare a fatal s) := by
  unfold execDeclare
  split <;> simp [goOn_memWf, fenceAgent_memWf, h]

theorem execReclaimSweep_outcomeWf {home : Fin 8} {a : Fin 2048} {s : State} (h : memWf s.mem = true) : outcomeWf (execReclaimSweep home a s) := by
  unfold execReclaimSweep
  grind [outcomeWf_next, foldl_memWf, reclaimLine_memWf, goOn_memWf]

theorem execReclaimReport_outcomeWf {a : Fin 2048} {s : State} (h : memWf s.mem = true) : outcomeWf (execReclaimReport a s) := by
  unfold execReclaimReport
  repeat' split
  all_goals simp [postFq_memWf, h]

/-! ### Domains -/

theorem tripNow_memWf {s : State} {cause die reading : Nat} (h : memWf s.mem = true) : memWf (s.tripNow cause die reading).mem = true := by
  unfold State.tripNow
  split <;> simp [dropDomains_memWf, h]

theorem restart_memWf {s : State} (h : memWf s.mem = true) : memWf s.restart.mem = true :=
  dropDomains_memWf _ h

theorem clearSince_memWf {s : State} (h : memWf s.mem = true) : memWf s.clearSince.mem = true := by
  simp [State.clearSince, h]

@[simp] theorem State.deliverMail_mem (s : State) (i : Nat) (m : UleelMsg) : (s.deliverMail i m).mem = s.mem := by
  unfold State.deliverMail
  dsimp only
  split <;> simp

@[simp] theorem State.respond_mem (s : State) (o : Origin) (m : UleelMsg) : (s.respond o m).mem = s.mem := by
  unfold State.respond
  split <;> simp

/-! ### Stacked DRAM -/

@[simp] theorem State.dramSteps_mem (s : State) (t : List Nat) : (s.dramSteps t).mem = s.mem := by
  unfold State.dramSteps
  grind [foldl_mem, State.raise_mem, State.endCause_mem]

@[simp] theorem State.stackSteps_mem (s : State) (t : List Nat) : (s.stackSteps t).mem = s.mem := by
  unfold State.stackSteps
  grind [foldl_mem, State.raise_mem, State.endCause_mem]

theorem fenceSensor_memWf {s : State} {die diag cause : Nat} (h : memWf s.mem = true) : memWf (s.fenceSensor die diag cause).mem = true := by
  simp [State.fenceSensor, unitReport_memWf, h]

theorem sensorsDisagree_memWf {s : State} {die : Nat} (h : memWf s.mem = true) : memWf (s.sensorsDisagree die).mem = true := by
  unfold State.sensorsDisagree
  grind [State.useSpare_mem, countError_memWf, fenceSensor_memWf]

theorem comparePairs_memWf {s : State} {lo : Nat} {t : List (Nat × Nat)} (h : memWf s.mem = true) : memWf (s.comparePairs lo t).mem = true := by
  unfold State.comparePairs
  grind [foldl_memWf, sensorsDisagree_memWf]

theorem execDramTempReading_outcomeWf {t : List (Nat × Nat)} {s : State} (h : memWf s.mem = true) : outcomeWf (execDramTempReading t s) := by
  unfold execDramTempReading
  dsimp only
  repeat' split
  all_goals simp [tripNow_memWf, comparePairs_memWf, h]

@[simp] theorem State.beginCopy_mem (s : State) (d c : Nat) : (s.beginCopy d c).mem = s.mem := rfl

theorem repairRow_memWf {s : State} {key row : Nat} (h : memWf s.mem = true) : memWf (s.repairRow key row).mem = true := by
  unfold State.repairRow
  grind [foldl_memWf, loseLine_memWf, lineReport_memWf]

@[simp] theorem State.hardRepair_mem (s : State) : s.hardRepair.mem = s.mem := rfl

theorem dramTick_memWf {s : State} (h : memWf s.mem = true) : memWf s.dramTick.mem = true := by
  unfold State.dramTick
  grind [foldl_memWf, State.beginCopy_mem, repairRow_memWf]

theorem execPseudoChannelCopyEnd_outcomeWf {d : Fin 16} {bad : List Nat} {s : State} (h : memWf s.mem = true) :
    outcomeWf (execPseudoChannelCopyEnd d bad s) := by
  unfold execPseudoChannelCopyEnd
  grind [outcomeWf_next, foldl_memWf, loseLine_memWf, State.setPc_mem, lineReport_memWf]

theorem marginChannel_memWf {s : State} {d c : Nat} {eyes : List LaneEye} (h : memWf s.mem = true) : memWf (s.marginChannel d c eyes).mem = true := by
  unfold State.marginChannel
  grind [foldl_memWf, failPc_memWf]

theorem marginStack_memWf {s : State} {d : Nat} {eyes : List LaneEye} (h : memWf s.mem = true) : memWf (s.marginStack d eyes).mem = true :=
  foldl_memWf h fun _ _ ht => marginChannel_memWf ht

theorem execMarginingDone_outcomeWf {r : List (Fin 16 × List LaneEye)} {s : State} (h : memWf s.mem = true) : outcomeWf (execMarginingDone r s) := by
  unfold execMarginingDone
  grind [outcomeWf_next, foldl_memWf, State.putEntry_mem, marginStack_memWf]

theorem fenceStack_memWf {s : State} {d : Nat} (h : memWf s.mem = true) : memWf (s.fenceStack d).mem = true := by
  unfold State.fenceStack
  grind [foldl_memWf, State.degrade_mem, State.addFence_mem, State.setPc_mem, State.discardLines_mem, unitReport_memWf]

theorem execDramRetrainDone_outcomeWf {d : Fin 16} {ok : Bool} {s : State} (h : memWf s.mem = true) : outcomeWf (execDramRetrainDone d ok s) := by
  unfold execDramRetrainDone
  repeat' split
  all_goals simp [goOn_memWf, fenceStack_memWf, h]

theorem scrubMemory_memWf {s : State} {ln : Nat} {e : Ecc} (h : memWf s.mem = true) : memWf (s.scrubMemory ln e).mem = true := by
  unfold State.scrubMemory
  repeat' split
  all_goals simp [noteEcc_memWf, loseStored_memWf, goOn_memWf, h]

theorem scrubCache_memWf {s : State} {a ln : Nat} {e : Ecc} (h : memWf s.mem = true) : memWf (s.scrubCache a ln e).mem = true := by
  unfold State.scrubCache
  grind [loseLine_memWf, cacheError_memWf, blockReport_memWf, goOn_memWf]

theorem failDirRow_memWf {s : State} {home row diag : Nat} (h : memWf s.mem = true) : memWf (s.failDirRow home row diag).mem = true := by
  unfold State.failDirRow
  dsimp only
  split <;> simp [packageFault_memWf, h]

theorem directoryError_memWf {s : State} {home row : Nat} (h : memWf s.mem = true) : memWf (s.directoryError home row).mem = true := by
  unfold State.directoryError
  grind [countError_memWf, failDirRow_memWf]

theorem directoryRow_memWf {s : State} {home row ln : Nat} {uncorrectable : Bool} (h : memWf s.mem = true) :
    memWf (s.directoryRow home row ln uncorrectable).mem = true := by
  unfold State.directoryRow
  grind [State.notify_mem, loseLine_memWf, !postIndexed_memWf, goOn_memWf, directoryError_memWf]

theorem execScrubRead_outcomeWf {t : ScrubPlace} {ln : Nat} {e : Ecc} {s : State} (h : memWf s.mem = true) : outcomeWf (execScrubRead t ln e s) := by
  unfold execScrubRead
  repeat' split
  all_goals simp [scrubMemory_memWf, scrubCache_memWf, directoryRow_memWf, h]

theorem execBucketLeak_outcomeWf {k : Nat} {s : State} (h : memWf s.mem = true) : outcomeWf (execBucketLeak k s) := by
  unfold execBucketLeak
  dsimp only
  split <;> simp [h]

/-! ### Power, heat and clocks -/

theorem execStackTempReading_outcomeWf {t : List (Nat × Nat)} {s : State} (h : memWf s.mem = true) : outcomeWf (execStackTempReading t s) := by
  unfold execStackTempReading
  dsimp only
  repeat' split
  all_goals simp [tripNow_memWf, comparePairs_memWf, h]

@[simp] theorem State.capAccepted_mem (s : State) (old new : Nat) : (s.capAccepted old new).mem = s.mem := by
  unfold State.capAccepted
  repeat' split
  all_goals simp

theorem execGraceEnd_outcomeWf {s : State} (h : memWf s.mem = true) : outcomeWf (execGraceEnd s) := by
  unfold execGraceEnd
  split <;> simp [h]

theorem execPowerBrake_outcomeWf {avg1ms : Nat} {capAvg : CapAverages} {s : State} (h : memWf s.mem = true) : outcomeWf (execPowerBrake avg1ms capAvg s) := by
  unfold execPowerBrake
  split <;> simp [h]

theorem execHardwareTrip_outcomeWf {t : TripReading} {s : State} (h : memWf s.mem = true) : outcomeWf (execHardwareTrip t s) := by
  unfold execHardwareTrip
  repeat' split
  all_goals simp [tripNow_memWf, goOff_memWf, h]

@[simp] theorem State.addEnergy_mem (s : State) (c mj : Nat) : (s.addEnergy c mj).mem = s.mem := rfl

theorem execEnergyAttribution_outcomeWf {e : EnergyShares} {s : State} (h : memWf s.mem = true) : outcomeWf (execEnergyAttribution e s) := by
  unfold execEnergyAttribution
  grind [outcomeWf_next, foldl_memWf, State.addEnergy_mem]

@[simp] theorem State.powerTick_mem (s : State) (m : TickMeasure) (due : Bool) : (s.powerTick m due).mem = s.mem := rfl

@[simp] theorem State.powerLatch_mem (s : State) (k : Nat) (m : LatchMeasure) : (s.powerLatch k m).mem = s.mem := by
  unfold State.powerLatch
  grind [State.setPart_mem, State.postEvent_mem, State.endCause_mem, State.chargeIdle_mem]

theorem execUnitPowerGate_outcomeWf {u : GateUnit} {s : State} (h : memWf s.mem = true) : outcomeWf (execUnitPowerGate u s) := by
  unfold execUnitPowerGate
  split <;> simp [h]

theorem execUnitWake_outcomeWf {u : GateUnit} {failed : List Nat} {s : State} (h : memWf s.mem = true) : outcomeWf (execUnitWake u failed s) := by
  unfold execUnitWake
  grind [outcomeWf_next, foldl_memWf, State.ungate_mem, wakeUnit_memWf, fenceTile_memWf, State.tilePassed_mem]

/-! ### Counters -/

@[simp] theorem State.gather_mem (s : State) (b : Nat) : (s.gather b).mem = s.mem := by
  unfold State.gather
  grind [foldl_mem, !State.free_mem, State.setCtrBlock_mem, State.addCounter_mem]

@[simp] theorem State.counterBoundary_mem (s : State) (b : Nat) (old : Nat → Nat) (clear : Bool) : (s.counterBoundary b old clear).mem = s.mem := by
  unfold State.counterBoundary
  split <;> simp

theorem mirrorBlock_memWf {s : State} {b : Nat} (h : memWf s.mem = true) : memWf (s.mirrorBlock b).mem = true := by
  unfold State.mirrorBlock
  dsimp only
  split <;> simp [wrHome_memWf, h]

theorem execCounterWrap_outcomeWf {blk : Fin 28} {i : Fin 8} {v : Nat} {s : State} (h : memWf s.mem = true) : outcomeWf (execCounterWrap blk i v s) := by
  unfold execCounterWrap
  split <;> simp [h]

/-! ### Held settings -/

theorem withdraw_memWf {s : State} {a ln : Nat} {c : Copy} {keep : Bool} (h : memWf s.mem = true) : memWf (s.withdraw a ln c keep).mem = true := by
  unfold State.withdraw
  split <;> simp [memWrite_memWf, h]

theorem cleanCaches_memWf {s : State} {p : Nat → Bool} (h : memWf s.mem = true) : memWf (s.cleanCaches p).1.mem = true := by
  unfold State.cleanCaches
  refine List.foldlRecOn (motive := fun t : State × Nat => memWf t.1.mem = true) _ _ h fun t ht e _ => ?_
  split
  · exact memWrite_memWf _ _ _ ht
  · exact ht

theorem invalidateCache_memWf {s : State} {ix j : Nat} (h : memWf s.mem = true) : memWf (s.invalidateCache ix j).mem = true :=
  foldl_memWf h fun _ _ ht => withdraw_memWf ht

theorem switchCache_memWf {s : State} {ix j : Nat} {on : Bool} (h : memWf s.mem = true) : memWf (s.switchCache ix j on).mem = true := by
  unfold State.switchCache
  grind [foldl_memWf, State.putEntry_mem, State.postEvent_mem, withdraw_memWf]

theorem splitStack_memWf {s : State} {n oldN newN ways : Nat} (h : memWf s.mem = true) : memWf (s.splitStack n oldN newN ways).mem = true := by
  unfold State.splitStack
  refine tabWf_tabClear _ _ _ _ ?_
  grind [foldl_memWf, State.discardLines_mem, withdraw_memWf]

theorem splitPart_memWf {s : State} {k oldN oldH : Nat} (h : memWf s.mem = true) : memWf (s.splitPart k oldN oldH).mem = true := by
  unfold State.splitPart
  grind [foldl_memWf, State.emptyHampers_mem, splitStack_memWf]

theorem applyKeys_memWf {s : State} {keys : List Nat} (h : memWf s.mem = true) : memWf (s.applyKeys keys).mem = true := by
  unfold State.applyKeys
  grind [foldl_memWf, State.applyEntry_mem, State.startSampling_mem, State.gather_mem, State.counterBoundary_mem, invalidateCache_memWf,
    switchCache_memWf, splitPart_memWf]

@[simp] theorem State.invalidateHeld_mem (s : State) (c : Nat) : (s.invalidateHeld c).mem = s.mem := by
  unfold State.invalidateHeld
  split <;> simp

theorem latchCtx_memWf {s : State} {c : Nat} {mayStop : Bool} (h : memWf s.mem = true) : memWf (s.latchCtx c mayStop).mem = true := by
  unfold State.latchCtx
  dsimp only
  split <;> simp [clearRegion_memWf, h]

/-! ### Latch points -/

theorem copyPage_memWf {s : State} {old new : Nat} (h : memWf s.mem = true) : memWf (s.copyPage old new).mem = true := by
  unfold State.copyPage
  grind [foldl_memWf, takeLine_memWf, loseLine_memWf, wrBytes_memWf, reclaimIn_memWf]

@[simp] theorem State.releaseSlot_mem (s : State) : s.releaseSlot.1.mem = s.mem := by
  unfold State.releaseSlot
  dsimp only
  repeat' split
  all_goals simp

theorem promote_memWf {s : State} {k : Nat} {e : PageCount} (h : memWf s.mem = true) : memWf (s.promote k e).1.mem = true := by
  unfold State.promote
  grind [State.raise_mem, wrBytes_memWf, State.uncache_mem, !State.takeFrame_mem, State.notePlaced_mem, copyPage_memWf, !State.releaseSlot_mem]

theorem promoteAll_memWf {s : State} {k : Nat} {l : List PageCount} {n : Nat} (h : memWf s.mem = true) : memWf (s.promoteAll k l n).1.mem = true := by
  induction l generalizing s n with
  | nil => exact h
  | cons e r ih =>
    unfold State.promoteAll
    grind [State.updPart_mem, !promote_memWf]

theorem migrate_memWf {s : State} {k : Nat} (h : memWf s.mem = true) : memWf (s.migrate k).1.mem = true := by
  simp [State.migrate, promoteAll_memWf, h]

theorem latchSteps_memWf {s : State} {k : Nat} {own : Option Nat} {m : LatchMeasure} (h : memWf s.mem = true) : memWf (s.latchSteps k own m).1.mem = true := by
  unfold State.latchSteps
  grind [foldl_memWf, State.updPart_mem, State.refreshRun_mem, State.countEv_mem, !State.adapt_mem, State.turnHamper_mem, State.powerLatch_mem,
    mirrorBlock_memWf, applyKeys_memWf, latchCtx_memWf, !migrate_memWf]

@[simp] theorem State.seatAt_mem (s : State) (k : Nat) (c : Option Nat) : (s.seatAt k c).mem = s.mem := by
  unfold State.seatAt
  split <;> simp

@[simp] theorem State.seatNext_mem (s : State) (k : Nat) (quiesced : Bool) : (s.seatNext k quiesced).mem = s.mem := by
  unfold State.seatNext
  dsimp only
  repeat' split
  all_goals simp

theorem completeEve_memWf {s : State} {k c : Nat} {f : Flight} (h : memWf s.mem = true) : memWf (s.completeEve k c f).mem = true := by
  unfold State.completeEve
  dsimp only
  repeat' split
  all_goals simp [finish_memWf, h]

theorem postEveReport_memWf {s : State} {c report : Nat} {f : Flight} {next : Option Nat} (h : memWf s.mem = true) :
    memWf (s.postEveReport c report f next).mem = true := by
  unfold State.postEveReport
  extract_lets a w
  split <;> simp [postRecord_memWf, h]

@[simp] theorem State.noteIdle_mem (s : State) (idle : Bool) : (s.noteIdle idle).mem = s.mem := by
  unfold State.noteIdle
  split <;> simp

theorem proceed_memWf {s : State} {k : Nat} (h : memWf s.mem = true) : memWf (s.proceed k).mem = true := by
  unfold State.proceed
  dsimp only
  repeat' split
  all_goals simp [postEveReport_memWf, h]

theorem afterLatch_memWf {s : State} {k : Nat} (h : memWf s.mem = true) : memWf (s.afterLatch k).mem = true := by
  unfold State.afterLatch
  split <;> simp [proceed_memWf, h]

theorem closeStall_memWf {s : State} {c : Nat} {l : List (Nat × Nat × Nat)} (h : memWf s.mem = true) : memWf (s.closeStall c l).1.mem = true := by
  induction l generalizing s with
  | nil => exact h
  | cons e r ih =>
    unfold State.closeStall
    grind [!prep_memWf]

theorem closeOrStall_memWf {s : State} {c opIx : Nat} (h : memWf s.mem = true) : memWf (s.closeOrStall c opIx).1.mem = true := by
  unfold State.closeOrStall
  grind [!faultAt_memWf, closeLayer_memWf, !closeStall_memWf]

theorem execEveLatchPoint_outcomeWf {p : Fin 8} {m : LatchMeasure} {s : State} (h : memWf s.mem = true) : outcomeWf (execEveLatchPoint p m s) := by
  unfold execEveLatchPoint
  grind [outcomeWf_next, State.updCtx_mem, State.updPart_mem, State.setFlight_mem, State.charge_mem, !latchSteps_memWf, afterLatch_memWf,
    !closeOrStall_memWf]

theorem execDutyCycleIdleEnd_outcomeWf {p : Fin 8} {idleW : Nat} {s : State} (h : memWf s.mem = true) : outcomeWf (execDutyCycleIdleEnd p idleW s) := by
  unfold execDutyCycleIdleEnd
  dsimp only
  repeat' split
  all_goals simp [completeEve_memWf, h]

theorem execReleasePoint_outcomeWf {p : Fin 8} {m : LatchMeasure} {s : State} (h : memWf s.mem = true) : outcomeWf (execReleasePoint p m s) := by
  unfold execReleasePoint
  dsimp only
  repeat' split
  all_goals simp [latchSteps_memWf, afterLatch_memWf, h]

theorem execQuiesceDrain_outcomeWf {p : Fin 8} {m : LatchMeasure} {s : State} (h : memWf s.mem = true) : outcomeWf (execQuiesceDrain p m s) := by
  unfold execQuiesceDrain
  dsimp only
  split <;> simp [latchSteps_memWf, afterLatch_memWf, h]

theorem tickLatch_memWf {s : State} {k : Nat} {m : LatchMeasure} (h : memWf s.mem = true) : memWf (s.tickLatch k m).mem = true := by
  simp [State.tickLatch, latchSteps_memWf, afterLatch_memWf, h]

theorem leaveStack_memWf {s : State} {n oldN : Nat} (h : memWf s.mem = true) : memWf (s.leaveStack n oldN).mem = true := by
  unfold State.leaveStack
  grind [foldl_memWf, withdraw_memWf, splitStack_memWf]

@[simp] theorem State.keepClock_mem (s : State) (n mhz : Nat) : (s.keepClock n mhz).mem = s.mem := rfl

@[simp] theorem State.powerWays_mem (s : State) (n : Nat) : (s.powerWays n).mem = s.mem := rfl

theorem startPart_memWf {s : State} {l : List WaitingEve} {k : Nat} (h : memWf s.mem = true) : memWf (s.startPart l k).mem = true := by
  unfold State.startPart
  split <;> simp [postEveReport_memWf, h]

theorem eveAfterLayout_memWf {s : State} {e : WaitingEve} (h : memWf s.mem = true) : memWf (s.eveAfterLayout e).mem = true := by
  unfold State.eveAfterLayout
  dsimp only
  split <;> simp [finish_memWf, postEveReport_memWf, h]

theorem changeLayout_memWf {s : State} (h : memWf s.mem = true) : memWf s.changeLayout.mem = true := by
  unfold State.changeLayout
  grind [foldl_memWf, State.applyEntry_mem, State.dropEntry_mem, State.refreshRun_mem, State.setCtrBlock_mem, splitStack_memWf, leaveStack_memWf,
    State.keepClock_mem, State.powerWays_mem, startPart_memWf, eveAfterLayout_memWf]

theorem execLayoutChange_outcomeWf {s : State} (h : memWf s.mem = true) : outcomeWf (execLayoutChange s) := by
  unfold execLayoutChange
  split <;> simp [changeLayout_memWf, h]

theorem acceptLayout_memWf {s : State} (h : memWf s.mem = true) : memWf s.acceptLayout.mem = true := by
  unfold State.acceptLayout
  grind [foldl_memWf, proceed_memWf]

/-! ### Collectives -/

@[simp] theorem State.afterCollective_mem (s : State) (c : Nat) (r : CollRun) : (s.afterCollective c r).mem = s.mem := by
  unfold State.afterCollective
  repeat' split
  all_goals simp

theorem tryCollective_memWf {s : State} {c : Nat} (h : memWf s.mem = true) : memWf (s.tryCollective c).mem = true := by
  unfold State.tryCollective
  grind [!prepAllAt_memWf, wrVAt_memWf, State.setFlight_mem, !opFaultBy_memWf, State.setRun_mem, State.abandonRun_mem, State.afterCollective_mem]

@[simp] theorem State.sendDue_mem (s : State) (c : Nat) (r : CollRun) (d : Descriptor) : (s.sendDue c r d).mem = s.mem := by
  unfold State.sendDue
  grind [foldl_mem, State.setRun_mem, State.sendRank_mem]

theorem collAdvance_memWf {s : State} {c : Nat} {r : CollRun} (h : memWf s.mem = true) : memWf (s.collAdvance c r).mem = true := by
  unfold State.collAdvance
  split <;> simp [tryCollective_memWf, h]

@[simp] theorem State.hear_mem (s : State) (c : Nat) (r : CollRun) (pk : Packet) (j : Nat) : (s.hear c r pk j).1.mem = s.mem := by
  unfold State.hear
  dsimp only
  repeat' split
  all_goals simp

theorem collPacket_memWf {s : State} {c : Nat} {r : CollRun} {pk : Packet} (h : memWf s.mem = true) : memWf (s.collPacket c r pk).mem = true := by
  unfold State.collPacket
  grind [State.setRun_mem, State.losePeer_mem, collAdvance_memWf, !State.hear_mem]

theorem collReceive_memWf {s : State} {pk : Packet} (h : memWf s.mem = true) : memWf (s.collReceive pk).mem = true := by
  unfold State.collReceive
  dsimp only
  repeat' split
  all_goals simp [collPacket_memWf, h]

theorem drainEarly_memWf {s : State} {c comm seq : Nat} (h : memWf s.mem = true) : memWf (s.drainEarly c comm seq).mem = true :=
  foldl_memWf h fun _ _ ht => collReceive_memWf ht

@[simp] theorem State.beginColl_mem (s : State) (c ix : Nat) (d : Descriptor) (ms : List W64) : (s.beginColl c ix d ms).mem = s.mem := by
  simp [State.beginColl]

theorem arriveColl_memWf {s : State} {c ix : Nat} {d : Descriptor} {ms : List W64} (h : memWf s.mem = true) : memWf (s.arriveColl c ix d ms).mem = true := by
  unfold State.arriveColl
  dsimp only
  split <;> simp [tryCollective_memWf, drainEarly_memWf, h]

@[simp] theorem State.failColl_mem (s : State) (c ix : Nat) (d : Descriptor) (ms : List W64) (kind : Nat) : (s.failColl c ix d ms kind).mem = s.mem := by
  unfold State.failColl
  split <;> simp

theorem runCollective_memWf {s : State} {c ix : Nat} {d : Descriptor} (h : memWf s.mem = true) : memWf (runCollective s c ix d).1.mem = true := by
  unfold runCollective
  grind [!prepAllAt_memWf, !prepAll_memWf, !rejected_mem, !opFaultBy_memWf, !opFault_memWf, arriveColl_memWf, State.failColl_mem]

theorem takeCollective_memWf {s : State} {pk : Packet} (h : memWf s.mem = true) : memWf (s.takeCollective pk).mem = true := by
  unfold State.takeCollective
  grind [!State.receive_mem, collReceive_memWf]

theorem execCollectiveData_outcomeWf {pk : Packet} {s : State} (h : memWf s.mem = true) : outcomeWf (execCollectiveData pk s) := by
  unfold execCollectiveData
  split <;> simp [takeCollective_memWf, h]

@[simp] theorem State.answerBeacon_mem (s : State) (pk : Packet) : (s.answerBeacon pk).mem = s.mem := by
  simp [State.answerBeacon]

theorem takeBeacon_memWf {s : State} {pk : Packet} (h : memWf s.mem = true) : memWf (s.takeBeacon pk).mem = true := by
  unfold State.takeBeacon
  dsimp only
  repeat' split
  all_goals simp [collPacket_memWf, h]

theorem execPaceBeacon_outcomeWf {pk : Packet} {s : State} (h : memWf s.mem = true) : outcomeWf (execPaceBeacon pk s) := by
  unfold execPaceBeacon
  split <;> simp [takeBeacon_memWf, h]

theorem takeLoss_memWf {s : State} {pk : Packet} (h : memWf s.mem = true) : memWf (s.takeLoss pk).mem = true := by
  unfold State.takeLoss
  split <;> simp [collReceive_memWf, h]

theorem execLossNotice_outcomeWf {pk : Packet} {s : State} (h : memWf s.mem = true) : outcomeWf (execLossNotice pk s) := by
  unfold execLossNotice
  split <;> simp [takeLoss_memWf, h]

theorem execBeaconTimer_outcomeWf {c : Fin 4096} {s : State} (h : memWf s.mem = true) : outcomeWf (execBeaconTimer c s) := by
  unfold execBeaconTimer
  grind [outcomeWf_next, foldl_memWf, State.advance_mem, State.sendRank_mem]

theorem execPeerTimeout_outcomeWf {c : Fin 4096} {rank : Nat} {s : State} (h : memWf s.mem = true) : outcomeWf (execPeerTimeout c rank s) := by
  unfold execPeerTimeout
  repeat' split
  all_goals simp [h]

/-! ### Conversions -/

theorem convWrite_memWf {s : State} {c : Nat} {d : Descriptor} (h : memWf s.mem = true) : memWf (s.convWrite c d).1.mem = true := by
  unfold State.convWrite
  dsimp only
  split <;> simp [wrVAll_memWf, h]

theorem runConvert_memWf {s : State} {c ix : Nat} {d : Descriptor} (h : memWf s.mem = true) : memWf (runConvert s c ix d).1.mem = true := by
  unfold runConvert
  grind [!prepAll_memWf, !rejected_mem, !opFault_memWf, !convWrite_memWf]

/-! ### Control and scalar instructions -/

theorem arrive_memWf {s : State} {x : Lane} (h : memWf s.mem = true) : memWf (s.arrive x).mem = true := by
  simp [State.arrive, refreshBlock_memWf, h]

theorem execBar_outcomeWf {g : Nat} {s : State} (h : memWf s.mem = true) : outcomeWf (execBar g s) := by
  unfold execBar
  repeat' split
  all_goals simp [arrive_memWf, h]

theorem saluOp_memWf {sop : Nat} {signed : Bool} {f : Nat → Nat → Nat} {g : Nat} {s : State} (h : memWf s.mem = true) :
    memWf (saluOp sop signed f g s).mem = true :=
  laneReg_memWf h

/-! ### Launches -/

@[simp] theorem State.startLaunch_mem (s : State) (l : Launch) : (s.startLaunch l).1.mem = s.mem := rfl

theorem runKernel_memWf {s : State} {c ix : Nat} {d : Descriptor} (h : memWf s.mem = true) : memWf (runKernel s c ix d).1.mem = true := by
  unfold runKernel
  grind [!prep_memWf, !rejected_mem, !opFault_memWf, !State.startLaunch_mem]

theorem runElementwise_memWf {s : State} {c ix : Nat} {d : Descriptor} (h : memWf s.mem = true) : memWf (runElementwise s c ix d).1.mem = true := by
  unfold runElementwise
  grind [!prep_memWf, !prepAll_memWf, !rejected_mem, !opFault_memWf, !State.startLaunch_mem]

theorem takeSplit_memWf {s : State} {u split : Nat} (h : memWf s.mem = true) : memWf (s.takeSplit u split).mem = true :=
  giveUpWays_memWf h

theorem placeBlock_memWf {s : State} {ix u split : Nat} {l : Launch} (h : memWf s.mem = true) : memWf (s.placeBlock ix u split l).mem = true := by
  unfold State.placeBlock
  grind [foldl_memWf, State.setGroup_mem, State.setBlock_mem, State.setLaunch_mem, takeSplit_memWf]

theorem placeElem_memWf {s : State} {ix u split : Nat} {l : Launch} (h : memWf s.mem = true) : memWf (s.placeElem ix u split l).mem = true := by
  unfold State.placeElem
  grind [State.newAccess_mem, !prepAllAt_memWf, !faultAt_memWf, State.stopLaunch_mem, placeBlock_memWf]

theorem execBlockPlace_outcomeWf {c : Fin 4096} {u : Fin 512} {s : State} (h : memWf s.mem = true) : outcomeWf (execBlockPlace c u s) := by
  unfold execBlockPlace
  dsimp only
  repeat' split
  all_goals simp [placeBlock_memWf, placeElem_memWf, h]

/-! ### Links and remote delivery -/

@[simp] theorem State.portDown_mem (s : State) (p : Nat) : (s.portDown p).mem = s.mem := by
  unfold State.portDown
  dsimp only
  split <;> simp

theorem fencePort_memWf {s : State} {p lane : Nat} (h : memWf s.mem = true) : memWf (s.fencePort p lane).mem = true := by
  unfold State.fencePort
  split <;> simp [unitReport_memWf, h]

theorem laneLasting_memWf {s : State} {p lane : Nat} (h : memWf s.mem = true) : memWf (s.laneLasting p lane).mem = true := by
  unfold State.laneLasting
  dsimp only
  repeat' split
  all_goals simp [fencePort_memWf, h]

theorem countSymbols_memWf {s : State} {p : Nat} {l : List Nat} (h : memWf s.mem = true) : memWf (s.countSymbols p l).mem = true := by
  unfold State.countSymbols
  grind [foldl_memWf, countError_memWf, State.setPort_mem, laneLasting_memWf]

@[simp] theorem State.resendFlits_mem (s : State) (p : Nat) : (s.resendFlits p).mem = s.mem := by
  unfold State.resendFlits
  grind [foldl_mem, State.countEv_mem, State.setPort_mem, State.emitFlit_mem, State.portDown_mem]

@[simp] theorem State.takeAck_mem (s : State) (p : Nat) (f : Flit) : (s.takeAck p f).mem = s.mem := by
  unfold State.takeAck
  split <;> simp

theorem execFlitReceive_outcomeWf {port : Fin 16} {f : Flit} {s : State} (h : memWf s.mem = true) : outcomeWf (execFlitReceive port f s) := by
  unfold execFlitReceive
  dsimp only
  repeat' split
  all_goals simp [countSymbols_memWf, h]

theorem execRetryTimeout_outcomeWf {port : Fin 16} {s : State} (h : memWf s.mem = true) : outcomeWf (execRetryTimeout port s) := by
  unfold execRetryTimeout
  dsimp only
  split <;> simp [h]

theorem execPortTrainingDone_outcomeWf {port : Fin 16} {r : PortTraining} {s : State} (h : memWf s.mem = true) :
    outcomeWf (execPortTrainingDone port r s) := by
  unfold execPortTrainingDone
  dsimp only
  repeat' split
  all_goals simp [h]

@[simp] theorem State.startTraining_mem (s : State) (p : Nat) : (s.startTraining p).mem = s.mem := by
  unfold State.startTraining
  split <;> simp

theorem execPartnerSignalReturn_outcomeWf {port : Fin 16} {s : State} (h : memWf s.mem = true) : outcomeWf (execPartnerSignalReturn port s) := by
  unfold execPartnerSignalReturn
  split <;> simp [h]

@[simp] theorem State.ackBurst_mem (s : State) (b : RemoteBurst) (status : Nat) : (s.ackBurst b status).mem = s.mem := by
  simp [State.ackBurst]

@[simp] theorem State.dropRemote_mem (s : State) (b : RemoteBurst) : (s.dropRemote b).mem = s.mem := rfl

theorem commitRemote_memWf {s : State} {b : RemoteBurst} (h : memWf s.mem = true) : memWf (s.commitRemote b).mem = true := by
  unfold State.commitRemote
  grind [foldl_memWf, !prepAllAt_memWf, wrVAt_memWf, !faultAt_memWf, State.ackBurst_mem, State.dropRemote_mem]

theorem takeRemote_memWf {s : State} {pk : Packet} (h : memWf s.mem = true) : memWf (s.takeRemote pk).mem = true := by
  unfold State.takeRemote
  grind [State.countEv_mem, !State.receive_mem, State.dropRemote_mem, commitRemote_memWf]

theorem execRemoteWrite_outcomeWf {pk : Packet} {s : State} (h : memWf s.mem = true) : outcomeWf (execRemoteWrite pk s) := by
  unfold execRemoteWrite
  split <;> simp [takeRemote_memWf, h]

@[simp] theorem State.setParade_mem (s : State) (x : Parade) : (s.setParade x).mem = s.mem := by
  unfold State.setParade
  split <;> simp

@[simp] theorem State.requestChunk_mem (s : State) : s.requestChunk.mem = s.mem := by
  simp [State.requestChunk]

@[simp] theorem State.turnTo_mem (s : State) (st chunk : Nat) (x : Parade) : (s.turnTo st chunk x).mem = s.mem := by
  unfold State.turnTo
  split <;> simp

@[simp] theorem State.startParade_mem (s : State) : s.startParade.mem = s.mem := by
  unfold State.startParade
  repeat' split
  all_goals simp

@[simp] theorem State.serveChunk_mem (s : State) (child c : Nat) : (s.serveChunk child c).mem = s.mem :=
  foldl_mem (fun _ _ => State.send_mem ..) _ _

@[simp] theorem State.serveWaiting_mem (s : State) : s.serveWaiting.mem = s.mem := by
  unfold State.serveWaiting
  grind [foldl_mem, State.serveChunk_mem]

@[simp] theorem State.takeParadeRequest_mem (s : State) (pk : Packet) : (s.takeParadeRequest pk).mem = s.mem := by
  unfold State.takeParadeRequest
  grind [!State.receive_mem, State.serveWaiting_mem]

theorem execParadeRequest_outcomeWf {pk : Packet} {s : State} (h : memWf s.mem = true) : outcomeWf (execParadeRequest pk s) := by
  unfold execParadeRequest
  split <;> simp [h]

theorem takeAckPacket_memWf {s : State} {pk : Packet} (h : memWf s.mem = true) : memWf (s.takeAckPacket pk).mem = true := by
  unfold State.takeAckPacket
  repeat' split
  all_goals simp [burstAcked_memWf, h]

theorem execDeliveryAck_outcomeWf {pk : Packet} {s : State} (h : memWf s.mem = true) : outcomeWf (execDeliveryAck pk s) := by
  unfold execDeliveryAck
  split <;> simp [takeAckPacket_memWf, h]

@[simp] theorem State.verifyParade_mem (s : State) : s.verifyParade.mem = s.mem := by
  unfold State.verifyParade
  dsimp only
  repeat' split
  all_goals simp

theorem takeParadeData_memWf {s : State} {pk : Packet} (h : memWf s.mem = true) : memWf (s.takeParadeData pk).mem = true := by
  unfold State.takeParadeData
  grind [wrHome_memWf, !State.receive_mem, State.setParade_mem, State.requestChunk_mem, State.serveWaiting_mem, State.verifyParade_mem]

theorem execParadeData_outcomeWf {pk : Packet} {s : State} (h : memWf s.mem = true) : outcomeWf (execParadeData pk s) := by
  unfold execParadeData
  split <;> simp [takeParadeData_memWf, h]

theorem execParadeParentTimeout_outcomeWf {s : State} (h : memWf s.mem = true) : outcomeWf (execParadeParentTimeout s) := by
  unfold execParadeParentTimeout
  dsimp only
  repeat' split
  all_goals simp [h]

theorem unreachable_memWf {s : State} {u : Unacked} (h : memWf s.mem = true) : memWf (s.unreachable u).mem = true := by
  unfold State.unreachable
  grind [foldl_memWf, State.losePeer_mem, burstUnreachable_memWf, State.serveWaiting_mem]

theorem execE2eResendTimeout_outcomeWf {dest : Nat} {seq : BitVec 32} {s : State} (h : memWf s.mem = true) : outcomeWf (execE2eResendTimeout dest seq s) := by
  unfold execE2eResendTimeout
  repeat' split
  all_goals simp [unreachable_memWf, h]

theorem deliver_memWf {s : State} {pk : Packet} (h : memWf s.mem = true) : memWf (s.deliver pk).mem = true := by
  unfold State.deliver
  repeat' split
  all_goals simp [takeCollective_memWf, takeBeacon_memWf, takeLoss_memWf, takeRemote_memWf, takeAckPacket_memWf, takeParadeData_memWf, h]

@[simp] theorem State.takeIn_mem (s : State) (port vc : Nat) (pk : Packet) : (s.takeIn port vc pk).mem = s.mem := by
  unfold State.takeIn
  split <;> simp

theorem execPacketForward_outcomeWf {port : Fin 17} {cls : Bool} {level : Fin 4} {s : State} (h : memWf s.mem = true) :
    outcomeWf (execPacketForward port cls level s) := by
  unfold execPacketForward
  dsimp only
  repeat' split
  all_goals simp [deliver_memWf, h]

@[simp] theorem State.noteOffset_mem (s : State) (off slew : Int) (locked : Bool) : (s.noteOffset off slew locked).mem = s.mem := by
  unfold State.noteOffset
  split <;> simp

@[simp] theorem State.followTime_mem (s : State) (off : Int) : (s.followTime off).mem = s.mem := by
  unfold State.followTime
  split <;> simp

@[simp] theorem State.slewBy_mem (s : State) (ns : Nat) : (s.slewBy ns).mem = s.mem := rfl

@[simp] theorem State.loseTimeSource_mem (s : State) : s.loseTimeSource.mem = s.mem := by
  unfold State.loseTimeSource
  repeat' split
  all_goals simp

@[simp] theorem State.checkTimeParent_mem (s : State) : s.checkTimeParent.mem = s.mem := by
  unfold State.checkTimeParent
  split <;> simp

@[simp] theorem State.emitTimeFlit_mem (s : State) (p at_ : Nat) : (s.emitTimeFlit p at_).mem = s.mem := rfl

@[simp] theorem State.timeFlits_mem (s : State) (p : Nat) : (s.timeFlits p).mem = s.mem := by
  unfold State.timeFlits
  grind [foldl_mem, State.emitTimeFlit_mem]

theorem execTimeFlit_outcomeWf {port : Fin 16} {t : TimeFlit} {s : State} (h : memWf s.mem = true) : outcomeWf (execTimeFlit port t s) := by
  unfold execTimeFlit
  dsimp only
  repeat' split
  all_goals simp [h]

@[simp] theorem State.askDelay_mem (s : State) (seq syncRx origin : Nat) : (s.askDelay seq syncRx origin).mem = s.mem := rfl

theorem execPtpMessage_outcomeWf {m : PtpMessage} {s : State} (h : memWf s.mem = true) : outcomeWf (execPtpMessage m s) := by
  unfold execPtpMessage
  dsimp only
  repeat' split
  all_goals simp [h]

/-! ### Updates and the Almanac in memory -/

theorem updWrite_memWf {s : State} {c : Nat} {d : Descriptor} {es : List (List UpdElem)} (h : memWf s.mem = true) :
    memWf (s.updWrite c d es).1.mem = true := by
  unfold State.updWrite
  grind [wrVAll_memWf]

theorem runUpdate_memWf {s : State} {c ix : Nat} {d : Descriptor} (h : memWf s.mem = true) : memWf (runUpdate s c ix d).1.mem = true := by
  unfold runUpdate
  grind [!prepAll_memWf, !rejected_mem, !opFault_memWf, !updWrite_memWf]

theorem runAlmanacSave_memWf {s : State} {c ix : Nat} {d : Descriptor} (h : memWf s.mem = true) : memWf (runAlmanacSave s c ix d).1.mem = true := by
  unfold runAlmanacSave
  grind [!prepAll_memWf, wrV_memWf, !ended_mem, !rejected_mem, !opFault_memWf]

theorem runAlmanacLoad_memWf {s : State} {c ix : Nat} {d : Descriptor} (h : memWf s.mem = true) : memWf (runAlmanacLoad s c ix d).1.mem = true := by
  unfold runAlmanacLoad
  grind [State.updCtx_mem, !prep_memWf, wrVAll_memWf, !ended_mem, !rejected_mem, !opFault_memWf]

/-! ### Completions and resolved faults -/

theorem runOf_memWf {op : Nat} {s : State} {c ix : Nat} {d : Descriptor} (h : memWf s.mem = true) : memWf (runOf op s c ix d).1.mem = true := by
  unfold runOf
  exact runIte_memWf (runAttention_memWf h) <| runIte_memWf (runUpdate_memWf h) <| runIte_memWf (runConvert_memWf h) <|
    runIte_memWf (runElementwise_memWf h) <| runIte_memWf (runKernel_memWf h) <| runIte_memWf (runStream_memWf h) <|
    runIte_memWf (runCollective_memWf h) <| runIte_memWf (runCopy_memWf h) <| runIte_memWf (runZero_memWf h) <|
    runIte_memWf (runFence_memWf h) <| runIte_memWf (runEve_memWf h) <| runIte_memWf (runWait_memWf h) <|
    runIte_memWf (runSignal_memWf h) <| runIte_memWf (runTimestamp_memWf h) <| runIte_memWf (runAlmanacSave_memWf h) <|
    runIte_memWf (runAlmanacLoad_memWf h) (runProduct_memWf h)

theorem rerun_memWf {s : State} {c opIx : Nat} (h : memWf s.mem = true) : memWf (s.rerun c opIx).mem = true := by
  unfold State.rerun
  grind [State.newAccess_mem, State.setFlight_mem, State.noteBoundary_mem, !tryWait_memWf, !runOf_memWf, endLaunch_memWf, tryCollective_memWf]

theorem afterRecord_memWf {s : State} {c : Nat} {f : Flight} (h : memWf s.mem = true) : memWf (s.afterRecord c f).mem = true := by
  unfold State.afterRecord
  dsimp only
  repeat' split
  all_goals simp [writeWaiting_memWf, h]

theorem complete_memWf {s : State} {c : Nat} {f : Flight} {r : OpResult} (h : memWf s.mem = true) : memWf (s.complete c f r).mem = true := by
  unfold State.complete
  dsimp only
  split <;> simp [finish_memWf, afterRecord_memWf, h]

theorem completeLatched_memWf {s : State} {c : Nat} {f : Flight} (h : memWf s.mem = true) : memWf (s.completeLatched c f).mem = true := by
  unfold State.completeLatched
  repeat' split
  all_goals simp [completeEve_memWf, complete_memWf, h]

theorem execOperationCompletion_outcomeWf {c : Fin 4096} {s : State} (h : memWf s.mem = true) : outcomeWf (execOperationCompletion c s) := by
  unfold execOperationCompletion
  dsimp only
  repeat' split
  all_goals simp [settle_memWf, actAtHead_memWf, complete_memWf, completeLatched_memWf, h]

theorem redrain_memWf {s : State} {c : Nat} (h : memWf s.mem = true) : memWf (s.redrain c).mem = true :=
  writeWaiting_memWf (drainRecords_memWf h)

theorem rewrite_memWf {s : State} {c : Nat} (h : memWf s.mem = true) : memWf (s.rewrite c).mem = true := by
  unfold State.rewrite
  repeat' split
  all_goals simp [writeWaiting_memWf, complete_memWf, redrain_memWf, h]

theorem wakeGroup_memWf {s : State} {g ix : Nat} (h : memWf s.mem = true) : memWf (s.wakeGroup g ix).mem = true := by
  unfold State.wakeGroup
  split <;> simp [refreshBlock_memWf, h]

@[simp] theorem State.wakeBurst_mem (s : State) (i n ix : Nat) : (s.wakeBurst i n ix).mem = s.mem := by
  unfold State.wakeBurst
  split <;> simp

theorem retryWaiter_memWf {s : State} {ix : Nat} {w : Waiter} (h : memWf s.mem = true) : memWf (s.retryWaiter ix w).mem = true := by
  unfold State.retryWaiter
  repeat' split
  all_goals simp [clearRegion_memWf, qpRetry_memWf, commitRemote_memWf, rerun_memWf, redrain_memWf, rewrite_memWf, wakeGroup_memWf, h]

theorem retryFault_memWf {s : State} {ix : Nat} (h : memWf s.mem = true) : memWf (s.retryFault ix).mem = true := by
  unfold State.retryFault
  grind [foldl_memWf, State.uncache_mem, retryWaiter_memWf, State.ignoreResume_mem, State.dropPending_mem]

@[simp] theorem State.loseRecord_mem (s : State) (c status ix : Nat) : (s.loseRecord c status ix).mem = s.mem := by
  unfold State.loseRecord
  dsimp only
  split <;> simp

@[simp] theorem State.dropRecord_mem (s : State) (c ix : Nat) : (s.dropRecord c ix).mem = s.mem := by
  unfold State.dropRecord
  dsimp only
  repeat' split
  all_goals simp

@[simp] theorem State.loseFirst_mem (s : State) (c : Nat) : (s.loseFirst c).mem = s.mem := by
  unfold State.loseFirst
  split <;> simp

@[simp] theorem State.declineEve_mem (s : State) (c acc page ix : Nat) : (s.declineEve c acc page ix).mem = s.mem := by
  simp [State.declineEve]

theorem declineWaiter_memWf {s : State} {p : PendingFault} {w : Waiter} (h : memWf s.mem = true) : memWf (s.declineWaiter p w).mem = true := by
  unfold State.declineWaiter
  repeat' split
  all_goals simp [accessFault_memWf, stopStream_memWf, qpDecline_memWf, redrain_memWf, h]

theorem declineFault_memWf {s : State} {ix : Nat} (h : memWf s.mem = true) : memWf (s.declineFault ix).mem = true := by
  unfold State.declineFault
  grind [foldl_memWf, State.ignoreResume_mem, State.dropPending_mem, declineWaiter_memWf]

/-! ### Context banks -/

@[simp] theorem State.told_mem (s : State) (b op code : Nat) : (s.told b op code).mem = s.mem := rfl

@[simp] theorem State.createCtx_mem (s : State) (b k : Nat) : (s.createCtx b k).mem = s.mem := by
  unfold State.createCtx
  dsimp only
  repeat' split
  all_goals simp

@[simp] theorem State.startCtx_mem (s : State) (b : Nat) : (s.startCtx b).mem = s.mem := by
  unfold State.startCtx
  dsimp only
  repeat' split
  all_goals simp

@[simp] theorem State.stopCtx_mem (s : State) (b : Nat) : (s.stopCtx b).mem = s.mem := by
  unfold State.stopCtx
  dsimp only
  split <;> simp

theorem resumeCtx_memWf {s : State} {b : Nat} (h : memWf s.mem = true) : memWf (s.resumeCtx b).mem = true := by
  unfold State.resumeCtx
  dsimp only
  split <;> simp [clearRegion_memWf, h]

theorem killCmd_memWf {s : State} {b : Nat} (h : memWf s.mem = true) : memWf (s.killCmd b).mem = true := by
  unfold State.killCmd
  dsimp only
  split <;> simp [killCtx_memWf, h]

theorem dropWaits_memWf {s : State} {c : Nat} (h : memWf s.mem = true) : memWf (s.dropWaits c).mem = true :=
  dropQpWaits_memWf h

theorem freeCtx_memWf {s : State} {c : Nat} (h : memWf s.mem = true) : memWf (s.freeCtx c).mem = true := by
  unfold State.freeCtx
  grind [foldl_memWf, State.setCtx_mem, State.uncache_mem, State.setRun_mem, State.clearLaunch_mem, dropCtxInsts_memWf, dropWaits_memWf]

theorem destroyCtx_memWf {s : State} {b : Nat} (h : memWf s.mem = true) : memWf (s.destroyCtx b).mem = true := by
  unfold State.destroyCtx
  dsimp only
  split <;> simp [freeCtx_memWf, h]

@[simp] theorem State.rebindCmd_mem (s : State) (b k : Nat) : (s.rebindCmd b k).mem = s.mem := by
  unfold State.rebindCmd
  dsimp only
  repeat' split
  all_goals simp

theorem ctxCommand_memWf {s : State} {b v : Nat} (h : memWf s.mem = true) : memWf (s.ctxCommand b v).mem = true := by
  unfold State.ctxCommand
  dsimp only
  repeat' with_reducible apply ite_memWf
  all_goals simp [resumeCtx_memWf, killCmd_memWf, destroyCtx_memWf, h]

@[simp] theorem State.refuseWrite_mem (s : State) (c : Nat) : (s.refuseWrite c).mem = s.mem := rfl

@[simp] theorem State.stageWord_mem (s : State) (b off : Nat) (w : W64) : (s.stageWord b off w).mem = s.mem := rfl

@[simp] theorem State.unstage_mem (s : State) (b off n : Nat) : (s.unstage b off n).mem = s.mem := rfl

@[simp] theorem State.commitPolicy_mem (s : State) (b : Nat) (w : W64) : (s.commitPolicy b w).mem = s.mem := by
  unfold State.commitPolicy
  dsimp only
  repeat' split
  all_goals simp

@[simp] theorem State.commitTranslation_mem (s : State) (b : Nat) (w : W64) : (s.commitTranslation b w).mem = s.mem := by
  unfold State.commitTranslation
  dsimp only
  repeat' split
  all_goals simp

@[simp] theorem State.commitHost_mem (s : State) (b : Nat) (w : W64) : (s.commitHost b w).mem = s.mem := by
  unfold State.commitHost
  dsimp only
  repeat' split
  all_goals simp

@[simp] theorem State.submitInval_mem (s : State) (b : Nat) (pages : Nat) : (s.submitInval b pages).mem = s.mem := by
  unfold State.submitInval
  grind [State.setCtx_mem]

@[simp] theorem State.writeRingWord_mem (s : State) (c : Nat) (queue : Bool) (w : Nat) : (s.writeRingWord c queue w).mem = s.mem := by
  unfold State.writeRingWord
  dsimp only
  repeat' split
  all_goals simp

theorem writeCtxReg_memWf {s : State} {b off : Nat} {w : W64} (h : memWf s.mem = true) : memWf (s.writeCtxReg b off w).mem = true := by
  unfold State.writeCtxReg
  dsimp only
  repeat' with_reducible apply ite_memWf
  all_goals simp [freeRecords_memWf, h]

theorem writeBank_memWf {s : State} {b off : Nat} {w : W64} (h : memWf s.mem = true) : memWf (s.writeBank b off w).mem = true := by
  unfold State.writeBank
  dsimp only
  repeat' split
  all_goals simp [ctxCommand_memWf, writeCtxReg_memWf, h]

theorem writeBell_memWf {s : State} {c off : Nat} {w : W64} (h : memWf s.mem = true) : memWf (s.writeBell c off w).mem = true := by
  unfold State.writeBell
  repeat' split
  all_goals simp [ringBell_memWf, freeRecords_memWf, h]

/-! ### Detections -/

theorem monitorTrip_memWf {s : State} (h : memWf s.mem = true) : memWf s.monitorTrip.mem = true := by
  simp [State.monitorTrip, tripNow_memWf, h]

theorem lockstepFails_memWf {s : State} {u : FaultUnit} (h : memWf s.mem = true) : memWf (s.lockstepFails u).mem = true := by
  unfold State.lockstepFails
  repeat' split
  all_goals simp [countError_memWf, unitReport_memWf, fenceDie_memWf, fenceStreamUnit_memWf, packageFault_memWf, cutGuest_memWf, fencePd_memWf,
    monitorTrip_memWf, h]

theorem tileResidue_memWf {s : State} {n tile : Nat} {again : Option SentinelResult} (h : memWf s.mem = true) :
    memWf (s.tileResidue n tile again).mem = true := by
  unfold State.tileResidue
  repeat' split
  all_goals simp [tileEvent_memWf, mismatch_memWf, h]

theorem unitResidue_memWf {s : State} {u : Nat} {again : Bool} (h : memWf s.mem = true) : memWf (s.unitResidue u again).mem = true := by
  unfold State.unitResidue
  grind [countError_memWf, fenceThreadUnit_memWf]

theorem streamResidue_memWf {s : State} {v : Nat} (h : memWf s.mem = true) : memWf (s.streamResidue v).mem = true := by
  unfold State.streamResidue
  grind [countError_memWf, fenceStreamUnit_memWf]

theorem fenceCore_memWf {s : State} {k diag cause : Nat} (h : memWf s.mem = true) : memWf (s.fenceCore k diag cause).mem = true := by
  unfold State.fenceCore
  dsimp only
  repeat' with_reducible apply ite_memWf
  all_goals simp [unitReport_memWf, packageFault_memWf, h]

theorem coreError_memWf {s : State} {k diag : Nat} (h : memWf s.mem = true) : memWf (s.coreError k diag).mem = true := by
  unfold State.coreError
  grind [countError_memWf, fenceCore_memWf]

theorem hamperParity_memWf {s : State} {n ln : Nat} (h : memWf s.mem = true) : memWf (s.hamperParity n ln).mem = true := by
  unfold State.hamperParity
  grind [countError_memWf, fenceWay_memWf]

theorem cacheBlock_memWf {s : State} {a ln : Nat} {uncorrectable : Bool} (h : memWf s.mem = true) : memWf (s.cacheBlock a ln uncorrectable).mem = true := by
  unfold State.cacheBlock
  grind [refuse_memWf, cacheError_memWf, loseBlock_memWf, goOn_memWf]

theorem unitStore_memWf {s : State} {g : Nat} {uncorrectable : Bool} (h : memWf s.mem = true) : memWf (s.unitStore g uncorrectable).mem = true := by
  unfold State.unitStore
  grind [!State.free_mem, State.notify_mem, countError_memWf, !postIndexed_memWf, !hardFault_memWf, State.stopLaunch_mem, fenceThreadUnit_memWf]

theorem failLane_memWf {s : State} {die lane diag : Nat} (h : memWf s.mem = true) : memWf (s.failLane die lane diag).mem = true := by
  unfold State.failLane
  dsimp only
  split <;> simp [packageFault_memWf, h]

theorem bridgeRetry_memWf {s : State} {die lane : Nat} (h : memWf s.mem = true) : memWf (s.bridgeRetry die lane).mem = true := by
  unfold State.bridgeRetry
  grind [countError_memWf, failLane_memWf]

theorem detect_memWf {s : State} {d : Detection} (h : memWf s.mem = true) : memWf (s.detect d).mem = true := by
  unfold State.detect
  repeat' split
  all_goals simp [packageFault_memWf, sensorsDisagree_memWf, directoryRow_memWf, lockstepFails_memWf, tileResidue_memWf, unitResidue_memWf,
    streamResidue_memWf, fenceCore_memWf, coreError_memWf, hamperParity_memWf, cacheBlock_memWf, unitStore_memWf, bridgeRetry_memWf, h]

theorem execLockstepMismatch_outcomeWf {ds : List Detection} {s : State} (h : memWf s.mem = true) : outcomeWf (execLockstepMismatch ds s) := by
  unfold execLockstepMismatch
  grind [outcomeWf_next, foldl_memWf, detect_memWf]

/-! ### Processor cores -/

theorem flushAgent_memWf {s : State} {a : Nat} (h : memWf s.mem = true) : memWf (s.flushAgent a).mem = true :=
  foldl_memWf h fun _ _ ht => withdraw_memWf ht

theorem enterDieOff_memWf {s : State} {m : Fin 2} (h : memWf s.mem = true) : memWf (s.enterDieOff m).mem = true :=
  flushAgent_memWf h

theorem tryDieOff_memWf {s : State} {m : Fin 2} (h : memWf s.mem = true) : memWf (s.tryDieOff m).mem = true := by
  unfold State.tryDieOff
  split <;> simp [enterDieOff_memWf, h]

@[simp] theorem State.dropL1Data_mem (s : State) (k : Nat) : (s.dropL1Data k).mem = s.mem := rfl

theorem sleepCore_memWf {s : State} {k : Nat} (h : memWf s.mem = true) : memWf (s.sleepCore k).mem = true := by
  unfold State.sleepCore
  dsimp only
  repeat' split
  all_goals simp [flushAgent_memWf, h]

theorem execWfi_outcomeWf {k : Fin 96} {s : State} (h : memWf s.mem = true) : outcomeWf (execWfi k s) := by
  unfold execWfi
  split <;> simp [tryDieOff_memWf, sleepCore_memWf, h]

theorem execCoreWake_outcomeWf {k : Fin 96} {cause : WakeCause} {s : State} (h : memWf s.mem = true) : outcomeWf (execCoreWake k cause s) := by
  unfold execCoreWake
  dsimp only
  repeat' split
  all_goals simp [h]

theorem execTimerCompareReached_outcomeWf {k : Fin 96} {which : CoreTimer} {s : State} (h : memWf s.mem = true) :
    outcomeWf (execTimerCompareReached k which s) := by
  unfold execTimerCompareReached
  dsimp only
  split <;> simp [h]

@[simp] theorem State.writeSource_mem (s : State) (m n : Nat) (v : Nat) : (s.writeSource m n v).mem = s.mem := by
  unfold State.writeSource
  split <;> simp

@[simp] theorem State.writeAffinity_mem (s : State) (m a half v : Nat) : (s.writeAffinity m a half v).mem = s.mem := by
  unfold State.writeAffinity
  dsimp only
  repeat' split
  all_goals simp

@[simp] theorem State.keepWake_mem (s : State) (k : Nat) : (s.keepWake k).mem = s.mem := by
  unfold State.keepWake
  dsimp only
  split <;> simp

@[simp] theorem State.writeCore_mem (s : State) (k off : Nat) (w : W64) : (s.writeCore k off w).mem = s.mem := by
  unfold State.writeCore
  grind [State.completeWrite_mem, State.setThreshold_mem, State.keepWake_mem]

@[simp] theorem State.writeSlice_mem (s : State) (m off : Nat) (w : W64) : (s.writeSlice m off w).mem = s.mem := by
  unfold State.writeSlice
  grind [State.setPendWrite_mem, State.maskSource_mem, State.writeSource_mem, State.writeAffinity_mem, State.writeCore_mem]

@[simp] theorem State.csrAccess_mem (s : State) (x : CsrAccess) : (s.csrAccess x).mem = s.mem := by
  unfold State.csrAccess
  dsimp only
  repeat' split
  all_goals simp

@[simp] theorem State.tickCores_mem (s : State) (m : TickMeasure) : (s.tickCores m).mem = s.mem := by
  unfold State.tickCores
  grind [foldl_mem, State.csrAccess_mem]

/-! ### Guests -/

@[simp] theorem State.busWake_mem (s : State) (dst : Nat) : (s.busWake dst).mem = s.mem := rfl

theorem busPerform_memWf {s : State} {agent dst : Nat} {q : BusRequest} {pa : Nat} (h : memWf s.mem = true) :
    memWf (s.busPerform agent dst q pa).mem = true := by
  unfold State.busPerform
  grind [wrBytes_memWf, !checkPa_memWf, postFq_memWf, !State.takeIndex_mem, lineReport_memWf, State.busWake_mem, State.busReply_mem]

@[simp] theorem State.takeTokens_mem (s : State) (g n : Nat) : (s.takeTokens g n).mem = s.mem := by
  unfold State.takeTokens
  dsimp only
  repeat' split
  all_goals simp

theorem execGuestRequest_outcomeWf {g : Fin 2} {q : BusRequest} {s : State} (h : memWf s.mem = true) : outcomeWf (execGuestRequest g q s) := by
  unfold execGuestRequest
  repeat' split
  all_goals simp [cutGuest_memWf, busPerform_memWf, h]

theorem execGuestBringupStep_outcomeWf {g : Fin 2} {r : BringupResult} {s : State} (h : memWf s.mem = true) : outcomeWf (execGuestBringupStep g r s) := by
  unfold execGuestBringupStep
  dsimp only
  repeat' split
  all_goals simp [h]

@[simp] theorem State.askGuest_mem (s : State) (g v : Nat) : (s.askGuest g v).1.mem = s.mem := by
  unfold State.askGuest
  dsimp only
  split <;> simp

theorem guestTick_memWf {s : State} {g : Nat} (h : memWf s.mem = true) : memWf (s.guestTick g).mem = true := by
  unfold State.guestTick
  dsimp only
  repeat' with_reducible apply ite_memWf
  all_goals simp [cutGuest_memWf, h]

@[simp] theorem State.endpointMessage_mem (s : State) (port : Nat) (d : List Byte) : (s.endpointMessage port d).mem = s.mem := by
  unfold State.endpointMessage
  split <;> simp

@[simp] theorem State.refuseDma_mem (s : State) (port : Nat) : (s.refuseDma port).mem = s.mem := by
  simp [State.refuseDma]

theorem execPe1DmaRequest_outcomeWf {port : Fin 2} {_requester : BitVec 16} {q : BusRequest} {s : State} (h : memWf s.mem = true) :
    outcomeWf (execPe1DmaRequest port _requester q s) := by
  unfold execPe1DmaRequest
  repeat' split
  all_goals simp [busPerform_memWf, h]

theorem execPe1MessageWrite_outcomeWf {port : Fin 2} {d : List Byte} {s : State} (h : memWf s.mem = true) : outcomeWf (execPe1MessageWrite port d s) := by
  unfold execPe1MessageWrite
  split <;> simp [h]

theorem execCxlLinkDrop_outcomeWf {port : Fin 2} {s : State} (h : memWf s.mem = true) : outcomeWf (execCxlLinkDrop port s) := by
  unfold execCxlLinkDrop
  split <;> simp [h]

@[simp] theorem State.configAccess_mem (s : State) (port : Nat) (a : ConfigAcc) : (s.configAccess port a).mem = s.mem := by
  unfold State.configAccess
  dsimp only
  repeat' split
  all_goals simp

/-! ### The security root -/

@[simp] theorem State.sendFetch_mem (s : State) : s.sendFetch.mem = s.mem := rfl

@[simp] theorem State.refuseImage_mem (s : State) : s.refuseImage.mem = s.mem := rfl

@[simp] theorem State.trainPorts_mem (s : State) (p : Nat → Bool) : (s.trainPorts p).mem = s.mem :=
  foldl_mem (fun _ _ => State.startTraining_mem ..) _ _

@[simp] theorem State.acceptImage_mem (s : State) (m : Image) : (s.acceptImage m).mem = s.mem := by
  unfold State.acceptImage
  grind [State.sendFetch_mem, State.trainPorts_mem]

theorem execFetchResponse_outcomeWf {m : UleelMsg} {s : State} (h : memWf s.mem = true) : outcomeWf (execFetchResponse m s) := by
  unfold execFetchResponse
  dsimp only
  repeat' split
  all_goals simp [h]

theorem fenceRow_memWf {s : State} {d row cause : Nat} (h : memWf s.mem = true) : memWf (s.fenceRow d row cause).mem = true := by
  simp [State.fenceRow, failRow_memWf, h]

theorem fenceNamed_memWf {s : State} {die cls ix cause : Nat} (h : memWf s.mem = true) : memWf (s.fenceNamed die cls ix cause).mem = true := by
  unfold State.fenceNamed
  dsimp only
  repeat' with_reducible apply ite_memWf
  all_goals simp [fencePc_memWf, fenceDie_memWf, fenceTile_memWf, fenceThreadUnit_memWf, fenceStreamUnit_memWf, fenceWay_memWf, fencePd_memWf,
    fenceSensor_memWf, failDirRow_memWf, fencePort_memWf, fenceCore_memWf, failLane_memWf, fenceRow_memWf, h]

theorem bootFence_memWf {s : State} {die cls ix cause : Nat} (h : memWf s.mem = true) : memWf (s.bootFence die cls ix cause).mem = true := by
  unfold State.bootFence
  dsimp only
  split <;> simp [fenceNamed_memWf, h]

theorem bootFences_memWf {s : State} {l : List W64} {cause : Option Nat} (h : memWf s.mem = true) : memWf (s.bootFences l cause).mem = true :=
  foldl_memWf h fun _ _ ht => bootFence_memWf ht

theorem fencesDone_memWf {s : State} {l : List W64} (h : memWf s.mem = true) : memWf (s.fencesDone l).mem = true := by
  unfold State.fencesDone
  dsimp only
  split <;> simp [bootFences_memWf, h]

theorem execFenceRecordFetch_outcomeWf {m : UleelMsg} {s : State} (h : memWf s.mem = true) : outcomeWf (execFenceRecordFetch m s) := by
  unfold execFenceRecordFetch
  split <;> simp [fencesDone_memWf, h]

theorem execFetchTimeout_outcomeWf {s : State} (h : memWf s.mem = true) : outcomeWf (execFetchTimeout s) := by
  unfold execFetchTimeout
  dsimp only
  repeat' split
  all_goals simp [fencesDone_memWf, h]

theorem execFetchRetry_outcomeWf {s : State} (h : memWf s.mem = true) : outcomeWf (execFetchRetry s) := by
  unfold execFetchRetry
  repeat' split
  all_goals simp [h]

@[simp] theorem State.replaceFailed_mem (s : State) : s.replaceFailed.mem = s.mem := by
  unfold State.replaceFailed
  grind [foldl_mem, State.setPc_mem]

@[simp] theorem State.commitSvn_mem (s : State) : s.commitSvn.mem = s.mem := by
  unfold State.commitSvn
  split <;> simp

@[simp] theorem State.breakCommit_mem (s : State) : s.breakCommit.mem = s.mem := by
  unfold State.breakCommit
  split <;> simp

@[simp] theorem State.tilesPassed_mem (s : State) : s.tilesPassed.mem = s.mem := by
  unfold State.tilesPassed
  grind [foldl_mem, State.tilePassed_mem]

theorem execBootComplete_outcomeWf {r : BootResult} {s : State} (h : memWf s.mem = true) : outcomeWf (execBootComplete r s) := by
  unfold execBootComplete
  grind [outcomeWf_next, foldl_memWf, State.raise_mem, State.notify_mem, State.toDevState_mem, State.hardRepair_mem, marginStack_memWf,
    fenceStack_memWf, bootFences_memWf, State.replaceFailed_mem, State.commitSvn_mem, State.tilesPassed_mem]

@[simp] theorem State.spdm_mem (s : State) (wait : Bool) (r : SpdmResponse) : (s.spdm wait r).mem = s.mem := by
  unfold State.spdm
  split <;> simp

theorem execGetCertificate_outcomeWf {slot : Fin 8} {off : Nat} {len : Nat} {s : State} (h : memWf s.mem = true) :
    outcomeWf (execGetCertificate slot off len s) := by
  unfold execGetCertificate
  split <;> simp [h]

theorem execChallenge_outcomeWf {slot : Fin 8} {nonce : BitVec 256} {s : State} (h : memWf s.mem = true) : outcomeWf (execChallenge slot nonce s) := by
  unfold execChallenge
  split <;> simp [h]

theorem execGetMeasurements_outcomeWf {ix : Nat} {signed : Bool} {nonce : BitVec 256} {s : State} (h : memWf s.mem = true) :
    outcomeWf (execGetMeasurements ix signed nonce s) := by
  unfold execGetMeasurements
  repeat' split
  all_goals simp [h]

@[simp] theorem State.writeToken_mem (s : State) (d : List Byte) : (s.writeToken d).1.mem = s.mem := by
  unfold State.writeToken
  dsimp only
  repeat' split
  all_goals simp

@[simp] theorem State.programOwner_mem (s : State) (d : List Byte) : (s.programOwner d).1.mem = s.mem := by
  unfold State.programOwner
  split <;> simp

/-! ### The life of the package -/

@[simp] theorem State.requestBy_mem (s : State) (o : Origin) : (s.requestBy o).mem = s.mem := rfl

@[simp] theorem State.beginQuiesce_mem (s : State) (o : Origin) : (s.beginQuiesce o).1.mem = s.mem := by
  unfold State.beginQuiesce
  split <;> simp

theorem execQuiesceN_outcomeWf {low : Bool} {s : State} (h : memWf s.mem = true) : outcomeWf (execQuiesceN low s) := by
  unfold execQuiesceN
  split <;> simp [h]

theorem execQuiesceDeadline_outcomeWf {p : Fin 8} {s : State} (h : memWf s.mem = true) : outcomeWf (execQuiesceDeadline p s) := by
  unfold execQuiesceDeadline
  dsimp only
  repeat' split
  all_goals simp [killCtx_memWf, h]

theorem execEnterQuiesced_outcomeWf {s : State} (h : memWf s.mem = true) : outcomeWf (execEnterQuiesced s) := by
  unfold execEnterQuiesced
  split <;> simp [cleanCaches_memWf, h]

@[simp] theorem State.resumeDevice_mem (s : State) (o : Origin) : (s.resumeDevice o).1.mem = s.mem := by
  unfold State.resumeDevice
  repeat' split
  all_goals simp

theorem standbyNow_memWf {s : State} {o : Origin} (h : memWf s.mem = true) : memWf (s.standbyNow o).1.mem = true := by
  unfold State.standbyNow
  split <;> simp [dropDomains_memWf, h]

theorem rebootNow_memWf {s : State} {o : Origin} (h : memWf s.mem = true) : memWf (s.rebootNow o).mem = true := by
  simp [State.rebootNow, restart_memWf, h]

theorem powerUpNow_memWf {s : State} {o : Origin} (h : memWf s.mem = true) : memWf (s.powerUpNow o).1.mem = true := by
  unfold State.powerUpNow
  split <;> simp [rebootNow_memWf, h]

theorem resetNow_memWf {s : State} {o : Origin} (h : memWf s.mem = true) : memWf (s.resetNow o).1.mem = true := by
  unfold State.resetNow
  split <;> simp [clearSince_memWf, rebootNow_memWf, h]

theorem execVinPresent_outcomeWf {straps : Fin 4} {s : State} (h : memWf s.mem = true) : outcomeWf (execVinPresent straps s) := by
  unfold execVinPresent
  dsimp only
  repeat' split
  all_goals simp [h]

theorem execVinAbsent_outcomeWf {s : State} (h : memWf s.mem = true) : outcomeWf (execVinAbsent s) := by
  unfold execVinAbsent
  split <;> simp [goOff_memWf, h]

theorem execAoRef25mPresent_outcomeWf {s : State} (h : memWf s.mem = true) : outcomeWf (execAoRef25mPresent s) := by
  unfold execAoRef25mPresent
  split <;> simp [h]

theorem execPe0Perst_outcomeWf {asserted : Bool} {s : State} (h : memWf s.mem = true) : outcomeWf (execPe0Perst asserted s) := by
  unfold execPe0Perst
  split <;> simp [detach_memWf, h]

theorem execPe1PerstRelease_outcomeWf {port : Fin 2} {s : State} (h : memWf s.mem = true) : outcomeWf (execPe1PerstRelease port s) := by
  unfold execPe1PerstRelease
  dsimp only
  split <;> simp [h]

theorem execPcieLinkUp_outcomeWf {port : Fin 3} {r : PcieLink} {s : State} (h : memWf s.mem = true) : outcomeWf (execPcieLinkUp port r s) := by
  unfold execPcieLinkUp
  dsimp only
  repeat' split
  all_goals simp [h]

@[simp] theorem State.clockDie_mem (s : State) (k : RefClock) : (s.clockDie k).2.mem = s.mem := by
  unfold State.clockDie
  split <;> simp

theorem execClockMonitorFault_outcomeWf {k : RefClock} {s : State} (h : memWf s.mem = true) : outcomeWf (execClockMonitorFault k s) := by
  unfold execClockMonitorFault
  split <;> simp [packageFault_memWf, h]

theorem execRefclockQualified_outcomeWf {k : RefClock} {s : State} (h : memWf s.mem = true) : outcomeWf (execRefclockQualified k s) := by
  unfold execRefclockQualified
  dsimp only
  repeat' split
  all_goals simp [h]

theorem execMgmtAddressLease_outcomeWf {v6 : Bool} {d : List Byte} {s : State} (h : memWf s.mem = true) : outcomeWf (execMgmtAddressLease v6 d s) := by
  unfold execMgmtAddressLease
  repeat' split
  all_goals simp [h]

theorem execEntdaa_outcomeWf {addr : BitVec 7} {s : State} (h : memWf s.mem = true) : outcomeWf (execEntdaa addr s) := by
  unfold execEntdaa
  split <;> simp [h]

/-! ### Requests of the dictionary -/

@[simp] theorem State.readOnce_mem (s : State) (ix sub : Nat) : (s.readOnce ix sub).mem = s.mem := by
  unfold State.readOnce
  split <;> simp

@[simp] theorem State.sampled_mem (s : State) (ix sub : Nat) : (s.sampled ix sub).mem = s.mem := by
  unfold State.sampled
  split <;> simp

@[simp] theorem State.handleRead_mem (s : State) (o : Origin) (m : UleelMsg) : (s.handleRead o m).mem = s.mem := by
  unfold State.handleRead
  dsimp only
  repeat' split
  all_goals simp

@[simp] theorem State.handleReadSegment_mem (s : State) (o : Origin) (m : UleelMsg) : (s.handleReadSegment o m).mem = s.mem := by
  unfold State.handleReadSegment
  dsimp only
  repeat' split
  all_goals simp

@[simp] theorem State.newEpoch_mem (s : State) : s.newEpoch.2.mem = s.mem := by
  unfold State.newEpoch
  dsimp only
  split <;> simp

theorem hostAttach_memWf {s : State} (h : memWf s.mem = true) : memWf s.hostAttach.1.mem = true := by
  unfold State.hostAttach
  split <;> simp [attach_memWf, h]

theorem command_memWf {s : State} {o : Origin} {sub : Nat} (h : memWf s.mem = true) : memWf (s.command o sub).1.mem = true := by
  unfold State.command
  repeat' split
  all_goals simp [standbyNow_memWf, powerUpNow_memWf, resetNow_memWf, hostAttach_memWf, h]

theorem acceptValue_memWf {s : State} {o : Origin} {ix sub : Nat} {d : List Byte} (h : memWf s.mem = true) :
    memWf (s.acceptValue o ix sub d).1.mem = true := by
  unfold State.acceptValue
  dsimp only
  repeat' split
  all_goals simp [acceptLayout_memWf, command_memWf, h]

theorem takeValue_memWf {s : State} {o : Origin} {m : UleelMsg} {before : List (Bool × Nat)} {d : List Byte} (h : memWf s.mem = true) :
    memWf (s.takeValue o m before d).mem = true := by
  unfold State.takeValue
  dsimp only
  split <;> simp [acceptValue_memWf, h]

theorem handleWrite_memWf {s : State} {o : Origin} {m : UleelMsg} (h : memWf s.mem = true) : memWf (s.handleWrite o m).mem = true := by
  unfold State.handleWrite
  split <;> simp [takeValue_memWf, h]

@[simp] theorem State.endSession_mem (s : State) (k : Nat) (o : Origin) (tr : BitVec 16) : (s.endSession k o tr).mem = s.mem := rfl

theorem handleWriteSegment_memWf {s : State} {o : Origin} {m : UleelMsg} (h : memWf s.mem = true) : memWf (s.handleWriteSegment o m).mem = true := by
  unfold State.handleWriteSegment
  dsimp only
  repeat' with_reducible apply ite_memWf
  all_goals simp [takeValue_memWf, h]

theorem execSegmentSessionTimeout_outcomeWf {s : State} (h : memWf s.mem = true) : outcomeWf (execSegmentSessionTimeout s) := by
  unfold execSegmentSessionTimeout
  split <;> simp [h]

theorem execNotifyAck_outcomeWf {sub : Fin 4} {tr : BitVec 16} {s : State} (h : memWf s.mem = true) : outcomeWf (execNotifyAck sub tr s) := by
  simp [execNotifyAck, h]

theorem execNotifyResend_outcomeWf {sub : Fin 4} {tr : BitVec 16} {s : State} (h : memWf s.mem = true) : outcomeWf (execNotifyResend sub tr s) := by
  unfold execNotifyResend
  repeat' split
  all_goals simp [h]

/-! ### The register space -/

theorem ringWrite_memWf {s : State} {r : Option Ring} {put : State → Ring → State} (h : memWf s.mem = true)
    (hput : ∀ {t : State} {x : Ring}, memWf t.mem = true → memWf (put t x).mem = true) : memWf (s.ringWrite r put).mem = true := by
  unfold State.ringWrite
  grind [State.regError_mem]

theorem writeGlobal_memWf {s : State} {off : Nat} {w : W64} (h : memWf s.mem = true) : memWf (s.writeGlobal off w).mem = true := by
  unfold State.writeGlobal
  grind [State.setPool_mem, tryFq_memWf, retryFault_memWf, declineFault_memWf, ringWrite_memWf]

theorem writeQpState_memWf {s : State} {b : Nat} {v : Nat} (h : memWf s.mem = true) : memWf (s.writeQpState b v).mem = true := by
  unfold State.writeQpState
  dsimp only
  repeat' split
  all_goals simp [errorQp_memWf, h]

theorem writeLink_memWf {s : State} {b off : Nat} {w : W64} (h : memWf s.mem = true) : memWf (s.writeLink b off w).mem = true := by
  unfold State.writeLink
  dsimp only
  repeat' with_reducible apply ite_memWf
  all_goals simp [writeQpState_memWf, h]

@[simp] theorem State.readDram_mem (s : State) (b off : Nat) : (s.readDram b off).1.mem = s.mem := by
  unfold State.readDram
  grind [!State.free_mem]

theorem runMail_memWf {s : State} {i : Nat} {m : UleelMsg} (h : memWf s.mem = true) : memWf (s.runMail i m).mem = true := by
  unfold State.runMail
  dsimp only
  repeat' split
  all_goals simp [handleWrite_memWf, handleWriteSegment_memWf, h]

theorem submitMail_memWf {s : State} {i : Nat} {v : Nat} (h : memWf s.mem = true) : memWf (s.submitMail i v).mem = true := by
  unfold State.submitMail
  dsimp only
  repeat' split
  all_goals simp [runMail_memWf, h]

theorem writeMail_memWf {s : State} {i off : Nat} {w : W64} (h : memWf s.mem = true) : memWf (s.writeMail i off w).mem = true := by
  unfold State.writeMail
  dsimp only
  repeat' with_reducible apply ite_memWf
  all_goals simp [submitMail_memWf, h]

theorem regWrite_memWf {s : State} {o : Nat} {w : W64} (h : memWf s.mem = true) : memWf (s.regWrite o w).mem = true := by
  unfold State.regWrite
  dsimp only
  repeat' with_reducible apply ite_memWf
  all_goals simp [writeBank_memWf, writeBell_memWf, writeGlobal_memWf, writeLink_memWf, writeMail_memWf, h]

@[simp] theorem State.regRead_mem (s : State) (o : Nat) : (s.regRead o).1.mem = s.mem := by
  unfold State.regRead
  grind [!State.readDram_mem]

@[simp] theorem State.badAccess_mem (s : State) (r : RegAccess) : (s.badAccess r).mem = s.mem := by
  unfold State.badAccess
  split <;> simp

@[simp] theorem State.windowAccess_mem (s : State) (r : RegAccess) : (s.windowAccess r).mem = s.mem := by
  unfold State.windowAccess
  dsimp only
  split <;> simp

theorem execRegisterWrite_outcomeWf {r : RegAccess} {s : State} (h : memWf s.mem = true) : outcomeWf (execRegisterWrite r s) := by
  unfold execRegisterWrite
  repeat' split
  all_goals simp [refuse_memWf, regWrite_memWf, h]

/-! ### RoCE -/

theorem execInboundRdma_outcomeWf {port : Fin 16} {qp : Fin 1024} {q : RdmaInbound} {s : State} (h : memWf s.mem = true) :
    outcomeWf (execInboundRdma port qp q s) := by
  unfold execInboundRdma
  dsimp only
  repeat' split
  all_goals simp [qpDo_memWf, h]

theorem endOldest_memWf {s : State} {key ix e : Nat} {rest : List (Nat × BitVec 512)} {status : Nat} (h : memWf s.mem = true) :
    memWf (s.endOldest key ix e rest status).mem = true :=
  endWqe_memWf h

theorem endRead_memWf {s : State} {key ix : Nat} {w : BitVec 512} {rest : List (Nat × BitVec 512)} {d : List Byte} (h : memWf s.mem = true) :
    memWf (s.endRead key ix w rest d).mem = true :=
  qpDo_memWf h

@[simp] theorem State.congested_mem (s : State) (port : Nat) : (s.congested port).mem = s.mem := rfl

@[simp] theorem State.pausePrio_mem (s : State) (port p : Nat) (on : Bool) : (s.pausePrio port p on).mem = s.mem := by
  unfold State.pausePrio
  split <;> simp

theorem execRdmaResponse_outcomeWf {port : Fin 16} {qp : Fin 1024} {r : RdmaResult} {s : State} (h : memWf s.mem = true) :
    outcomeWf (execRdmaResponse port qp r s) := by
  unfold execRdmaResponse
  dsimp only
  repeat' split
  all_goals simp [endOldest_memWf, endRead_memWf, h]

/-! ### The tick boundary -/

@[simp] theorem State.commitRoutes_mem (s : State) : s.commitRoutes.mem = s.mem := by
  unfold State.commitRoutes
  split <;> simp

theorem closePairs_memWf {s : State} {p : Nat} (h : memWf s.mem = true) : memWf (s.closePairs p).mem = true :=
  foldl_memWf h fun _ _ ht => errorQp_memWf ht

theorem resetPort_memWf {s : State} {p oldMode : Nat} (h : memWf s.mem = true) : memWf (s.resetPort p oldMode).mem = true := by
  unfold State.resetPort
  grind [State.ungate_mem, State.setPort_mem, State.toPortState_mem, State.startTraining_mem, closePairs_memWf]

@[simp] theorem State.tickPort_mem (s : State) (p : Nat) : (s.tickPort p).mem = s.mem := by
  unfold State.tickPort
  dsimp only
  repeat' split
  all_goals simp

@[simp] theorem State.tickPe1_mem (s old : State) : (s.tickPe1 old).mem = s.mem := rfl

@[simp] theorem State.tickTiming_mem (s : State) (keys : List Nat) : (s.tickTiming keys).mem = s.mem := rfl

@[simp] theorem State.sendStraggler_mem (s : State) (r : BitVec 256) : (s.sendStraggler r).mem = s.mem := by
  simp [State.sendStraggler]

@[simp] theorem State.tickStragglers_mem (s : State) : s.tickStragglers.mem = s.mem :=
  foldl_mem (fun _ _ => State.sendStraggler_mem ..) _ _

@[simp] theorem State.tickParade_mem (s : State) : s.tickParade.mem = s.mem := by
  unfold State.tickParade
  split <;> simp

@[simp] theorem State.openScopes_mem (s : State) : s.openScopes.mem = s.mem := rfl

theorem tickPart_memWf {s : State} {k : Nat} {m : LatchMeasure} (h : memWf s.mem = true) : memWf (s.tickPart k m).mem = true := by
  unfold State.tickPart
  repeat' split
  all_goals simp [tickLatch_memWf, h]

theorem tickLayout_memWf {s : State} (h : memWf s.mem = true) : memWf s.tickLayout.mem = true := by
  unfold State.tickLayout
  split <;> simp [changeLayout_memWf, h]

theorem tickSettings_memWf {s : State} {m : TickMeasure} (h : memWf s.mem = true) : memWf (s.tickSettings m).mem = true := by
  unfold State.tickSettings
  grind [foldl_memWf, dramTick_memWf, State.powerTick_mem, applyKeys_memWf, State.startParade_mem, State.slewBy_mem, State.checkTimeParent_mem,
    State.timeFlits_mem, tryDieOff_memWf, State.tickCores_mem, guestTick_memWf, State.commitRoutes_mem, resetPort_memWf, State.tickPort_mem,
    State.tickPe1_mem, State.tickTiming_mem, State.openScopes_mem]

theorem execTickBoundary_outcomeWf {m : TickMeasure} {s : State} (h : memWf s.mem = true) : outcomeWf (execTickBoundary m s) := by
  unfold execTickBoundary
  grind [outcomeWf_next, foldl_memWf, State.advance_mem, mirrorBlock_memWf, State.tickStragglers_mem, State.tickParade_mem, tickPart_memWf,
    tickLayout_memWf, tickSettings_memWf]

/-! ### Commands and steps -/

theorem whenPowered_outcomeWf_of_mem {s : State} {f : State → State} (h : memWf s.mem = true) (hf : ∀ t : State, (f t).mem = t.mem) :
    outcomeWf (s.whenPowered f) :=
  whenPowered_outcomeWf h fun ht => (hf _).symm ▸ ht

/-- No command leaves the canonical form of memory. -/
theorem exec_outcomeWf {i : Instr} {s : State} (h : memWf s.mem = true) : outcomeWf (exec i s) := by
  cases i with
  | matmul _ => exact next_outcomeWf (takeOp_memWf h runProduct_memWf)
  | batchedMatmul _ => exact next_outcomeWf (takeOp_memWf h runProduct_memWf)
  | raggedMatmul _ => exact next_outcomeWf (takeOp_memWf h runProduct_memWf)
  | attention _ => exact next_outcomeWf (takeOp_memWf h runAttention_memWf)
  | update _ => exact next_outcomeWf (takeOp_memWf h runUpdate_memWf)
  | convert _ => exact next_outcomeWf (takeOp_memWf h runConvert_memWf)
  | elementwise _ => exact next_outcomeWf (takeOp_memWf h runElementwise_memWf)
  | kernel _ => exact next_outcomeWf (takeOp_memWf h runKernel_memWf)
  | stream _ => exact next_outcomeWf (takeOp_memWf h runStream_memWf)
  | collective _ => exact next_outcomeWf (takeOp_memWf h runCollective_memWf)
  | copy _ => exact next_outcomeWf (takeOp_memWf h runCopy_memWf)
  | zero _ => exact next_outcomeWf (takeOp_memWf h runZero_memWf)
  | fence _ => exact next_outcomeWf (takeOp_memWf h runFence_memWf)
  | eve _ => exact next_outcomeWf (takeOp_memWf h runEve_memWf)
  | wait _ => exact next_outcomeWf (takeOp_memWf h runWait_memWf)
  | signal _ => exact next_outcomeWf (takeOp_memWf h runSignal_memWf)
  | timestamp _ => exact next_outcomeWf (takeOp_memWf h runTimestamp_memWf)
  | almanacSave _ => exact next_outcomeWf (takeOp_memWf h runAlmanacSave_memWf)
  | almanacLoad _ => exact next_outcomeWf (takeOp_memWf h runAlmanacLoad_memWf)
  | operationCompletion _ => exact execOperationCompletion_outcomeWf h
  | pendingRecordWrite _ => exact next_outcomeWf (writeWaiting_memWf h)
  | doorbell _ _ => exact whenPowered_outcomeWf h fun ht => ringBell_memWf ht
  | waitReevaluate _ => exact execWaitReevaluate_outcomeWf h
  | waitTimeout _ => exact execWaitTimeout_outcomeWf h
  | eveLatchPoint _ _ => exact execEveLatchPoint_outcomeWf h
  | dutyCycleIdleEnd _ _ => exact execDutyCycleIdleEnd_outcomeWf h
  | releasePoint _ _ => exact execReleasePoint_outcomeWf h
  | idlePartitionChoose _ => exact execIdlePartitionChoose_outcomeWf h
  | eveOverdue _ => exact execEveOverdue_outcomeWf h
  | tickBoundary _ => exact execTickBoundary_outcomeWf h
  | layoutChange => exact execLayoutChange_outcomeWf h
  | create _ _ => exact whenPowered_outcomeWf_of_mem h fun _ => State.createCtx_mem ..
  | start _ => exact whenPowered_outcomeWf_of_mem h fun _ => State.startCtx_mem ..
  | stop _ => exact whenPowered_outcomeWf_of_mem h fun _ => State.stopCtx_mem ..
  | resume _ => exact whenPowered_outcomeWf h fun ht => resumeCtx_memWf ht
  | kill _ => exact whenPowered_outcomeWf h fun ht => killCmd_memWf ht
  | destroy _ => exact whenPowered_outcomeWf h fun ht => destroyCtx_memWf ht
  | rebind _ _ => exact whenPowered_outcomeWf_of_mem h fun _ => State.rebindCmd_mem ..
  | complConsumedWrite _ _ => exact whenPowered_outcomeWf h fun ht => freeRecords_memWf ht
  | policyBlockCommit _ _ => exact whenPowered_outcomeWf_of_mem h fun _ => State.commitPolicy_mem ..
  | translationBlockCommit _ _ => exact whenPowered_outcomeWf_of_mem h fun _ => State.commitTranslation_mem ..
  | hostBlockCommit _ _ => exact whenPowered_outcomeWf_of_mem h fun _ => State.commitHost_mem ..
  | translationInvalidate _ _ => exact whenPowered_outcomeWf_of_mem h fun _ => State.submitInval_mem ..
  | registerWrite _ => exact execRegisterWrite_outcomeWf h
  | shl _ => exact next_outcomeWf (laneVec_memWf h)
  | shr _ => exact next_outcomeWf (laneVec_memWf h)
  | sar _ => exact next_outcomeWf (laneVec_memWf h)
  | rotl _ => exact next_outcomeWf (laneVec_memWf h)
  | and _ => exact next_outcomeWf (laneVec_memWf h)
  | or _ => exact next_outcomeWf (laneVec_memWf h)
  | xor _ => exact next_outcomeWf (laneVec_memWf h)
  | lop3 _ => exact next_outcomeWf (laneVec_memWf h)
  | iadd _ => exact next_outcomeWf (intVec_memWf h)
  | isub _ => exact next_outcomeWf (intVec_memWf h)
  | imul _ => exact next_outcomeWf (intVec_memWf h)
  | imulhiS _ => exact next_outcomeWf (laneVec_memWf h)
  | imad _ => exact next_outcomeWf (intVec_memWf h)
  | smin _ => exact next_outcomeWf (laneVec_memWf h)
  | umin _ => exact next_outcomeWf (laneVec_memWf h)
  | smax _ => exact next_outcomeWf (laneVec_memWf h)
  | umax _ => exact next_outcomeWf (laneVec_memWf h)
  | iabs _ => exact next_outcomeWf (laneVec_memWf h)
  | idot8 _ => exact next_outcomeWf (laneReg_memWf h)
  | imulhiU _ => exact next_outcomeWf (laneVec_memWf h)
  | fadd _ => exact next_outcomeWf (fltVec_memWf h)
  | fmul _ => exact next_outcomeWf (fltVec_memWf h)
  | ffma _ => exact next_outcomeWf (fltVec_memWf h)
  | fmin _ => exact next_outcomeWf (fltVec_memWf h)
  | fmax _ => exact next_outcomeWf (fltVec_memWf h)
  | rcp _ => exact next_outcomeWf (approxVec_memWf h)
  | rsqrt _ => exact next_outcomeWf (approxVec_memWf h)
  | exp2 _ => exact next_outcomeWf (approxVec_memWf h)
  | log2 _ => exact next_outcomeWf (approxVec_memWf h)
  | mov _ => exact next_outcomeWf (laneVec_memWf h)
  | sel _ => exact next_outcomeWf (laneReg_memWf h)
  | icmpEq _ => exact next_outcomeWf (cmpVec_memWf h)
  | icmpNe _ => exact next_outcomeWf (cmpVec_memWf h)
  | icmpSlt _ => exact next_outcomeWf (cmpVec_memWf h)
  | icmpSle _ => exact next_outcomeWf (cmpVec_memWf h)
  | icmpUlt _ => exact next_outcomeWf (cmpVec_memWf h)
  | icmpUle _ => exact next_outcomeWf (cmpVec_memWf h)
  | fcmpEq _ => exact next_outcomeWf (cmpVec_memWf h)
  | fcmpNe _ => exact next_outcomeWf (cmpVec_memWf h)
  | fcmpLt _ => exact next_outcomeWf (cmpVec_memWf h)
  | fcmpLe _ => exact next_outcomeWf (cmpVec_memWf h)
  | cvt _ => exact next_outcomeWf (convLane_memWf h)
  | cvtx _ => exact next_outcomeWf (convLane_memWf h)
  | sclx _ => exact next_outcomeWf (convLane_memWf h)
  | ld _ => exact next_outcomeWf (laneMem_memWf h ldThread_memWf)
  | st _ => exact next_outcomeWf (laneMem_memWf h stThread_memWf)
  | zeroLine _ => exact next_outcomeWf (laneMem_memWf h zeroThread_memWf)
  | prefetch _ => exact next_outcomeWf (laneMem_memWf h prefetchThread_memWf)
  | mfence _ => exact next_outcomeWf (laneReg_memWf h)
  | atomAdd _ => exact next_outcomeWf (laneAtom_memWf h)
  | atomSmin _ => exact next_outcomeWf (laneAtom_memWf h)
  | atomUmin _ => exact next_outcomeWf (laneAtom_memWf h)
  | atomSmax _ => exact next_outcomeWf (laneAtom_memWf h)
  | atomUmax _ => exact next_outcomeWf (laneAtom_memWf h)
  | atomAnd _ => exact next_outcomeWf (laneAtom_memWf h)
  | atomOr _ => exact next_outcomeWf (laneAtom_memWf h)
  | atomXor _ => exact next_outcomeWf (laneAtom_memWf h)
  | atomExch _ => exact next_outcomeWf (laneAtom_memWf h)
  | atomCas _ => exact next_outcomeWf (laneAtom_memWf h)
  | atomFadd _ => exact next_outcomeWf (laneAtom_memWf h)
  | bra _ => exact next_outcomeWf (laneReg_memWf h)
  | jmp _ => exact next_outcomeWf (laneReg_memWf h)
  | exit _ => exact next_outcomeWf (laneReg_memWf h)
  | bar _ => exact execBar_outcomeWf h
  | nop _ => exact next_outcomeWf (laneReg_memWf h)
  | saluAdd _ => exact next_outcomeWf (saluOp_memWf h)
  | saluSub _ => exact next_outcomeWf (saluOp_memWf h)
  | saluMul _ => exact next_outcomeWf (saluOp_memWf h)
  | saluAnd _ => exact next_outcomeWf (saluOp_memWf h)
  | saluOr _ => exact next_outcomeWf (saluOp_memWf h)
  | saluXor _ => exact next_outcomeWf (saluOp_memWf h)
  | saluShl _ => exact next_outcomeWf (saluOp_memWf h)
  | saluShr _ => exact next_outcomeWf (saluOp_memWf h)
  | saluSar _ => exact next_outcomeWf (saluOp_memWf h)
  | saluMov _ => exact next_outcomeWf (saluOp_memWf h)
  | movp _ => exact next_outcomeWf (laneReg_memWf h)
  | pmov _ => exact next_outcomeWf (laneReg_memWf h)
  | readlane _ => exact next_outcomeWf (laneReg_memWf h)
  | scmp _ => exact next_outcomeWf (laneReg_memWf h)
  | mma _ => exact execMma_outcomeWf h
  | barrierTimeout _ => exact execBarrierTimeout_outcomeWf h
  | blockPlace _ _ => exact execBlockPlace_outcomeWf h
  | sampleRecordWrite _ _ => exact execSampleRecordWrite_outcomeWf h
  | xfer _ => exact execXfer_outcomeWf h
  | gather _ => exact execGather_outcomeWf h
  | loop _ => exact next_outcomeWf (streamReg_memWf h)
  | add _ => exact next_outcomeWf (streamReg_memWf h)
  | madd _ => exact next_outcomeWf (streamReg_memWf h)
  | wrap _ => exact next_outcomeWf (streamReg_memWf h)
  | sync _ => exact next_outcomeWf (streamReg_memWf h)
  | burstCommit _ => exact execBurstCommit_outcomeWf h
  | streamStall _ _ => exact execStreamStall_outcomeWf h
  | streamStarved _ _ => exact execStreamStarved_outcomeWf h
  | readShared _ _ _ => exact next_outcomeWf (request_memWf h)
  | readExclusive _ _ _ => exact next_outcomeWf (request_memWf h)
  | upgrade _ _ _ => exact next_outcomeWf (request_memWf h)
  | ownNoData _ _ => exact next_outcomeWf (request_memWf h)
  | readOnce _ _ _ => exact next_outcomeWf (request_memWf h)
  | writeLine _ _ _ => exact next_outcomeWf (request_memWf h)
  | writePartial _ _ _ _ => exact next_outcomeWf (request_memWf h)
  | atomicAtHome _ _ _ _ => exact next_outcomeWf (request_memWf h)
  | fwdShared _ _ _ => exact execFwdShared_outcomeWf h
  | fwdOwn _ _ _ => exact execFwdOwn_outcomeWf h
  | fwdOnce _ _ _ => exact execFwdOnce_outcomeWf h
  | fwdRecall _ _ _ => exact execFwdRecall_outcomeWf h
  | inval _ _ => exact execInval_outcomeWf h
  | data _ _ => exact execData_outcomeWf h
  | dataOnce _ _ => exact execDataOnce_outcomeWf h
  | ack _ _ => exact execAck_outcomeWf h
  | invalAck _ _ => exact execInvalAck_outcomeWf h
  | notHeld _ _ _ => exact execNotHeld_outcomeWf h
  | wbAck _ _ => exact execWbAck_outcomeWf h
  | wbDirty _ _ _ => exact execWbDirty_outcomeWf h
  | dirtyNotice _ _ _ => exact execDirtyNotice_outcomeWf h
  | heartbeat _ => exact execHeartbeat_outcomeWf h
  | heartbeatLoss _ => exact execHeartbeatLoss_outcomeWf h
  | declare _ _ => exact execDeclare_outcomeWf h
  | reclaimSweep _ _ => exact execReclaimSweep_outcomeWf h
  | reclaimReport _ => exact execReclaimReport_outcomeWf h
  | dramTempReading _ => exact execDramTempReading_outcomeWf h
  | stackTempReading _ => exact execStackTempReading_outcomeWf h
  | pseudoChannelCopyEnd _ _ => exact execPseudoChannelCopyEnd_outcomeWf h
  | dramMarginRequest _ _ => exact next_outcomeWf (handleWrite_memWf h)
  | marginingDone _ => exact execMarginingDone_outcomeWf h
  | scrubRead _ _ _ => exact execScrubRead_outcomeWf h
  | bucketLeak _ => exact execBucketLeak_outcomeWf h
  | faultRetry _ => exact next_outcomeWf (retryFault_memWf h)
  | faultDecline _ => exact next_outcomeWf (declineFault_memWf h)
  | faultRecordWrite => exact next_outcomeWf (tryFq_memWf h)
  | flitReceive _ _ => exact execFlitReceive_outcomeWf h
  | retryTimeout _ => exact execRetryTimeout_outcomeWf h
  | portDown _ => exact next_outcomeWf_of_mem h (State.portDown_mem ..)
  | portTrainingDone _ _ => exact execPortTrainingDone_outcomeWf h
  | packetForward _ _ _ => exact execPacketForward_outcomeWf h
  | remoteWrite _ => exact execRemoteWrite_outcomeWf h
  | deliveryAck _ => exact execDeliveryAck_outcomeWf h
  | collectiveData _ => exact execCollectiveData_outcomeWf h
  | paceBeacon _ => exact execPaceBeacon_outcomeWf h
  | lossNotice _ => exact execLossNotice_outcomeWf h
  | paradeRequest _ => exact execParadeRequest_outcomeWf h
  | paradeData _ => exact execParadeData_outcomeWf h
  | e2eResendTimeout _ _ => exact execE2eResendTimeout_outcomeWf h
  | beaconTimer _ => exact execBeaconTimer_outcomeWf h
  | peerTimeout _ _ => exact execPeerTimeout_outcomeWf h
  | paradeParentTimeout => exact execParadeParentTimeout_outcomeWf h
  | timeFlit _ _ => exact execTimeFlit_outcomeWf h
  | ptpMessage _ => exact execPtpMessage_outcomeWf h
  | timeSourceLost => exact next_outcomeWf_of_mem h (State.loseTimeSource_mem ..)
  | ingressQueueWrite _ _ _ => exact execIngressQueueWrite_outcomeWf h
  | ingressDataWrite _ _ _ => exact execIngressDataWrite_outcomeWf h
  | windowARead _ _ _ => exact execWindowARead_outcomeWf h
  | hostDoorbell _ _ _ => exact execHostDoorbell_outcomeWf h
  | egressAck _ _ _ => exact execEgressAck_outcomeWf h
  | egressRegistration _ _ _ => exact execEgressRegistration_outcomeWf h
  | ingressIncomplete _ => exact execIngressIncomplete_outcomeWf h
  | ingressExpired _ => exact execIngressExpired_outcomeWf h
  | egressBatchIssue _ => exact execEgressBatchIssue_outcomeWf h
  | egressReadTimeout _ => exact execEgressReadTimeout_outcomeWf h
  | hostDetach _ => exact execHostDetach_outcomeWf h
  | msixCoalesceTimeout _ => exact execMsixCoalesceTimeout_outcomeWf h
  | interruptEvent _ => exact next_outcomeWf_of_mem h (State.raise_mem ..)
  | coalesceTimeout _ => exact execCoalesceTimeout_outcomeWf h
  | rerouteTimeout _ => exact execRerouteTimeout_outcomeWf h
  | claim _ _ => exact whenPowered_outcomeWf_of_mem h fun _ => State.claimRead_mem ..
  | complete k lv v => exact whenPowered_outcomeWf_of_mem (f := fun t => t.completeWrite k lv v) h fun t => t.completeWrite_mem k lv v
  | setPend die v => exact whenPowered_outcomeWf_of_mem (f := fun t => t.setPendWrite die v) h fun t => t.setPendWrite_mem die v
  | maskWrite _ _ => exact whenPowered_outcomeWf_of_mem h fun _ => State.maskSource_mem ..
  | thresholdWrite k lv v => exact whenPowered_outcomeWf_of_mem (f := fun t => t.setThreshold k lv v) h fun t => t.setThreshold_mem k lv v
  | wfi _ => exact execWfi_outcomeWf h
  | coreWake _ _ => exact execCoreWake_outcomeWf h
  | timerCompareReached _ _ => exact execTimerCompareReached_outcomeWf h
  | guestRequest _ _ => exact execGuestRequest_outcomeWf h
  | guestBringupStep _ _ => exact execGuestBringupStep_outcomeWf h
  | guestAdmit _ _ => exact next_outcomeWf (handleWrite_memWf h)
  | guestReset _ _ => exact next_outcomeWf (handleWrite_memWf h)
  | pe1DmaRequest _ r _ => exact execPe1DmaRequest_outcomeWf (_requester := r) h
  | pe1MessageWrite _ _ => exact execPe1MessageWrite_outcomeWf h
  | cxlLinkDrop _ => exact execCxlLinkDrop_outcomeWf h
  | configAccess _ _ => exact whenPowered_outcomeWf_of_mem h fun _ => State.configAccess_mem ..
  | powerBrake _ _ => exact execPowerBrake_outcomeWf h
  | graceEnd => exact execGraceEnd_outcomeWf h
  | hardwareTrip _ => exact execHardwareTrip_outcomeWf h
  | energyAttribution _ => exact execEnergyAttribution_outcomeWf h
  | unitPowerGate _ => exact execUnitPowerGate_outcomeWf h
  | unitWake _ _ => exact execUnitWake_outcomeWf h
  | sentinelWindow _ _ _ => exact execSentinelWindow_outcomeWf h
  | lockstepMismatch _ => exact execLockstepMismatch_outcomeWf h
  | transactionWatchdog _ => exact next_outcomeWf (packageFault_memWf h)
  | clockMonitorFault _ => exact execClockMonitorFault_outcomeWf h
  | refclockQualified _ => exact execRefclockQualified_outcomeWf h
  | counterWrap _ _ _ => exact execCounterWrap_outcomeWf h
  | fetchResponse _ => exact execFetchResponse_outcomeWf h
  | fetchTimeout => exact execFetchTimeout_outcomeWf h
  | fetchRetry => exact execFetchRetry_outcomeWf h
  | fenceRecordFetch _ => exact execFenceRecordFetch_outcomeWf h
  | bootComplete _ => exact execBootComplete_outcomeWf h
  | getVersion => exact next_outcomeWf_of_mem h (State.spdm_mem ..)
  | getCapabilities => exact next_outcomeWf_of_mem h (State.spdm_mem ..)
  | negotiateAlgorithms _ => exact next_outcomeWf_of_mem h (State.spdm_mem ..)
  | getDigests => exact next_outcomeWf_of_mem h (State.spdm_mem ..)
  | getCertificate _ _ _ => exact execGetCertificate_outcomeWf h
  | challenge _ _ => exact execChallenge_outcomeWf h
  | getMeasurements _ _ _ => exact execGetMeasurements_outcomeWf h
  | debugToken _ _ => exact next_outcomeWf (handleWrite_memWf h)
  | ownerDebugKeyHash _ _ => exact next_outcomeWf (handleWrite_memWf h)
  | read _ _ => exact next_outcomeWf_of_mem h (State.handleRead_mem ..)
  | write _ _ => exact next_outcomeWf (handleWrite_memWf h)
  | readSegment _ _ => exact next_outcomeWf_of_mem h (State.handleReadSegment_mem ..)
  | writeSegment _ _ => exact next_outcomeWf (handleWriteSegment_memWf h)
  | segmentSessionTimeout => exact execSegmentSessionTimeout_outcomeWf h
  | notifyAck _ _ => exact execNotifyAck_outcomeWf h
  | notifyResend _ _ => exact execNotifyResend_outcomeWf h
  | hostAttach _ => exact next_outcomeWf (handleWrite_memWf h)
  | quiesce _ => exact next_outcomeWf (handleWrite_memWf h)
  | quiesceN _ => exact execQuiesceN_outcomeWf h
  | quiesceDrain _ _ => exact execQuiesceDrain_outcomeWf h
  | quiesceDeadline _ => exact execQuiesceDeadline_outcomeWf h
  | enterQuiesced => exact execEnterQuiesced_outcomeWf h
  | resumeDevice _ => exact next_outcomeWf (handleWrite_memWf h)
  | standby _ => exact next_outcomeWf (handleWrite_memWf h)
  | powerUp _ => exact next_outcomeWf (handleWrite_memWf h)
  | reset _ => exact next_outcomeWf (handleWrite_memWf h)
  | vinPresent _ => exact execVinPresent_outcomeWf h
  | vinAbsent => exact execVinAbsent_outcomeWf h
  | pe0Perst _ => exact execPe0Perst_outcomeWf h
  | pe1PerstRelease _ => exact execPe1PerstRelease_outcomeWf h
  | mailboxGo _ _ => exact whenPowered_outcomeWf h fun ht => submitMail_memWf ht
  | qpStateWrite _ _ => exact whenPowered_outcomeWf h fun ht => writeQpState_memWf ht
  | send _ _ => exact next_outcomeWf (qpDo_memWf h)
  | rdmaWrite _ _ => exact next_outcomeWf (qpDo_memWf h)
  | rdmaRead _ _ => exact next_outcomeWf (qpDo_memWf h)
  | inboundRdma _ _ _ => exact execInboundRdma_outcomeWf h
  | partnerSignalReturn _ => exact execPartnerSignalReturn_outcomeWf h
  | heartbeatSend _ => exact execHeartbeatSend_outcomeWf h
  | aoRef25mPresent => exact execAoRef25mPresent_outcomeWf h
  | dramRetrainDone _ _ => exact execDramRetrainDone_outcomeWf h
  | pcieLinkUp _ _ => exact execPcieLinkUp_outcomeWf h
  | mgmtAddressLease _ _ => exact execMgmtAddressLease_outcomeWf h
  | entdaa _ => exact execEntdaa_outcomeWf h
  | msixMaskWrite _ _ => exact execMsixMaskWrite_outcomeWf h
  | rdmaResponse _ _ _ => exact execRdmaResponse_outcomeWf h

/-- A step keeps the canonical form of memory: with no command waiting, time alone passes. -/
theorem step_outcomeWf {s : State} (h : memWf s.mem = true) : outcomeWf (step s) := by
  unfold step
  split
  · exact next_outcomeWf h
  · exact exec_outcomeWf h

/-- Settles O58: every operation over the state is composed of operations that keep the form of memory, so each command keeps it. -/
theorem stepKeepsMemoryForm : Obligations.StepKeepsMemoryForm := fun _ t h ht => step_outcomeWf h t ht

end Sys2Proof.Machine
end

section
/-! What the checks of integrity do (R242, R411, R413 to R417, R420, R487, R521): sentinel windows, the detections of one cycle, package faults and counters
that wrap. -/

namespace Sys2Proof.Machine

open Sys2Proof

/-! ### A package fault -/

@[simp] theorem State.notify_dev (s : State) (cls logIx : Nat) (d : List Byte) (skip : Option Nat) : (s.notify cls logIx d skip).dev = s.dev :=
  State.foldl_keeps State.dev _ (fun t i => by split <;> rfl) _ s

@[simp] theorem State.notify_host (s : State) (cls logIx : Nat) (d : List Byte) (skip : Option Nat) : (s.notify cls logIx d skip).host = s.host :=
  State.foldl_keeps State.host _ (fun t i => by split <;> rfl) _ s

@[simp] theorem State.postEvent_dev (s : State) (code die detail : Nat) (skip : Option Nat) : (s.postEvent code die detail skip).dev = s.dev := by
  simp [State.postEvent]

@[simp] theorem State.postEvent_host (s : State) (code die detail : Nat) (skip : Option Nat) : (s.postEvent code die detail skip).host = s.host := by
  simp [State.postEvent]

/-- A change of the device's state leaves its alert line and the host (R453, R459). -/
theorem State.toDevState_leaves (s : State) (d : DevState) :
    (s.toDevState d).dev.state = d ∧ (s.toDevState d).dev.alertLow = s.dev.alertLow ∧ (s.toDevState d).host = s.host := by
  unfold State.toDevState
  split
  · next hd => exact ⟨eq_of_beq hd, rfl, rfl⟩
  · simp

/-- What the fault queue takes changes neither the device's state nor the host (R296). -/
theorem State.drainFq_leaves (s : State) (l : List (BitVec 512)) : (s.drainFq l).dev = s.dev ∧ (s.drainFq l).host = s.host := by
  induction l generalizing s with
  | nil => exact ⟨rfl, rfl⟩
  | cons r rest ih =>
    unfold State.drainFq
    dsimp only
    split
    · exact ⟨rfl, rfl⟩
    · split
      · split <;> simp
      · next ea _ _ =>
        obtain ⟨_, _, _, hdev, _, _, _, _, _, _, hhost, _⟩ := wrBytes_frame s (s.fq.ring.base + 64 * (s.fq.ring.producer.toNat % s.fq.ring.cap))
          (leBytes r.toNat 64)
        exact ⟨(ih _).1.trans hdev, (ih _).2.trans hhost⟩

theorem State.postIndexed_leaves (s : State) (w : Nat) : (s.postIndexed w).1.dev = s.dev ∧ (s.postIndexed w).1.host = s.host :=
  State.drainFq_leaves s.takeIndex.2 _

/-- A report that names no context leaves the device's state and the host (R418). -/
theorem State.report_leaves (s : State) (w : Nat) : (s.report w []).dev = s.dev ∧ (s.report w []).host = s.host := by
  obtain ⟨hdev, hhost⟩ := s.postIndexed_leaves w
  simp [State.report, State.notifyReport, hdev, hhost]

/-- A package fault leaves the device in FAULT with its alert line driven and PE0 down (R417). -/
theorem State.packageFault_leaves {s : State} (hon : s.dev.state ≠ .off) (diag cls die ix : Nat) :
    (s.packageFault diag cls die ix).dev.state = .fault ∧ (s.packageFault diag cls die ix).dev.alertLow = true ∧
      (s.packageFault diag cls die ix).host.linkUp = false := by
  unfold State.packageFault
  rw [if_neg (by simpa using hon)]
  extract_lets s1 dev host s2
  obtain ⟨hst, halert, hhost⟩ := (s2.report (integrityWord diag cls die ix 3 false false false s.now s.now 0 s2.integ.generation) []).toDevState_leaves .fault
  obtain ⟨hdev, hhost2⟩ := s2.report_leaves (integrityWord diag cls die ix 3 false false false s.now s.now 0 s2.integ.generation)
  exact ⟨hst, by rw [halert, hdev], by rw [hhost, hhost2]⟩

/-! ### Sentinel windows -/

section Sentinel

variable {s : State} {cs : Fin 8} {w : Nat} {r : SentinelResult} {ts : List Nat} {shadow checker : Nat} {u : State}
  (hts : ts = s.integ.tiles.getD cs []) (hshadow : shadow = ts.getD (w % ts.length) 0) (hu : u = (s.advance (8000000 * w + 1000000)).endShadow cs w)

include hts

/-- A fenced die, one without a tile, a shadow millisecond that is over and a window that was shadowed change nothing (R89, R420). -/
theorem execSentinelWindow_of_none (h : s.integ.computeFenced.getD cs false = true ∨ ts = [] ∨ 8000000 * w + 1000000 < s.now ∨ w < tabGet 0 s.integ.shadowed cs) :
    exec (.sentinelWindow cs w r) s = .next s := by
  subst hts
  show execSentinelWindow cs w r s = _
  unfold execSentinelWindow
  exact if_pos (by simpa [or_assoc] using h)

include hshadow hu

/-- The window's shadow millisecond: the known-answer test of a tile without a pass, or the comparison of results with its mismatch procedure (R89, R413). -/
theorem execSentinelWindow_of_live (hchecker : checker = if s.integ.spare.getD cs false then 8 else ts.getD ((w + ts.length / 2) % ts.length) 0)
    (hlive : s.integ.computeFenced.getD cs false = false) (hne : ts ≠ []) (hnow : s.now ≤ 8000000 * w + 1000000)
    (hnew : tabGet 0 s.integ.shadowed cs ≤ w) :
    exec (.sentinelWindow cs w r) s = .next (if ts.length = 1 ∨ r.idle = true then
        (if r.shadowPass then u.tilePassed cs shadow else u.fenceTile cs shadow 0x01 0x01)
      else if r.match_ then u.tilePassed cs shadow else u.mismatch cs shadow checker r) := by
  subst hts hshadow hu hchecker
  show execSentinelWindow cs w r s = _
  unfold execSentinelWindow
  dsimp only
  rw [if_neg (by simpa [-List.getD_eq_getElem?_getD, hlive, hne] using ⟨hnow, hnew⟩)]
  split
  · rfl
  · split <;> rfl

end Sentinel

/-! ### Detections -/

/-- A detection alone in its cycle is handled; the order of R420 has nothing to order. -/
theorem exec_lockstepMismatch_single {x : Detection} (hx : isTrip x = false) (s : State) : exec (.lockstepMismatch [x]) s = .next (s.detect x) := by
  have hany : [x].any isTrip = false := by simp [hx]
  show Host.Outcome.next _ = _
  rw [hany]
  rfl

/-- A counter past 2^48 - 1 that raises no interrupt holds the remainder with OVERFLOW (R487). -/
theorem execCounterWrap_of_quiet {s : State} {b : Fin 28} {i : Fin 8} {v : Nat} (hv : 2 ^ 48 ≤ v) (hpresent : blockPresent s.dev.variant b = true)
    (hpart : 20 ≤ b.val → s.partExists (b.val - 20) = true) (hcounts : bitAt (s.eventSel b i) 22 = true) (hquiet : bitAt (s.eventSel b i) 23 = false) :
    exec (.counterWrap b i v) s = .next (s.setCtrBlock b { s.ctrBlock b with
      cnt := (s.ctrBlock b).cnt.set i (v % 2 ^ 48), ovf := (s.ctrBlock b).ovf.set i true }) := by
  have hblock : s.blockCounts b = true := by
    simp only [State.blockCounts, hpresent, Bool.true_and, Bool.not_eq_true', Bool.and_eq_false_iff, decide_eq_false_iff_not, Bool.not_eq_false']
    exact Decidable.or_iff_not_imp_left.2 fun h => hpart (Decidable.not_not.1 h)
  have hwrap : bitAt ((s.setCtrBlock b { s.ctrBlock b with
      cnt := (s.ctrBlock b).cnt.set i (v % 2 ^ 48), ovf := (s.ctrBlock b).ovf.set i true }).eventSel b i) 23 = false := hquiet
  show execCounterWrap b i v s = _
  rw [execCounterWrap, if_pos ⟨hv, hblock, hcounts⟩, State.wrapCounter]
  simp only [hwrap, Bool.false_and, Bool.false_eq_true, if_false]

/-- Settles O52: each check is the command's equation above, with the branch of the mismatch procedure or of the detection that its results choose. -/
theorem integrityEventsAct : Obligations.IntegrityEventsAct := by
  unfold Obligations.IntegrityEventsAct
  intro s cs w r ts shadow checker u hts hshadow hu hchecker
  refine ⟨fun hlive hne hnow hnew => ?_, execSentinelWindow_of_none hts, ?_, ?_, ?_, ?_, ?_, ?_, ?_, ?_, fun tile => rfl, fun d => rfl, ?_, ?_⟩
  · have hexec := execSentinelWindow_of_live (r := r) hts hshadow hu hchecker hlive hne hnow hnew
    have hpass : u.tilePassed cs shadow = { u with integ := { u.integ with
        used := tabPut [] s.integ.used (16 * cs + shadow) [], checkedAt := tabPut 0 s.integ.checkedAt (16 * cs + shadow) u.now } } := by
      rw [hu]; rfl
    refine ⟨fun hkat hok => ?_, fun hkat hbad => ?_, fun hlen hidle hmatch => ?_, fun hlen hidle hmatch => ?_⟩
    · rw [hexec, if_pos hkat, if_pos hok, hpass]
    · rw [hexec, if_pos hkat, if_neg (by simp [hbad])]
    · rw [hexec, if_neg (by simp [hlen, hidle]), if_pos hmatch, hpass]
    · rw [hexec, if_neg (by simp [hlen, hidle]), if_neg (by simp [hmatch])]
      refine ⟨fun hs hc => ?_, fun hs hc => ?_, fun hs hc => ?_, fun who hs hc hagree hwho => ?_, fun hs hc hagree => ?_⟩
      · simp [State.mismatch, hs, hc]
      · simp [State.mismatch, hs, hc]
      · simp [State.mismatch, hs, hc]
      · simp [State.mismatch, State.tileEvent, hs, hc, hagree, hwho]
      · simp [State.mismatch, State.tileEvent, hs, hc, hagree]
  · exact fun hon n => ⟨_, exec_lockstepMismatch_single rfl s, State.packageFault_leaves hon ..⟩
  · exact fun hon n => ⟨_, exec_lockstepMismatch_single rfl s, State.packageFault_leaves hon ..⟩
  · exact fun ds => ⟨fun htrip => by simp only [exec, execLockstepMismatch, htrip, if_true], fun htrip => by
      simp only [exec, execLockstepMismatch, htrip, Bool.false_eq_true, if_false]⟩
  · intro hlive
    rw [exec_lockstepMismatch_single rfl]
    exact congrArg Host.Outcome.next (if_neg (by rw [hlive]; exact Bool.false_ne_true))
  · intro v hlive
    rw [exec_lockstepMismatch_single rfl]
    exact congrArg Host.Outcome.next (if_neg (by simp [hlive]))
  · intro tile hlive hused
    rw [exec_lockstepMismatch_single rfl]
    have htile : s.tileLive cs tile = true := by simp only [State.tileLive, hlive, ← hts, hused, Bool.not_false, Bool.true_or, Bool.and_self]
    exact congrArg Host.Outcome.next (if_neg (by simp [htile]))
  · intro n hlive hunit v hv
    have hdie : v.val / 64 = cs := by omega
    have hix : v.val % 64 = n := by omega
    rw [exec_lockstepMismatch_single rfl, exec_lockstepMismatch_single rfl]
    simp only [State.detect, State.unitResidue, hdie, hix, hunit, hlive, Bool.or_self, Bool.false_eq_true, if_false, if_true, and_self]
  · exact fun h => exec_lockstepMismatch_single rfl s
  · exact fun hon hup s1 hs1 => by
      subst hs1
      exact if_neg (by simp [hon, hup])
  · exact fun b i v => execCounterWrap_of_quiet

end Sys2Proof.Machine
end

section
/-! The pool of memory under writes at the home: a line that is taken from its holders keeps its value, and the bytes written are what the pool then holds
(R226, R249, R250, R253, R262, R268, R383). -/

namespace Sys2Proof.Machine

open Sys2Proof

/-! ## The stored bytes of a line -/

/-- The value at a place of a list that is read from a table. -/
theorem tabGetList_getD {α : Type} (d : α) (t : Tab α) (a n i : Nat) (h : i < n) (x : α) : (tabGetList d t a n).getD i x = tabGet d t (a + i) := by
  induction n generalizing a i with
  | zero => omega
  | succ n ih =>
    cases i with
    | zero => rfl
    | succ i =>
      have hnext := ih (a + 1) i (by omega)
      rwa [Nat.add_assoc, Nat.add_comm 1 i] at hnext

@[simp] theorem length_tabGetList {α : Type} (d : α) (t : Tab α) (a n : Nat) : (tabGetList d t a n).length = n := by
  induction n generalizing a with
  | zero => rfl
  | succ n ih => exact congrArg (· + 1) (ih (a + 1))

theorem tabGetList_congr {α : Type} (d : α) {t u : Tab α} (a n : Nat) (h : ∀ i < n, tabGet d u (a + i) = tabGet d t (a + i)) :
    tabGetList d u a n = tabGetList d t a n := by
  induction n generalizing a with
  | zero => rfl
  | succ n ih =>
    have hhead : tabGet d u a = tabGet d t a := h 0 (Nat.succ_pos n)
    have htail : tabGetList d u (a + 1) n = tabGetList d t (a + 1) n := ih (a + 1) fun i hi => by
      have hnext := h (i + 1) (Nat.succ_lt_succ hi)
      rwa [Nat.add_comm i 1, ← Nat.add_assoc] at hnext
    rw [tabGetList, tabGetList, hhead, htail]

/-- A filter that keeps every entry of a key leaves what the key reads as. -/
theorem tabGet_filter_of_kept {α : Type} (d : α) {p : Nat × α → Bool} {a : Nat} (h : ∀ v, p (a, v) = true) (t : Tab α) :
    tabGet d (t.filter p) a = tabGet d t a := by
  induction t with
  | nil => rfl
  | cons e r ih =>
    obtain ⟨k, v⟩ := e
    rw [List.filter_cons]
    split
    · rw [tabGet_cons, tabGet_cons, ih]
    · next hp =>
      have hk : a ≠ k := fun heq => hp (heq ▸ h v)
      rw [ih, tabGet_cons, if_neg hk]

/-! ## States that have the same of a line -/

section Pool

variable {s t : State} {ln : Nat}

/-- Two states have the same of a line: its record, its copies and buffers, the messages that carry its value, and its stored bytes. -/
structure SameLine (s t : State) (ln : Nat) : Prop where
  record : t.dirOf ln = s.dirOf ln
  copies : ∀ a, t.copyOf a ln = s.copyOf a ln
  buffers : ∀ a, t.coh.wb.find? (fun e => e.1 == a && e.2.1 == ln) = s.coh.wb.find? fun e => e.1 == a && e.2.1 == ln
  grants : ∀ a, t.dataTo a ln = s.dataTo a ln
  forwards : ∀ a, t.fwdFrom a ln = s.fwdFrom a ln
  stored : ∀ b, b / 128 = ln → tabGet memDefault t.mem b = tabGet memDefault s.mem b

/-- States with the same coherence record and the same stored bytes of a line have the same of it. -/
theorem SameLine.of_coh (hcoh : t.coh = s.coh) (hmem : ∀ b, b / 128 = ln → tabGet memDefault t.mem b = tabGet memDefault s.mem b) : SameLine s t ln where
  record := by simp only [State.dirOf, hcoh]
  copies a := by simp only [State.copyOf, hcoh]
  buffers a := by rw [hcoh]
  grants a := by simp only [State.dataTo, hcoh]
  forwards a := by simp only [State.fwdFrom, hcoh]
  stored := hmem

theorem SameLine.memLine_eq (h : SameLine s t ln) : t.memLine ln = s.memLine ln :=
  tabGetList_congr _ _ _ fun i hi => h.stored _ (by omega)

theorem SameLine.ownedLine_eq (h : SameLine s t ln) (n a : Nat) : t.ownedLine ln n a = s.ownedLine ln n a := by
  induction n generalizing a with
  | zero => exact h.memLine_eq
  | succ n ih => simp only [State.ownedLine, h.copies, h.buffers, h.grants, h.forwards, h.memLine_eq, ih]

/-- The value of a line is the same where the states have the same of it (R250, R253). -/
theorem SameLine.lineView_eq (h : SameLine s t ln) : t.lineView ln = s.lineView ln := by
  simp only [State.lineView, h.record, h.ownedLine_eq, h.memLine_eq]

/-- A byte of the pool is the same where the states have the same of its line, and the same devices. -/
theorem SameLine.rdByte_eq {b : Nat} (h : SameLine s t (b / 128)) (hfree : t.freeIx = s.freeIx) (hguests : t.guests = s.guests) :
    t.rdByte b = s.rdByte b := by
  simp only [State.rdByte, State.deviceAddr, State.guest, h.record, h.lineView_eq, h.stored b rfl, hfree, hguests]

/-! ## A line that is taken from its holders -/

theorem dirOf_takeLine (s : State) (ln m : Nat) : (s.takeLine ln).dirOf m = if m = ln then DirEntry.none else s.dirOf m := by
  split
  · next h => rw [h, dirOf_takeLine_same]
  · next h => exact dirOf_takeLine_other s ln m h

/-- The messages of a line pass by the taking of another, whatever is looked for among them. -/
theorem find?_settled {p : CohMsg → Bool} {m : Nat} (hp : ∀ x, p x = true → x.line = m) (hne : m ≠ ln) (d : List Byte) (l : List CohMsg) :
    (l.flatMap fun x => if x.line = ln then settleMsg d x else [x]).find? p = l.find? p := by
  have hgone : ∀ x : CohMsg, x.line = ln → p x = false := fun x hx => Bool.eq_false_iff.mpr fun h => hne ((hp x h).symm.trans hx)
  have hsettled : ∀ x : CohMsg, x.line = ln → (settleMsg d x).find? p = none := fun x hx => by
    refine List.find?_eq_none.mpr fun y hy => ?_
    have hline : y.line = ln := by
      unfold settleMsg at hy
      split at hy <;> simp_all
    simp [hgone y hline]
  induction l with
  | nil => rfl
  | cons x l ih =>
    rw [List.flatMap_cons, List.find?_append, ih]
    split
    · next hx => rw [hsettled x hx, Option.none_or, List.find?_cons_of_neg (by simp [hgone x hx])]
    · rw [List.find?_cons (a := x) (as := l), List.find?_singleton]
      cases p x <;> rfl

/-- What is looked for of a line is found past a filter that drops another line. -/
theorem find?_filter_of_imp {α : Type} {p q : α → Bool} (h : ∀ x, p x = true → q x = true) (l : List α) : (l.filter q).find? p = l.find? p := by
  rw [List.find?_filter]
  exact congrArg (fun f => l.find? f) (funext fun x => by cases hp : p x <;> simp [hp, h x])

theorem find?_filter_line_eq_none {p : CohMsg → Bool} {m : Nat} (hp : ∀ x, p x = true → x.line = m) (hne : m ≠ ln) (l : List CohMsg) :
    (l.filter fun x => x.line == ln).find? p = none := by
  refine List.find?_eq_none.mpr fun x hx hpx => hne ((hp x hpx).symm.trans ?_)
  simpa using (List.mem_filter.mp hx).2

theorem coh_takeLine_msgs (s : State) (ln : Nat) : (s.takeLine ln).coh.msgs = (s.coh.msgs ++ s.coh.heldFwds.filter fun m => m.line == ln).flatMap
    fun m => if m.line = ln then settleMsg ((s.lineView ln).take 128) m else [m] := rfl

theorem coh_takeLine_heldFwds (s : State) (ln : Nat) : (s.takeLine ln).coh.heldFwds = s.coh.heldFwds.filter fun m => m.line != ln := rfl

/-- Taking a line leaves what there is of every other (R250, R262). -/
theorem takeLine_sameLine (s : State) {ln m : Nat} (hne : m ≠ ln) (hm : m < 2 ^ 48) : SameLine s (s.takeLine ln) m where
  record := dirOf_takeLine_other s ln m hne
  copies a := tabGet_filter_of_kept _ (fun c => by
    have hkey : copyKey a m % 2 ^ 48 ≠ ln := by rw [copyKey]; omega
    simp only [bne_iff_ne.mpr hkey, Bool.true_or]) _
  buffers a := find?_filter_of_imp (fun e he => by
    simp only [Bool.and_eq_true, beq_iff_eq] at he
    simpa [he.2] using hne) _
  grants a := by
    have hline : ∀ x : CohMsg, ((x.kind == .data || x.kind == .ack) && x.dest == a && x.line == m && !x.data.isEmpty) = true → x.line = m := by
      simp +contextual
    simp only [State.dataTo, coh_takeLine_msgs, find?_settled hline hne, List.find?_append, find?_filter_line_eq_none hline hne, Option.or_none]
  forwards a := by
    have hline : ∀ x : CohMsg, (x.kind == .fwdOwn && x.requester == a && x.line == m) = true → x.line = m := by simp +contextual
    have hkept : ∀ x : CohMsg, (x.kind == .fwdOwn && x.requester == a && x.line == m) = true → (x.line != ln) = true := fun x hx => by
      simpa [hline x hx] using hne
    simp only [State.fwdFrom, coh_takeLine_msgs, coh_takeLine_heldFwds, List.find?_append, find?_settled hline hne, find?_filter_line_eq_none hline hne,
      find?_filter_of_imp hkept, Option.or_none]
  stored b hb := mem_takeLine_other s ln b (by omega)

theorem State.rdByte_of_unheld {b : Nat} (hio : ioAddr b = false) (h : (s.dirOf (b / 128)).owner = none) : s.rdByte b = tabGet memDefault s.mem b := by
  simp only [State.rdByte, hio, h, Bool.false_eq_true, if_false]

/-- A byte of the pool that no device answers for is a byte of its line's value. -/
theorem State.rdByte_eq_lineView {b : Nat} (hio : ioAddr b = false) : s.rdByte b = (s.lineView (b / 128)).getD (b % 128) 0 := by
  cases ho : (s.dirOf (b / 128)).owner with
  | some o => simp only [State.rdByte, hio, ho, Bool.false_eq_true, if_false]
  | none =>
    have hplace : b / 128 * 128 + b % 128 = b := by omega
    rw [State.rdByte_of_unheld hio ho, State.lineView, ho, State.memLine, tabGetList_getD _ _ _ _ _ (by omega), hplace]

/-- A line that has an owner has the length of a line there; one without has it in memory. -/
theorem State.length_lineView (h : (s.dirOf ln).owner ≠ none → (s.lineView ln).length = 128) : (s.lineView ln).length = 128 := by
  cases ho : (s.dirOf ln).owner with
  | some o => exact h (by simp [ho])
  | none => simp only [State.lineView, ho, State.memLine, length_tabGetList]

/-- What is taken of a line is its value (R250, R262). -/
theorem mem_takeLine_same {b : Nat} (hlen : (s.lineView (b / 128)).length = 128) :
    tabGet memDefault (s.takeLine (b / 128)).mem b = (s.lineView (b / 128)).getD (b % 128) 0 := by
  have hmem : (s.takeLine (b / 128)).mem = (s.memWrite (b / 128 * 128) ((s.lineView (b / 128)).take 128)).mem := rfl
  have hplace : b - b / 128 * 128 = b % 128 := by omega
  rw [hmem, mem_memWrite, dif_pos (by rw [List.length_take]; omega)]
  simp only [List.getElem_take, hplace]
  exact List.getElem_eq_getD 0

/-- Taking a line whose value has the length of a line leaves every byte of the pool: where it was held, its value is in memory (R250, R262). -/
theorem rdByte_takeLine {b : Nat} (hb : b < 2 ^ 52) (hlen : (s.dirOf ln).owner ≠ none → (s.lineView ln).length = 128) :
    (s.takeLine ln).rdByte b = s.rdByte b := by
  by_cases hline : b / 128 = ln
  · subst hline
    cases hio : ioAddr b with
    | true => simp only [State.rdByte, hio, if_true]; rfl
    | false =>
      rw [State.rdByte_of_unheld hio (by rw [dirOf_takeLine_same]; rfl), mem_takeLine_same (State.length_lineView hlen), State.rdByte_eq_lineView hio]
  · exact (takeLine_sameLine s hline (by omega)).rdByte_eq rfl rfl

/-! ## Lines that are taken one after another -/

/-- The state in which the lines of a list were taken in turn. -/
def State.takeLines (s : State) (l : List Nat) : State := l.foldl State.takeLine s

theorem dirOf_takeLines (s : State) (l : List Nat) (m : Nat) : (s.takeLines l).dirOf m = if m ∈ l then DirEntry.none else s.dirOf m := by
  induction l generalizing s with
  | nil => simp [State.takeLines]
  | cons x l ih =>
    have hstep : (s.takeLines (x :: l)).dirOf m = _ := ih (s.takeLine x)
    rw [hstep, dirOf_takeLine]
    by_cases hl : m ∈ l <;> by_cases hx : m = x <;> simp [hl, hx]

theorem mem_takeLines_other (s : State) {l : List Nat} {b : Nat} (h : b / 128 ∉ l) :
    tabGet memDefault (s.takeLines l).mem b = tabGet memDefault s.mem b := by
  induction l generalizing s with
  | nil => rfl
  | cons x l ih =>
    obtain ⟨hx, hl⟩ := not_or.mp (mt List.mem_cons.mpr h)
    exact (ih (s.takeLine x) hl).trans (mem_takeLine_other s x b (by omega))

/-- Taking lines leaves every byte of the pool. -/
theorem rdByte_takeLines {l : List Nat} {b : Nat} (hb : b < 2 ^ 52)
    (hlen : ∀ m ∈ l, m < 2 ^ 48 ∧ ((s.dirOf m).owner ≠ none → (s.lineView m).length = 128)) : (s.takeLines l).rdByte b = s.rdByte b := by
  induction l generalizing s with
  | nil => rfl
  | cons x l ih =>
    have hleft : ∀ m ∈ l, m < 2 ^ 48 ∧ (((s.takeLine x).dirOf m).owner ≠ none → ((s.takeLine x).lineView m).length = 128) := fun m hm => by
      obtain ⟨hmax, hm128⟩ := hlen m (List.mem_cons_of_mem _ hm)
      refine ⟨hmax, fun ho => ?_⟩
      rw [dirOf_takeLine] at ho
      split at ho
      · exact absurd rfl ho
      · next hne => rw [(takeLine_sameLine s hne hmax).lineView_eq]; exact hm128 ho
    exact (ih hleft).trans (rdByte_takeLine hb (hlen x List.mem_cons_self).2)

theorem mem_dirIn {l0 l1 m : Nat} (h : m ∈ s.dirIn l0 l1) : l0 ≤ m ∧ m ≤ l1 := by
  obtain ⟨e, he, rfl⟩ := List.mem_map.mp h
  simpa using (List.mem_filter.mp he).2

/-- A line of a range that the directory does not list has no holder. -/
theorem dirOf_of_not_mem_dirIn {l0 l1 m : Nat} (h0 : l0 ≤ m) (h1 : m ≤ l1) (h : m ∉ s.dirIn l0 l1) : s.dirOf m = DirEntry.none :=
  tabGet_of_not_mem _ _ _ fun e he heq => h (List.mem_map.mpr ⟨e, List.mem_filter.mpr ⟨he, by simp [heq, h0, h1]⟩, heq⟩)

/-- Nobody holds a line of a range whose recorded lines were taken (R262). -/
theorem dirOf_takeLines_dirIn {l0 l1 m : Nat} (h0 : l0 ≤ m) (h1 : m ≤ l1) : (s.takeLines (s.dirIn l0 l1)).dirOf m = DirEntry.none := by
  rw [dirOf_takeLines]
  split
  · rfl
  · next h => exact dirOf_of_not_mem_dirIn h0 h1 h

/-! ## Writes at the home -/

/-- A write takes the lines of a list that are not in L, or that it covers whole: where each is so, it takes them all. -/
theorem foldl_takeLine_eq_takeLines {whole : Nat → Bool} {l : List Nat} (h : ∀ m ∈ l, (s.dirOf m).st = .l → whole m = true) :
    l.foldl (fun t m => if (t.dirOf m).st == .l && !whole m then t else t.takeLine m) s = s.takeLines l := by
  induction l generalizing s with
  | nil => rfl
  | cons x l ih =>
    have hx : ((s.dirOf x).st == .l && !whole x) = false := by
      cases hw : whole x with
      | true => simp
      | false => simpa [hw] using h x List.mem_cons_self
    rw [List.foldl_cons, if_neg (by simp [hx])]
    refine ih fun m hm hst => h m (List.mem_cons_of_mem _ hm) ?_
    rw [dirOf_takeLine] at hst
    split at hst
    · cases hst
    · exact hst

/-- The state in which a write of `n` bytes has taken its lines from their holders, and has yet to write its bytes (R226, R262, R268). -/
def State.takenFor (s : State) (pa n : Nat) : State :=
  let u := s.takeLines (s.dirIn (pa / 128) ((pa + n - 1) / 128))
  ({ u with bad := u.bad.filter fun l => !(decide ((wholeLines pa n).1 ≤ l) && decide (l < (wholeLines pa n).2)) } : State).dropHamper
    (pa / 128) ((pa + n - 1) / 128)

theorem State.ite_dropHamper (s : State) (l0 l1 : Nat) : (if s.streams.hamper.isEmpty then s else s.dropHamper l0 l1) = s.dropHamper l0 l1 := by
  split
  · next h =>
    have hnil : s.streams.hamper = [] := List.isEmpty_iff.mp h
    simp only [State.dropHamper, hnil, List.filter_nil]
    rw [← hnil]
  · rfl

theorem State.ite_filter_bad (s : State) (p : Nat → Bool) :
    (if s.bad.isEmpty then s else { s with bad := s.bad.filter p }) = { s with bad := s.bad.filter p } := by
  split
  · next h =>
    have hnil : s.bad = [] := List.isEmpty_iff.mp h
    simp only [hnil, List.filter_nil]
    rw [← hnil]
  · rfl

/-- A write outside the devices' windows takes its lines and then writes its bytes, where each line of it in L is written whole (R250, R262, R268). -/
theorem wrBytes_eq {pa : Nat} {d : List Byte} (hd : d ≠ []) (hio : ioAddr pa = false)
    (hlost : ∀ m, pa / 128 ≤ m → m ≤ (pa + d.length - 1) / 128 → (s.dirOf m).st = .l →
      (wholeLines pa d.length).1 ≤ m ∧ m < (wholeLines pa d.length).2) :
    s.wrBytes pa d = (s.takenFor pa d.length).memWrite pa d := by
  have htaken := foldl_takeLine_eq_takeLines (s := s) (l := s.dirIn (pa / 128) ((pa + d.length - 1) / 128))
    (whole := fun l => decide ((wholeLines pa d.length).1 ≤ l) && decide (l < (wholeLines pa d.length).2))
    fun m hm hst => by simpa using hlost m (mem_dirIn hm).1 (mem_dirIn hm).2 hst
  unfold State.wrBytes
  rw [if_neg (by simpa using hd), if_neg (by simp [hio])]
  dsimp only
  rw [htaken, State.ite_filter_bad, State.ite_dropHamper]
  rfl

theorem dirOf_takenFor {pa n m : Nat} (h0 : pa / 128 ≤ m) (h1 : m ≤ (pa + n - 1) / 128) : (s.takenFor pa n).dirOf m = DirEntry.none :=
  dirOf_takeLines_dirIn h0 h1

theorem mem_takenFor_other (s : State) {pa n b : Nat} (h : b / 128 < pa / 128 ∨ (pa + n - 1) / 128 < b / 128) :
    tabGet memDefault (s.takenFor pa n).mem b = tabGet memDefault s.mem b :=
  mem_takeLines_other s fun hm => by
    have := mem_dirIn hm
    omega

/-- The taking of the lines of a write leaves every byte of the pool (R250). -/
theorem rdByte_takenFor {pa n b : Nat} (hb : b < 2 ^ 52) (hmax : (pa + n - 1) / 128 < 2 ^ 48)
    (hlen : ∀ m, pa / 128 ≤ m → m ≤ (pa + n - 1) / 128 → (s.dirOf m).owner ≠ none → (s.lineView m).length = 128) :
    (s.takenFor pa n).rdByte b = s.rdByte b := by
  have hsame : SameLine (s.takeLines (s.dirIn (pa / 128) ((pa + n - 1) / 128))) (s.takenFor pa n) (b / 128) := .of_coh rfl fun _ _ => rfl
  refine (hsame.rdByte_eq rfl rfl).trans (rdByte_takeLines hb fun m hm => ?_)
  obtain ⟨h0, h1⟩ := mem_dirIn hm
  exact ⟨by omega, hlen m h0 h1⟩

/-- Bytes written where nobody holds their lines are what is read there. -/
theorem rdByte_memWrite_inside {pa i : Nat} {d : List Byte} (hi : i < d.length) (hio : ioAddr (pa + i) = false)
    (hheld : (s.dirOf ((pa + i) / 128)).owner = none) : (s.memWrite pa d).rdByte (pa + i) = d[i] := by
  have hread : (s.memWrite pa d).rdByte (pa + i) = tabGet memDefault (s.memWrite pa d).mem (pa + i) := State.rdByte_of_unheld hio hheld
  rw [hread, mem_memWrite, dif_pos (by omega)]
  simp only [Nat.add_sub_cancel_left]

/-- A byte beside those written reads as before, where nobody holds the lines that are written. -/
theorem rdByte_memWrite_outside {pa b : Nat} {d : List Byte} (hb : b < pa ∨ pa + d.length ≤ b)
    (hheld : pa / 128 ≤ b / 128 → b / 128 ≤ (pa + d.length - 1) / 128 → (s.dirOf (b / 128)).owner = none) :
    (s.memWrite pa d).rdByte b = s.rdByte b := by
  have hmem : ∀ c, c < pa ∨ pa + d.length ≤ c → tabGet memDefault (s.memWrite pa d).mem c = tabGet memDefault s.mem c := fun c hc => by
    rw [mem_memWrite, dif_neg (by omega)]
  by_cases hline : pa / 128 ≤ b / 128 ∧ b / 128 ≤ (pa + d.length - 1) / 128
  · have hnone := hheld hline.1 hline.2
    cases hio : ioAddr b with
    | true => simp only [State.rdByte, hio, if_true]; rfl
    | false =>
      have hread : (s.memWrite pa d).rdByte b = tabGet memDefault (s.memWrite pa d).mem b := State.rdByte_of_unheld hio hnone
      rw [hread, hmem b hb, State.rdByte_of_unheld hio hnone]
  · have hsame : SameLine s (s.memWrite pa d) (b / 128) := .of_coh rfl fun c hc => hmem c (by omega)
    exact hsame.rdByte_eq rfl rfl

theorem State.rdBytes_eq {pa : Nat} {d : List Byte} (h : ∀ i (hi : i < d.length), s.rdByte (pa + i) = d[i]) : s.rdBytes pa d.length = d := by
  induction d generalizing pa with
  | nil => rfl
  | cons x d ih =>
    have hhead : s.rdByte pa = x := h 0 (Nat.succ_pos _)
    have htail : s.rdBytes (pa + 1) d.length = d := ih fun i hi => by
      have hplace : pa + 1 + i = pa + (i + 1) := by omega
      rw [hplace]
      exact h (i + 1) (Nat.succ_lt_succ hi)
    rw [List.length_cons, State.rdBytes, hhead, htail]

/-- The window of a guest's device memory (R53). -/
theorem regionOf_guest {g x : Nat} (hg : g < 2) (hx : x < 2 ^ 36) : regionOf (0x380000000000 + g * 2 ^ 36 + x) = .guest g := by
  unfold regionOf
  rw [if_neg (by omega), if_neg (by omega), if_neg (by omega), if_neg (by omega)]
  obtain rfl | rfl : g = 0 ∨ g = 1 := by omega
  · rw [if_pos (by omega)]
  · rw [if_neg (by omega), if_pos (by omega)]

/-- A place in a guest's window is at the guest, at its BAR plus the place (R383). -/
theorem State.deviceAddr_guest (s : State) {g x : Nat} (hg : g < 2) (hx : x < 2 ^ 36) :
    s.deviceAddr (0x380000000000 + g * 2 ^ 36 + x) = (g + 1) * 2 ^ 64 + (s.guest g).barBase + x := by
  have hplace : (0x380000000000 + g * 2 ^ 36 + x) % 2 ^ 36 = x := by omega
  rw [State.deviceAddr, regionOf_guest hg hx]
  exact congrArg (fun y => (g + 1) * 2 ^ 64 + (s.guest g).barBase + y) hplace

end Pool

/-- Settles O60: the taking of the lines leaves the pool as it is, and then the bytes are written where nobody holds their lines. -/
theorem writeAtHomeIsRead : Obligations.WriteAtHomeIsRead := by
  unfold Obligations.WriteAtHomeIsRead
  rintro s t pa d hd hmax rfl
  refine ⟨fun hrange => ?pool, fun hio => wrBytes_io s pa d hd hio, fun g => s.deviceAddr_guest g.isLt (Nat.mod_lt _ (Nat.two_pow_pos 36))⟩
  case pool =>
    have hpos : 0 < d.length := List.length_pos_iff.mpr hd
    have hline : ∀ m, pa / 128 ≤ m → m ≤ (pa + d.length - 1) / 128 → ∃ i < d.length, (pa + i) / 128 = m := fun m h0 h1 =>
      ⟨max pa (m * 128) - pa, by omega, by omega⟩
    have hwrite : s.wrBytes pa d = (s.takenFor pa d.length).memWrite pa d := by
      refine wrBytes_eq hd (by simpa using (hrange 0 hpos).1) fun m h0 h1 hst => ?_
      obtain ⟨i, hi, rfl⟩ := hline m h0 h1
      exact absurd hst (hrange i hi).2.1
    rw [hwrite]
    refine ⟨State.rdBytes_eq fun i hi => rdByte_memWrite_inside hi (hrange i hi).1 ?_, fun b hb hout => ?_⟩
    · rw [dirOf_takenFor (by omega) (by omega)]
      rfl
    · rw [rdByte_memWrite_outside hout fun h0 h1 => by rw [dirOf_takenFor h0 h1]; rfl]
      refine rdByte_takenFor hb (by omega) fun m h0 h1 => ?_
      obtain ⟨i, hi, rfl⟩ := hline m h0 h1
      exact (hrange i hi).2.2

section Writes

variable {s s1 : State} {a ln : Nat} {e : Ecc} {why : ReqCause}

/-- A line with a home is no line of a device's window (R249). -/
theorem ioAddr_of_homed {pa : Nat} (h : (homeOf pa).isSome = true) : ioAddr pa = false := by
  unfold homeOf at h
  unfold ioAddr
  split at h <;> simp_all

/-- What a write of a whole line leaves: no holder, its bytes in memory, the memory beside it, and no hamper copy (R226, R262, R268). -/
theorem wrBytes_wholeLine (hio : ioAddr (ln * 128) = false) {d : List Byte} (hd : d.length = 128) :
    (s.wrBytes (ln * 128) d).dirOf ln = DirEntry.none ∧ (s.wrBytes (ln * 128) d).memLine ln = d ∧
      (∀ b, b / 128 ≠ ln → tabGet memDefault (s.wrBytes (ln * 128) d).mem b = tabGet memDefault s.mem b) ∧
      (s.wrBytes (ln * 128) d).streams.hamper.all (fun h => h.line != ln) = true := by
  have hwrite : s.wrBytes (ln * 128) d = (s.takenFor (ln * 128) d.length).memWrite (ln * 128) d :=
    wrBytes_eq (by rintro rfl; simp at hd) hio fun m h0 h1 _ => by
      simp only [wholeLines, hd] at h1 ⊢
      omega
  rw [hwrite, hd]
  refine ⟨dirOf_takenFor (by omega) (by omega), memLine_memWrite _ _ _ hd, fun b hb => ?_, List.all_eq_true.mpr fun h hh => ?_⟩
  · rw [mem_memWrite, dif_neg (by omega)]
    exact mem_takenFor_other s (by omega)
  · have hout := (List.mem_filter.mp hh).2
    simp only [Bool.not_eq_true', Bool.and_eq_false_iff, decide_eq_false_iff_not] at hout
    exact bne_iff_ne.mpr fun heq => by omega

end Writes

/-- Settles O33: the home writes the line in the state after its lookup, and no device has it. -/
theorem wholeLineWriteReplacesTheLine : Obligations.WholeLineWriteReplacesTheLine := by
  unfold Obligations.WholeLineWriteReplacesTheLine
  intro s s1 a ln d r hadm hd
  have hexec : exec (.writeLine a ln d) s = .next ((s1.countLine a ln).wrBytes (ln * 128) d) := congrArg Host.Outcome.next hadm.request_eq
  have hline : r.line = ln := by cases hadm.asks; rfl
  have hleaves := wrBytes_wholeLine (s := s1.countLine a ln) (ioAddr_of_homed (hline ▸ hadm.home)) hd
  rw [State.countLine_mem] at hleaves
  exact ⟨_, hexec, hleaves⟩

end Sys2Proof.Machine
end

section
/-! The grants of the requests that write, what a requester does with what it receives, Heartbeats, and the reclaim of dead agents (R251, R252, R257 to R259,
R262, R264 to R266, R365). -/

namespace Sys2Proof.Machine

open Sys2Proof

/-! ## Writes at the home, and grants for writing -/

section Merges

variable {s : State} {a ln acc : Nat} {e : Ecc} {f : List Byte → List Byte}

/-- The bytes of a write go into the data that the line's owner has (R262). -/
theorem State.mergeAtHome_of_held {o : Nat} (hl : (s.dirOf ln).st ≠ .l) (ho : (s.dirOf ln).owner = some o) (hheld : s.ownerHolds ln o = true) :
    s.mergeAtHome a ln acc e f = (s.takeLine ln).memWrite (ln * 128) (f ((s.takeLine ln).memLine ln)) := by
  simp only [State.mergeAtHome, hl, ho, hheld, if_true, if_false]

/-- The bytes of a write go into the line as memory has it, where no owner has its data (R257, R262). -/
theorem State.mergeAtHome_of_unheld (hl : (s.dirOf ln).st ≠ .l) (hunheld : ∀ o, (s.dirOf ln).owner = some o → s.ownerHolds ln o = false)
    (hread : Readable s ln e) :
    s.mergeAtHome a ln acc e f = ((s.noteEcc ln e).takeLine ln).memWrite (ln * 128) (f (s.memLine ln)) := by
  cases ho : (s.dirOf ln).owner with
  | none => simp only [State.mergeAtHome, hl, ho, State.homeRead_of_readable hread, Bool.false_eq_true, if_false]
  | some o => simp only [State.mergeAtHome, hl, ho, hunheld o ho, State.homeRead_of_readable hread, Bool.false_eq_true, if_false]

theorem State.exclusive_of_lost {why : ReqCause} (hst : (s.dirOf ln).st = .l) : s.exclusive a ln e why = s.refuse a ln 1 6 why := by
  simp only [State.exclusive, hst]

end Merges

/-- Settles O34: the home serves each request in the state after its lookup, by the data that the owner or memory has, or by a grant for writing. -/
theorem writesAtTheHome : Obligations.WritesAtTheHome := by
  unfold Obligations.WritesAtTheHome
  rintro s s1 a ln e why w q r d s2 rfl rfl
  refine ⟨fun i f hi hadm hl => ?write, fun hadm => ?exclusive, fun hadm hst hrec => ?upgrade, fun hadm => ?own⟩
  case write =>
    obtain ⟨acc, hexec⟩ : ∃ acc, exec i s = .next ((s1.countLine a ln).mergeAtHome a ln acc e f) := by
      rcases hi with ⟨rfl, hf⟩ | ⟨rfl, hf⟩
      · obtain rfl : f = fun l => mergePartial l w := funext hf
        exact ⟨_, congrArg Host.Outcome.next hadm.request_eq⟩
      · obtain rfl : f = atomicLine q := funext hf
        exact ⟨_, congrArg Host.Outcome.next hadm.request_eq⟩
    rw [hexec]
    exact ⟨fun o ho hheld => congrArg _ (State.mergeAtHome_of_held hl ho hheld),
      fun hunheld hread => congrArg _ (State.mergeAtHome_of_unheld hl hunheld hread)⟩
  case exclusive =>
    have hexec : exec (.readExclusive ⟨a, why⟩ ln e) s = .next ((s1.countLine a ln).exclusive a ln e why) := congrArg Host.Outcome.next hadm.request_eq
    rw [hexec]
    refine ⟨fun hst o ho hne => ?owned, fun hst hread => ?unowned, fun hst => congrArg _ (State.exclusive_of_lost hst)⟩
    case owned =>
      rw [State.exclusive_of_owned ho hne hst]
      refine congrArg _ ?_
      dsimp only
      split
      · rfl
      · rw [State.grantOwn, State.invalidate_nil]
    case unowned =>
      have hl : ((s1.countLine a ln).dirOf ln).st ≠ .l := fun h => by
        rcases hst with hst | hst <;> cases hst.symm.trans h
      exact congrArg _ (State.exclusive_of_readable hl hread (.inr hst))
  case upgrade => exact congrArg Host.Outcome.next (hadm.request_eq.trans (State.upgradeAt_of_recorded hst hrec))
  case own => exact congrArg Host.Outcome.next hadm.request_eq

/-! ## Answers, writebacks and notices at the requester -/

section Requesters

variable {s : State} {a : Fin 2048} {ln : Nat} {m : CohMsg} {c : Copy}

/-- A live agent that receives Data fills its cache, if the line is still its (R257). -/
theorem execData_of_live (hlive : s.agentDead a = false) (hm : s.msgFor .data a ln = some m) :
    execData a ln s = .next (((s.unpost m).fillGrant a ln m m.data).grantDone a ln).goOn := by
  simp only [execData, hlive, hm, Bool.false_eq_true, if_false]

theorem State.fillGrant_eq (s : State) (a ln : Nat) (m : CohMsg) (d : List Byte) :
    s.fillGrant a ln m d = if s.keepsGrant a ln = false then s else if isHamper a then s.fillHamper (a / 128) ln
      else (s.fill a ln m.grant (ageOf m.why) (grantedLine m.why d)).fillCore a ln m.why := by
  simp only [State.fillGrant, Bool.not_eq_eq_eq_not, Bool.not_true]

theorem execDataOnce_of_received (hm : s.msgFor .dataOnce a ln = some m) :
    execDataOnce a ln s = .next ((s.unpost m).answer (ln * 128) m.data).goOn := by
  simp only [execDataOnce, hm]

/-- A grant without data leaves the requester the data of its own copy (R257). -/
theorem execAck_of_copy (hlive : s.agentDead a = false) (hm : s.msgFor .ack a ln = some m) (hc : s.copyOf a ln = some c) (hd : m.data = []) :
    execAck a ln s = .next (((s.unpost m).fillGrant a ln m c.data).grantDone a ln).goOn := by
  have hc' : (s.unpost m).copyOf a ln = some c := hc
  simp only [execAck, hlive, hm, hc', hd, List.isEmpty_nil, Bool.false_eq_true, if_false, if_true]

/-- The InvalAcks still owed once one more has come for a line of an agent (R251, R257). -/
def ackCounted (a ln : Nat) (l : List (Nat × Nat × Nat)) : List (Nat × Nat × Nat) :=
  l.filterMap fun e => if e.1 = a ∧ e.2.1 = ln then (if e.2.2 ≤ 1 then none else some (e.1, e.2.1, e.2.2 - 1)) else some e

theorem mem_ackCounted {a ln n : Nat} {l : List (Nat × Nat × Nat)} (h : (a, ln, n + 2) ∈ l) : (a, ln, n + 1) ∈ ackCounted a ln l :=
  List.mem_filterMap.mpr ⟨_, h, by simp⟩

theorem execInvalAck_of_received (hm : s.msgFor .invalAck a ln = some m) :
    execInvalAck a ln s = .next ((({ s.unpost m with
      coh := { (s.unpost m).coh with owedAcks := ackCounted a ln s.coh.owedAcks } } : State).grantDone a ln).goOn) := by
  simp only [execInvalAck, hm]
  rfl

/-- A writeback of an agent that may make it goes on, where no block fails its symbol code beyond repair (R240, R243). -/
theorem execWbDirty_of_readable {w : PartialWrite} {e : Ecc} {why : WbReason} (hlive : s.agentDead a = false) (hmay : why = .evict ∨ 1024 ≤ a.val)
    (he : e ≠ .uncorrectable) :
    execWbDirty a ln ⟨w, e, why⟩ s =
      .next (((if e = .corrected then s.cacheError a ln else s).writeBack a ln w why).homeWriteback a ln (why == .clean)) := by
  have hallowed : (s.agentDead a || (why != .evict && decide (a.val < 1024))) = false := by
    rcases hmay with hmay | hmay
    · simp [hlive, hmay]
    · simp [hlive, hmay]
  simp only [execWbDirty, hallowed, he, decide_false, Bool.false_and, Bool.false_eq_true, if_false]

theorem State.writeBack_of_no_copy {w : PartialWrite} {why : WbReason} (hc : s.copyOf a ln = none) : s.writeBack a ln w why = s := by
  simp only [State.writeBack, hc]

theorem State.cacheError_of_no_copy (hc : s.copyOf a ln = none) : s.cacheError a ln = s := by simp only [State.cacheError, hc]

/-- The dirty copy that an agent evicts enters its writeback buffer, with the stores made to it (R258). -/
theorem State.writeBack_of_dirty {w : PartialWrite} (hc : s.copyOf a ln = some c) (hst : c.st = .m ∨ c.st = .o) (hstale : c.stale = false)
    (hdue : s.grantDue a ln = false) (hnotice : s.coh.notices.contains (a.val, ln) = false) :
    s.writeBack a ln w .evict = (s.setCopy a ln none).toWb a ln (if c.st = .m then mergePartial c.data w else c.data) := by
  have hdirty : ((c.st == .m || c.st == .o) && !false) = true := by simpa using hst
  simp only [State.writeBack, hc, hdue, hnotice, hstale, hdirty, Bool.or_self, Bool.false_eq_true, if_false, if_true, State.evict, hst]

/-- The home takes a buffered line from an agent that is still its owner, and acknowledges it in any case (R258). -/
theorem State.homeWriteback_of_buffered {d : List Byte} {kept : Bool} (hd : s.wbOf a ln = some d) (hack : s.msgFor .wbAck a ln = none) :
    s.homeWriteback a ln kept = (if (s.dirOf ln).owner == some a.val && ((s.dirOf ln).st == .m || (s.dirOf ln).st == .o) then
        (s.memWrite (ln * 128) d).setDir ln (writtenBack (s.dirOf ln) a kept)
      else s).post ⟨.wbAck, a, a, ln, [], .s, .demand⟩ := by
  simp only [State.homeWriteback, hd, hack, Option.isSome_none, Bool.false_eq_true, if_false]

theorem execWbAck_of_notice
    (hm : (s.coh.msgs.find? fun y => (y.kind == .wbAck || y.kind == .noticeAck) && y.dest == a.val && y.line == ln) = some m) (hk : m.kind = .noticeAck) :
    execWbAck a ln s = .next (({ s.unpost m with coh := { (s.unpost m).coh with
      notices := (s.unpost m).coh.notices.filter fun y => y != (a.val, ln) } } : State).releaseFwds a ln).goOn := by
  simp only [execWbAck, hm, hk, if_true]

/-- WbAck releases the writeback buffer, once no forward to it is outstanding (R258). -/
theorem execWbAck_of_unforwarded
    (hm : (s.coh.msgs.find? fun y => (y.kind == .wbAck || y.kind == .noticeAck) && y.dest == a.val && y.line == ln) = some m) (hk : m.kind = .wbAck)
    (hfwd : ((s.coh.msgs ++ s.coh.heldFwds).any fun y => isFwd y.kind && y.dest == a.val && y.line == ln) = false) :
    execWbAck a ln s = .next (({ s.unpost m with coh := { (s.unpost m).coh with
      wb := (s.unpost m).coh.wb.filter fun y => !(y.1 == a.val && y.2.1 == ln) } } : State).releaseFwds a ln).goOn := by
  simp only [execWbAck, hm, hk, hfwd, reduceCtorEq, Bool.false_eq_true, if_false]

/-- The first store to an E copy makes it M, and the home is told (R259). -/
theorem execDirtyNotice_of_exclusive {w : PartialWrite} (hc : s.copyOf a ln = some c) (hst : c.st = .e) (hstale : c.stale = false)
    (hlive : s.agentDead a = false) {s1 s2 : State} (hs1 : s1 = s.setCopy a ln (some { c with st := .m, data := mergePartial c.data w, age := 0 }))
    (hs2 : s2 = { s1 with coh := { s1.coh with notices := s1.coh.notices ++ [(a.val, ln)] } }) :
    execDirtyNotice a ln w s = .next ((s2.setDir ln (noticed (s2.dirOf ln) a
      ((s1.coh.msgs ++ s1.coh.heldFwds).any fun y => y.kind == .fwdShared && y.dest == a.val && y.line == ln))).post
        ⟨.noticeAck, a, a, ln, [], .s, .demand⟩) := by
  subst hs1 hs2
  simp only [execDirtyNotice, hc, hst, hstale, hlive, Bool.not_false, and_self, if_true]

/-- A forward that found nothing ends its recall, or is served by the home (R252, R257). -/
theorem execNotHeld_of_forwarded {e : Ecc} (hlive : s.agentDead a = false) (hdue : s.grantDue a ln = false) (hnone : s.heldData a ln ⟨[]⟩ = none)
    (hm : (s.coh.msgs.find? fun y => isFwd y.kind && y.dest == a.val && y.line == ln) = some m) :
    execNotHeld a ln e s = .next (if m.kind = .fwdRecall then (s.unpost m).endRecall ln else (s.unpost m).serve m a e).goOn := by
  simp only [execNotHeld, hlive, hdue, hnone, hm, Option.isSome_none, Bool.or_self, Bool.false_eq_true, if_false]

end Requesters

/-- Settles O36: each clause is the lemma above about its command. -/
theorem answersAtTheRequester : Obligations.AnswersAtTheRequester := by
  unfold Obligations.AnswersAtTheRequester
  intro s a ln w m c d e why
  refine ⟨fun hlive hm => ?data, execDataOnce_of_received, execAck_of_copy, fun hm => ?invalAck, fun hlive hmay he hc hd hack => ?buffered,
    fun hlive hc hst hstale hdue hnotice => ?dirty, fun hm v hv => ?wbAck, fun hc hst hstale hlive s1 s2 => execDirtyNotice_of_exclusive hc hst hstale hlive,
    execNotHeld_of_forwarded⟩
  case data =>
    rw [← State.fillGrant_eq]
    exact execData_of_live hlive hm
  case invalAck => exact ⟨_, execInvalAck_of_received hm, _, rfl, rfl, fun n hn => mem_ackCounted hn⟩
  case buffered =>
    have hexec : exec (.wbDirty a ln ⟨w, e, why⟩) s = _ := execWbDirty_of_readable hlive hmay he
    rw [hexec, State.cacheError_of_no_copy hc, ite_self, State.writeBack_of_no_copy hc, State.homeWriteback_of_buffered hd hack]
  case dirty =>
    have hexec : exec (.wbDirty a ln ⟨w, .clean, .evict⟩) s = _ := execWbDirty_of_readable hlive (.inl rfl) (by decide)
    rw [hexec, if_neg (by decide), State.writeBack_of_dirty hc hst hstale hdue hnotice]
    rfl
  case wbAck =>
    subst hv
    exact ⟨execWbAck_of_notice hm, execWbAck_of_unforwarded hm⟩

/-! ## Heartbeats and dead agents -/

section Dead

variable {s : State}

theorem execHeartbeatSend_of_live {d : DieName} (hlive : s.dieLive d = true) (hon : ∀ m, d = .pd m → (s.irq.sliceOf m).dieOff = false) :
    execHeartbeatSend d s =
      .next { s with coh := { s.coh with sent := s.coh.sent ++ [⟨d, (dieAgents d).filter fun b => s.agentLive b, false⟩] } } := by
  cases d with
  | cs n => simp only [execHeartbeatSend, hlive, Bool.not_false, Bool.and_self, if_true]
  | pd m => simp only [execHeartbeatSend, hlive, hon m rfl, Bool.not_false, Bool.and_self, if_true]

theorem execHeartbeat_of_dead {h : HeartbeatMsg} (hdead : s.dieLive h.die = false) : execHeartbeat h s = .next s := by
  simp only [execHeartbeat, hdead, Bool.not_false, if_true]

theorem execHeartbeat_of_parked {h : HeartbeatMsg} (hlive : s.dieLive h.die = true) {s1 : State}
    (hs1 : s1 = ({ s with coh := { s.coh with sent := s.coh.sent.erase h } } : State).heard h.die) (hparked : h.parked = true) :
    execHeartbeat h s = .next { s1 with coh := { s1.coh with parked := (s1.coh.parked.filter fun y => y != h.die) ++ [h.die] } } := by
  subst hs1
  simp only [execHeartbeat, hlive, hparked, Bool.not_true, Bool.false_eq_true, if_false, if_true]

/-- The agents that a Heartbeat leaves out are declared dead, and their units fenced (R264). -/
theorem execHeartbeat_of_timed {h : HeartbeatMsg} (hlive : s.dieLive h.die = true) {s1 : State}
    (hs1 : s1 = ({ s with coh := { s.coh with sent := s.coh.sent.erase h } } : State).heard h.die) (htimed : h.parked = false) {s2 : State}
    {missing : List Nat} (hs2 : s2 = { s1 with coh := { s1.coh with parked := s1.coh.parked.filter fun y => y != h.die } })
    (hmissing : missing = (dieAgents h.die).filter fun a => !h.live.contains a && !s2.agentDead a) :
    execHeartbeat h s = .next (missing.foldl (fun (t : State) a => (t.declareDead a false).fenceAgent a 0x0A) s2).goOn := by
  subst hs1 hs2 hmissing
  simp only [execHeartbeat, hlive, htimed, Bool.not_true, Bool.false_eq_true, if_false]

theorem execHeartbeatLoss_of_untimed {d : DieName} (h : s.dieLive d = false ∨ s.coh.parked.contains d = true) : execHeartbeatLoss d s = .next s :=
  if_pos (by rcases h with h | h <;> simp only [h, Bool.not_false, Bool.true_or, Bool.or_true])

/-- A die that is not heard in time has every agent declared dead, and is fenced (R264). -/
theorem execHeartbeatLoss_of_timed {d : DieName} (hlive : s.dieLive d = true) (htimed : s.coh.parked.contains d = false) {s1 s2 : State}
    (hs1 : s1 = match s.coh.beats.find? fun b => b.1 == d with
      | some b => { s with now := max s.now (b.2 + 1000000) }
      | none => s)
    (hs2 : s2 = (dieAgents d).foldl (fun t b => t.declareDead b false) s1) :
    execHeartbeatLoss d s = .next (State.goOn (match d with
      | .cs n => s2.heartbeatCause.2.fenceDie n 0x0A s2.heartbeatCause.1 s2.now (s2.spanOfDie n)
      | .pd m => s2.heartbeatCause.2.fencePd m 0x0A s2.heartbeatCause.1)) := by
  subst hs1 hs2
  rw [execHeartbeatLoss, if_neg (by rw [hlive, htimed]; decide)]
  cases d <;> rfl

theorem State.endRecall_dead (s : State) (ln : Nat) : (s.endRecall ln).coh.dead = s.coh.dead := by
  unfold State.endRecall
  split <;> rfl

/-- A declared agent is dead at every home (R264). -/
theorem State.agentDead_declareDead (s : State) (a : Nat) (fatal : Bool) : (s.declareDead a fatal).agentDead a = true := by
  unfold State.declareDead
  split
  · next h => exact h
  · simp only [State.agentDead]
    rw [State.foldl_keeps (fun t => t.coh.dead) (fun (t : State) (m : CohMsg) => t.endRecall m.line) fun t m => t.endRecall_dead m.line]
    simp

theorem execDeclare_of_live {a : Fin 2048} {fatal : Bool} (hex : agentExists s.dev.variant a = true) (hcaching : agentCaching a = true)
    (hlive : s.agentDead a = false) : execDeclare a fatal s = .next ((s.declareDead a fatal).fenceAgent a 0x0A).goOn := by
  simp only [execDeclare, hex, hcaching, hlive, Bool.not_false, Bool.and_self, if_true]

/-- A home that has not swept a dead agent applies the rules to each of its lines (R265). -/
theorem execReclaimSweep_of_unswept {a : Fin 2048} {hm : Fin 8} {x : DeadAgent} (hx : (s.coh.dead.find? fun y => y.agent == a.val) = some x)
    (hunswept : hm.val ∉ x.swept) {s1 : State}
    (hs1 : s1 = (((s.coh.dir.map Prod.fst).filter fun l => homeOf (l * 128) == some hm.val).foldl (fun (u : State) l => u.reclaimLine l a) s).goOn) :
    execReclaimSweep hm a s = .next { s1 with coh := { s1.coh with dead := s1.coh.dead.map fun y =>
      if y.agent = a.val then { y with swept := y.swept ++ [hm.val], doneAt := if y.swept.length = 7 then s.now else y.doneAt } else y } } := by
  have hmember : x.swept.contains hm.val = false := by simpa using hunswept
  subst hs1
  simp only [execReclaimSweep, hx, hmember, Bool.false_eq_true, if_false]

/-- The report is written once, when every home has swept (R266). -/
theorem execReclaimReport_of_swept {a : Fin 2048} {x : DeadAgent} (hx : (s.coh.dead.find? fun y => y.agent == a.val) = some x)
    (hfirst : x.reported = false) (hswept : 8 ≤ x.swept.length) :
    execReclaimReport a s = .next (({ s with coh := { s.coh with
      dead := s.coh.dead.map fun y => if y.agent = a.val then { y with reported := true } else y } } : State).postFq (BitVec.ofNat 512 (reclaimReport x))) := by
  have hready : (x.reported || decide (x.swept.length < 8)) = false := by simpa [hfirst] using hswept
  simp only [execReclaimReport, hx, hready, Bool.false_eq_true, if_false]

theorem execReclaimReport_of_not_due {a : Fin 2048} {x : DeadAgent} (hx : (s.coh.dead.find? fun y => y.agent == a.val) = some x)
    (h : x.reported = true ∨ x.swept.length < 8) : execReclaimReport a s = .next s := by
  have hready : (x.reported || decide (x.swept.length < 8)) = true := by simpa using h
  simp only [execReclaimReport, hx, hready, if_true]

end Dead

/-- Settles O37: each clause is the lemma above about its command. -/
theorem heartbeatsAct : Obligations.HeartbeatsAct := by
  unfold Obligations.HeartbeatsAct
  exact fun s d h => ⟨execHeartbeatSend_of_live,
    fun hlive s1 hs1 => ⟨execHeartbeat_of_parked hlive hs1, fun htimed s2 missing => execHeartbeat_of_timed hlive hs1 htimed⟩,
    fun hlive htimed s1 s2 => execHeartbeatLoss_of_timed hlive htimed, execHeartbeatLoss_of_untimed, execHeartbeat_of_dead⟩

/-- Settles O38: each clause is the lemma above about its command. -/
theorem deadAgentsAreReclaimed : Obligations.DeadAgentsAreReclaimed := by
  unfold Obligations.DeadAgentsAreReclaimed
  exact fun s a fatal hm x => ⟨fun hex hcaching hlive => ⟨execDeclare_of_live hex hcaching hlive, s.agentDead_declareDead a fatal⟩,
    fun hx hunswept s1 => execReclaimSweep_of_unswept hx hunswept,
    fun hx => ⟨execReclaimReport_of_swept hx, execReclaimReport_of_not_due hx⟩⟩

end Sys2Proof.Machine
end

section
/-! What the events of stacked DRAM, of background scrubbing and of the leaky buckets do (R275, R277, R279, R281, R282, R421, R422, R464). -/

namespace Sys2Proof.Machine

open Sys2Proof

section Dram

variable {s : State}

/-! ## Temperatures, copies, margining and retraining -/

/-- No element reaches a value that every element lies below. -/
theorem firstAtLeast_eq_none {l : List Nat} {v : Nat} (h : ∀ x ∈ l, x < v) : firstAtLeast l v = none := by
  refine List.find?_eq_none.mpr fun i hi => ?_
  have hlen : i < l.length := List.mem_range.mp hi
  have hbelow : l.getD i 0 < v := List.getD_eq_getElem l 0 hlen ▸ h _ (List.getElem_mem hlen)
  simpa only [decide_eq_true_eq, Nat.not_le] using hbelow

/-- Below the trip point the throttle steps follow the higher readings, and the pairs are compared (R275, R411). -/
theorem execDramTempReading_of_cool {temps : List (Nat × Nat)} {high : List Nat} (hon : s.dev.state ≠ .off)
    (hcool : ∀ x ∈ temps.take 16, x.1 < 1050 ∧ x.2 < 1050) (hhigh : high = (temps.take 16).map fun x => max x.1 x.2) :
    execDramTempReading temps s =
      .next ((({ s with dram := { s.dram with temps := high } } : State).dramSteps high).comparePairs 20 (temps.take 16)) := by
  have hpairs : (temps.take 16).map pairHigh = high := hhigh.symm
  have hnone : firstAtLeast high 1050 = none := firstAtLeast_eq_none fun x hx => by
    rw [hhigh] at hx
    obtain ⟨p, hp, rfl⟩ := List.mem_map.mp hx
    exact max_lt (hcool p hp).1 (hcool p hp).2
  have hawake : (s.dev.state == .off) = false := beq_eq_false_iff_ne.mpr hon
  simp only [execDramTempReading, hpairs, hnone, hawake, Bool.false_eq_true, if_false]

theorem execPseudoChannelCopyEnd_of_copying {d : Fin 16} {c : Nat} {lines : List Nat}
    (hc : (s.dram.copying.find? fun e => e.1 == d.val) = some (d.val, c)) {s1 s2 : State}
    (hs1 : s1 = ((lines ++ s.bad).eraseDups.filter fun ln => lineOfPc d c ln).foldl (fun (t : State) ln => (t.loseLine ln).lineReport ln 1) s)
    (hs2 : s2 = s1.setPc d c 2) :
    execPseudoChannelCopyEnd d lines s =
      .next { s2 with dram := { s2.dram with copying := s2.dram.copying.filter fun x => x.1 != d.val } } := by
  subst hs1 hs2
  simp only [execPseudoChannelCopyEnd, hc]

/-- Margining runs for the requested stacks that it covers, while no context is RUNNABLE (R281). -/
theorem execMarginingDone_of_requested {r done : List (Fin 16 × List LaneEye)} {left : Nat}
    (hdone : done = r.filter fun e => bitAt (s.effNat 0x9040 1) e.1) (hsome : done ≠ []) (hidle : ∀ e ∈ s.ctxs, e.2.st ≠ .runnable)
    (hleft : left = (List.range 16).foldl
      (fun m j => if bitAt (s.effNat 0x9040 1) j && !(done.any fun e => e.1.val == j) then m + 2 ^ j else m) 0) :
    execMarginingDone r s = .next ((done.foldl (fun (t : State) e => t.marginStack e.1 e.2) s).putEntry 0x9040 1 (leBytes left 2)) := by
  have hcovers : done.isEmpty = false := List.isEmpty_eq_false_iff.mpr hsome
  have hquiet : (s.ctxs.any fun e => e.2.st == .runnable) = false := List.any_eq_false.mpr fun e he => by simpa using hidle e he
  simp only [execMarginingDone, ← hdone, hcovers, hquiet, ← hleft, Bool.or_self, Bool.false_eq_true, if_false]

theorem execDramRetrainDone_of_retraining {d : Fin 16} (ok : Bool) (hr : s.dram.retraining.contains d.val = true) {s1 : State}
    (hs1 : s1 = { s with dram := { s.dram with retraining := s.dram.retraining.filter fun x => x != d.val } }) :
    execDramRetrainDone d ok s = .next (if ok then s1 else s1.fenceStack d).goOn := by
  subst hs1
  exact if_pos hr

/-! ## Scrubbing -/

section Scrub

variable {ln : Nat} {e : Ecc}

/-- A backed line that is not in L is scrubbed: it is lost, or what the symbol code corrected is counted (R277, R421). -/
theorem State.scrubMemory_of_stored (hbacked : s.backed (ln * 128) = true) (hleft : (s.dirOf ln).st ≠ .l) :
    s.scrubMemory ln e = if e = .uncorrectable || s.bad.contains ln then (s.loseStored ln).goOn else s.noteEcc ln e := by
  have hst : ((s.dirOf ln).st == .l) = false := beq_eq_false_iff_ne.mpr hleft
  simp only [State.scrubMemory, hbacked, hst, Bool.not_true, Bool.or_self, Bool.false_eq_true, if_false]

theorem State.scrubMemory_of_lost (hbacked : s.backed (ln * 128) = true) (hleft : (s.dirOf ln).st ≠ .l)
    (h : e = .uncorrectable ∨ s.bad.contains ln = true) : s.scrubMemory ln e = (s.loseStored ln).goOn :=
  (State.scrubMemory_of_stored hbacked hleft).trans (if_pos (by rwa [Bool.or_eq_true, decide_eq_true_eq]))

theorem State.scrubMemory_of_readable (hbacked : s.backed (ln * 128) = true) (hleft : (s.dirOf ln).st ≠ .l) (h : Readable s ln e) :
    s.scrubMemory ln e = s.noteEcc ln e := by
  obtain ⟨hecc, hbad⟩ := h
  exact (State.scrubMemory_of_stored hbacked hleft).trans (if_neg (by rw [hbad, decide_eq_false hecc]; decide))

/-- A corrected block of a stack counts against the pseudo-channel that stores the line, and against its row (R277). -/
theorem State.noteEcc_of_dram {m : Nat} (h : regionOf (ln * 128) = .dram m) :
    s.noteEcc ln .corrected = s.noteCorrected m (s.storePc m ln) (rowOf ln) := by
  simp only [State.noteEcc, h, if_true]

end Scrub

/-! ## Leaky buckets -/

section Leak

variable {k : Nat}

theorem execBucketLeak_of_empty (h : tabGet 0 s.integ.levels k = 0) : execBucketLeak k s = .next s := if_pos h

theorem execBucketLeak_of_filled (h : tabGet 0 s.integ.levels k ≠ 0) {due : Nat}
    (hdue : due = tabGet 0 s.integ.leakFrom k + s.leakPeriod (k / 2 ^ 48)) :
    execBucketLeak k s = .next (((s.advance due).startLeak k due).setLevel k (tabGet 0 s.integ.levels k - 1)) := by
  subst hdue
  exact if_neg h

@[simp] theorem State.startLeak_levels (s : State) (k t : Nat) : (s.startLeak k t).integ.levels = s.integ.levels := rfl
@[simp] theorem State.startLeak_now (s : State) (k t : Nat) : (s.startLeak k t).now = s.now := rfl

/-- A bucket that is not empty leaks one, at the end of its leak period at the earliest, and no other bucket's level changes (R422). -/
theorem answers_bucketLeak (h : tabGet 0 s.integ.levels k ≠ 0) :
    Answers (.bucketLeak k) s fun t => tabGet 0 t.integ.levels k = tabGet 0 s.integ.levels k - 1 ∧
      (∀ j, j ≠ k → tabGet 0 t.integ.levels j = tabGet 0 s.integ.levels j) ∧
      s.now ≤ t.now ∧ tabGet 0 s.integ.leakFrom k + s.leakPeriod (k / 2 ^ 48) ≤ t.now ∧ t.mem = s.mem := by
  refine ⟨_, execBucketLeak_of_filled h rfl, ?_, fun j hj => ?_, ?_, ?_, ?_⟩
  · rw [State.level_setLevel, if_pos rfl]
  · rw [State.level_setLevel, if_neg hj, State.startLeak_levels, State.advance_integ]
  · exact le_max_left _ _
  · exact le_max_right _ _
  · rw [State.setLevel_mem, State.startLeak_mem, State.advance_mem]

end Leak

end Dram

/-- Settles O49: each clause is the lemma above about its event; a scrub read is split on whether the line can be read. -/
theorem dramEventsAct : Obligations.DramEventsAct := by
  unfold Obligations.DramEventsAct
  intro s temps d lines r ln row k e
  refine ⟨fun hon hcool h => execDramTempReading_of_cool hon hcool, fun c hc s1 s2 => execPseudoChannelCopyEnd_of_copying hc,
    fun done left hdone => execMarginingDone_of_requested hdone,
    fun hr s1 hs1 => ⟨execDramRetrainDone_of_retraining true hr hs1, execDramRetrainDone_of_retraining false hr hs1⟩,
    fun hbacked hleft => ?_, execBucketLeak_of_empty, answers_bucketLeak⟩
  have hread : ∀ e, e ≠ .uncorrectable → s.bad.contains ln = false → exec (.scrubRead (.memory row) ln e) s = .next (s.noteEcc ln e) :=
    fun e hecc hbad => congrArg _ (State.scrubMemory_of_readable hbacked hleft ⟨hecc, hbad⟩)
  refine ⟨fun hlost => congrArg _ (State.scrubMemory_of_lost hbacked hleft hlost), fun hbad => ?_, fun m hbad hm => ?_, fun m hbad hm => ?_⟩
  · exact (hread .clean (by decide) hbad).trans (congrArg _ (s.noteEcc_of_not_corrected ln (by decide)))
  · exact (hread .corrected (by decide) hbad).trans (congrArg _ (State.noteEcc_of_dram hm))
  · exact hread .corrected (by decide) hbad

end Sys2Proof.Machine
end

section
/-! What the answers to a fault record do, and how a record that waits goes to the fault queue (R295, R296, R298). -/

namespace Sys2Proof.Machine

open Sys2Proof

section FaultAnswers

variable {s : State} {ix c op g : Nat} {p : PendingFault}

/-! ## Which record a resume answers -/

theorem State.pendingAt_ix (h : s.pendingAt ix = some p) : p.ix = ix := by
  unfold State.pendingAt at h
  simpa using List.find?_some h

section Resume

variable {ix : BitVec 32}

theorem execFaultRetry_of_none (h : s.pendingAt ix.toNat = none) : execFaultRetry ix s = .next s.ignoreResume := by
  simp [execFaultRetry, State.retryFault, h]

theorem execFaultDecline_of_none (h : s.pendingAt ix.toNat = none) : execFaultDecline ix s = .next s.ignoreResume := by
  simp [execFaultDecline, State.declineFault, h]

theorem execFaultRetry_of_pending (h : s.pendingAt ix.toNat = some p) :
    execFaultRetry ix s = .next (p.waiters.foldl (fun (t : State) w => t.retryWaiter p.ix w)
      ((s.dropPending ix.toNat).uncache p.ctx (p.page * 65536) (p.page * 65536 + 65536))) := by
  simp [execFaultRetry, State.retryFault, h, State.pendingAt_ix h]

theorem execFaultDecline_of_pending (h : s.pendingAt ix.toNat = some p) :
    execFaultDecline ix s = .next ((s.declineOrder p.waiters).foldl (fun (t : State) w => t.declineWaiter p w) (s.dropPending ix.toNat)) := by
  simp [execFaultDecline, State.declineFault, h, State.pendingAt_ix h]

end Resume

/-! ## One waiter -/

@[simp] theorem State.ctx_dropPending (s : State) (ix c : Nat) : (s.dropPending ix).ctx c = s.ctx c := rfl

/-- A waiter that is no group keeps its place (R171). -/
theorem State.declineOrder_singleton {w : Waiter} (h : s.groupRank w = none) : s.declineOrder [w] = [w] := by
  simp [State.declineOrder, h, sortBy]

@[simp] theorem State.flights_noteBoundary (s : State) (c : Nat) (d : Descriptor) (st : FlightSt) :
    ((s.noteBoundary c d st).ctx c).flights = (s.ctx c).flights := by
  cases st <;> simp [State.noteBoundary]

@[simp] theorem State.flights_updHost (s : State) (c : Nat) (f : HostSide → HostSide) :
    ((s.updHost c f).ctx c).flights = (s.ctx c).flights := by
  simp [State.updHost]

@[simp] theorem State.ctx_setRun (s : State) (c : Nat) (r : Option CollRun) (b : Nat) : (s.setRun c r).ctx b = s.ctx b := rfl

theorem State.flights_setFlight (s : State) (c op : Nat) (st : FlightSt) :
    ((s.setFlight c op st).ctx c).flights = (s.ctx c).flights.map fun f => if f.opIndex = op then { f with st := st } else f := by
  simp [State.setFlight]

/-- A stalled operation whose access is declined ends with 0x0201 and the record's INDEX; the other flights stay as they are (R295). -/
theorem State.declineWaiter_op_of_stalled {f : Flight} {l : List Nat} (hf : ((s.ctx c).flights.find? fun f => f.opIndex == op) = some f)
    (hst : f.st = .stalled l) :
    ((s.declineWaiter p (.op c op)).ctx c).flights =
      (s.ctx c).flights.map (fun g => if g.opIndex = op then { g with st := .done (endWith 0x0201 p.ix) } else g) ∧
    (s.declineWaiter p (.op c op)).mem = s.mem := by
  simp [State.declineWaiter, hf, hst, State.flights_setFlight]

theorem State.retryWaiter_group {x : Group} (h : s.group g = some x) :
    s.retryWaiter ix (.group g) = (s.setGroup g (some { x with stalled := x.stalled.filter fun i => i != ix })).refreshBlock x.blk := by
  simp [State.retryWaiter, State.wakeGroup, h]

/-! ## The fault queue -/

/-- While the queue takes nothing, the records that wait go on waiting (R296). -/
theorem State.tryFq_of_full (h : s.fq.ring.base = 0 ∨ s.fq.ring.cap ≤ s.fq.ring.used) : s.tryFq = s := by
  have hstay : s.drainFq s.fq.waiting = { s with fq := { s.fq with waiting := s.fq.waiting } } := by
    cases s.fq.waiting with
    | nil => rfl
    | cons r rest => rw [State.drainFq, if_pos h]
  exact hstay

/-- A record for which the queue has a place is written there, counts and raises source 7,936, and the records behind it follow (R296, R298). -/
theorem State.drainFq_cons {r : BitVec 512} {rest : List (BitVec 512)} {ea : Nat} (hbase : s.fq.ring.base ≠ 0)
    (hroom : s.fq.ring.used < s.fq.ring.cap) (hea : ea = s.fq.ring.base + 64 * (s.fq.ring.producer.toNat % s.fq.ring.cap))
    (hread : s.unreadable ea = none) {s1 : State} (hs1 : s1 = s.wrBytes ea (leBytes r.toNat 64)) :
    s.drainFq (r :: rest) = (({ s1 with fq := { s1.fq with
      ring := { s.fq.ring with producer := s.fq.ring.producer + 1 } } } : State).raise 7936).drainFq rest := by
  subst hea hs1
  have hopen : ¬(s.fq.ring.base = 0 ∨ s.fq.ring.cap ≤ s.fq.ring.used) := fun h => h.elim hbase (Nat.not_le.mpr hroom)
  simp only [State.drainFq, if_neg hopen, hread]

end FaultAnswers

/-- Settles O47: a resume is split on whether it names a pending record, and the fault queue on whether it has a place. -/
theorem faultAnswersAct : Obligations.FaultAnswersAct := by
  unfold Obligations.FaultAnswersAct
  intro s ix
  refine ⟨?ignored, ?answered, fun hfull => congrArg _ (State.tryFq_of_full hfull), ?written⟩
  case ignored =>
    rintro hnone t rfl
    exact ⟨execFaultRetry_of_none hnone, execFaultDecline_of_none hnone⟩
  case answered =>
    rintro p hp s1 rfl s2 rfl
    have hretry := execFaultRetry_of_pending hp
    have hdecline := execFaultDecline_of_pending hp
    refine ⟨hretry, hdecline, fun c op f l hw hf hst => ?_, fun g x hw hg => ?_⟩
    · rw [hw, State.declineOrder_singleton rfl] at hdecline
      exact ⟨_, hdecline, State.declineWaiter_op_of_stalled (s := s.dropPending ix.toNat) hf hst⟩
    · rw [hw] at hretry
      exact hretry.trans (congrArg _ (State.retryWaiter_group hg))
  case written =>
    rintro r ea hw hbase hroom hea hread s1 s2 hs1 rfl
    have htry : s.tryFq = s.drainFq [r] := congrArg _ hw
    exact congrArg _ (htry.trans (State.drainFq_cons hbase hroom hea hread hs1))

end Sys2Proof.Machine
end

section
/-! What the interrupt controller's commands do (R366 to R380), and how the processor cores sleep, wake and reach their timers (R362 to R365, R373). -/

namespace Sys2Proof.Machine

open Sys2Proof

/-! ## Routing -/

section Route

variable {β : Type} (g : SrcState → β)

/-- A part of a source's state that routing does not write (R371, R372): where it is presented, since when, and what excludes it are what routing writes. -/
def KeptByRouting : Prop := ∀ (x : SrcState) (pend : Bool) (shown : Option (Nat × IrqLevel)) (shownAt : Nat) (excluded : List Nat),
  g { x with pend, shown, shownAt, excluded } = g x

variable {g}

theorem Irq.srcOf_setCore (q : Irq) (k n : Nat) (x : CoreSt) : (q.setCore k x).srcOf n = q.srcOf n := rfl

theorem Irq.srcOf_setSrc_keeps (q : Irq) (n m : Nat) {x : SrcState} (h : g x = g (q.srcOf n)) : g ((q.setSrc n x).srcOf m) = g (q.srcOf m) := by
  rw [Irq.srcOf_setSrc]
  split
  · next hm => rw [h, hm]
  · rfl

theorem Irq.srcOf_route (hg : KeptByRouting g) (q : Irq) (now n m : Nat) : g ((q.route now n).srcOf m) = g (q.srcOf m) := by
  have hput : ∀ pend shown, g ((q.setSrc n { q.srcOf n with pend, shown }).srcOf m) = g (q.srcOf m) :=
    fun pend shown => q.srcOf_setSrc_keeps n m (hg (q.srcOf n) pend shown _ _)
  have htwice : ∀ pend shown shownAt excluded, g (((q.setSrc n { q.srcOf n with pend, shown := none }).setSrc n
      { q.srcOf n with pend, shown, shownAt, excluded }).srcOf m) = g (q.srcOf m) := by
    intro pend shown shownAt excluded
    rw [Irq.srcOf_setSrc]
    split
    · next hm => rw [hm, hg]
    · exact hput _ _
  unfold Irq.route
  dsimp only
  split
  · exact hput _ _
  · split
    · split
      · exact htwice _ _ _ _
      · exact hput _ _
    · exact hput _ _

theorem Irq.srcOf_routeAll (hg : KeptByRouting g) (q : Irq) (now m : Nat) : g ((q.routeAll now).srcOf m) = g (q.srcOf m) := by
  unfold Irq.routeAll
  generalize q.src.map Prod.fst = l
  induction l generalizing q with
  | nil => rfl
  | cons n l ih => exact (ih (q.route now n)).trans (Irq.srcOf_route hg q now n m)

end Route

/-! ## Claims -/

/-- The better of two presented sources: the higher priority, the lower number among equals (R374). -/
def claimBetter (best : Option (Nat × Nat)) (e : Nat × Nat) : Option (Nat × Nat) :=
  match best with
  | none => some e
  | some b => if b.1 < e.1 || (b.1 == e.1 && e.2 < b.2) then some e else some b

theorem claimPick_eq (l : List (Nat × Nat)) : claimPick l = (l.foldl claimBetter none).map Prod.snd := rfl

/-- What a fold has picked is one of the sources it saw, and none of them comes before it (R374). -/
theorem exists_foldl_claimBetter (l : List (Nat × Nat)) (b : Nat × Nat) : ∃ p n, l.foldl claimBetter (some b) = some (p, n) ∧ (p, n) ∈ b :: l ∧
    ∀ e ∈ b :: l, e.1 < p ∨ (e.1 = p ∧ n ≤ e.2) := by
  induction l generalizing b with
  | nil => exact ⟨b.1, b.2, rfl, by simp, by simp⟩
  | cons e l ih =>
    rw [List.foldl_cons]
    by_cases hlt : b.1 < e.1 ∨ (b.1 = e.1 ∧ e.2 < b.2)
    · have hstep : claimBetter (some b) e = some e := by simp [claimBetter, hlt]
      obtain ⟨p, n, hfold, hmem, hbest⟩ := ih e
      have he := hbest e (by simp)
      refine ⟨p, n, (congrArg (l.foldl claimBetter) hstep).trans hfold, List.mem_cons_of_mem _ hmem, fun x hx => ?_⟩
      rcases List.mem_cons.mp hx with rfl | hx
      · omega
      · exact hbest x hx
    · have hstep : claimBetter (some b) e = some b := by simp [claimBetter, hlt]
      obtain ⟨p, n, hfold, hmem, hbest⟩ := ih b
      have hb := hbest b (by simp)
      refine ⟨p, n, (congrArg (l.foldl claimBetter) hstep).trans hfold, ?_, fun x hx => ?_⟩
      · rcases List.mem_cons.mp hmem with h | h <;> simp [h]
      · simp only [List.mem_cons] at hx
        rcases hx with rfl | rfl | hx
        · exact hb
        · omega
        · exact hbest x (List.mem_cons_of_mem _ hx)

theorem exists_claimPick {l : List (Nat × Nat)} (hl : l ≠ []) : ∃ p n, (p, n) ∈ l ∧ (∀ e ∈ l, e.1 < p ∨ (e.1 = p ∧ n ≤ e.2)) ∧ claimPick l = some n := by
  cases l with
  | nil => exact absurd rfl hl
  | cons b r =>
    obtain ⟨p, n, hfold, hmem, hbest⟩ := exists_foldl_claimBetter r b
    exact ⟨p, n, hmem, hbest, by rw [claimPick_eq, List.foldl_cons]; exact congrArg _ hfold⟩

/-- A claimed source is in service on its core, with nothing counted since (R374). -/
theorem Irq.srcOf_claim (q : Irq) (now n k : Nat) (lv : IrqLevel) : ((q.claim now n k lv).srcOf n).service = some (k, lv) ∧
    ((q.claim now n k lv).srcOf n).count = 0 ∧ ((q.claim now n k lv).srcOf n).first = none := by
  unfold Irq.claim
  refine ⟨?_, ?_, ?_⟩
  · rw [Irq.srcOf_routeAll (g := SrcState.service) (fun _ _ _ _ _ => rfl), Irq.srcOf_setSrc, if_pos rfl]
  · rw [Irq.srcOf_routeAll (g := SrcState.count) (fun _ _ _ _ _ => rfl), Irq.srcOf_setSrc, if_pos rfl]
  · rw [Irq.srcOf_routeAll (g := SrcState.first) (fun _ _ _ _ _ => rfl), Irq.srcOf_setSrc, if_pos rfl]

/-- An enabled source that R366 lists counts its event, and stays in service where it was (R370, R374). -/
theorem Irq.srcOf_event_of_enabled {q : Irq} {now n : Nat} (hen : cfgEnable (q.cfgOf n) = true) (hn : n ≤ 7961) :
    ((q.event now n).srcOf n).count = min 65535 ((q.srcOf n).count + 1) ∧ ((q.event now n).srcOf n).service = (q.srcOf n).service := by
  have hcounts : (cfgEnable (q.cfgOf n) && decide (n ≤ 7961)) = true := by simp [hen, hn]
  unfold Irq.event
  dsimp only
  rw [if_pos hcounts]
  constructor
  · rw [Irq.srcOf_route (g := SrcState.count) (fun _ _ _ _ _ => rfl), Irq.srcOf_setSrc, if_pos rfl]
  · rw [Irq.srcOf_route (g := SrcState.service) (fun _ _ _ _ _ => rfl), Irq.srcOf_setSrc, if_pos rfl]

section Claim

variable {s : State} {k : Fin 96} {lv : IrqLevel}

theorem execClaim_of_none (hk : corePresent s.dev.variant k = true) (hpow : s.powered = true) (hnone : s.irq.shownAtCore k lv = []) :
    execClaim k lv s = .next (s.answer (claimOffset k lv) (leBytes 0 8)) := by
  rw [execClaim, State.whenPowered_of_powered _ hpow, State.claimRead, if_pos hk, hnone]
  rfl

theorem execClaim_of_pick {n : Nat} (hk : corePresent s.dev.variant k = true) (hpow : s.powered = true)
    (hpick : claimPick (s.irq.shownAtCore k lv) = some n) : execClaim k lv s = .next (({ s with irq := s.irq.claim s.now n k lv } : State).answer
      (claimOffset k lv) (leBytes (claimWord n (s.irq.srcOf n).count) 8)) := by
  rw [execClaim, State.whenPowered_of_powered _ hpow, State.claimRead, if_pos hk, hpick]

end Claim

/-- Settles O15: what is presented is split into nothing and a list, of which the claim picks the best. -/
theorem claimReadsTheHighestSource : Obligations.ClaimReadsTheHighestSource := by
  unfold Obligations.ClaimReadsTheHighestSource
  intro s k lv hk hpow
  refine ⟨fun hnone => ⟨_, execClaim_of_none hk hpow hnone, rfl, rfl⟩, fun hsome => ?_, fun n hen hn => ⟨_, rfl, Irq.srcOf_event_of_enabled hen hn⟩,
    fun n j l hserved hother => ?_⟩
  · obtain ⟨p, n, hmem, hbest, hpick⟩ := exists_claimPick hsome
    exact ⟨p, n, _, hmem, hbest, execClaim_of_pick hk hpow hpick, rfl, s.irq.srcOf_claim s.now n k lv⟩
  · rw [hserved] at hother
    cases hother
    exact ⟨rfl, rfl⟩

/-! ## The other commands -/

section Commands

variable {s : State} {n : Fin 8192} {k : Fin 96} {lv : IrqLevel} {v : BitVec 64}

theorem State.raise_eq {q : Irq} (n : Nat)
    (hcounts : cfgEnable (s.irq.cfgOf n) = true ∧ n ≤ 7961 → q = (s.irq.setSrc n { s.irq.srcOf n with
      count := min 65535 ((s.irq.srcOf n).count + 1),
      first := if (s.irq.srcOf n).first.isSome then (s.irq.srcOf n).first else some s.now }).route s.now n)
    (hnot : cfgEnable (s.irq.cfgOf n) = false ∨ 7961 < n → q = s.irq) : s.raise n = { s with irq := q } := by
  unfold State.raise Irq.event
  dsimp only
  by_cases h : cfgEnable (s.irq.cfgOf n) = true ∧ n ≤ 7961
  · rw [if_pos (by simp [h]), hcounts h]
  · have hno : cfgEnable (s.irq.cfgOf n) = false ∨ 7961 < n := by
      by_cases hen : cfgEnable (s.irq.cfgOf n) = true
      · exact .inr (by simpa [hen] using h)
      · exact .inl (by simpa using hen)
    rw [if_neg (by simpa using h), hnot hno]

theorem execSetPend_of_powered {die : Fin 2} (hpow : s.powered = true) (hdie : die = 0 ∨ hasPd1 s.dev.variant = true) :
    execSetPend die v s = .next (s.raise (bitsOf v.toNat 0 13)) := by
  have hslice : (die.val == 0 || hasPd1 s.dev.variant) = true := by
    rcases hdie with rfl | h
    · rfl
    · rw [h, Bool.or_true]
  rw [execSetPend, State.whenPowered_of_powered _ hpow, State.setPendWrite, if_pos hslice]

theorem execThresholdWrite_of_range (hk : corePresent s.dev.variant k = true) (hpow : s.powered = true) (ht : bitsOf v.toNat 0 5 ≤ 16) :
    execThresholdWrite k lv v s =
      .next { s with irq := (s.irq.setCore k (atThreshold (s.irq.coreOf k) lv (bitsOf v.toNat 0 5))).routeAll s.now } := by
  rw [execThresholdWrite, State.whenPowered_of_powered _ hpow, State.setThreshold, if_pos hk, if_neg (Nat.not_lt.mpr ht)]
  cases lv <;> rfl

theorem execThresholdWrite_of_large (hk : corePresent s.dev.variant k = true) (hpow : s.powered = true) (ht : 16 < bitsOf v.toNat 0 5) :
    execThresholdWrite k lv v s = .next { s with irq := s.irq.ignore (k.val / 48) } := by
  rw [execThresholdWrite, State.whenPowered_of_powered _ hpow, State.setThreshold, if_pos hk, if_pos ht]
  rfl

theorem execComplete_of_served (hk : corePresent s.dev.variant k = true) (hpow : s.powered = true)
    (hserved : (s.irq.srcOf (bitsOf v.toNat 0 13)).service = some (k.val, lv)) : execComplete k lv v s = .next { s with
      irq := (s.irq.setSrc (bitsOf v.toNat 0 13) { s.irq.srcOf (bitsOf v.toNat 0 13) with service := none }).routeAll s.now } := by
  rw [execComplete, State.whenPowered_of_powered _ hpow, State.completeWrite, if_pos hk, if_pos (beq_iff_eq.mpr hserved)]

theorem execComplete_of_other (hk : corePresent s.dev.variant k = true) (hpow : s.powered = true)
    (hother : (s.irq.srcOf (bitsOf v.toNat 0 13)).service ≠ some (k.val, lv)) :
    execComplete k lv v s = .next { s with irq := s.irq.ignore (k.val / 48) } := by
  rw [execComplete, State.whenPowered_of_powered _ hpow, State.completeWrite, if_pos hk, if_neg (mt beq_iff_eq.mp hother)]
  rfl

theorem execCoalesceTimeout_of_counted {t : Nat} (hfirst : (s.irq.srcOf n).first = some t) (hen : cfgEnable (s.irq.cfgOf n) = true)
    (hcount : 0 < (s.irq.srcOf n).count) (hus : 0 < cfgUs (s.irq.cfgOf n)) :
    execCoalesceTimeout n s = .next { s.advance (t + 1000 * cfgUs (s.irq.cfgOf n)) with
      irq := s.irq.route (max s.now (t + 1000 * cfgUs (s.irq.cfgOf n))) n } := by
  simp [execCoalesceTimeout, hfirst, hen, hcount, hus, State.advance]

/-- The reroute time routes a presented source again, its core excluded (R372). -/
theorem execRerouteTimeout_of_shown {j us : Nat} {l : IrqLevel} (hshown : (s.irq.srcOf n).shown = some (j, l))
    (hus : us = bitsOf (s.irq.sliceOf (j / 48)).control.eff.toNat 0 16) (hne : us ≠ 0) :
    execRerouteTimeout n s = .next { s.advance ((s.irq.srcOf n).shownAt + 1000 * us) with
      irq := ((s.irq.setSrc n { s.irq.srcOf n with shown := none, excluded := [j] }).setSlice (j / 48)
        { s.irq.sliceOf (j / 48) with reroutes := satInc 16 (s.irq.sliceOf (j / 48)).reroutes }).route
          (max s.now ((s.irq.srcOf n).shownAt + 1000 * us)) n } := by
  subst hus
  simp [execRerouteTimeout, hshown, sliceOfCore, hne, State.advance]

end Commands

/-- Settles O16: each clause is the lemma above about its command. -/
theorem interruptCommandsAct : Obligations.InterruptCommandsAct := by
  unfold Obligations.InterruptCommandsAct
  intro s n die k lv v
  refine ⟨fun hoff i hi => ?off, fun q hcounts hnot => ⟨congrArg _ (State.raise_eq _ hcounts hnot), fun hpow hdie hn => ?pend⟩,
    fun hpow => State.whenPowered_of_powered (fun t => t.maskSource n v) hpow,
    fun hk hpow => ⟨execThresholdWrite_of_range hk hpow, execThresholdWrite_of_large hk hpow, execComplete_of_served hk hpow, execComplete_of_other hk hpow⟩,
    fun t => execCoalesceTimeout_of_counted, fun j l us => execRerouteTimeout_of_shown⟩
  case off =>
    simp only [List.mem_cons, List.not_mem_nil, or_false] at hi
    rcases hi with rfl | rfl | rfl | rfl | rfl
    · exact State.whenPowered_of_not_powered (fun t => t.setPendWrite die v) hoff
    · exact State.whenPowered_of_not_powered (fun t => t.maskSource n v) hoff
    · exact State.whenPowered_of_not_powered (fun t => t.setThreshold k lv v) hoff
    · exact State.whenPowered_of_not_powered (fun t => t.completeWrite k lv v) hoff
    · exact State.whenPowered_of_not_powered (fun t => t.claimRead k lv) hoff
  case pend =>
    refine (execSetPend_of_powered hpow hdie).trans (congrArg _ ?_)
    rw [hn]
    exact State.raise_eq _ hcounts hnot

/-! ## What they leave unchanged -/

/-- What a command that only acts while the hubs run leaves: either its effect, or nothing (R409). -/
theorem State.of_whenPowered {s t : State} {f : State → State} {P : State → Prop} (h : s.whenPowered f = .next t) (hact : P (f s)) (hidle : P s) : P t := by
  unfold State.whenPowered at h
  cases h
  split
  · exact hact
  · exact hidle

section Frames

variable {s : State}

theorem State.completeWrite_frame (k : Nat) (lv : IrqLevel) (v : W64) : s.completeWrite k lv v = { s with irq := (s.completeWrite k lv v).irq } := by
  unfold State.completeWrite
  dsimp only
  repeat' split
  all_goals rfl

theorem State.setThreshold_frame (k : Nat) (lv : IrqLevel) (v : W64) : s.setThreshold k lv v = { s with irq := (s.setThreshold k lv v).irq } := by
  unfold State.setThreshold
  dsimp only
  repeat' split
  all_goals rfl

theorem State.setPendWrite_frame (die : Nat) (v : W64) : s.setPendWrite die v = { s with irq := (s.setPendWrite die v).irq } := by
  unfold State.setPendWrite
  split <;> rfl

theorem State.claimRead_frame (k : Nat) (lv : IrqLevel) :
    s.claimRead k lv = { s with irq := (s.claimRead k lv).irq, out := { s.out with reads := (s.claimRead k lv).out.reads } } := by
  unfold State.claimRead
  repeat' split
  all_goals rfl

theorem execCoalesceTimeout_frame {t : State} {n : Fin 8192} (h : execCoalesceTimeout n s = .next t) :
    t = { s with now := t.now, irq := t.irq } ∧ s.now ≤ t.now := by
  unfold execCoalesceTimeout at h
  dsimp only at h
  split at h
  · split at h
    · cases h; exact ⟨rfl, le_max_left _ _⟩
    · cases h; exact ⟨rfl, Nat.le_refl _⟩
  · cases h; exact ⟨rfl, Nat.le_refl _⟩

theorem execRerouteTimeout_frame {t : State} {n : Fin 8192} (h : execRerouteTimeout n s = .next t) :
    t = { s with now := t.now, irq := t.irq } ∧ s.now ≤ t.now := by
  unfold execRerouteTimeout at h
  dsimp only at h
  split at h
  · split at h
    · cases h; exact ⟨rfl, Nat.le_refl _⟩
    · cases h; exact ⟨rfl, le_max_left _ _⟩
  · cases h; exact ⟨rfl, Nat.le_refl _⟩

end Frames

/-- Settles O17: each command's frame is that of the write it makes, in a state where the hubs run, and nothing changes elsewhere. -/
theorem interruptCommandsFrame : Obligations.InterruptCommandsFrame := by
  unfold Obligations.InterruptCommandsFrame
  intro s t n die k lv v i hexec
  refine ⟨fun hi => ?writes, fun hi => ?claim, fun hi => ?timeouts⟩
  case writes =>
    simp only [List.mem_cons, List.not_mem_nil, or_false] at hi
    rcases hi with rfl | rfl | rfl | rfl | rfl
    · cases hexec; rfl
    · exact State.of_whenPowered (P := fun t => t = { s with irq := t.irq }) hexec (State.setPendWrite_frame _ _) rfl
    · exact State.of_whenPowered (f := fun t => t.maskSource n v) (P := fun t => t = { s with irq := t.irq }) hexec rfl rfl
    · exact State.of_whenPowered (P := fun t => t = { s with irq := t.irq }) hexec (State.setThreshold_frame _ _ _) rfl
    · exact State.of_whenPowered (P := fun t => t = { s with irq := t.irq }) hexec (State.completeWrite_frame _ _ _) rfl
  case claim =>
    subst hi
    exact State.of_whenPowered (f := fun t => t.claimRead k lv)
      (P := fun t => t = { s with irq := t.irq, out := { s.out with reads := t.out.reads } }) hexec (State.claimRead_frame _ _) rfl
  case timeouts =>
    simp only [List.mem_cons, List.not_mem_nil, or_false] at hi
    rcases hi with rfl | rfl
    · exact execCoalesceTimeout_frame hexec
    · exact execRerouteTimeout_frame hexec

/-! ## Sleep, wake and timers -/

section Cores

variable {s : State} {k : Fin 96} {m : Fin 2} {cause : WakeCause}

/-- A core that is awake, to which nothing is presented and for which no local interrupt is pending, sleeps (R364, R373). -/
theorem execWfi_of_idle (hm : m = if k.val < 48 then 0 else 1) (hlive : s.coreLive k = true) (hawake : (s.irq.coreOf k).sleep = 0)
    (hshown : s.irq.shownSince k = none) (hlocal : s.localWake k [3, 5, 6, 7] = false) : execWfi k s = .next ((s.sleepCore k).tryDieOff m) := by
  subst hm
  simp [execWfi, hlive, hawake, hshown, hlocal]

theorem execWfi_of_busy (h : s.coreLive k = false ∨ (s.irq.coreOf k).sleep ≠ 0 ∨ s.irq.shownSince k ≠ none ∨ s.localWake k [3, 5, 6, 7] = true) :
    execWfi k s = .next s := by
  refine if_pos ?_
  rcases h with h | h | h | h
  · simp [h]
  · simp [h]
  · simp [Option.isSome_iff_ne_none.mpr h]
  · simp [h]

theorem execCoreWake_of_die_on (hm : m = if k.val < 48 then 0 else 1) (hsleep : (s.irq.coreOf k).sleep ≠ 0) (hwakes : s.wakes k cause = true)
    (hon : (s.irq.sliceOf m).dieOff = false) : execCoreWake k cause s = .next { s with
      now := max s.now ((s.irq.coreOf k).wokenAt.getD s.now + wakeNs (s.irq.coreOf k).sleep false)
      irq := s.irq.setCore k { s.irq.coreOf k with sleep := 0, wokenAt := none } } := by
  subst hm
  have hgo : ¬((s.irq.coreOf k).sleep = 0 ∨ (!s.wakes k cause) = true) := by simp [hsleep, hwakes]
  unfold execCoreWake
  dsimp only
  rw [if_neg hgo, hon]
  rfl

/-- A die that was off leaves die off before its core runs, and its Heartbeats resume (R364, R365). -/
theorem execCoreWake_of_die_off (hm : m = if k.val < 48 then 0 else 1) (hsleep : (s.irq.coreOf k).sleep ≠ 0) (hwakes : s.wakes k cause = true)
    (hoff : (s.irq.sliceOf m).dieOff = true) : execCoreWake k cause s = .next { s with
      now := max s.now ((s.irq.coreOf k).wokenAt.getD s.now + wakeNs (s.irq.coreOf k).sleep true)
      irq := (s.irq.setCore k { s.irq.coreOf k with sleep := 0, wokenAt := none }).setSlice m { s.irq.sliceOf m with dieOff := false }
      coh := { s.coh with sent := s.coh.sent ++ [⟨.pd m, (dieAgents (.pd m)).filter fun a => s.agentLive a, false⟩] } } := by
  subst hm
  have hgo : ¬((s.irq.coreOf k).sleep = 0 ∨ (!s.wakes k cause) = true) := by simp [hsleep, hwakes]
  unfold execCoreWake
  dsimp only
  rw [if_neg hgo, hoff]
  rfl

theorem execCoreWake_of_not_woken (h : (s.irq.coreOf k).sleep = 0 ∨ s.wakes k cause = false) : execCoreWake k cause s = .next s :=
  if_pos (h.imp id fun hw => by rw [hw]; rfl)

/-- A source presented to a sleeping core wakes it, from the first presentation on (R373). -/
theorem CoreSt.wokenAt_presented {c : CoreSt} (now stamp : Nat) (hsleep : c.sleep ≠ 0) :
    (c.presented now stamp).wokenAt = some (c.wokenAt.getD now) := by
  unfold CoreSt.presented
  cases hw : c.wokenAt <;> simp [hsleep]

/-- Bits of `mip` that follow the timers (R362, R364, R380). -/
theorem State.bitAt_mip (s : State) (k : Nat) (which : CoreTimer) :
    bitAt (s.mip k) (match which with | .mtimecmp => 7 | .stimecmp => 5 | .vstimecmp => 6) =
      decide ((compareOf (s.irq.coreOf k) which).toNat ≤ s.now) := by
  have hbit : ∀ b : Bool, b2n b < 2 ∧ (b = true ↔ b2n b = 1) := by decide
  have hmsip := hbit (s.irq.coreOf k).msip
  have hstip := hbit (decide ((s.irq.coreOf k).stimecmp.toNat ≤ s.now))
  have hvstip := hbit (decide ((s.irq.coreOf k).vstimecmp.toNat ≤ s.now))
  have hmtip := hbit (decide ((s.irq.coreOf k).mtimecmp.toNat ≤ s.now))
  have hseip := hbit (!(s.irq.shownAtCore k .s).isEmpty)
  have hmeip := hbit (!(s.irq.shownAtCore k .m).isEmpty)
  have hlcofip := hbit (s.irq.coreOf k).lcofi
  rw [Bool.eq_iff_iff]
  cases which
  case mtimecmp =>
    refine Iff.trans ?_ hmtip.2.symm
    simp only [State.mip, bitAt, Nat.shiftRight_eq_div_pow, beq_iff_eq]
    omega
  case stimecmp =>
    refine Iff.trans ?_ hstip.2.symm
    simp only [State.mip, bitAt, Nat.shiftRight_eq_div_pow, beq_iff_eq]
    omega
  case vstimecmp =>
    refine Iff.trans ?_ hvstip.2.symm
    simp only [State.mip, bitAt, Nat.shiftRight_eq_div_pow, beq_iff_eq]
    omega

theorem execTimerCompareReached_of_present {which : CoreTimer} (hk : corePresent s.dev.variant k = true)
    (hv : compareOf (s.irq.coreOf k) which ≠ 0xFFFFFFFFFFFFFFFF#64) :
    execTimerCompareReached k which s = .next (s.advance (compareOf (s.irq.coreOf k) which).toNat) := by
  simp [execTimerCompareReached, hk, hv]

theorem execTimerCompareReached_of_never {which : CoreTimer} (hv : compareOf (s.irq.coreOf k) which = 0xFFFFFFFFFFFFFFFF#64) :
    execTimerCompareReached k which s = .next s := by
  simp [execTimerCompareReached, hv]

end Cores

/-- Settles O18: each clause is the lemma above about its command. -/
theorem coresSleepAndWake : Obligations.CoresSleepAndWake := by
  unfold Obligations.CoresSleepAndWake
  exact fun s k m cause hm => ⟨execWfi_of_idle hm, execWfi_of_busy, execCoreWake_of_die_on hm, execCoreWake_of_die_off hm, execCoreWake_of_not_woken,
    fun stamp now => CoreSt.wokenAt_presented now stamp⟩

/-- Settles O19: device time reaches the compare register, and then the bit of `mip` that compares with it is set. -/
theorem timersAreReached : Obligations.TimersAreReached := by
  unfold Obligations.TimersAreReached
  rintro s k which v rfl hk
  refine ⟨fun hv => ⟨execTimerCompareReached_of_present hk hv, ?_⟩, execTimerCompareReached_of_never⟩
  exact (State.bitAt_mip _ k which).trans (decide_eq_true (le_max_right _ _))

end Sys2Proof.Machine
end

section
/-! What the context commands do in every state of their context (R11 to R14, R471), and what they leave unchanged (R467). -/

namespace Sys2Proof.Machine

open Sys2Proof

/-! ## The commands by the state of their context -/

section ContextCommands

variable {s : State} {b k : Nat} {x : Ctx} (hx : x = s.ctx (s.bank b).sel)
include hx

theorem State.createCtx_of_free (hfree : x.st = .free) (hk : s.partExists k = true) :
    s.createCtx b k = (s.setCtx (s.bank b).sel { Ctx.free with st := .stopped, part := some k }).told b 1 0 := by
  simp [State.createCtx, ← hx, hfree, hk]

theorem State.createCtx_of_absent_part (hfree : x.st = .free) (hk : s.partExists k = false) : s.createCtx b k = s.told b 1 3 := by
  simp [State.createCtx, ← hx, hfree, hk]

theorem State.createCtx_of_created (hst : x.st ≠ .free) : s.createCtx b k = s.told b 1 2 := by
  simp [State.createCtx, ← hx, hst]

theorem State.startCtx_of_stopped (hst : x.st = .stopped) (hpart : x.part.isSome = true) (hq : qAddr x ≠ 0) (hc : cAddr x ≠ 0) :
    s.startCtx b = (s.setCtx (s.bank b).sel { x with pendStart := true }).told b 2 1 := by
  have hbound : x.part ≠ none := Option.isSome_iff_ne_none.mp hpart
  simp [State.startCtx, ← hx, hst, hbound, hq, hc]

theorem State.startCtx_of_not_stopped (hst : x.st ≠ .stopped) : s.startCtx b = s.told b 2 2 := by
  simp [State.startCtx, ← hx, hst]

theorem State.stopCtx_of_active (hst : x.st = .runnable ∨ x.st = .parked) :
    s.stopCtx b = (s.setCtx (s.bank b).sel { x with pendStop := true }).told b 3 1 := by
  simp [State.stopCtx, State.updCtx, ← hx, ctxActive, hst]

theorem State.stopCtx_of_inactive (hrunnable : x.st ≠ .runnable) (hparked : x.st ≠ .parked) : s.stopCtx b = s.told b 3 2 := by
  simp [State.stopCtx, ← hx, ctxActive, hrunnable, hparked]

theorem State.resumeCtx_of_halted (hst : x.st = .halted) (hpart : x.part.isSome = true) (hwait : x.waiting = []) :
    s.resumeCtx b = ((((s.setCtx (s.bank b).sel { x with st := .runnable, deficit := 0 }).clearRegion (s.bank b).sel).refreshRun).told b 4 0) := by
  have hbound : x.part ≠ none := Option.isSome_iff_ne_none.mp hpart
  simp [State.resumeCtx, ← hx, hst, hbound, hwait]

theorem State.resumeCtx_of_not_halted (hst : x.st ≠ .halted) : s.resumeCtx b = s.told b 4 2 := by
  simp [State.resumeCtx, ← hx, hst]

theorem State.killCmd_of_live (hfree : x.st ≠ .free) (hkilled : x.st ≠ .killed) : s.killCmd b = (s.killCtx (s.bank b).sel).told b 5 0 := by
  simp [State.killCmd, ← hx, hfree, hkilled]

theorem State.killCmd_of_dead (hst : x.st = .free ∨ x.st = .killed) : s.killCmd b = s.told b 5 2 := by
  simp [State.killCmd, ← hx, hst]

theorem State.destroyCtx_of_ended (hst : x.st = .stopped ∨ x.st = .halted ∨ x.st = .killed) (hgrant : granted x = false) :
    s.destroyCtx b = (s.freeCtx (s.bank b).sel).told b 6 0 := by
  rcases hst with h | h | h <;> simp [State.destroyCtx, ← hx, ctxActive, h, hgrant]

theorem State.destroyCtx_of_running (hst : x.st = .free ∨ x.st = .runnable ∨ x.st = .parked) : s.destroyCtx b = s.told b 6 2 := by
  rcases hst with h | h | h <;> simp [State.destroyCtx, ← hx, ctxActive, h]

theorem State.rebindCmd_of_dead (hst : x.st = .free ∨ x.st = .killed) : s.rebindCmd b k = s.told b 7 2 := by
  simp [State.rebindCmd, ← hx, hst]

theorem State.rebindCmd_of_absent_part (hfree : x.st ≠ .free) (hkilled : x.st ≠ .killed) (hk : s.partExists k = false) :
    s.rebindCmd b k = s.told b 7 3 := by
  simp [State.rebindCmd, ← hx, hfree, hkilled, hk]

/-- An unbound context is bound at once; the others wait for the partition that they leave (R11, R58). -/
theorem State.rebindCmd_of_live (hfree : x.st ≠ .free) (hkilled : x.st ≠ .killed) (hk : s.partExists k = true) :
    s.rebindCmd b k = if x.part.isNone then (s.setCtx (s.bank b).sel { x with part := some k, pendRebind := none }).told b 7 0
      else (s.setCtx (s.bank b).sel { x with pendRebind := some k }).told b 7 1 := by
  simp only [State.rebindCmd, ← hx, hk, beq_eq_false_iff_ne.mpr hfree, beq_eq_false_iff_ne.mpr hkilled, Bool.or_self, Bool.not_true,
    Bool.false_eq_true, if_false]

end ContextCommands

/-- Settles O12: while the device runs each command is its operation, of which each clause is the lemma above; elsewhere nothing acts. -/
theorem contextCommandsAct : Obligations.ContextCommandsAct := by
  unfold Obligations.ContextCommandsAct
  rintro s b k _ x rfl hx
  refine ⟨fun hoff i hi => ?off, fun hpow => ?on⟩
  case off =>
    simp only [List.mem_cons, List.not_mem_nil, or_false] at hi
    rcases hi with rfl | rfl | rfl | rfl | rfl | rfl | rfl
    · exact State.whenPowered_of_not_powered (fun t => t.createCtx b k) hoff
    · exact State.whenPowered_of_not_powered (fun t => t.startCtx b) hoff
    · exact State.whenPowered_of_not_powered (fun t => t.stopCtx b) hoff
    · exact State.whenPowered_of_not_powered (fun t => t.resumeCtx b) hoff
    · exact State.whenPowered_of_not_powered (fun t => t.killCmd b) hoff
    · exact State.whenPowered_of_not_powered (fun t => t.destroyCtx b) hoff
    · exact State.whenPowered_of_not_powered (fun t => t.rebindCmd b k) hoff
  case on =>
    have hcreate : exec (.create b k) s = .next (s.createCtx b k) := State.whenPowered_of_powered (fun t => t.createCtx b k) hpow
    have hstart : exec (.start b) s = .next (s.startCtx b) := State.whenPowered_of_powered (fun t => t.startCtx b) hpow
    have hstop : exec (.stop b) s = .next (s.stopCtx b) := State.whenPowered_of_powered (fun t => t.stopCtx b) hpow
    have hresume : exec (.resume b) s = .next (s.resumeCtx b) := State.whenPowered_of_powered (fun t => t.resumeCtx b) hpow
    have hkill : exec (.kill b) s = .next (s.killCmd b) := State.whenPowered_of_powered (fun t => t.killCmd b) hpow
    have hdestroy : exec (.destroy b) s = .next (s.destroyCtx b) := State.whenPowered_of_powered (fun t => t.destroyCtx b) hpow
    have hrebind : exec (.rebind b k) s = .next (s.rebindCmd b k) := State.whenPowered_of_powered (fun t => t.rebindCmd b k) hpow
    rw [hcreate, hstart, hstop, hresume, hkill, hdestroy, hrebind]
    exact ⟨fun hfree hk => congrArg _ (State.createCtx_of_free hx hfree hk),
      fun hst hpart hq hc => congrArg _ (State.startCtx_of_stopped hx hst hpart hq hc),
      fun hst => congrArg _ (State.stopCtx_of_active hx hst),
      fun hst hpart hwait => congrArg _ (State.resumeCtx_of_halted hx hst hpart hwait),
      fun hfree hkilled => congrArg _ (State.killCmd_of_live hx hfree hkilled),
      fun hst hgrant => congrArg _ (State.destroyCtx_of_ended hx hst hgrant),
      fun hfree hkilled hk => congrArg _ (State.rebindCmd_of_live hx hfree hkilled hk),
      fun hst => congrArg _ (State.createCtx_of_created hx hst),
      fun hfree hk => congrArg _ (State.createCtx_of_absent_part hx hfree hk),
      fun hst => congrArg _ (State.startCtx_of_not_stopped hx hst),
      fun hrunnable hparked => congrArg _ (State.stopCtx_of_inactive hx hrunnable hparked),
      fun hst => congrArg _ (State.resumeCtx_of_not_halted hx hst),
      fun hst => ⟨congrArg _ (State.killCmd_of_dead hx hst), congrArg _ (State.rebindCmd_of_dead hx hst)⟩,
      fun hst => congrArg _ (State.destroyCtx_of_running hx hst),
      fun hfree hkilled hk => congrArg _ (State.rebindCmd_of_absent_part hx hfree hkilled hk)⟩

/-! ## Their frame -/

/-- `t` differs from `s` at most in bank `b` and in the context that the bank names, which it goes on naming. -/
structure BankFrame (s : State) (b : Nat) (t : State) : Prop where
  rest : ∃ l m, t = { s with ctxs := l, banks := { s.banks with ctx := m } }
  contexts : ∀ c, c ≠ (s.bank b).sel → t.ctx c = s.ctx c
  banks : ∀ b', b' ≠ b → t.bank b' = s.bank b'
  names : (t.bank b).sel = (s.bank b).sel

section BankFrame

variable {s t : State} {b : Nat}

theorem BankFrame.refl (s : State) (b : Nat) : BankFrame s b s := ⟨⟨_, _, rfl⟩, fun _ _ => rfl, fun _ _ => rfl, rfl⟩

theorem BankFrame.setCtx (h : BankFrame s b t) (x : Ctx) : BankFrame s b (t.setCtx (s.bank b).sel x) where
  rest := by
    obtain ⟨l, m, rfl⟩ := h.rest
    exact ⟨_, m, rfl⟩
  contexts c hc := (State.ctx_setCtx _ _ _ _).trans ((if_neg hc).trans (h.contexts c hc))
  banks := h.banks
  names := h.names

theorem BankFrame.updCtx (h : BankFrame s b t) (f : Ctx → Ctx) : BankFrame s b (t.updCtx (s.bank b).sel f) := h.setCtx _

/-- A bank that goes on naming its context may hold anything else. -/
theorem BankFrame.setBank (h : BankFrame s b t) {y : CtxBank} (hy : y.sel = (t.bank b).sel) : BankFrame s b (t.setBank b y) where
  rest := by
    obtain ⟨l, m, rfl⟩ := h.rest
    exact ⟨l, _, rfl⟩
  contexts := h.contexts
  banks b' hb := (State.bank_setBank t b b' y).trans ((if_neg hb).trans (h.banks b' hb))
  names := by rw [State.bank_setBank, if_pos rfl, hy, h.names]

theorem BankFrame.told (h : BankFrame s b t) (op code : Nat) : BankFrame s b (t.told b op code) := h.setBank rfl

theorem BankFrame.unstage (h : BankFrame s b t) (off n : Nat) : BankFrame s b (t.unstage b off n) := h.setBank rfl

variable (s b) (k : Nat) (w : W64)

theorem State.createCtx_frame : BankFrame s b (s.createCtx b k) := by
  unfold State.createCtx
  dsimp only
  split
  · exact (BankFrame.refl s b).told _ _
  · split
    · exact (BankFrame.refl s b).told _ _
    · exact ((BankFrame.refl s b).setCtx _).told _ _

theorem State.startCtx_frame : BankFrame s b (s.startCtx b) := by
  unfold State.startCtx
  dsimp only
  split
  · exact (BankFrame.refl s b).told _ _
  · split
    · exact (BankFrame.refl s b).told _ _
    · exact ((BankFrame.refl s b).setCtx _).told _ _

theorem State.stopCtx_frame : BankFrame s b (s.stopCtx b) := by
  unfold State.stopCtx
  dsimp only
  split
  · exact ((BankFrame.refl s b).updCtx _).told _ _
  · exact (BankFrame.refl s b).told _ _

theorem State.rebindCmd_frame : BankFrame s b (s.rebindCmd b k) := by
  unfold State.rebindCmd
  dsimp only
  split
  · exact (BankFrame.refl s b).told _ _
  · split
    · exact (BankFrame.refl s b).told _ _
    · split <;> exact ((BankFrame.refl s b).setCtx _).told _ _

theorem State.commitPolicy_frame : BankFrame s b (s.commitPolicy b w) := by
  have hused := (BankFrame.refl s b).unstage 0x180 8
  unfold State.commitPolicy
  dsimp only
  split
  · exact hused
  · split
    · exact (hused.setCtx _).updCtx _
    · exact hused.setCtx _

theorem State.commitTranslation_frame : BankFrame s b (s.commitTranslation b w) := by
  have hused := (BankFrame.refl s b).unstage 0x1C0 2
  unfold State.commitTranslation
  dsimp only
  split
  · exact hused
  · split
    · exact hused.updCtx _
    · exact hused.setCtx _

theorem State.commitHost_frame : BankFrame s b (s.commitHost b w) := by
  have hused := (BankFrame.refl s b).unstage 0x1E0 4
  unfold State.commitHost
  dsimp only
  split
  · exact hused
  · split
    · exact hused.updCtx _
    · exact hused.setCtx _

theorem State.submitInval_frame (pages : Nat) : BankFrame s b (s.submitInval b pages) := by
  unfold State.submitInval
  dsimp only
  split
  · exact BankFrame.refl s b
  · exact (BankFrame.refl s b).setCtx _

end BankFrame

/-- Settles O14: every command's operation keeps to its bank and its context, and so does doing nothing. -/
theorem contextCommandsFrame : Obligations.ContextCommandsFrame := by
  unfold Obligations.ContextCommandsFrame
  intro s t b k w pages i c' hi hexec
  have hframe : BankFrame s b t := by
    simp only [List.mem_cons, List.not_mem_nil, or_false] at hi
    rcases hi with rfl | rfl | rfl | rfl | rfl | rfl | rfl | rfl
    · exact State.of_whenPowered (f := fun t => t.createCtx b k) hexec (s.createCtx_frame b k) (.refl s b)
    · exact State.of_whenPowered (f := fun t => t.startCtx b) hexec (s.startCtx_frame b) (.refl s b)
    · exact State.of_whenPowered (f := fun t => t.stopCtx b) hexec (s.stopCtx_frame b) (.refl s b)
    · exact State.of_whenPowered (f := fun t => t.rebindCmd b k) hexec (s.rebindCmd_frame b k) (.refl s b)
    · exact State.of_whenPowered (f := fun t => t.commitPolicy b w) hexec (s.commitPolicy_frame b w) (.refl s b)
    · exact State.of_whenPowered (f := fun t => t.commitTranslation b w) hexec (s.commitTranslation_frame b w) (.refl s b)
    · exact State.of_whenPowered (f := fun t => t.commitHost b w) hexec (s.commitHost_frame b w) (.refl s b)
    · exact State.of_whenPowered (f := fun t => t.submitInval b pages.toNat) hexec (s.submitInval_frame b pages.toNat) (.refl s b)
  refine ⟨?_, hframe.contexts c', fun b' hb => hframe.banks b' fun h => hb (Fin.ext h), hframe.names⟩
  obtain ⟨l, m, rfl⟩ := hframe.rest
  rfl

end Sys2Proof.Machine
end

section
/-! A step runs the command at the front of the queue, and every command of the table completes in every state. -/

namespace Sys2Proof.Machine

open Sys2Proof

/-- Settles O1: both equations are the definition of a step. -/
theorem stepRunsFront : Obligations.StepRunsFront := by
  unfold Obligations.StepRunsFront
  exact ⟨fun _ _ _ => rfl, fun s hempty => by rw [step, hempty]⟩

/-- An answer that is a next state. -/
def Completes (r : Res) : Prop := ∃ t, r = .next t

theorem completes_next (t : State) : Completes (.next t) := ⟨t, rfl⟩

theorem execBurstCommit_completes (i : Nat) (s : State) : Completes (execBurstCommit i s) := by
  unfold execBurstCommit
  dsimp only
  cases s.liveInst i with
  | none => exact completes_next _
  | some x =>
    dsimp only
    split
    · exact completes_next _
    · split
      · exact completes_next _
      · split <;> grind [completes_next]

/-- Every command answers a next state: a command that is not one operation over the state branches on what it finds, and each branch ends in a next state. -/
theorem exec_completes (i : Instr) (s : State) : Completes (exec i s) := by
  cases i with
  | operationCompletion _ | waitTimeout _ | eveLatchPoint _ _ | dutyCycleIdleEnd _ _ | releasePoint _ _ | idlePartitionChoose _
  | eveOverdue _ | tickBoundary _ | layoutChange =>
    simp only [exec]
    grind [completes_next, execOperationCompletion, execWaitTimeout, execEveLatchPoint, execDutyCycleIdleEnd, execReleasePoint,
      execIdlePartitionChoose, execEveOverdue, execTickBoundary, execLayoutChange]
  | registerWrite _ | bar _ | mma _ | barrierTimeout _ | blockPlace _ _ | sampleRecordWrite _ _ | xfer _ | gather _ | streamStall _ _
  | streamStarved _ _ =>
    simp only [exec]
    grind [completes_next, execRegisterWrite, execBar, execMma, execBarrierTimeout, execBlockPlace, execSampleRecordWrite, execXfer, execGather,
      execStreamStall, execStreamStarved]
  | inval _ _ | data _ _ | dataOnce _ _ | ack _ _ | invalAck _ _ | notHeld _ _ _ | wbAck _ _ | wbDirty _ _ _ | dirtyNotice _ _ _
  | heartbeat _ | heartbeatLoss _ | declare _ _ | reclaimSweep _ _ | reclaimReport _ =>
    simp only [exec]
    grind [completes_next, execInval, execData, execDataOnce, execAck, execInvalAck, execNotHeld, execWbAck, execWbDirty, execDirtyNotice,
      execHeartbeat, execHeartbeatLoss, execDeclare, execReclaimSweep, execReclaimReport]
  | dramTempReading _ | stackTempReading _ | pseudoChannelCopyEnd _ _ | marginingDone _ | bucketLeak _ =>
    simp only [exec]
    grind [completes_next, execDramTempReading, execStackTempReading, execPseudoChannelCopyEnd, execMarginingDone, execBucketLeak]
  | flitReceive _ _ | retryTimeout _ | portTrainingDone _ _ | packetForward _ _ _ | remoteWrite _ | deliveryAck _ | collectiveData _
  | paceBeacon _ | lossNotice _ | paradeRequest _ | paradeData _ | e2eResendTimeout _ _ | beaconTimer _ | peerTimeout _ _
  | paradeParentTimeout | timeFlit _ _ =>
    simp only [exec]
    grind [completes_next, execFlitReceive, execRetryTimeout, execPortTrainingDone, execPacketForward, execRemoteWrite, execDeliveryAck,
      execCollectiveData, execPaceBeacon, execLossNotice, execParadeRequest, execParadeData, execE2eResendTimeout, execBeaconTimer,
      execPeerTimeout, execParadeParentTimeout, execTimeFlit]
  | ingressQueueWrite _ _ _ | ingressDataWrite _ _ _ | hostDoorbell _ _ _ | egressAck _ _ _ | egressRegistration _ _ _ | ingressIncomplete _
  | ingressExpired _ | egressBatchIssue _ | egressReadTimeout _ | msixCoalesceTimeout _ | coalesceTimeout _ | rerouteTimeout _ | wfi _
  | coreWake _ _ | timerCompareReached _ _ =>
    simp only [exec]
    grind [completes_next, execIngressQueueWrite, execIngressDataWrite, execHostDoorbell, execEgressAck, execEgressRegistration,
      execIngressIncomplete, execIngressExpired, execEgressBatchIssue, execEgressReadTimeout, execMsixCoalesceTimeout, execCoalesceTimeout,
      execRerouteTimeout, execWfi, execCoreWake, execTimerCompareReached]
  | guestRequest _ _ | guestBringupStep _ _ | pe1MessageWrite _ _ | cxlLinkDrop _ | powerBrake _ _ | graceEnd | hardwareTrip _
  | energyAttribution _ | unitPowerGate _ | unitWake _ _ | sentinelWindow _ _ _ | clockMonitorFault _ | refclockQualified _
  | counterWrap _ _ _ =>
    simp only [exec]
    grind [completes_next, execGuestRequest, execGuestBringupStep, execPe1MessageWrite, execCxlLinkDrop, execPowerBrake, execGraceEnd,
      execHardwareTrip, execEnergyAttribution, execUnitPowerGate, execUnitWake, execSentinelWindow, execClockMonitorFault, execRefclockQualified,
      execCounterWrap]
  | fetchResponse _ | fetchTimeout | fetchRetry | fenceRecordFetch _ | bootComplete _ | getCertificate _ _ _ | challenge _ _
  | getMeasurements _ _ _ | segmentSessionTimeout | notifyResend _ _ | quiesceN _ | quiesceDrain _ _ | quiesceDeadline _ =>
    simp only [exec]
    grind [completes_next, execFetchResponse, execFetchTimeout, execFetchRetry, execFenceRecordFetch, execBootComplete, execGetCertificate,
      execChallenge, execGetMeasurements, execSegmentSessionTimeout, execNotifyResend, execQuiesceN, execQuiesceDrain, execQuiesceDeadline]
  | enterQuiesced | vinPresent _ | vinAbsent | pe0Perst _ | pe1PerstRelease _ | inboundRdma _ _ _ | partnerSignalReturn _ | aoRef25mPresent
  | dramRetrainDone _ _ | pcieLinkUp _ _ | mgmtAddressLease _ _ | entdaa _ | msixMaskWrite _ _ =>
    simp only [exec]
    grind [completes_next, execEnterQuiesced, execVinPresent, execVinAbsent, execPe0Perst, execPe1PerstRelease, execInboundRdma,
      execPartnerSignalReturn, execAoRef25mPresent, execDramRetrainDone, execPcieLinkUp, execMgmtAddressLease, execEntdaa, execMsixMaskWrite]
  | burstCommit i => exact execBurstCommit_completes i s
  | scrubRead place _ _ => cases place <;> exact completes_next _
  | windowARead page _ _ => cases page <;> exact completes_next _
  | ptpMessage m =>
    simp only [exec, execPtpMessage]
    split
    · exact completes_next _
    · cases m <;> grind [completes_next]
  | pe1DmaRequest _ _ q =>
    simp only [exec, execPe1DmaRequest]
    cases q <;> grind [completes_next]
  | rdmaResponse _ _ r =>
    simp only [exec]
    unfold execRdmaResponse
    cases r <;> grind [completes_next]
  | heartbeatSend die =>
    simp only [exec]
    cases die <;> grind [completes_next, execHeartbeatSend]
  | _ => exact completes_next _

/-- Settles O2: whatever the command finds, it answers a next state. -/
theorem everyCommandCompletes : Obligations.EveryCommandCompletes := by
  unfold Obligations.EveryCommandCompletes
  exact exec_completes

end Sys2Proof.Machine
end

section
/-! What the host may do while it is attached, and what the events of PE0 do (R342 to R359). -/

namespace Sys2Proof.Machine

open Sys2Proof

/-! ## Accesses to the pages of a context -/

section Accesses

variable {s : State} {c : Fin 4096} {off : Nat} {d : List Byte} {x : Ctx}

theorem execIngressQueueWrite_of_may (hmay : s.hostMay c = true) (hfits : off + d.length ≤ 0x8000) :
    execIngressQueueWrite c off d s = .next ((s.ingressWrite c true 129 off d).advanceHost c) :=
  if_pos (by rw [hmay, decide_eq_true hfits]; rfl)

theorem execIngressDataWrite_of_may (hmay : s.hostMay c = true) (hfits : off + d.length ≤ 0x8000) :
    execIngressDataWrite c off d s = .next ((s.ingressWrite c false 129 off d).advanceHost c) :=
  if_pos (by rw [hmay, decide_eq_true hfits]; rfl)

theorem execIngressQueueWrite_of_barred (hmay : s.hostMay c = false) : execIngressQueueWrite c off d s = .next (s.discardWrite c) :=
  if_neg (by rw [hmay, Bool.false_and]; decide)

theorem execIngressDataWrite_of_barred (hmay : s.hostMay c = false) : execIngressDataWrite c off d s = .next (s.discardWrite c) :=
  if_neg (by rw [hmay, Bool.false_and]; decide)

theorem execEgressAck_of_barred (hmay : s.hostMay c = false) : execEgressAck c off d s = .next (s.discardWrite c) :=
  if_pos (by simp [hmay])

theorem execEgressRegistration_of_barred (hmay : s.hostMay c = false) : execEgressRegistration c off d s = .next (s.discardWrite c) :=
  if_pos (by simp [hmay])

/-- An acknowledgement between what is acknowledged and what is written frees the batches up to it (R354). -/
theorem execEgressAck_of_within (hx : x = s.ctx c) (hmay : s.hostMay c = true) (hlen : d.length = 8) (hlow : x.host.egressAcked ≤ leNat d)
    (hhigh : leNat d ≤ x.host.egressWritten) : execEgressAck c 16 d s = .next ((s.ungate (.pcie 0)).updHost c fun h => { h with
      egressAcked := leNat d, batches := h.batches.filter fun b => decide (leNat d < b.seq) }) := by
  subst hx
  have hwithin : ¬(leNat d < (s.ctx c).host.egressAcked ∨ (s.ctx c).host.egressWritten < leNat d) :=
    fun h => h.elim (Nat.not_lt.mpr hlow) (Nat.not_lt.mpr hhigh)
  simp only [execEgressAck, hmay, hlen, Bool.not_true, ne_eq, not_true_eq_false, decide_false, Bool.or_self, Bool.false_eq_true, if_false, hwithin]

/-- A registration with COMMIT and legal fields takes effect, and the batches that no acknowledgement covers are written again in their order
(R355, R359). -/
theorem execEgressRegistration_of_commit (hx : x = s.ctx c) (hmay : s.hostMay c = true) (hlow : 24 ≤ off) (hhigh : off ≤ 58) (hcovers : 58 < off + d.length)
    {v : Nat} (hv : v = (mergeBytes x.host.regStage (off - 32) (d.drop (32 - off))).toNat) (hcommit : bitAt v 208 = true)
    (hepoch : bitsOf v 192 16 = x.host.epoch.toNat) (hlegal : badReg v (holdLog2 x) = false) (hnone : x.host.reg = none) :
    execEgressRegistration c off d s = .next
      ((sortBy (fun (a b : Batch) => decide (a.seq < b.seq)) (x.host.batches.filter fun b => b.st == .unconfirmed)).foldl
        (fun t b => (t.emitBatch c (stagedReg v) b).countBatch (stagedReg v))
        (((s.ungate (.pcie 0)).updHost c fun h => { h with regStage := BitVec.ofNat 256 (setBits v 208 1 0) }).updHost c
          fun h => { h with reg := some (stagedReg v) })) := by
  subst hx
  have htaken : ¬((!s.hostMay c || decide (off < 24) || decide (64 ≤ off) || decide (off + d.length ≤ 32)) = true) := by
    simp only [hmay, Bool.not_true, Bool.false_or, Bool.or_eq_true, decide_eq_true_eq]
    omega
  have hwhole : (decide (off ≤ 58) && decide (58 < off + d.length)) = true := by simp [hhigh, hcovers]
  unfold execEgressRegistration
  dsimp only
  rw [if_neg htaken, ← hv, Bool.and_assoc, hcommit, hwhole]
  simp only [Bool.and_self, Bool.not_true, Bool.false_eq_true, if_false, hepoch, hlegal, hnone, Option.isSome_none, ne_eq, not_true_eq_false,
    decide_false, Bool.false_and, Bool.or_self]

end Accesses

section Doorbells

variable {s : State} {c : Fin 4096} {d : List Byte} {x : Ctx} {q dt : W32}

/-- A doorbell of the current epoch on a page that takes it halts the context, or is accepted and waits for what it covers (R349 to R351). -/
theorem execHostDoorbell_of_current (hx : x = s.ctx c) (hgrant : granted x = true) (hfree : x.st ≠ .free) (hkilled : x.st ≠ .killed)
    (hhost : s.host.detached = false) (hlen : d.length = 16) (hepoch : bitsOf (leNat d) 64 16 = x.host.epoch.toNat)
    (hq : q = BitVec.ofNat 32 (bitsOf (leNat d) 0 32)) (hdt : dt = BitVec.ofNat 32 (bitsOf (leNat d) 32 32)) :
    execHostDoorbell c 0 d s = if hostBellBad x q dt then .next ((s.ungate (.pcie 0)).haltRecord c 0x0106 q.toNat)
      else .next ((s.updCtx c fun y => { y with
        cnt := { y.cnt with queueProducer := q },
        host := { y.host with accQueue := q, accData := dt, bells := y.host.bells ++ [⟨q, dt, s.now⟩] } }).advanceHost c) := by
  subst hx hq hdt
  have hcreated : ((s.ctx c).st == CtxState.free) = false := beq_eq_false_iff_ne.mpr hfree
  have halive : ((s.ctx c).st == CtxState.killed) = false := beq_eq_false_iff_ne.mpr hkilled
  simp only [execHostDoorbell, hgrant, hcreated, halive, hhost, hlen, hepoch, bne_self_eq_false, Bool.not_true, Bool.or_self, ne_eq, not_true_eq_false,
    or_self, Bool.false_eq_true, if_false]

end Doorbells

theorem execWindowARead_page_a (s : State) (c : Fin 4096) (off n : Nat) : ∃ t, execWindowARead (.a c) off n s = .next t ∧
    t.host.readsA = s.host.readsA + 1 ∧
      t.out.reads = (c * 65536 + off, List.replicate n (if granted (s.ctx c) then 0xFF else 0)) :: s.out.reads ∧ t.mem = s.mem := by
  refine ⟨_, rfl, ?_, ?_, ?_⟩
  · rw [State.answer_host, State.countEv_host]
  · simp only [State.answer, State.countEv_out, State.ungate_out]
  · rw [State.answer_mem, State.countEv_mem, State.ungate_mem]

/-- Settles O39: each clause is the lemma above about its access. -/
theorem hostAccessesAct : Obligations.HostAccessesAct := by
  unfold Obligations.HostAccessesAct
  intro s c off n d x hx
  refine ⟨fun hmay hfits => ⟨execIngressQueueWrite_of_may hmay hfits, execIngressDataWrite_of_may hmay hfits⟩,
    fun hmay => ⟨execIngressQueueWrite_of_barred hmay, execIngressDataWrite_of_barred hmay, execEgressAck_of_barred hmay,
      execEgressRegistration_of_barred hmay⟩,
    fun hgrant hfree hkilled hhost hlen hepoch q dt hq hdt => ?bell, execEgressAck_of_within hx,
    fun hmay hlow hhigh hcovers v => execEgressRegistration_of_commit hx hmay hlow hhigh hcovers, ?windowA, ?windowB, rfl⟩
  case bell =>
    have hbell := execHostDoorbell_of_current hx hgrant hfree hkilled hhost hlen hepoch hq hdt
    exact ⟨fun hbad => hbell.trans (if_pos hbad), fun hgood => hbell.trans (if_neg (Bool.eq_false_iff.mp hgood))⟩
  case windowA =>
    rw [hx]
    exact execWindowARead_page_a s c off n
  case windowB =>
    rw [hx]
    rfl

/-! ## Events -/

section Events

variable {s : State} {c : Fin 4096} {x : Ctx}

/-- The next batch whose bytes were held leaves with its record, and its `COPY` is done (R353). -/
theorem execEgressBatchIssue_of_held (hx : x = s.ctx c) {b : Batch} {r : EgressReg} {s1 : State} (hnext : nextBatch x.host = some b)
    (hreg : x.host.reg = some r) (hhost : s.host.detached = false) (hmay : batchMay x.host r b = true)
    (hwaits : (x.flights.any fun f => f.opIndex == b.opIndex && f.st == .egress b.seq) = true) (hheld : s.holdBatch c b = (s1, none)) :
    execEgressBatchIssue c s = .next (((s1.emitBatch c r b).countBatch r).setFlight c b.opIndex (.done (endWith 0 0))) := by
  subst hx
  simp only [execEgressBatchIssue, hnext, hreg, hhost, hmay, hwaits, hheld, Bool.not_true, Bool.or_self, Bool.false_eq_true, if_false]

theorem execIngressIncomplete_of_unnoticed (hx : x = s.ctx c) {b : Bell} {r : List Bell} (hbells : x.host.bells = b :: r) (hfirst : x.host.noticed = false) :
    execIngressIncomplete c s =
      .next (((s.advance (b.since + 100000)).updHost c fun h => { h with noticed := true }).postNotice c 0x0C03 (firstMissing x.host)) := by
  subst hx
  simp only [execIngressIncomplete, hbells, hfirst, Bool.false_eq_true, if_false]

theorem execIngressExpired_of_bell (hx : x = s.ctx c) {b : Bell} {r : List Bell} (hbells : x.host.bells = b :: r)
    (hdeadline : ingressDeadlineUs x ≠ 0xFFFFFFFF) : execIngressExpired c s =
      .next (((s.advance (b.since + 1000 * ingressDeadlineUs x)).updCtx c fallBack).haltRecord c 0x0802 (firstMissing x.host)) := by
  subst hx
  simp only [execIngressExpired, hbells, if_neg hdeadline]

theorem execEgressReadTimeout_of_read {e : Nat × Nat} (he : (s.host.fenceReads.find? fun e => e.1 == c.val) = some e) :
    execEgressReadTimeout c s = .next (s.advance (e.2 + 50000000)).detach := by
  simp only [execEgressReadTimeout, he]

/-- Every cause detaches the host; the loss of the data link takes the link with it (R357). -/
theorem execHostDetach_eq (s : State) (cause : DetachCause) : ∃ t, execHostDetach cause s = .next t ∧
    t = { s.detach with host := { s.detach.host with linkUp := t.host.linkUp } } ∧
      (cause = .dlDown → t.host.linkUp = false) ∧ (cause ≠ .dlDown → t.host.linkUp = s.detach.host.linkUp) := by
  refine ⟨_, rfl, rfl, fun h => ?_, fun h => ?_⟩
  · rw [h]
    exact Bool.and_false _
  · have hother : (cause != .dlDown) = true := bne_iff_ne.mpr h
    rw [hother]
    exact Bool.and_true _

theorem execMsixCoalesceTimeout_of_counted {v : Fin 2048} {t us : Nat} (ht : (s.msix v).since = some t) (hus : s.coalUsOf v = some us) :
    execMsixCoalesceTimeout v s = .next ((s.advance (t + 1000 * us)).sendVector v) := by
  simp only [execMsixCoalesceTimeout, ht, hus]

end Events

/-! ## The table of MSI-X -/

section Table

variable {s : State} {off : Fin 65536} {w : BitVec 32}

theorem State.msix_setMsix_same (s : State) (v : Nat) (x : Msix) : (s.setMsix v x).msix v = x := tabGet_tabPut_same _ _ _ _

/-- Word 3 of a vector's entry is its mask, and the words below it its address and data (log 26). -/
theorem State.bar4Word_of_vector (s : State) {i : Nat} (hi : i < 8192) : s.bar4Word i =
    if i % 4 = 0 then (s.msix (i / 4)).addr.toNat % 2 ^ 32 else if i % 4 = 1 then (s.msix (i / 4)).addr.toNat / 2 ^ 32
      else if i % 4 = 2 then (s.msix (i / 4)).data.toNat else b2n (s.msix (i / 4)).masked := if_pos hi

/-- A word below the mask changes nothing of its vector but its address and data. -/
theorem msixPut_of_address (x : Msix) {word : Nat} (d : BitVec 32) (hword : word < 3) :
    msixPut x word d = { x with addr := (msixPut x word d).addr, data := (msixPut x word d).data } := by
  unfold msixPut
  split
  · rfl
  · split
    · rfl
    · rw [if_pos (by omega)]

theorem msixPut_of_mask (x : Msix) (d : BitVec 32) : msixPut x 3 d = { x with masked := bitAt d.toNat 0, pend := x.pend && bitAt d.toNat 0 } := rfl

/-- A vector's entry reads as its word was written (R356, log 26). -/
theorem State.bar4Word_setMsix (s : State) (x : Msix) {i : Nat} (d : BitVec 32) (hi : i < 8192) (hword : i % 4 < 3) :
    (s.setMsix (i / 4) (msixPut x (i % 4) d)).bar4Word i = d.toNat := by
  have haddr := x.addr.isLt
  have hd := d.isLt
  rw [State.bar4Word_of_vector _ hi, State.msix_setMsix_same]
  obtain h | h | h : i % 4 = 0 ∨ i % 4 = 1 ∨ i % 4 = 2 := by omega
  · simp only [h, msixPut, if_true, BitVec.toNat_ofNat]
    omega
  · simp only [h, msixPut, if_true, BitVec.toNat_ofNat, one_ne_zero, if_false]
    omega
  · simp only [h, msixPut, if_true, OfNat.ofNat_ne_zero, if_false]
    rfl

/-- A write of word 3 masks a vector or unmasks it, and an unmask sends the message that was held (R356). -/
theorem execMsixMaskWrite_of_mask {v : Nat} (hv : off.val / 16 = v) (hfew : v < 2048) (hword : off.val / 4 % 4 = 3) :
    ∃ t, execMsixMaskWrite off w s = .next t ∧
      t.msix v = { s.msix v with masked := bitAt w.toNat 0, pend := (s.msix v).pend && bitAt w.toNat 0 } ∧
      t.out.msix = (if (s.msix v).pend && !bitAt w.toNat 0 then (v, (s.msix v).addr, (s.msix v).data) :: s.out.msix else s.out.msix) ∧
      t.mem = s.mem ∧ t.ctxs = s.ctxs := by
  subst hv
  unfold execMsixMaskWrite
  dsimp only
  rw [if_neg (Nat.not_le.mpr hfew), hword, msixPut_of_mask, State.msix_setMsix_same]
  cases hp : (s.msix (off.val / 16)).pend <;> cases hw : bitAt w.toNat 0
  case true.false =>
    refine ⟨_, if_pos rfl, ?_, ?_, rfl, rfl⟩
    · exact State.msix_setMsix_same _ _ _
    · simp only [State.emitMsix, State.msix_setMsix_same]
      rfl
  all_goals exact ⟨_, if_neg (by simp), State.msix_setMsix_same _ _ _, rfl, rfl, rfl⟩

/-- A write of any other word takes a part of the address, or the data (R356). -/
theorem execMsixMaskWrite_of_address {v : Nat} (hv : off.val / 16 = v) (hfew : v < 2048) (hword : off.val / 4 % 4 < 3) :
    execMsixMaskWrite off w s = .next ((s.ungate (.pcie 0)).setMsix v (msixPut (s.msix v) (off.val / 4 % 4) w)) := by
  subst hv
  unfold execMsixMaskWrite
  dsimp only
  rw [if_neg (Nat.not_le.mpr hfew), State.msix_setMsix_same, msixPut_of_address _ _ hword]
  exact if_neg (by simp)

end Table

/-- Settles O40: each clause is the lemma above about its event; a write to the MSI-X table is split on the word it takes. -/
theorem hostEventsAct : Obligations.HostEventsAct := by
  unfold Obligations.HostEventsAct
  intro s c v off w x hx
  refine ⟨fun b r s1 => execEgressBatchIssue_of_held hx,
    fun b r hbells => ⟨execIngressIncomplete_of_unnoticed hx hbells, execIngressExpired_of_bell hx hbells⟩,
    fun e => execEgressReadTimeout_of_read, execHostDetach_eq s, fun t us => execMsixCoalesceTimeout_of_counted, ?table, fun hbeyond => if_pos hbeyond⟩
  rintro y z rfl hv
  by_cases hword : off.val / 4 % 4 = 3
  · obtain ⟨t, hexec, hmsix, hout, hmem, hctxs⟩ := execMsixMaskWrite_of_mask (s := s) (w := w) hv v.isLt hword
    exact ⟨t, hexec, fun hz => ⟨fun _ => ⟨hz.trans hmsix, hout⟩, fun hno => absurd hword hno, hmem, hctxs⟩⟩
  · have hless : off.val / 4 % 4 < 3 := by omega
    have hvector : off.val / 4 / 4 = v.val := by omega
    refine ⟨_, execMsixMaskWrite_of_address hv v.isLt hless, fun hz => ⟨fun hmask => absurd hmask hword, fun _ => ⟨?_, ?_, rfl⟩, rfl, rfl⟩⟩
    · rw [State.msix_setMsix_same] at hz
      rw [hz]
      exact msixPut_of_address _ _ hless
    · rw [← hvector]
      exact State.bar4Word_setMsix _ _ _ (by omega) hless

end Sys2Proof.Machine
end

section
/-! What flits, training and the loss of a port do (R305 to R311, R502), and what packets, bursts and acknowledgements do (R312 to R319, R504). -/

namespace Sys2Proof.Machine

open Sys2Proof

/-! ## Flits -/

section Flits

variable {s s1 : State} {port : Fin 16} {f : Flit} {x y : LinkPort} (hx : x = s.port port) (hup : x.state = 2 ∨ x.state = 3) (hmode : s.portMode port = 1)
  (hs1 : s1 = s.countSymbols port f.corrected) (hy : y = s1.port port)
include hx hup hmode hs1 hy

/-- What a port in service does with a flit, by its checks: its code and CRC, its content, and its place in the sequence (R307, R308). -/
theorem execFlitReceive_of_up : execFlitReceive port f s = .next (
    if flitOk f = false then (s1.setPort port { y with flitsFailed := satInc 32 y.flitsFailed, nak := true }).answerFlit port
    else if flitIdle f y.expect then (s1.takeAck port f).pumpPort port ((s1.takeAck port f).port port).queue.length
    else if f.seq ≠ y.expect then (s1.setPort port { y with nak := true }).answerFlit port
    else (((s1.setPort port ({ y with expect := y.expect + 1, nak := false }.assemble f.data)).countEv (16 + port / 8) 0x201 (port % 8) none 1).takeAck
      port f).answerFlit port) := by
  subst hx hs1 hy
  have hserves : ¬((((s.port port).state ≠ 2 ∧ (s.port port).state ≠ 3)) ∨ s.portMode port ≠ 1) := by
    rintro (⟨h2, h3⟩ | h)
    · exact hup.elim h2 h3
    · exact h hmode
  unfold execFlitReceive
  dsimp only
  rw [if_neg hserves]
  cases flitOk f
  · rfl
  · simp only [Bool.not_true, Bool.false_eq_true, Bool.true_eq_false, if_false]
    split
    · rfl
    · split <;> rfl

end Flits

/-! ## Retries, training and the loss of a port -/

section Ports

variable {s : State} {port : Fin 16} {x : LinkPort} (hx : x = s.port port)
include hx

theorem execRetryTimeout_of_kept (hup : x.state = 2 ∨ x.state = 3) (hkept : x.retry ≠ []) :
    execRetryTimeout port s = .next ((s.advance (x.ackAt + 20000)).resendFlits port) := by
  subst hx
  simp [execRetryTimeout, hup, hkept]

/-- After 8 resends of one flit the port goes down (R308, R311). -/
theorem State.resendFlits_of_exhausted (hkept : x.retry ≠ []) (hresends : 8 ≤ x.resends) : s.resendFlits port = s.portDown port := by
  subst hx
  simp [State.resendFlits, hkept, hresends]

theorem State.portDown_of_up (hnot0 : x.state ≠ 0) (hnot4 : x.state ≠ 4) :
    s.portDown port = (s.setPort port { x.cleared with trained := false, moveLane := none }).toPortState port 4 := by
  subst hx
  simp [State.portDown, hnot0, hnot4]

section Training

variable {r : PortTraining} (hst : x.state = 1)
include hst

theorem execPortTrainingDone_of_rates_differ (hrate : r.rateOk = false) : execPortTrainingDone port r s = .next (s.toPortState port 4) := by
  subst hx
  simp [execPortTrainingDone, hst, hrate]

theorem execPortTrainingDone_of_few_lanes (hrate : r.rateOk = true) (hspare : trainedSpare r.lanes = none) :
    execPortTrainingDone port r s = .next ((s.setPort port { x with laneOk := r.lanes }).toPortState port 4) := by
  subst hx
  simp [execPortTrainingDone, hst, hrate, hspare]

/-- A fabric-mode port goes on training while a partner has no identifier; any other waits for the tick (R305, R502). -/
theorem execPortTrainingDone_of_agreed (hrate : r.rateOk = true) {sp : Nat} {z : LinkPort} (hspare : trainedSpare r.lanes = some sp)
    (hz : z = { x with laneOk := r.lanes, spareLane := sp, partnerId := r.partnerId.toNat }) :
    execPortTrainingDone port r s = .next
      (s.setPort port (if s.portMode port = 1 ∧ (s.fabricId = 0xFFFFF ∨ r.partnerId.toNat = 0xFFFFF) then z
        else { ({ z with txNext := 0 } : LinkPort).cleared with trained := true, expect := 0 })) := by
  subst hx hz
  simp only [execPortTrainingDone, hst, hrate, hspare, ne_eq, not_true_eq_false, if_false, if_true]
  split <;> rfl

end Training

theorem execPartnerSignalReturn_of_down (hst : x.state = 4) (hmode : s.portMode port ≠ 0) :
    execPartnerSignalReturn port s = .next (s.startTraining port) := by
  subst hx
  exact if_pos ⟨hst, hmode⟩

end Ports

/-- Settles O42: each clause is the lemma above about its command; a flit is split on its checks. -/
theorem linkCommandsAct : Obligations.LinkCommandsAct := by
  unfold Obligations.LinkCommandsAct
  intro s port f r x hx
  refine ⟨fun hup hmode s1 y hs1 hy => ?flit, fun hup hkept s1 hs1 => ?retry, fun hnot0 hnot4 => congrArg _ (State.portDown_of_up hx hnot0 hnot4),
    fun hst => ⟨execPortTrainingDone_of_rates_differ hx hst, execPortTrainingDone_of_few_lanes hx hst,
      fun hrate sp z => execPortTrainingDone_of_agreed hx hst hrate⟩, execPartnerSignalReturn_of_down hx⟩
  case flit =>
    have hflit := execFlitReceive_of_up hx hup hmode hs1 hy
    refine ⟨fun hbad => ?_, fun hok hidle => ?_, fun hok hidle hseq => ?_, fun hok hidle hseq => ?_⟩
    · rw [if_pos hbad] at hflit
      exact hflit
    · rw [if_neg (Bool.not_eq_false _ ▸ hok), if_pos hidle] at hflit
      exact hflit
    · rw [if_neg (Bool.not_eq_false _ ▸ hok), if_neg (Bool.eq_false_iff.mp hidle), if_pos hseq] at hflit
      exact hflit
    · rw [if_neg (Bool.not_eq_false _ ▸ hok), if_neg (Bool.eq_false_iff.mp hidle), if_neg (not_not_intro hseq)] at hflit
      exact hflit
  case retry =>
    have hresend := execRetryTimeout_of_kept hx hup hkept
    rw [← hs1] at hresend
    have hport : x = s1.port port := by rw [hs1]; exact hx
    exact ⟨hresend, fun hresends => hresend.trans (congrArg _ (State.resendFlits_of_exhausted hport hkept hresends))⟩

/-! ## Packets at a hub -/

/-- An idle flit that leaves changes its port and what leaves on the wires. -/
theorem State.emitIdle_drops (s : State) (p : Nat) : (s.emitIdle p).fabric.drops = s.fabric.drops := rfl

theorem State.takeIn_drops (s : State) (port vc : Nat) (pk : Packet) : (s.takeIn port vc pk).fabric.drops = s.fabric.drops := by
  unfold State.takeIn State.returnCredits
  dsimp only
  repeat' split
  all_goals rfl

/-- A packet that is dropped is counted, and nothing else leaves for it (R314, R317). -/
theorem dropped_counts {s t : State} {port : Fin 17} {cls : Bool} {level : Fin 4} {vc : Nat} {pk : Packet} {hub : Nat} (ht : t = s.takeIn port vc pk) (hexec : execPacketForward port cls level s = .next (t.dropPacket hub)) :
    Answers (.packetForward port cls level) s fun u => u.fabric.drops = s.fabric.drops + 1 ∧ u.out = t.out ∧ u.mem = s.mem := by
  subst ht
  refine ⟨_, hexec, ?_, ?_, ?_⟩
  · rw [State.dropPacket, State.countEv_fabric]
    exact congrArg (· + 1) (s.takeIn_drops port vc pk)
  · rw [State.dropPacket, State.countEv_out]
  · rw [State.dropPacket_mem, State.takeIn_mem]

theorem listed_packet {s : State} {pk : Packet} (hlow : 1 ≤ pk.type) (hhigh : pk.type ≤ 7) (hid : s.fabricId ≠ 0xFFFFF) :
    ¬(pk.type = 0 ∨ 7 < pk.type ∨ s.fabricId = 0xFFFFF) := by
  omega

section Forward

variable {s t : State} {port : Fin 17} {cls : Bool} {level : Fin 4} {vc : Nat} {pk : Packet} (hvc : vc = 4 * b2n cls + level.val)
  (hnext : s.nextIn port vc = some pk) (ht : t = s.takeIn port vc pk)
include hvc hnext ht

theorem execPacketForward_of_unroutable (h : pk.type = 0 ∨ 7 < pk.type ∨ s.fabricId = 0xFFFFF) :
    execPacketForward port cls level s = .next (t.dropPacket (port.val % 16 / 8)) := by
  subst hvc ht
  unfold execPacketForward
  simp only [hnext, if_pos h]

section Listed

variable (hlow : 1 ≤ pk.type) (hhigh : pk.type ≤ 7) (hid : s.fabricId ≠ 0xFFFFF)
include hlow hhigh hid

theorem execPacketForward_of_own (hdest : pk.destId.toNat = s.fabricId) : execPacketForward port cls level s = .next (t.deliver pk) := by
  have hlisted := listed_packet hlow hhigh hid
  subst hvc ht
  unfold execPacketForward
  simp only [hnext, if_neg hlisted, if_pos hdest]

variable (hdest : pk.destId.toNat ≠ s.fabricId)
include hdest

theorem execPacketForward_of_no_route (hroute : s.routePort pk.destId.toNat (choiceOf pk) = none) :
    execPacketForward port cls level s = .next (t.dropPacket (port.val % 16 / 8)) := by
  have hlisted := listed_packet hlow hhigh hid
  subst hvc ht
  unfold execPacketForward
  simp only [hnext, if_neg hlisted, if_neg hdest, hroute]

theorem execPacketForward_of_route {p : Nat} (hroute : s.routePort pk.destId.toNat (choiceOf pk) = some p) :
    execPacketForward port cls level s = .next (if (s.port p).takes (s.raised pk) then t.launchPacket p (s.raised pk) else s) := by
  have hlisted := listed_packet hlow hhigh hid
  subst hvc ht
  unfold execPacketForward
  simp only [hnext, if_neg hlisted, if_neg hdest, hroute]
  split <;> rfl

end Listed

end Forward

/-- A port takes a packet that may leave and behind none of its channel (R315). -/
theorem LinkPort.takes_eq_true {x : LinkPort} {pk : Packet} (hmay : x.mayLeave pk = true) (hfirst : ∀ y ∈ x.queue, packetVc y ≠ packetVc pk) :
    x.takes pk = true := by
  simpa [LinkPort.takes, hmay] using hfirst

theorem LinkPort.takes_eq_false {x : LinkPort} {pk : Packet} (h : x.mayLeave pk = false ∨ ∃ y ∈ x.queue, packetVc y = packetVc pk) :
    x.takes pk = false := by
  rcases h with h | ⟨y, hy, hvc⟩
  · simp [LinkPort.takes, h]
  · have hany : (x.queue.any fun z => packetVc z == packetVc pk) = true := List.any_eq_true.mpr ⟨y, hy, beq_iff_eq.mpr hvc⟩
    simp [LinkPort.takes, hany]

/-! ## Bursts and acknowledgements -/

section Bursts

variable {s s1 : State} {pk : Packet}

theorem State.takeRemote_of_stranger (hnew : s.receive pk = (s1, true)) (hjob : s1.jobMember pk.destContext pk.srcId.toNat = false) :
    s.takeRemote pk = ({ s1 with fabric := { s1.fabric with refused := s1.fabric.refused + 1 } } : State).countEv 16 0x204 0 none 1 := by
  unfold State.takeRemote
  simp only [hnew, hjob, Bool.not_false, if_true]

/-- A new part from a member of the context's job joins its burst, which commits when it is whole (R318, R319, R504). -/
theorem State.takeRemote_of_member (hnew : s.receive pk = (s1, true)) (hjob : s1.jobMember pk.destContext pk.srcId.toNat = true) {old b : RemoteBurst}
    (hold : old = (s1.fabric.remote.find? fun y => y.src == pk.srcId.toNat && y.num == bitsOf pk.aux.toNat 0 28).getD
      ⟨pk.srcId.toNat, bitsOf pk.aux.toNat 0 28, pk.destContext, pk.srcContext, (partOf pk.aux.toNat).2, [], pk.e2eSeq⟩)
    (hb : b = { old with parts := old.parts ++ [((partOf pk.aux.toNat).1, pk.addr.toNat, pk.payload)], seq := pk.e2eSeq }) {s2 : State}
    (hs2 : s2 = { s1.dropRemote b with fabric := { s1.fabric with remote := (s1.dropRemote b).fabric.remote ++ [b] } }) :
    s.takeRemote pk = if b.parts.length = b.total then s2.commitRemote b else s2 := by
  subst hs2 hb hold
  unfold State.takeRemote
  simp only [hnew, hjob, Bool.not_true, Bool.false_eq_true, if_false, RemoteBurst.whole, beq_iff_eq]

/-- An acknowledgement for the package releases what it names, and one of a burst ends the burst (R318, R319). -/
theorem State.takeAckPacket_of_own (hcrc : pk.crcOk = true) (hdest : pk.destId.toNat = s.fabricId) {t : State}
    (ht : t = ({ s with fabric := { s.fabric with unacked := s.fabric.unacked.filter fun u => !(u.dest == pk.srcId.toNat && u.seq == pk.aux) } } : State).serveWaiting) :
    s.takeAckPacket pk = if pk.payload.isEmpty then t else t.burstAcked (payloadNat pk 0 4) (payloadNat pk 4 1) := by
  subst ht
  have hmine : ¬((!pk.crcOk) = true ∨ pk.destId.toNat ≠ s.fabricId) := by simp [hcrc, hdest]
  unfold State.takeAckPacket
  rw [if_neg hmine]

end Bursts

section Resends

variable {s : State} {dest : Nat} {seq : BitVec 32} {u : Unacked}
  (hu : (s.fabric.unacked.find? fun y => y.dest == dest && y.seq == seq) = some u)
include hu

theorem execE2eResendTimeout_of_exhausted (hresends : 3 ≤ u.resends) :
    execE2eResendTimeout dest seq s = .next ((s.advance (u.sentAt + 200000)).unreachable u) := by
  unfold execE2eResendTimeout
  simp only [hu, if_pos hresends]

/-- A packet with resends left is sent again by the next port choice, and counts the resend (R318). -/
theorem answers_e2eResendTimeout (hresends : u.resends < 3) : Answers (.e2eResendTimeout dest seq) s fun t => ∃ s2 : State,
    s2 = { s.advance (u.sentAt + 200000) with fabric := { s.fabric with unacked := s2.fabric.unacked } } ∧
      t = (s2.countEv 16 0x205 0 (some u.packet.srcContext.val) 1).route u.packet (choiceOf u.packet + u.resends + 1) ∧
        ∀ y ∈ s.fabric.unacked, y.dest = dest → y.seq = seq → ∃ z ∈ s2.fabric.unacked, z.packet = y.packet ∧ z.resends = y.resends + 1 := by
  have hexec : exec (.e2eResendTimeout dest seq) s = execE2eResendTimeout dest seq s := rfl
  unfold execE2eResendTimeout at hexec
  simp only [hu, if_neg (Nat.not_le.mpr hresends)] at hexec
  exact ⟨_, hexec, _, rfl, rfl, fun y hy hdest hseq => ⟨_, List.mem_map_of_mem hy, by rw [if_pos ⟨hdest, hseq⟩]; exact ⟨rfl, rfl⟩⟩⟩

end Resends

/-- Settles O43: each clause is the lemma above about its packet. -/
theorem packetCommandsAct : Obligations.PacketCommandsAct := by
  unfold Obligations.PacketCommandsAct
  intro s s1 port cls level vc pk
  refine ⟨fun hvc hnext t ht => ⟨fun h => dropped_counts ht (execPacketForward_of_unroutable hvc hnext ht h),
      execPacketForward_of_own hvc hnext ht, fun hlow hhigh hid hdest => ⟨fun hroute => ?noRoute, fun p hroute => ?route⟩⟩,
    fun htype hnew => ⟨fun hjob => ?stranger, fun hjob old b hold hb s2 hs2 => ?member⟩, fun htype hcrc hdest t ht => ?ack,
    fun dest seq u hu => ⟨execE2eResendTimeout_of_exhausted hu, answers_e2eResendTimeout hu⟩⟩
  case noRoute => exact dropped_counts ht (execPacketForward_of_no_route hvc hnext ht hlow hhigh hid hdest hroute)
  case route =>
    have hforward := execPacketForward_of_route hvc hnext ht hlow hhigh hid hdest hroute
    refine ⟨fun hmay hfirst => ?_, fun hwaits => ?_⟩
    · rw [LinkPort.takes_eq_true hmay hfirst] at hforward
      exact hforward
    · rw [LinkPort.takes_eq_false hwaits] at hforward
      exact hforward
  case stranger =>
    refine ⟨_, (if_pos htype).trans (congrArg _ (State.takeRemote_of_stranger hnew hjob)), ?_, ?_⟩
    · rw [State.countEv_fabric]
    · rw [State.countEv_mem]
  case member => exact (if_pos htype).trans (congrArg _ (State.takeRemote_of_member hnew hjob hold hb hs2))
  case ack =>
    have hack := State.takeAckPacket_of_own hcrc hdest ht
    have hexec : exec (.deliveryAck pk) s = .next (s.takeAckPacket pk) := if_pos htype
    rw [hack] at hexec
    exact ⟨fun hempty => hexec.trans (congrArg _ (if_pos (List.isEmpty_iff.mpr hempty))),
      fun hfull => hexec.trans (congrArg _ (if_neg (mt List.isEmpty_iff.mp hfull)))⟩

end Sys2Proof.Machine
end


section
/-! PROOF. What collectives, the parade and device time do: O44. -/

namespace Sys2Proof.Machine
open Sys2Proof

/-! ## Sending a packet takes no device time -/

@[simp] theorem State.emitFlit_now (s : State) (p : Nat) (seq : BitVec 12) (data : List Byte) : (s.emitFlit p seq data).now = s.now := rfl

@[simp] theorem State.emitData_now (s : State) (p : Nat) (data : List Byte) : (s.emitData p data).now = s.now := by
  simp [State.emitData]

@[simp] theorem State.emitPacket_now (s : State) (p : Nat) (pk : Packet) : (s.emitPacket p pk).now = s.now := by
  unfold State.emitPacket
  rw [State.countEv_now, State.foldl_keeps State.now _ fun t d => t.emitData_now p d]
  rfl

@[simp] theorem State.pumpPort_now (s : State) (p : Nat) (fuel : Nat) : (s.pumpPort p fuel).now = s.now := by
  induction fuel generalizing s with
  | zero => rfl
  | succ fuel ih =>
    unfold State.pumpPort
    split <;> simp [ih]

@[simp] theorem State.launchPacket_now (s : State) (p : Nat) (pk : Packet) : (s.launchPacket p pk).now = s.now := by
  simp [State.launchPacket]

@[simp] theorem State.dropPacket_now (s : State) (hub : Nat) : (s.dropPacket hub).now = s.now := by
  simp [State.dropPacket]

@[simp] theorem State.route_now (s : State) (pk : Packet) (h : Nat) : (s.route pk h).now = s.now := by
  unfold State.route
  repeat' split
  all_goals simp

@[simp] theorem State.send_now (s : State) (type : Nat) (dest : Nat) (dctx sctx : Nat) (addr aux : Nat) (payload : List Byte) :
    (s.send type dest dctx sctx addr aux payload).now = s.now := by
  unfold State.send
  dsimp only
  split <;> simp

@[simp] theorem State.receive_now (s : State) (pk : Packet) : (s.receive pk).1.now = s.now := by
  unfold State.receive
  dsimp only
  repeat' split
  all_goals simp [State.ackPacket]

/-! ## Collectives -/

/-- A packet of a type that is not acknowledged is new as it comes (R318). -/
theorem State.receive_of_unacknowledged {s : State} {pk : Packet} (htype : ¬(pk.type = 1 ∨ pk.type = 3 ∨ pk.type = 6 ∨ pk.type = 7))
    (hcrc : pk.crcOk = true) (hdest : pk.destId.toNat = s.fabricId) : s.receive pk = (s, true) := by
  simp [State.receive, hcrc, hdest, htype]

theorem execCollectiveData_of_new {s s1 : State} {pk : Packet} (htype : pk.type = 3) (hnew : s.receive pk = (s1, true)) :
    execCollectiveData pk s = .next (s1.collReceive pk) := by
  simp [execCollectiveData, htype, State.takeCollective, hnew]

theorem execLossNotice_of_own {s : State} {pk : Packet} (htype : pk.type = 5) (hcrc : pk.crcOk = true) (hdest : pk.destId.toNat = s.fabricId) :
    execLossNotice pk s = .next (s.collReceive pk) := by
  have hnew := State.receive_of_unacknowledged (by omega) hcrc hdest
  simp [execLossNotice, htype, State.takeLoss, hnew]

section Beacons

variable {s : State} {pk : Packet} (htype : pk.type = 4) (hcrc : pk.crcOk = true) (hdest : pk.destId.toNat = s.fabricId)
include htype hcrc hdest

/-- A beacon for a pending collective is heard (R330). -/
theorem execPaceBeacon_of_pending {r : CollRun} (hrun : s.run (collKey pk).1 = some r) (hcomm : r.comm = (collKey pk).2.1) (hseq : r.seq = (collKey pk).2.2) :
    execPaceBeacon pk s = .next (s.collPacket (collKey pk).1 r pk) := by
  have hnew := State.receive_of_unacknowledged (by omega) hcrc hdest
  simp [execPaceBeacon, htype, State.takeBeacon, hnew, hrun, hcomm, hseq]

/-- A beacon for a collective not yet reached is answered (R330). -/
theorem execPaceBeacon_of_ahead (hrun : s.run (collKey pk).1 = none) (hst : (s.ctx (collKey pk).1).st ≠ .free) (harrived : pkArrived pk = true)
    (hseq : tabGet 0 (s.ctx (collKey pk).1).collSeq (collKey pk).2.1 < (collKey pk).2.2) : execPaceBeacon pk s = .next (s.answerBeacon pk) := by
  have hnew := State.receive_of_unacknowledged (by omega) hcrc hdest
  simp [execPaceBeacon, htype, State.takeBeacon, hnew, hrun, hst, harrived, hseq]

end Beacons

theorem execPeerTimeout_of_awaited {s : State} {c : Fin 4096} {r : CollRun} {rank : Nat} {f : Flight} (hrun : s.run c = some r)
    (hdesc : s.runDesc c r = some f) (hawaits : r.awaits f.desc rank = true) :
    execPeerTimeout c rank s = .next ((s.advance ((if tabGet 0 r.heard rank = 0 then r.arrivedAt else tabGet 0 r.heard rank - 1) +
      1000 * s.effNat 0x8022 1)).losePeer c (memberId (r.members.getD rank 0))) := by
  simp [execPeerTimeout, hrun, hdesc, hawaits]

/-! ## The parade -/

/-- A request for a chunk of the parade under way waits with the others, and those that can be served are (R335). -/
theorem execParadeRequest_of_chunk {s s1 : State} {pk : Packet} (htype : pk.type = 6) (hnew : s.receive pk = (s1, true))
    (hid : payloadNat pk 0 4 = s1.planNat 576 607) (hidle : s1.fabric.parade.state ≠ 0) (hfailed : s1.fabric.parade.state ≠ 4)
    (hchunk : payloadNat pk 4 4 < s1.fabric.parade.total) :
    execParadeRequest pk s = .next ({ s1 with fabric := { s1.fabric with parade := { s1.fabric.parade with
      served := s1.fabric.parade.served ++ [(pk.srcId.toNat, payloadNat pk 4 4)] } } } : State).serveWaiting := by
  simp [execParadeRequest, htype, State.takeParadeRequest, hnew, hid, hidle, hfailed, hchunk]

section ParadeData

variable {s s1 s2 s3 : State} {pk : Packet} {n q : Nat} {ps : List Nat}

/-- Data of the chunk being fetched, from the parent it is fetched from, land (R335). -/
theorem State.takeParadeData_of_awaited (hnew : s.receive pk = (s1, true)) (hid : payloadNat pk 0 4 = s1.planNat 576 607)
    (hst : s1.fabric.parade.state = 1 ∨ s1.fabric.parade.state = 2) (hchunk : payloadNat pk 4 4 = s1.fabric.parade.chunks)
    (hparent : pk.srcId.toNat = s1.paradeParent) (hn : n = chunkLen (s1.planNat 384 447) (payloadNat pk 4 4)) (hq : q = payloadNat pk 8 4)
    (hs2 : s2 = s1.wrHome (s1.planNat 448 511 + 2 ^ 20 * payloadNat pk 4 4 + q) ((pk.payload.drop 12).take (n - q)))
    (hps : ps = insNat (q / paradePart) s1.fabric.parade.pieces)
    (hs3 : s3 = (s2.setParade { s1.fabric.parade with chunks := s1.fabric.parade.chunks + 1, pieces := [], lastAt := s1.now }).serveWaiting) :
    s.takeParadeData pk = if ps.length < (n + paradePart - 1) / paradePart then s2.setParade { s1.fabric.parade with pieces := ps }
      else if s1.fabric.parade.chunks + 1 = s1.fabric.parade.total then s3.verifyParade else s3.requestChunk := by
  have hnow : s1.now = s.now := by simpa [hnew] using s.receive_now pk
  have hawaited : ¬(payloadNat pk 0 4 ≠ s1.planNat 576 607 ∨ (s1.fabric.parade.state ≠ 1 ∧ s1.fabric.parade.state ≠ 2) ∨
      payloadNat pk 4 4 ≠ s1.fabric.parade.chunks ∨ pk.srcId.toNat ≠ s1.paradeParent) := by
    simpa [hid, hchunk, hparent] using fun h : ¬s1.fabric.parade.state = 1 => hst.resolve_left h
  subst hs3 hps hs2 hq hn
  unfold State.takeParadeData
  simp only [hnew]
  rw [if_neg hawaited]
  simp only [hchunk, hnow]

end ParadeData

/-! ## Device time -/

theorem State.noteOffset_now (s : State) (off slew : Int) (locked : Bool) : (s.noteOffset off slew locked).now = s.now := by
  unfold State.noteOffset
  dsimp only
  split <;> rfl

/-- Device time steps forward in BOOTING and in READY, and is slewed elsewhere (R340). -/
theorem State.followTime_now (s : State) (off : Int) :
    (s.followTime off).now = if (s.dev.state = .booting ∨ s.asReady = true) ∧ 0 ≤ off then s.now + off.toNat else s.now := by
  unfold State.followTime
  simp only [Bool.and_eq_true, Bool.or_eq_true, beq_iff_eq, decide_eq_true_eq]
  split
  · exact State.noteOffset_now ..
  · exact State.noteOffset_now ..

section TimeFlits

variable {s s2 s3 : State} {port : Fin 16} {f : TimeFlit} (hlive : s.portLive port = true) (hs2 : s2 = s.timeFlits port)
  (hs3 : s3 = s2.setPort port { s2.port port with timeRx := s.now })
include hlive hs2

/-- A port sends a time flit for each millisecond since its last (R339). -/
theorem timeFlits_of_sent {tx : Nat} (htx : (s.port port).timeTx = some tx) :
    s2 = (List.range ((s.now - tx) / 1000000)).foldl (fun (u : State) i => u.emitTimeFlit port (tx + 1000000 * (i + 1))) s := by
  subst hs2
  simp [State.timeFlits, hlive, htx]

include hs3

theorem execTimeFlit_of_other (h : s.effNat 0x8010 1 ≠ 2 ∨ s.effNat 0x8010 2 ≠ port.val) : execTimeFlit port f s = .next s3 := by
  have hother : ¬(s.effNat 0x8010 1 = 2 ∧ s.effNat 0x8010 2 = port.val) := fun hboth => h.elim (· hboth.1) (· hboth.2)
  subst hs3 hs2
  simp only [execTimeFlit, if_pos hlive, if_neg hother]

theorem execTimeFlit_of_timeParent (hmode : s.effNat 0x8010 1 = 2) (hport : s.effNat 0x8010 2 = port.val) {tx rx : Nat}
    (htx : (s.port port).timeTx = some tx) (hrx : f.lastRx = some rx) :
    execTimeFlit port f s = .next (s3.followTime ((((rx : Int) - tx) + ((f.sentAt : Int) - s.now)) / 2)) := by
  subst hs3 hs2
  simp only [execTimeFlit, if_pos hlive, if_pos (And.intro hmode hport), htx, hrx, flitOffset]

end TimeFlits

section Ptp

variable {s : State} (hmode : s.effNat 0x8010 1 = 1)
include hmode

theorem execPtpMessage_sync {seq origin : Nat} : execPtpMessage (.sync seq (some origin)) s = .next (s.askDelay seq s.now origin) := by
  simp [execPtpMessage, hmode]

theorem execPtpMessage_followUp {origin : Nat} (h : s.fabric.ptp.origin = none) :
    execPtpMessage (.followUp s.fabric.ptp.seq origin) s = .next (s.askDelay s.fabric.ptp.seq s.fabric.ptp.syncRx origin) := by
  simp [execPtpMessage, hmode, h]

theorem execPtpMessage_delayResp {at_ o q : Nat} (ho : s.fabric.ptp.origin = some o) (hq : s.fabric.ptp.asked = some q) :
    execPtpMessage (.delayResp s.fabric.ptp.seq at_) s =
      .next (({ s with fabric := { s.fabric with ptp := { s.fabric.ptp with asked := none } } } : State).followTime
        ((((o : Int) - s.fabric.ptp.syncRx) + ((at_ : Int) - q)) / 2)) := by
  simp [execPtpMessage, hmode, ho, hq]

end Ptp

/-- Settles O44: each command of the collectives, of the parade and of device time on its occasion. -/
theorem fabricCommandsAct : Obligations.FabricCommandsAct := by
  unfold Obligations.FabricCommandsAct
  intro s s1 pk c
  refine ⟨execCollectiveData_of_new, execLossNotice_of_own, fun htype hcrc hdest => ⟨fun r => execPaceBeacon_of_pending htype hcrc hdest,
    execPaceBeacon_of_ahead htype hcrc hdest⟩, fun r hrun => ⟨?beaconTimer, fun rank f => execPeerTimeout_of_awaited hrun⟩, execParadeRequest_of_chunk,
    ?paradeData, fun h => ?firstParent, fun h => ?secondParent, fun port f s2 s3 hlive hs2 hs3 => ⟨fun tx => timeFlits_of_sent hlive hs2,
    execTimeFlit_of_other hlive hs2 hs3, fun hmode hport tx rx => execTimeFlit_of_timeParent hlive hs2 hs3 hmode hport⟩,
    fun hmode => ⟨fun seq origin => execPtpMessage_sync hmode, fun origin => execPtpMessage_followUp hmode, fun at_ o q => execPtpMessage_delayResp hmode⟩,
    fun hlost hmode t ht => ?sourceLost, fun h => ?lostBefore, s.followTime_now⟩
  case beaconTimer =>
    change execBeaconTimer c s = _
    simp only [execBeaconTimer, hrun]
  case paradeData =>
    intro htype hnew hid hst hchunk hparent n q s2 s3 ps hn hq hs2 hps
    change (_ → execParadeData pk s = _) ∧ (_ → _ → execParadeData pk s = _)
    have hland {u : State} := State.takeParadeData_of_awaited (s3 := u) hnew hid hst hchunk hparent hn hq hs2 hps
    refine ⟨fun hmore => ?_, fun hs3 hlast => ?_⟩
    · rw [execParadeData, if_pos htype, hland rfl, if_pos hmore]
    · rw [execParadeData, if_pos htype, hland hs3, if_neg (Nat.not_lt.mpr hlast)]
  case firstParent =>
    change execParadeParentTimeout s = _
    simp [execParadeParentTimeout, h]
  case secondParent =>
    change execParadeParentTimeout s = _
    simp [execParadeParentTimeout, h]
  case sourceLost =>
    subst ht
    change execTimeSourceLost s = _
    simp [execTimeSourceLost, State.loseTimeSource, hlost, hmode]
  case lostBefore =>
    change execTimeSourceLost s = _
    simp [execTimeSourceLost, State.loseTimeSource, h]

end Sys2Proof.Machine
end


section
/-! PROOF. What the commands of a queue pair do (R306, R477, R478): O45. -/

namespace Sys2Proof.Machine
open Sys2Proof

/-- What is to be done for a pair that waits for nothing is done at once (R295). -/
theorem State.qpDo_of_idle {s : State} {key : Nat} (hidle : (s.qp key).waiting = []) (w : QpWait) : s.qpDo key w = s.qpAttempt key w := by
  simp [State.qpDo, hidle]

/-! ## Send-queue entries -/

section Issue

variable {s s1 : State} {key e op : Nat}

/-- A pair that may send, and whose next entry the owner's tables let be read, issues that entry (R477, R478). -/
theorem State.runWqe_of_ready (hready : s.wqeReady key = true) (hread : s.qpAccess key accRead (s.wqeAt key) 64 = (s1, none))
    (he : e = leNat (s1.rdVAt (qpAgent key) (s.qp key).owner (s1.wqeAt key) 64)) (hop : wqeOp e = op) :
    s.runWqe key op = s1.issueWqe key (s.qp key).sqConsumer.toNat e op := by
  subst he
  unfold State.runWqe
  simp only [hready, Bool.not_true, Bool.false_eq_true, if_false, hread, hop, true_or, if_true]

theorem State.issueWqe_of_long (ix : Nat) (hlen : 2 ^ 31 < wqeLen e) : s.issueWqe key ix e op = s.failWqe key ix e := by
  unfold State.issueWqe
  dsimp only
  rw [if_pos (Or.inl hlen)]

theorem wqe_listed (hlow : 1 ≤ wqeOp e) (hhigh : wqeOp e ≤ 3) (hlen : wqeLen e ≤ 2 ^ 31) : ¬(2 ^ 31 < wqeLen e ∨ wqeOp e = 0 ∨ 3 < wqeOp e) := by
  omega

/-- A read leaves as its request (R478). -/
theorem State.issueWqe_read (ix : Nat) (hop : wqeOp e = 3) (hlen : wqeLen e ≤ 2 ^ 31) :
    s.issueWqe key ix e op = (s.consumeWqe key ix e true).sendRoce key 3 (wqeRemote e) (wqeKey e) (wqeLen e) [] := by
  unfold State.issueWqe
  dsimp only
  rw [if_neg (wqe_listed (by omega) (by omega) hlen), if_pos hop]

/-- A SEND or an RDMA WRITE leaves with its data (R478). -/
theorem State.issueWqe_data (ix : Nat) (hop : wqeOp e = 1 ∨ wqeOp e = 2) (hlen : wqeLen e ≤ 2 ^ 31)
    (hread : s.qpAccess key accRead (wqeLocal e) (wqeLen e) = (s1, none)) :
    s.issueWqe key ix e op = (s1.consumeWqe key ix e true).sendRoce key (wqeOp e) (wqeRemote e) (wqeKey e) (wqeLen e)
      (s1.rdVAt (qpAgent key) (s.qp key).owner (wqeLocal e) (wqeLen e)) := by
  unfold State.issueWqe
  dsimp only
  rw [if_neg (wqe_listed (by omega) (by omega) hlen), if_neg (by omega), hread]

end Issue

/-! ## Inbound requests -/

section Inbound

variable {s : State} {port : Fin 16} {qp : Fin 1024} {q : RdmaInbound} {key : Nat} {x : QueuePair} (hkey : key = qpOf port qp) (hx : x = s.qp key)
  (hup : s.etherUp port = true) (hst : x.state = 2 ∨ x.state = 3) (hplain : q.marked = false)
include hkey hx hup hst hplain

/-- What a pair that receives does with a request, by its place in the sequence (R306). -/
theorem execInboundRdma_of_serving : execInboundRdma port qp q s = .next (match seqPlace x.expect q.psn with
    | .taken => s.roceAnswer key 0x10 q.psn.toNat []
    | .ahead => s.roceAnswer key 0x13 q.psn.toNat []
    | .next => (s.setQp key { x with expect := some (q.psn + BitVec.ofNat 24 (inboundParts q.req)) }).qpDo key (.inbound q)) := by
  subst hx hkey
  have hserves : ((s.qp (qpOf port qp)).state == 2 || (s.qp (qpOf port qp)).state == 3) = true := by simpa using hst
  unfold execInboundRdma
  simp only [hup, hserves, hplain, Bool.not_true, Bool.or_self, Bool.false_eq_true, if_false]
  cases seqPlace (s.qp (qpOf port qp)).expect q.psn <;> rfl

theorem execInboundRdma_of_taken (h : seqPlace x.expect q.psn = .taken) :
    execInboundRdma port qp q s = .next (s.roceAnswer key 0x10 q.psn.toNat []) := by
  rw [execInboundRdma_of_serving hkey hx hup hst hplain, h]

theorem execInboundRdma_of_ahead (h : seqPlace x.expect q.psn = .ahead) :
    execInboundRdma port qp q s = .next (s.roceAnswer key 0x13 q.psn.toNat []) := by
  rw [execInboundRdma_of_serving hkey hx hup hst hplain, h]

theorem execInboundRdma_of_next (hidle : x.waiting = []) (h : seqPlace x.expect q.psn = .next) {s1 : State}
    (hs1 : s1 = s.setQp key { x with expect := some (q.psn + BitVec.ofNat 24 (inboundParts q.req)) }) :
    execInboundRdma port qp q s = .next (s1.performInbound key q) := by
  rw [execInboundRdma_of_serving hkey hx hup hst hplain, h]
  dsimp only
  rw [← hs1, State.qpDo_of_idle (by simpa [hs1, State.qp_setQp] using hidle)]
  rfl

end Inbound

section Perform

variable {s s2 : State} {key : Nat} {q : RdmaInbound} {a n : Nat} {k : BitVec 32} {d : List Byte}

/-- A request with another R_Key gets a remote access error (R477). -/
theorem State.performInbound_of_other_key (hreq : q.req = .write a k d ∨ q.req = .read a k n)
    (hk : k.toNat ≠ bitsOf (s.qp key).word1.toNat 0 32) : s.performInbound key q = s.roceAnswer key 0x12 q.psn.toNat [] := by
  unfold State.performInbound
  rcases hreq with hreq | hreq <;> simp only [hreq, if_pos hk]

theorem State.performInbound_write (hreq : q.req = .write a k d) (hk : k.toNat = bitsOf (s.qp key).word1.toNat 0 32)
    (hacc : s.qpAccess key accWrite a d.length = (s2, none)) :
    s.performInbound key q = (s2.wrVAt (qpAgent key) (s.qp key).owner a d).roceAnswer key 0x10 q.psn.toNat [] := by
  unfold State.performInbound
  simp only [hreq, if_neg (not_not_intro hk), hacc]

theorem State.performInbound_read (hreq : q.req = .read a k n) (hk : k.toNat = bitsOf (s.qp key).word1.toNat 0 32)
    (hacc : s.qpAccess key accRead a n = (s2, none)) :
    s.performInbound key q = s2.roceAnswer key 0x11 q.psn.toNat (s2.rdVAt (qpAgent key) (s.qp key).owner a n) := by
  unfold State.performInbound
  simp only [hreq, if_neg (not_not_intro hk), hacc]

theorem State.performInbound_send (hreq : q.req = .send d) : s.performInbound key q = s.receiveSend key q d := by
  unfold State.performInbound
  simp only [hreq]

end Perform

/-! ## Answers -/

section Answers

variable {s : State} {port : Fin 16} {qp : Fin 1024} {ix : Nat} {w : BitVec 512} {r : List (Nat × BitVec 512)}
  (hfly : (s.qp (qpOf port qp)).flying = (ix, w) :: r)
include hfly

theorem execRdmaResponse_ack (hop : wqeOp w.toNat ≠ 3) : execRdmaResponse port qp .ack s = .next (s.endOldest (qpOf port qp) ix w.toNat r 0) := by
  simp [execRdmaResponse, hfly, hop]

/-- The data of a read land for its entry (R478). -/
theorem execRdmaResponse_readData (hidle : (s.qp (qpOf port qp)).waiting = []) {d : List Byte} (hop : wqeOp w.toNat = 3)
    (hlen : d.length = wqeLen w.toNat) : execRdmaResponse port qp (.readData d) s =
      .next ((s.setQp (qpOf port qp) { s.qp (qpOf port qp) with flying := r }).landRead (qpOf port qp) ix w.toNat d) := by
  have hwaits : ((s.setQp (qpOf port qp) { s.qp (qpOf port qp) with flying := r }).qp (qpOf port qp)).waiting = [] := by
    rw [State.qp_setQp, if_pos rfl]
    exact hidle
  unfold execRdmaResponse
  simp only [hfly, hop, hlen, and_self, if_true, State.endRead, State.qpDo_of_idle hwaits]
  rfl

theorem execRdmaResponse_remoteError : execRdmaResponse port qp .remoteError s = .next (s.endOldest (qpOf port qp) ix w.toNat r 2) := by
  simp [execRdmaResponse, hfly]

theorem execRdmaResponse_retryExceeded : execRdmaResponse port qp .retryExceeded s = .next (s.endOldest (qpOf port qp) ix w.toNat r 3) := by
  simp [execRdmaResponse, hfly]

end Answers

/-- Settles O45: the send-queue entries, the inbound requests and the answers of a pair that waits for nothing. -/
theorem rdmaCommandsAct : Obligations.RdmaCommandsAct := by
  unfold Obligations.RdmaCommandsAct
  intro s s1 s2 port qp key e x hkey hx hidle
  refine ⟨fun hready hread he => ⟨?data, ?read, ?long⟩, fun hup hst q hplain => ⟨execInboundRdma_of_taken hkey hx hup hst hplain,
    execInboundRdma_of_ahead hkey hx hup hst hplain, fun hplace hs1 => ?inbound⟩, ?answers⟩
  case inbound =>
    have hperform : exec (.inboundRdma port qp q) s = .next (s1.performInbound key q) :=
      execInboundRdma_of_next hkey hx hup hst hplain hidle hplace hs1
    have hqp : s1.qp key = { x with expect := some (q.psn + BitVec.ofNat 24 (inboundParts q.req)) } := by
      rw [hs1, State.qp_setQp, if_pos rfl]
    have howner : (s1.qp key).owner = x.owner := by rw [hqp]; rfl
    have hword1 : (s1.qp key).word1 = x.word1 := by rw [hqp]
    rw [hperform, ← howner, ← hword1]
    exact ⟨fun a n k d hreq hk => congrArg _ (State.performInbound_of_other_key hreq hk),
      fun a k d hreq hk hacc => congrArg _ (State.performInbound_write hreq hk hacc),
      fun a n k hreq hk hacc => congrArg _ (State.performInbound_read hreq hk hacc), fun d hreq => congrArg _ (State.performInbound_send hreq)⟩
  case answers =>
    subst hx hkey
    exact fun ix w r hfly => ⟨execRdmaResponse_ack hfly, fun d => execRdmaResponse_readData hfly hidle, execRdmaResponse_remoteError hfly,
      execRdmaResponse_retryExceeded hfly⟩
  all_goals
    subst hx
    have hrun (op : Nat) (hop : wqeOp e = op) : s.qpDo key (.wqe op) = s1.issueWqe key (s.qp key).sqConsumer.toNat e op :=
      (State.qpDo_of_idle hidle _).trans (State.runWqe_of_ready hready hread he hop)
    subst hkey
  case data =>
    simp only [List.forall_mem_cons, List.not_mem_nil, false_imp_iff, implies_true, and_true]
    refine ⟨fun hop hlen hacc => congrArg Host.Outcome.next ?_, fun hop hlen hacc => congrArg Host.Outcome.next ?_⟩
    · rw [hrun 1 hop, State.issueWqe_data _ (Or.inl hop) hlen hacc, hop]
    · rw [hrun 2 hop, State.issueWqe_data _ (Or.inr hop) hlen hacc, hop]
  case read =>
    intro hop hlen
    exact congrArg Host.Outcome.next ((hrun 3 hop).trans (State.issueWqe_read _ hop hlen))
  case long =>
    simp only [List.forall_mem_cons, List.not_mem_nil, false_imp_iff, implies_true, and_true]
    exact ⟨fun hop hlen => congrArg _ ((hrun 1 hop).trans (State.issueWqe_of_long _ hlen)),
      fun hop hlen => congrArg _ ((hrun 2 hop).trans (State.issueWqe_of_long _ hlen)),
      fun hop hlen => congrArg _ ((hrun 3 hop).trans (State.issueWqe_of_long _ hlen))⟩

end Sys2Proof.Machine
end


section
/-! PROOF. What guests and the endpoints of PE1 may do (R382 to R390): O50. -/

namespace Sys2Proof.Machine
open Sys2Proof

/-! ## Requests of a guest -/

section Requests

variable {s s1 : State} {g : Fin 2} {q : BusRequest} {a n w pa : Nat} {d : List Byte}

theorem execGuestRequest_of_violation (hst : (s.guest g).state = 5) {cause : Nat} (h : s.violation g q = some cause) :
    execGuestRequest g q s = .next (s.cutGuest g cause (busAddr q)) := by
  simp [execGuestRequest, hst, h]

theorem execGuestRequest_of_passed (hst : (s.guest g).state = 5) (h : s.violation g q = none)
    (hw : ((s.windows (0x4210 + g)).find? fun w => winHolds w (busAddr q) (busLen q)) = some w) :
    execGuestRequest g q s = .next ((s.takeTokens g (busLen q)).busPerform (1160 + g) g q (winPa w + (busAddr q - winBase w))) := by
  unfold execGuestRequest
  simp only [hst, ne_eq, not_true_eq_false, if_false, h, hw]

/-- A read that a window with the right to read holds, within one line, passes the firewall (R385, R387). -/
theorem State.violation_read_none (hn : 0 < n) (hline : a / 128 = (a + n - 1) / 128)
    (hw : ((s.windows (0x4210 + g)).find? fun w => winHolds w a n) = some w) (hright : bitAt w 1 = true) : s.violation g (.read a n) = none := by
  have hgood : busBad (.read a n) = false := by simpa [busBad, busLen] using hn.ne'
  simp only [State.violation, hgood, Bool.false_eq_true, if_false, busAddr, busLen, hline, ne_eq, not_true_eq_false, hw, busAllowed, hright, if_true]

theorem State.busPerform_read {agent dst : Nat} (h : (s.busWake dst).checkPa accRead a pa n = (s1, none)) :
    s.busPerform agent dst (.read a n) pa = s1.busReply dst (some (s1.rdBytes pa n)) := by
  simp only [State.busPerform, busAcc, busAddr, busLen, h]

theorem State.busPerform_write {agent dst : Nat} (h : (s.busWake dst).checkPa accWrite a pa d.length = (s1, none)) :
    s.busPerform agent dst (.write a d) pa = s1.wrBytes pa d := by
  simp only [State.busPerform, busAcc, busAddr, busLen, h]

end Requests

/-! ## Bring-up -/

section Bringup

variable {s : State} {g : Fin 2} {r : BringupResult}

theorem execGuestBringupStep_training (hst : (s.guest g).state = 2) :
    execGuestBringupStep g r s = .next { s with guests := s.guests.set g { s.guest g with state := if r.ok then 3 else 7 } } := by
  simp [execGuestBringupStep, hst]

/-- Attestation succeeds against the anchor: state 4 (R382, R383). -/
theorem execGuestBringupStep_attested (hst : (s.guest g).state = 3) (hok : r.ok = true) (hsigned : r.signed = true)
    (hanchor : s.accNat 0x4205 (g + 1) ≠ 0) (hdigest : r.rootDigest.toNat = s.accNat 0x4205 (g + 1)) :
    execGuestBringupStep g r s = .next { s with guests := s.guests.set g { s.guest g with
      state := 4, barBase := r.barBase, barBytes := r.barBytes, measurements := r.measurements } } := by
  have hpasses : (r.ok && r.signed && s.accNat 0x4205 (g + 1) != 0 && r.rootDigest.toNat == s.accNat 0x4205 (g + 1)) = true := by
    simp [hok, hsigned, hanchor, hdigest]
  unfold execGuestBringupStep
  dsimp only
  rw [if_neg (by omega), if_pos hst, if_pos hpasses]

/-- Attestation fails: state 7 (R382, R383). -/
theorem execGuestBringupStep_unattested (hst : (s.guest g).state = 3)
    (h : r.ok = false ∨ r.signed = false ∨ s.accNat 0x4205 (g + 1) = 0 ∨ r.rootDigest.toNat ≠ s.accNat 0x4205 (g + 1)) :
    execGuestBringupStep g r s = .next { s with guests := s.guests.set g { s.guest g with state := 7 } } := by
  have hfails : ¬(r.ok && r.signed && s.accNat 0x4205 (g + 1) != 0 && r.rootDigest.toNat == s.accNat 0x4205 (g + 1)) = true := by
    rcases h with h | h | h | h <;> simp [h]
  unfold execGuestBringupStep
  dsimp only
  rw [if_neg (by omega), if_pos hst, if_neg hfails]

end Bringup

/-! ## What comes through PE1 -/

section Pe1

variable {s : State} {port : Fin 2} {id : BitVec 16} {q : BusRequest} {w : Nat} (hroot : s.rootPort port = true)
include hroot

/-- A DMA request of a root port is made through the port's windows when one gives it the right, and refused otherwise (R385, R390). -/
theorem execPe1DmaRequest_of_window (hpage : busAddr q / 4096 ≠ messagePage / 4096) (hgood : busBad q = false)
    (hw : ((s.windows (0x4310 + port)).find? fun w => winHolds w (busAddr q) (busLen q)) = some w) :
    execPe1DmaRequest port id q s = .next (if busAllowed q w = true then s.busPerform 1153 (2 + port.val) q (winPa w + (busAddr q - winBase w))
      else s.refuseDma port) := by
  unfold execPe1DmaRequest
  simp only [hroot, Bool.not_true, Bool.false_eq_true, if_false, hpage, false_and, hgood, hw]
  split <;> rfl

theorem execPe1MessageWrite_of_word {d : List Byte} (hlen : d.length = 4) :
    execPe1MessageWrite port d s = .next ((s.ungate (.pcie 1)).raise (leNat d % 2 ^ 13)) := by
  have hwake : s.busWake (2 + port.val) = s.ungate (.pcie 1) := by rw [State.busWake, if_neg (by omega)]
  simp [execPe1MessageWrite, hroot, State.endpointMessage, hlen, hwake, bitsOf]

end Pe1

theorem State.refuseDma_replies (s : State) (port : Nat) : (s.refuseDma port).out.replies = (2 + port, none) :: s.out.replies := by
  simp [State.refuseDma, State.busReply, State.busWake]

/-- Settles O50: the firewall, bring-up, DMA, messages and the loss of a CXL link. -/
theorem guestCommandsAct : Obligations.GuestCommandsAct := by
  unfold Obligations.GuestCommandsAct
  intro s s1 g port q r id d a n w pa x hx
  subst hx
  refine ⟨fun hst => ⟨fun cause => execGuestRequest_of_violation hst, execGuestRequest_of_passed hst⟩, ?read, ?performRead, ?performWrite,
    execGuestBringupStep_training, execGuestBringupStep_attested,
    execGuestBringupStep_unattested, fun hroot hpage hgood hw => ?dma, fun hroot => execPe1MessageWrite_of_word hroot, fun hmode => ?linkDrop⟩
  case read =>
    rintro rfl hn hline hw hright
    exact State.violation_read_none hn hline hw hright
  case performRead =>
    rintro rfl h
    exact State.busPerform_read h
  case performWrite =>
    rintro rfl h
    exact State.busPerform_write h
  case dma =>
    have hdma := execPe1DmaRequest_of_window (id := id) hroot hpage hgood hw
    refine ⟨fun hallowed => ?_, fun hrefused => ⟨s.refuseDma port, ?_, State.refuseDma_mem .., State.refuseDma_replies ..⟩⟩
    · exact hdma.trans (by rw [if_pos hallowed])
    · exact hdma.trans (by simp [hrefused])
  case linkDrop =>
    change execCxlLinkDrop port s = _
    simp [execCxlLinkDrop, hmode]

end Sys2Proof.Machine
end


section
/-! PROOF. What readings, the brake, trips, energy and gating do (R398 to R408, R414, R508): O51. -/

namespace Sys2Proof.Machine
open Sys2Proof

/-! ## Readings -/

/-- Die readings below the trip point move the stacks to their throttle steps (R402, R411). -/
theorem execStackTempReading_of_cool {s : State} {temps : List (Nat × Nat)} (hon : s.dev.state ≠ .off)
    (hcool : ∀ x ∈ temps.take 20, x.1 < 1150 ∧ x.2 < 1150) {h : List Nat} (hh : h = (temps.take 20).map fun x => max x.1 x.2) :
    execStackTempReading temps s =
      .next ((({ s with power := { s.power with dieTemps := h } } : State).stackSteps h).comparePairs 8 ((temps.drop 8).take 8)) := by
  have hbelow : firstAtLeast ((temps.take 20).map pairHigh) 1150 = none := by
    refine firstAtLeast_eq_none fun y hy => ?_
    obtain ⟨x, hx, rfl⟩ := List.mem_map.mp hy
    exact max_lt (hcool x hx).1 (hcool x hx).2
  subst hh
  unfold execStackTempReading
  rw [if_neg (by simpa using hon)]
  simp only [hbelow]
  rfl

/-! ## The cap and the brake -/

section Brake

variable {s : State} {a : CapAverages} {avg : Nat}

theorem State.capCheck_of_running (h : ∀ p ∈ s.parts, p.duty = false) : s.capCheck a = some a.last10ms := by
  have hnone : (s.parts.any fun p => p.duty) = false := by simpa using h
  simp [State.capCheck, hnone]

/-- While a partition duty-cycles the average runs from the first inserted idle (R401). -/
theorem State.capCheck_of_duty {x : PartSt} {from_ : Nat} (hx : x ∈ s.parts) (hduty : x.duty = true) (hidle : s.power.firstIdle = some from_) :
    s.capCheck a = some (if 1000000000 < s.now - from_ then a.last1000ms else a.sinceIdle) := by
  have hany : (s.parts.any fun p => p.duty) = true := List.any_eq_true.mpr ⟨x, hx, hduty⟩
  simp only [State.capCheck, hany, if_true, hidle, Option.map_some]

theorem State.brakeDue_eq_true (h : 5000 < avg ∨ (s.power.graceUntil = none ∧ ∃ w, s.capCheck a = some w ∧ 11 * s.accNat 0x2100 3 < 10 * w)) :
    s.brakeDue avg a = true := by
  rcases h with h | ⟨hgrace, w, hw, hover⟩
  · simp [State.brakeDue, h]
  · simp [State.brakeDue, hgrace, hw, State.capNow, hover]

theorem State.brakeDue_eq_false (havg : avg ≤ 5000)
    (h : s.power.graceUntil ≠ none ∨ ∀ w, s.capCheck a = some w → 10 * w ≤ 11 * s.accNat 0x2100 3) : s.brakeDue avg a = false := by
  have hquiet : (s.power.graceUntil.isNone && (s.capCheck a).any fun w => decide (11 * s.capNow < 10 * w)) = false := by
    rcases h with h | h
    · simp [h]
    · cases hw : s.capCheck a with
      | none => simp
      | some w =>
        have hunder : ¬11 * s.capNow < 10 * w := Nat.not_lt.mpr (h w hw)
        rw [Option.any_some, decide_eq_false hunder, Bool.and_false]
  simp [State.brakeDue, hquiet, havg]

end Brake

/-! ## Trips -/

theorem State.notify_ctxs (s : State) (cls logIx : Nat) (d : List Byte) (skip : Option Nat) : (s.notify cls logIx d skip).ctxs = s.ctxs :=
  State.foldl_keeps State.ctxs _ (fun t i => by split <;> rfl) _ s

theorem State.notify_integ (s : State) (cls logIx : Nat) (d : List Byte) (skip : Option Nat) : (s.notify cls logIx d skip).integ = s.integ :=
  State.foldl_keeps State.integ _ (fun t i => by split <;> rfl) _ s

theorem State.notify_power (s : State) (cls logIx : Nat) (d : List Byte) (skip : Option Nat) : (s.notify cls logIx d skip).power = s.power :=
  State.foldl_keeps State.power _ (fun t i => by split <;> rfl) _ s

/-- A change of the device's state leaves contexts, power and the integrity record. -/
theorem State.toDevState_keeps (s : State) (d : DevState) :
    (s.toDevState d).ctxs = s.ctxs ∧ (s.toDevState d).power = s.power ∧ (s.toDevState d).integ = s.integ := by
  unfold State.toDevState
  split
  · exact ⟨rfl, rfl, rfl⟩
  · simp [State.postEvent, State.notify_ctxs, State.notify_power, State.notify_integ]

/-- A hardware trip gates every domain but the always-on domain, records itself, and leaves the device in FAULT (R404, R405). -/
theorem State.tripNow_leaves {s : State} (hon : s.dev.state ≠ .off) (cause die reading : Nat) {t : State} (ht : t = s.tripNow cause die reading) :
    t.dev.state = .fault ∧ t.power.tripLow = true ∧ t.power.lastTrip = tripRecord cause die reading s.now ∧ t.ctxs = [] ∧
      (∀ a, keptCell a = false → tabGet memDefault t.mem a = 0) ∧ t.integ = s.integ := by
  unfold State.tripNow at ht
  rw [if_neg (by simpa using hon)] at ht
  extract_lets rec_ s1 power dev s2 at ht
  obtain ⟨hctxs, hpower, hinteg⟩ := s2.toDevState_keeps .fault
  rw [ht]
  rw [State.notify_dev, State.notify_power, State.notify_ctxs, State.notify_mem, State.notify_integ, State.toDevState_mem, hctxs, hpower, hinteg]
  refine ⟨(s2.toDevState_leaves .fault).1, rfl, rfl, rfl, fun a hcell => ?_, rfl⟩
  exact (tabGet_filter memDefault s.mem keptCell a).trans (by rw [hcell]; rfl)

/-! ## Energy -/

section Energy

variable (own : List (Nat × Nat)) (s : State)

theorem foldl_addEnergy_power : (own.foldl (fun (t : State) x => t.addEnergy x.1 x.2) s).power = s.power :=
  State.foldl_keeps State.power (fun t x => t.addEnergy x.1 x.2) (fun _ _ => rfl) own s

theorem foldl_addEnergy_mem : (own.foldl (fun (t : State) x => t.addEnergy x.1 x.2) s).mem = s.mem :=
  State.foldl_keeps State.mem (fun t x => t.addEnergy x.1 x.2) (fun _ _ => rfl) own s

/-- A sum of shares that starts above zero. -/
theorem foldl_shares (l : List (Nat × Nat)) (n : Nat) : l.foldl (fun a x => a + x.2) n = n + l.foldl (fun a x => a + x.2) 0 := by
  induction l generalizing n with
  | nil => rfl
  | cons x r ih => rw [List.foldl_cons, List.foldl_cons, ih (n + x.2), ih (0 + x.2)]; omega

theorem State.energyMj_addEnergy (c b mj : Nat) :
    ((s.addEnergy c mj).ctx b).cnt.energyMj = (s.ctx b).cnt.energyMj + if b = c then mj else 0 := by
  rw [State.addEnergy, State.ctx_updCtx]
  split
  · next hb => rw [hb]
  · rfl

/-- Each context gets the sum of its shares (R406). -/
theorem energyMj_foldl_addEnergy (c : Nat) : ((own.foldl (fun (t : State) x => t.addEnergy x.1 x.2) s).ctx c).cnt.energyMj =
    (s.ctx c).cnt.energyMj + (own.filter fun x => x.1 == c).foldl (fun a x => a + x.2) 0 := by
  induction own generalizing s with
  | nil => rfl
  | cons x r ih =>
    rw [List.foldl_cons, ih, State.energyMj_addEnergy, List.filter_cons]
    by_cases hc : c = x.1
    · simp only [hc, if_true, beq_self_eq_true, List.foldl_cons, foldl_shares _ (0 + x.2)]
      omega
    · rw [if_neg hc, if_neg (by simpa using Ne.symm hc)]
      omega

end Energy

theorem execEnergyAttribution_of_division {s : State} {e : EnergyShares} {own : List (Nat × Nat)} {sum : Nat} (hown : own = s.ownShares e)
    (hsum : sum = own.foldl (fun a x => a + x.2) 0) (htotal : (e.shares.map Prod.snd).sum ≤ e.totalMj) {s1 : State}
    (hs1 : s1 = own.foldl (fun (t : State) x => t.addEnergy x.1 x.2) s) :
    execEnergyAttribution e s = .next { s1 with power := { s1.power with
      energyMj := s1.power.energyMj + e.totalMj, unattributedMj := s1.power.unattributedMj + (e.totalMj - sum) } } := by
  subst hs1 hsum hown
  unfold execEnergyAttribution
  dsimp only
  rw [if_neg (by omega)]

/-! ## Gating -/

section Waking

variable {s s1 : State} {u : GateUnit} {failed : List Nat} (hgated : s.power.gated.contains u = true) (hs1 : s1 = s.ungate u)
include hgated hs1

/-- A gated unit without tiles wakes, and a STREAM that waited for it goes on (R206, R408). -/
theorem execUnitWake_of_plain (htile : ∀ p, u ≠ .tile p) (hstack : ∀ n, u ≠ .stack n) :
    execUnitWake u failed s = .next (match (generalizing := false) u with | .streamUnit v => s1.wakeUnit v | _ => s1) := by
  have hwoken : s.wokenTiles u = [] := by
    cases u with
    | tile p => exact absurd rfl (htile p)
    | stack n => exact absurd rfl (hstack n)
    | _ => rfl
  subst hs1
  unfold execUnitWake
  simp only [hgated, if_true, hwoken, List.filter_nil, List.foldl_nil] <;> cases u <;> rfl

/-- The tiles that wake with a unit are tested: one that fails is fenced, the others are checked (R408, R414). -/
theorem execUnitWake_of_tiles {l woken : List Nat} (hu : (∃ p, u = .tile p ∧ l = s.stacks p) ∨ ∃ n, u = .stack n ∧ l = [n.val])
    (hwoken : woken = (l.filter fun n => !(s.integ.computeFenced.getD n false)).flatMap fun n =>
      (s.integ.tiles.getD n [] ++ if s.integ.spare.getD n false then [8] else []).map fun x => 16 * n + x) :
    execUnitWake u failed s = .next ((woken.filter failed.contains).foldl (fun (v : State) x => v.fenceTile (x / 16) (x % 16) 0x01 0x01)
      ((woken.filter fun x => !failed.contains x).foldl (fun (v : State) x => v.tilePassed (x / 16) (x % 16)) s1)) := by
  subst hs1
  unfold execUnitWake
  rw [if_pos hgated]
  rcases hu with ⟨p, rfl, rfl⟩ | ⟨n, rfl, rfl⟩
  · rw [show s.wokenTiles (.tile p) = woken from hwoken.symm]
  · rw [show s.wokenTiles (.stack n) = woken from hwoken.symm]

end Waking

/-- Settles O51: readings, the grace, the brake, trips, energy and gating, each on its occasion. -/
theorem powerEventsAct : Obligations.PowerEventsAct := by
  unfold Obligations.PowerEventsAct
  intro s temps t avg a r e u failed
  refine ⟨fun hon hcool h => execStackTempReading_of_cool hon hcool, fun hgrace => ?grace, fun hon hdue => ?brake, fun havg h => ?noBrake,
    State.capCheck_of_running, fun x from_ => State.capCheck_of_duty, fun hcause hon hstandby => ⟨s.tripNow r.cause.val r.die r.reading, ?trip,
    State.tripNow_leaves hon _ _ _ rfl⟩, fun hcause hstandby => ⟨s.goOff, ?lowVin, rfl⟩, fun own sum hown hsum htotal => ?energy,
    fun hidle hungated => ?gate, fun hgated s1 hs1 => ⟨execUnitWake_of_plain hgated hs1, fun l woken => execUnitWake_of_tiles hgated hs1⟩⟩
  case grace =>
    change execGraceEnd s = _
    simp only [execGraceEnd, hgrace]
    rfl
  case brake =>
    change execPowerBrake avg a s = _
    simp [execPowerBrake, State.brakeDue_eq_true hdue, hon]
  case noBrake =>
    change execPowerBrake avg a s = _
    simp [execPowerBrake, State.brakeDue_eq_false havg h]
  case trip =>
    change execHardwareTrip r s = _
    rw [execHardwareTrip, if_neg hcause, if_neg hstandby]
  case lowVin =>
    change execHardwareTrip r s = _
    rw [execHardwareTrip, if_neg (by omega), if_pos ⟨hcause, hstandby⟩]
  case energy =>
    refine ⟨_, execEnergyAttribution_of_division hown hsum htotal rfl, ?_, ?_, foldl_addEnergy_mem own s,
      fun c _ => energyMj_foldl_addEnergy own s c⟩
    · dsimp only
      rw [foldl_addEnergy_power]
    · dsimp only
      rw [foldl_addEnergy_power]
  case gate =>
    change execUnitPowerGate u s = _
    rw [execUnitPowerGate, hidle, hungated]
    rfl

end Sys2Proof.Machine
end


section
/-! PROOF. What the ROM and the SPDM responder do (R432 to R437, R462, R498, R500): O53. -/

namespace Sys2Proof.Machine
open Sys2Proof

/-! ## Fetching images -/

section Fetch

variable {s : State} {m : UleelMsg}

section Image

variable (hfetching : s.fetching = true) (hfences : s.wantsFences = false) (hversion : m.version = 1) (hop : m.op = 6)
  (hresponse : m.flags.getLsbD 0 = true) (hindex : m.index.toNat = s.sec.kind) (hanswers : s.answersFetch m = true)
include hfetching hfences hversion hop hresponse hindex hanswers

/-- The answer to the FETCH sent last is looked at. -/
theorem fetch_awaited : (!s.fetching || s.wantsFences || m.version != 1 || m.op != 6 || !m.flags.getLsbD 0 || m.index.toNat != s.sec.kind ||
    !s.answersFetch m) = false := by
  simp only [hfetching, hfences, hversion, hop, hresponse, hindex, hanswers, bne_self_eq_false, Bool.not_true, Bool.or_self]

/-- An answer that does not continue the image is a refusal (R433, R462). -/
theorem execFetchResponse_of_error (hstatus : m.status ≠ 0) : execFetchResponse m s = .next s.refuseImage := by
  unfold execFetchResponse
  rw [fetch_awaited hfetching hfences hversion hop hresponse hindex hanswers, if_neg Bool.false_ne_true, if_pos (Or.inl hstatus)]

/-- An answer in its place joins the bytes fetched; with LAST the image is checked (R432). -/
theorem execFetchResponse_of_part (hstatus : m.status = 0) (hoffset : m.offset.toNat = s.sec.bytes.length) (hlength : m.length.toNat = m.data.length)
    (hdata : m.data ≠ []) (hshort : m.data.length ≤ 1024) : execFetchResponse m s = if m.flags.getLsbD 1 then
        match s.checkImage s.sec.kind (s.sec.bytes ++ m.data) with
        | some x => .next (s.acceptImage x)
        | none => .next s.refuseImage
      else .next ({ s with sec := { s.sec with bytes := s.sec.bytes ++ m.data } } : State).sendFetch := by
  have hpart : ¬(m.status ≠ 0 ∨ m.offset.toNat ≠ s.sec.bytes.length ∨ m.length.toNat ≠ m.data.length ∨ m.data = [] ∨ 1024 < m.data.length) := by
    simp [hstatus, hoffset, hlength, hdata, hshort]
  unfold execFetchResponse
  rw [fetch_awaited hfetching hfences hversion hop hresponse hindex hanswers, if_neg Bool.false_ne_true, if_neg hpart] <;> rfl

end Image

/-- A refusal waits 1 s, and the third from a source changes it (R433). -/
theorem State.refuseImage_leaves {u : State} (hu : u = s.refuseImage) :
    u.sec.waitUntil = some (s.now + 1000000000) ∧ u.sec.bytes = [] ∧
      (s.sec.refusals < 2 → u.sec.source = s.sec.source ∧ u.sec.refusals = s.sec.refusals + 1) ∧
      (s.sec.refusals = 2 → u.sec.source = 3 - s.sec.source ∧ u.sec.refusals = 0) := by
  subst hu
  refine ⟨rfl, rfl, fun hfew => ⟨if_neg (by omega), if_neg (by omega)⟩, fun hthird => ⟨if_pos (by omega), if_pos (by omega)⟩⟩

/-- No answer for 2 s changes the source (R433). -/
theorem execFetchTimeout_of_image (hfetching : s.fetching = true) (hfences : s.wantsFences = false) :
    execFetchTimeout s = .next ({ s.advance (s.sec.askedAt + 2000000000) with sec := { s.sec with
      source := 3 - s.sec.source, refusals := 0, bytes := [], fetches := s.sec.fetches + 1 } } : State).sendFetch := by
  have hstill : (s.advance (s.sec.askedAt + 2000000000)).wantsFences = false := hfences
  unfold execFetchTimeout
  simp only [hfetching, hstill, Bool.not_true, Bool.false_eq_true, if_false]
  rfl

/-- The answer to the fence record's FETCH fences its entries (R500). -/
theorem execFenceRecordFetch_of_record (hfetching : s.fetching = true) (hfences : s.wantsFences = true) (hversion : m.version = 1) (hop : m.op = 6)
    (hresponse : m.flags.getLsbD 0 = true) (hindex : m.index = 0x80) (hanswers : s.answersFetch m = true) (hstatus : m.status = 0)
    (hlength : m.length.toNat = m.data.length) : execFenceRecordFetch m s = .next (s.fencesDone (fenceEntries m.data)) := by
  simp [execFenceRecordFetch, hfetching, hfences, hversion, hop, hresponse, hindex, hanswers, hstatus, hlength]

/-- An answer to another FETCH does nothing (R449). -/
theorem fetch_of_other (hother : s.answersFetch m = false) : execFetchResponse m s = .next s ∧ execFenceRecordFetch m s = .next s := by
  simp [execFetchResponse, execFenceRecordFetch, hother]

end Fetch

/-! ## The end of power-up -/

/-- The known-answer tests of power-up leave the fences as they are. -/
theorem State.tilesPassed_fences (s : State) :
    s.tilesPassed.integ.fences = s.integ.fences ∧ s.tilesPassed.integ.dramDegraded = s.integ.dramDegraded := by
  unfold State.tilesPassed
  constructor
  · rw [State.foldl_keeps (fun t => t.integ.fences) _ fun t i => by split <;> rfl]
  · rw [State.foldl_keeps (fun t => t.integ.dramDegraded) _ fun t i => by split <;> rfl]

theorem State.replaceFailed_integ (s : State) : s.replaceFailed.integ = s.integ := by
  unfold State.replaceFailed
  refine State.foldl_keeps State.integ _ ?_ _ _
  exact fun _ _ => rfl

theorem State.commitSvn_integ (s : State) : s.commitSvn.integ = s.integ := by
  unfold State.commitSvn
  split <;> rfl

/-- With nothing fenced the end of power-up commits and enters READY (R434, R498). -/
theorem execBootComplete_of_whole {s : State} (hbooting : s.dev.state = .booting) (hdone : s.sec.done = true) (hfences : s.integ.fences = [])
    (hdram : s.integ.dramDegraded = 0) :
    execBootComplete ⟨[], [], []⟩ s = .next (s.hardRepair.tilesPassed.replaceFailed.commitSvn.toDevState .ready) := by
  have hends : ¬(s.dev.state ≠ .booting ∨ s.sec.done = false) := by simp [hbooting, hdone]
  have hruns : (s.hardRepair.dev.state == .fault) = false := by rw [show s.hardRepair.dev = s.dev from rfl, hbooting]; rfl
  obtain ⟨hkeptFences, hkeptDram⟩ := s.hardRepair.tilesPassed_fences
  have hwhole : (s.hardRepair.tilesPassed.replaceFailed.commitSvn.integ.fences.isEmpty &&
      s.hardRepair.tilesPassed.replaceFailed.commitSvn.integ.dramDegraded == 0) = true := by
    rw [State.commitSvn_integ, State.replaceFailed_integ, hkeptFences, hkeptDram]
    simp [State.hardRepair, hfences, hdram]
  unfold execBootComplete
  rw [if_neg hends]
  simp only [State.bootFences, List.foldl_nil, hruns, hwhole, Bool.false_eq_true, if_false, if_true]

/-! ## The responder -/

section Spdm

variable {s : State}

theorem State.spdm_of_deaf (h : s.dev.aoUp = false ∨ s.image 0 = none) (wait : Bool) (r : SpdmResponse) : s.spdm wait r = s := by
  rcases h with h | h <;> simp [State.spdm, h]

section Answering

variable (hao : s.dev.aoUp = true) (himage : s.image 0 ≠ none)
include hao himage

/-- What leaves once ALWAYS_ON is accepted: Busy for what waits for the commit (R436). -/
theorem State.spdm_of_accepted (wait : Bool) (r : SpdmResponse) :
    s.spdm wait r = { s with out := { s.out with spdm := some (if wait && !s.sec.committed then .busy else r) } } := by
  simp [State.spdm, hao, himage]

theorem State.spdm_at_once (r : SpdmResponse) : s.spdm false r = { s with out := { s.out with spdm := some r } } :=
  State.spdm_of_accepted hao himage false r

theorem State.spdm_of_uncommitted (hcommitted : s.sec.committed = false) (r : SpdmResponse) :
    s.spdm true r = { s with out := { s.out with spdm := some .busy } } := by
  simp [State.spdm_of_accepted hao himage, hcommitted]

theorem State.spdm_of_committed (hcommitted : s.sec.committed = true) (r : SpdmResponse) :
    s.spdm true r = { s with out := { s.out with spdm := some r } } := by
  simp [State.spdm_of_accepted hao himage, hcommitted]

end Answering

/-- A GET_CERTIFICATE is answered by the responder, whatever the portion asked for. -/
theorem execGetCertificate_eq (slot : Fin 8) (off len : Nat) : ∃ r, execGetCertificate slot off len s = .next (s.spdm true r) := by
  unfold execGetCertificate
  split
  · exact ⟨_, rfl⟩
  · exact ⟨_, rfl⟩

theorem execChallenge_eq (slot : Fin 8) (nonce : BitVec 256) : ∃ r, execChallenge slot nonce s = .next (s.spdm true r) := by
  unfold execChallenge
  split
  · exact ⟨_, rfl⟩
  · exact ⟨_, rfl⟩

/-- Before commit a GET_MEASUREMENTS leaves what its answer leaves (R436, R501). -/
theorem execGetMeasurements_of_unsigned (ix : Nat) (signed : Bool) (nonce : BitVec 256)
    (h : (signed && s.dev.aoUp && (s.image 0).isSome && s.sec.committed) = false) :
    ∃ r, execGetMeasurements ix signed nonce s = .next (s.spdm true r) := by
  unfold execGetMeasurements
  split
  · exact ⟨_, rfl⟩
  · simp only [h, Bool.false_eq_true, if_false]
    exact ⟨_, rfl⟩

/-- An unsigned GET_MEASUREMENTS of one block answers that block, with its type (R437). -/
theorem execGetMeasurements_of_block {ix : Nat} (hlow : 1 ≤ ix) (hhigh : ix ≤ 9) (nonce : BitVec 256) :
    execGetMeasurements ix false nonce s = .next (s.spdm true (.measurements [(ix, measurementType ix, s.measurement ix)] [])) := by
  have hasked : askedBlocks ix = some [ix] := by
    rw [askedBlocks, if_neg (by omega), if_neg (by omega), if_pos hhigh]
  unfold execGetMeasurements
  simp [hasked]

end Spdm

/-- Settles O53: the fetches of the ROM, the end of power-up, and the responder before and after commit. -/
theorem securityEventsAct : Obligations.SecurityEventsAct := by
  unfold Obligations.SecurityEventsAct
  intro s m r b signed slot off len ix t nonce
  refine ⟨fun hfetching hfences hversion hop hresponse hindex hanswers => ⟨execFetchResponse_of_error hfetching hfences hversion hop hresponse hindex
    hanswers, fun hstatus hoffset hlength hdata hshort => ?part⟩, fun u => State.refuseImage_leaves, fun hfetching hfences => ⟨_,
    execFetchTimeout_of_image hfetching hfences, rfl, rfl, rfl, rfl⟩, fun hwait hbooting hao => ?retry, execFenceRecordFetch_of_record,
    fun hbooting hdone hfences hdram hr => ?bootComplete, fun _ => fetch_of_other, fun hao himage => ⟨?early, fun hcommitted => ?busy,
    fun hcommitted => ⟨?digests, fun hoff d hd => ?certificate, ?challenge, fun hlow hhigh => ?measurements⟩⟩, fun hdeaf => ?deaf⟩
  case part =>
    have hpart := execFetchResponse_of_part hfetching hfences hversion hop hresponse hindex hanswers hstatus hoffset hlength hdata hshort
    refine ⟨fun hmore => ?_, fun hlast => ?_⟩
    · exact hpart.trans (by rw [hmore, if_neg Bool.false_ne_true])
    · refine hpart.trans ?_
      rw [if_pos hlast]
      cases s.checkImage s.sec.kind (s.sec.bytes ++ m.data) <;> rfl
  case retry =>
    change execFetchRetry s = _
    simp only [execFetchRetry, hwait, hbooting, hao, beq_self_eq_true, Bool.and_self, if_true]
    rfl
  case bootComplete =>
    subst hr
    exact execBootComplete_of_whole hbooting hdone hfences hdram
  case early =>
    simp only [List.forall_mem_cons, List.not_mem_nil, false_imp_iff, implies_true, and_true]
    exact ⟨congrArg Host.Outcome.next (State.spdm_at_once hao himage _), congrArg Host.Outcome.next (State.spdm_at_once hao himage _),
      congrArg Host.Outcome.next (State.spdm_at_once hao himage _)⟩
  case busy =>
    have hbusy := State.spdm_of_uncommitted hao himage hcommitted
    obtain ⟨r1, h1⟩ := execGetCertificate_eq (s := s) slot off len
    obtain ⟨r2, h2⟩ := execChallenge_eq (s := s) slot nonce
    obtain ⟨r3, h3⟩ := execGetMeasurements_of_unsigned (s := s) ix signed nonce (by simp [hcommitted])
    simp only [List.forall_mem_cons, List.not_mem_nil, false_imp_iff, implies_true, and_true]
    exact ⟨congrArg Host.Outcome.next (hbusy _), h1.trans (congrArg _ (hbusy r1)), h2.trans (congrArg _ (hbusy r2)), h3.trans (congrArg _ (hbusy r3))⟩
  case digests => exact congrArg Host.Outcome.next (State.spdm_of_committed hao himage hcommitted _)
  case certificate =>
    change execGetCertificate 0 off len s = _
    subst hd
    rw [execGetCertificate, if_neg (by simpa using hoff)]
    exact congrArg Host.Outcome.next (State.spdm_of_committed hao himage hcommitted _)
  case challenge => exact ⟨_, congrArg Host.Outcome.next (State.spdm_of_committed hao himage hcommitted _)⟩
  case measurements =>
    exact (execGetMeasurements_of_block hlow hhigh nonce).trans (congrArg _ (State.spdm_of_committed hao himage hcommitted _))
  case deaf =>
    have hsilent := State.spdm_of_deaf hdeaf
    obtain ⟨r1, h1⟩ := execGetCertificate_eq (s := s) slot off len
    obtain ⟨r2, h2⟩ := execChallenge_eq (s := s) slot nonce
    obtain ⟨r3, h3⟩ := execGetMeasurements_of_unsigned (s := s) ix signed nonce (by rcases hdeaf with h | h <;> simp [h])
    simp only [List.forall_mem_cons, List.not_mem_nil, false_imp_iff, implies_true, and_true]
    exact ⟨congrArg Host.Outcome.next (hsilent _ _), congrArg Host.Outcome.next (hsilent _ _), congrArg Host.Outcome.next (hsilent _ _),
      congrArg Host.Outcome.next (hsilent _ _), h1.trans (congrArg _ (hsilent _ r1)), h2.trans (congrArg _ (hsilent _ r2)),
      h3.trans (congrArg _ (hsilent _ r3))⟩

end Sys2Proof.Machine
end


section
/-! PROOF. What the commands and the single-entry writes of the dictionary do (R282, R358, R384, R439 to R442, R458, R505): O55. -/

namespace Sys2Proof.Machine
open Sys2Proof

/-! ## The entries that act by themselves -/

theorem findEntry_command {sub : Nat} (hlow : 1 ≤ sub) (hhigh : sub ≤ 6) : findEntry 0x8100 sub = some ⟨0x8100, 1, 6, 0, .wo, 0, 0, 0, .now⟩ := by
  have hall : ∀ k : Fin 6, findEntry 0x8100 (k + 1) = some ⟨0x8100, 1, 6, 0, .wo, 0, 0, 0, .now⟩ := by decide +kernel
  have hk := hall ⟨sub - 1, by omega⟩
  rwa [show sub - 1 + 1 = sub by omega] at hk

theorem findEntry_margin : findEntry 0x9040 1 = some ⟨0x9040, 1, 1, 2, .rws, 0, 0, 0, .now⟩ := by decide +kernel

theorem findEntry_guestControl (g : Fin 2) : findEntry 0x4201 (g + 1) = some ⟨0x4201, 1, 2, 1, .rws, 0, 1, 2, .now⟩ := by
  revert g
  decide +kernel

theorem findEntry_debugToken : findEntry 0x7030 2 = some ⟨0x7030, 2, 2, 192, .wo, 0, 0, 0, .now⟩ := by decide +kernel

/-! ## A single-entry write -/

/-- No answer says that a value pends for an entry whose writes act at once (R446). -/
theorem State.entryPending_of_now {s : State} {ix sub : Nat} {e : Entry} (he : findEntry ix sub = some e) (hrwb : e.acc ≠ .rwb) :
    s.entryPending ix sub = false := by
  simp [State.entryPending, he, hrwb]

section Single

variable {s : State} {o : Origin} {ix sub : Nat} {d : List Byte} {e : Entry} (hmute : s.mute = false) (hsessions : s.dict.sessions = [])
  (hroom : s.overrun o = false) (hix : ix < 65536) (hlow : 0 < sub) (hhigh : sub < 256) (hlen : d.length ≤ 1024)
  (he : findEntry ix sub = some e) (hro : e.acc ≠ .ro) (habsent : entryAbsent s.dev.variant ix sub = false) (hmay : mayWrite o ix sub = true)
include hsessions hroom hix hlow hhigh hlen he hro habsent hmay

/-- The checks before the value of a well-formed write find nothing (R452). -/
theorem firstCode_writeChecks_of_entry : firstCode (s.writeChecks 2 o (writeMsg ix sub d)) = 0 := by
  have hix' : ix % 65536 = ix := Nat.mod_eq_of_lt hix
  have hsub' : sub % 256 = sub := Nat.mod_eq_of_lt hhigh
  have hlen' : d.length % 65536 = d.length := Nat.mod_eq_of_lt (by omega)
  have hshort : decide (1024 < (writeMsg ix sub d).data.length) = false := decide_eq_false (Nat.not_lt.mpr hlen)
  have hheader : badHeader 2 (writeMsg ix sub d) = false := by
    rw [badHeader, hshort]
    simp [writeMsg, hlen']
  rw [State.writeChecks, State.accessChecks, hheader]
  simp [firstCode, writeMsg, hix', hsub', State.sessionBusy, hroom, hsessions,
    unknownEntry, he, hlow.ne', habsent, hmay, hro]

include hmute

/-- A single-entry write that passes its checks is accepted, and the answer is what its acceptance gave (R446, R458). -/
theorem State.handleWrite_of_entry (hrwb : e.acc ≠ .rwb) (hsize : wrongLength ix sub d = false) (hvalue : s.badValue ix sub d = false)
    (hstate : s.wrongState ix sub = false) {r : State × Nat × List Byte} (hr : r = s.acceptValue o ix sub (cleanValue ix sub d)) :
    s.handleWrite o (writeMsg ix sub d) = r.1.respond o (response (writeMsg ix sub d) r.2.1 0 false false r.2.2) := by
  have hix' : (writeMsg ix sub d).index.toNat = ix := by simp [writeMsg, Nat.mod_eq_of_lt hix]
  have hsub' : (writeMsg ix sub d).sub.toNat = sub := by simp [writeMsg, Nat.mod_eq_of_lt hhigh]
  have hasks : s.asks (writeMsg ix sub d) = true := by simp [State.asks, hmute, writeMsg]
  have hchecks := firstCode_writeChecks_of_entry hsessions hroom hix hlow hhigh hlen he hro habsent hmay
  have hwrite := State.handleWrite_of_passed (r := r) hasks hchecks (by rw [hix', hsub']; exact hsize) (by rw [hix', hsub']; exact hvalue)
    (by rw [hix', hsub']; exact hstate) (by rw [hix', hsub']; exact hr)
  rw [hwrite, hix', hsub', State.entryPending_of_now he hrwb, Bool.and_false]

end Single

/-- Management and the nodes may quiesce, resume and reset the device (R448). -/
theorem mayWrite_command {o : Origin} (hhost : o ≠ .host) {sub : Nat} (hsub : sub = 2 ∨ sub = 3 ∨ sub = 6) : mayWrite o 0x8100 sub = true := by
  cases o with
  | host => exact absurd rfl hhost
  | management => rcases hsub with rfl | rfl | rfl <;> decide
  | node => rcases hsub with rfl | rfl | rfl <;> decide

/-- Management and the nodes may write what is neither a command nor an entry of security (R448). -/
theorem mayWrite_setting {o : Origin} (hhost : o ≠ .host) {ix : Nat} (hix : ix < 0x7000 ∨ 0x8100 < ix) (sub : Nat) : mayWrite o ix sub = true := by
  have hcommand : ix ≠ 0x8100 := by omega
  cases o with
  | host => exact absurd rfl hhost
  | management => simp [mayWrite, hcommand]
  | node =>
    simp [mayWrite, hcommand]
    omega

section Writes

variable {s : State} {o : Origin} (hmute : s.mute = false) (hsessions : s.dict.sessions = []) (hroom : s.overrun o = false)
include hmute hsessions hroom

/-- A command of R458 that its origin may give is carried out. -/
theorem State.handleWrite_command {sub : Nat} (hlow : 1 ≤ sub) (hhigh : sub ≤ 6) (hmay : mayWrite o 0x8100 sub = true) {r : State × Nat × List Byte}
    (hr : r = s.command o sub) :
    s.handleWrite o (writeMsg 0x8100 sub []) = r.1.respond o (response (writeMsg 0x8100 sub []) r.2.1 0 false false r.2.2) := by
  have he := findEntry_command hlow hhigh
  refine State.handleWrite_of_entry hmute hsessions hroom (by decide) hlow (by omega) (by decide) he (by decide) ?_ hmay (by decide) ?_ ?_ rfl ?_
  · simp [entryAbsent]
  · simp [wrongLength, he]
  · simp [State.badValue, he, leNat]
  · simpa [State.acceptValue] using hr

theorem State.handleWrite_margin (hhost : o ≠ .host) (hstate : s.asReady = true ∨ s.dev.state = .quiesced) (v : BitVec 16) :
    s.handleWrite o (writeMsg 0x9040 1 (leBytes v.toNat 2)) = (s.putEntry 0x9040 1 (leBytes v.toNat 2)).respond o
      (response (writeMsg 0x9040 1 (leBytes v.toNat 2)) 0 0 false false []) := by
  have hmay := mayWrite_setting (ix := 0x9040) hhost (by decide) 1
  have he := findEntry_margin
  refine State.handleWrite_of_entry (r := (s.putEntry 0x9040 1 (leBytes v.toNat 2), 0, [])) hmute hsessions hroom (by decide) (by decide) (by decide)
    (by simp [leBytes]) he (by decide) ?_ hmay (by decide) ?_ ?_ ?_ ?_
  · simp [entryAbsent]
  · simp [wrongLength, he, leBytes]
  · simp [State.badValue, he]
  · rcases hstate with h | h <;> simp [State.wrongState, he, h]
  · simp [State.acceptValue, he, cleanValue]

/-- `GuestControl`: admission in state 4, reset in states 4 to 7, at the next tick boundary (R384). -/
theorem State.handleWrite_guestControl (hhost : o ≠ .host) (hguests : hasGuests s.dev.variant = true) (hstate : s.live = true ∨ s.dev.state = .quiesced)
    {g : Fin 2} {b : Byte} (hb : (b = 1 ∧ (s.guest g).state = 4) ∨ (b = 2 ∧ 4 ≤ (s.guest g).state)) :
    s.handleWrite o (writeMsg 0x4201 (g + 1) [b]) =
      ({ s with guests := s.guests.set g { s.guest g with control := b.toNat } } : State).respond o
        (response (writeMsg 0x4201 (g + 1) [b]) 0 0 false false []) := by
  have hmay := mayWrite_setting (ix := 0x4201) hhost (by decide) (g + 1)
  have he := findEntry_guestControl g
  have hrange : 1 ≤ b.toNat ∧ b.toNat ≤ 2 := by rcases hb with ⟨rfl, -⟩ | ⟨rfl, -⟩ <;> decide
  refine State.handleWrite_of_entry (r := ({ s with guests := s.guests.set g { s.guest g with control := b.toNat } }, 0, [])) hmute hsessions hroom
    (by decide) (by omega) (by omega) (by simp) he (by decide) ?_ hmay (by decide) ?_ ?_ ?_ ?_
  · simp [entryAbsent, hguests]
  · simp [wrongLength, he]
  · simp [State.badValue, he, leNat]
    omega
  · rcases hstate with h | h <;> simp [State.wrongState, h]
  · have hasks : (leNat [b] = 1 ∧ (s.guest g).state = 4) ∨ (leNat [b] = 2 ∧ 4 ≤ (s.guest g).state) := by
      rcases hb with ⟨rfl, h⟩ | ⟨rfl, h⟩
      · exact Or.inl ⟨rfl, h⟩
      · exact Or.inr ⟨rfl, h⟩
    have hone : leNat [b] = b.toNat := by simp [leNat]
    simp [State.acceptValue, cleanValue, State.askGuest, hasks, ← hone]

theorem State.handleWrite_token (hmanagement : o = .management) {d : List Byte} (hlen : d.length = 192) {r : State × Nat} (hr : r = s.writeToken d) :
    s.handleWrite o (writeMsg 0x7030 2 d) = r.1.respond o (response (writeMsg 0x7030 2 d) r.2 0 false false []) := by
  have he := findEntry_debugToken
  refine State.handleWrite_of_entry (r := (r.1, r.2, [])) hmute hsessions hroom (by decide) (by decide) (by decide) (by omega) he (by decide) ?_
    (by subst hmanagement; decide) (by decide) ?_ ?_ rfl ?_
  · simp [entryAbsent]
  · simp [wrongLength, he, hlen]
  · simp [State.badValue, he]
  · simp [State.acceptValue, cleanValue, hr]

end Writes

/-! ## What the commands leave -/

/-- A change of the device's state leaves when a quiesce was asked for, and the fuses. -/
theorem State.toDevState_quiesceAt (s : State) (d : DevState) : (s.toDevState d).dev.quiesceAt = s.dev.quiesceAt := by
  unfold State.toDevState
  split
  · rfl
  · simp

theorem State.notify_sec (s : State) (cls logIx : Nat) (d : List Byte) (skip : Option Nat) : (s.notify cls logIx d skip).sec = s.sec :=
  State.foldl_keeps State.sec _ (fun t i => by split <;> rfl) _ s

theorem State.toDevState_committed (s : State) (d : DevState) : (s.toDevState d).sec.committed = s.sec.committed := by
  unfold State.toDevState
  split
  · rfl
  · simp [State.postEvent, State.notify_sec]

theorem State.beginQuiesce_of_live {s : State} (hlive : s.live = true) (o : Origin) :
    (s.beginQuiesce o).2 = 0 ∧ (s.beginQuiesce o).1.dev.state = .draining ∧ (s.beginQuiesce o).1.dev.quiesceAt = s.now := by
  unfold State.beginQuiesce
  simp only [hlive, Bool.not_true, Bool.false_eq_true, if_false]
  exact ⟨trivial, (State.toDevState_leaves _ _).1, State.toDevState_quiesceAt _ _⟩

/-- READY becomes RUNNING with a context that is RUNNABLE or PARKED (R453). -/
theorem State.refreshRun_of_ready {s : State} (h : s.dev.state = .ready) : s.refreshRun.dev.state = if s.anyActive then .running else .ready := by
  unfold State.refreshRun
  cases hactive : s.anyActive with
  | true => simpa [h] using (s.toDevState_leaves .running).1
  | false => simp [h]

/-- Resume leads to DEGRADED when the quiesce came from there, and else to READY or RUNNING (R458). -/
theorem State.resumeDevice_of_quiesced {s : State} (hst : s.dev.state = .quiesced) (hraw : s.rawOpen = false) (o : Origin) :
    (s.resumeDevice o).2 = 0 ∧
      (s.resumeDevice o).1.dev.state = if s.dev.degradedLater then .degraded else if s.anyActive then .running else .ready := by
  unfold State.resumeDevice
  rw [if_neg (by simp [hst, hraw])]
  dsimp only
  split
  · exact ⟨rfl, (State.toDevState_leaves _ _).1⟩
  · refine ⟨rfl, ?_⟩
    rw [State.refreshRun_of_ready (State.toDevState_leaves _ _).1, State.anyActive, (State.toDevState_keeps _ _).1]
    rfl

/-- Power-up by command leaves BOOTING, no context, and nothing committed (R458). -/
theorem State.rebootNow_leaves (s : State) (o : Origin) :
    (s.rebootNow o).dev.state = .booting ∧ (s.rebootNow o).ctxs = [] ∧ (s.rebootNow o).sec.committed = false :=
  ⟨(State.toDevState_leaves _ _).1, (State.toDevState_keeps _ _).1, State.toDevState_committed _ _⟩

/-! ## Debug tokens -/

section Token

variable {s : State} {d : List Byte}

/-- While an earlier token is verified another is refused (R441). -/
theorem State.writeToken_of_busy (h : s.now < s.sec.verifyUntil) : s.writeToken d = (s, abState) := by
  simp [State.writeToken, h]

/-- A well-formed token that opens neither SCAN nor MEM_RAW is taken when it verifies, and refused and counted when it does not (R441, R442). -/
theorem State.writeToken_of_verified (hup : s.isUp = true ∨ s.dev.state = .fault) (hscope : bitsOf (leNat d) 64 4 < 4) (hok : tokenOk (leNat d) = true)
    (hfew : s.sec.tokensRefused < 8) (hidle : s.sec.verifyUntil ≤ s.now) {x : Security}
    (hx : x = { s.sec with nonceIx := s.sec.nonceIx + 1, verifyUntil := s.now + (s.free).1 % 2 ^ 32 }) :
    s.writeToken d = if s.tokenSigned (leNat d) d then
        ({ s with freeIx := s.freeIx + 1, sec := { x with scopesDue := s.sec.scopesDue ||| BitVec.ofNat 4 (bitsOf (leNat d) 64 4) } }, 0)
      else ({ s with freeIx := s.freeIx + 1, sec := { x with tokensRefused := min 255 (s.sec.tokensRefused + 1) } }, abValue) := by
  have hstate : ¬((4 ≤ bitsOf (leNat d) 64 4 ∧ s.dev.state ≠ .quiesced) ∨ (!(s.isUp || s.dev.state == .fault)) = true) := by
    rcases hup with h | h <;> simp [h, hscope]
  subst hx
  unfold State.writeToken
  dsimp only
  rw [if_neg (Nat.not_lt.mpr hidle)]
  cases hsigned : s.tokenSigned (leNat d) d with
  | true =>
    have hgood : ¬(8 ≤ s.sec.tokensRefused ∨ tokenOk (leNat d) = false ∨ true = false ∨
        (bitAt (leNat d) 40 = true ∧ 4 ≤ bitsOf (leNat d) 64 4)) := by
      simp [hok, hfew, hscope]
    rw [if_neg hgood, if_neg hstate, if_pos rfl]
    rfl
  | false =>
    rw [if_pos (Or.inr (Or.inr (Or.inl rfl))), if_neg Bool.false_ne_true]
    rfl

end Token

/-- Settles O55: each command and each single-entry write passes its checks and is carried out. -/
theorem dictionaryCommandsAct : Obligations.DictionaryCommandsAct := by
  unfold Obligations.DictionaryCommandsAct
  intro s o g v d hmute hsessions hroom ok hok
  subst hok
  have hcommand {sub : Nat} (hlow : 1 ≤ sub) (hhigh : sub ≤ 6) (hmay : mayWrite o 0x8100 sub = true) :=
    State.handleWrite_command hmute hsessions hroom hlow hhigh hmay rfl
  refine ⟨fun ho hup => ?hostAttach, fun ho => ⟨fun hlive => ⟨?quiesce, (State.beginQuiesce_of_live hlive o).2⟩, fun hlive => ?noQuiesce,
    fun hst hraw => ⟨?resume, (State.resumeDevice_of_quiesced hst hraw o).2⟩, fun hst => ?reset, fun hst => ?margin, fun hguests hst =>
    ⟨fun hg => ?admission, fun hg => ?guestReset⟩⟩, fun ho => ⟨fun hst hraw => ?standby, fun hst => ?powerUp,
    fun hlen hup hscope hgood hfew hidle x hx => ?token, fun hlen hbusy => ?busyToken⟩⟩
  case hostAttach =>
    subst ho
    refine congrArg Host.Outcome.next ((hcommand (sub := 1) (by decide) (by decide) (by decide)).trans ?_)
    simp [State.command, State.hostAttach, hup]
  case quiesce =>
    refine congrArg Host.Outcome.next ((hcommand (sub := 2) (by decide) (by decide) (mayWrite_command ho (by decide))).trans ?_)
    simp [State.command, (State.beginQuiesce_of_live hlive o).1]
  case noQuiesce =>
    refine congrArg Host.Outcome.next ((hcommand (sub := 2) (by decide) (by decide) (mayWrite_command ho (by decide))).trans ?_)
    simp [State.command, State.beginQuiesce, hlive]
  case resume =>
    refine congrArg Host.Outcome.next ((hcommand (sub := 3) (by decide) (by decide) (mayWrite_command ho (by decide))).trans ?_)
    simp [State.command, (State.resumeDevice_of_quiesced hst hraw o).1]
  case reset =>
    have hnow : s.resetNow o = (s.clearSince.rebootNow o, 0) := if_neg hst
    rw [hnow]
    refine ⟨congrArg Host.Outcome.next ((hcommand (sub := 6) (by decide) (by decide) (mayWrite_command ho (by decide))).trans ?_),
      State.rebootNow_leaves _ o⟩
    simp [State.command, hnow]
  case margin => exact congrArg Host.Outcome.next (State.handleWrite_margin hmute hsessions hroom ho hst v)
  case admission => exact congrArg Host.Outcome.next (State.handleWrite_guestControl hmute hsessions hroom ho hguests hst (Or.inl ⟨rfl, hg⟩))
  case guestReset => exact congrArg Host.Outcome.next (State.handleWrite_guestControl hmute hsessions hroom ho hguests hst (Or.inr ⟨rfl, hg⟩))
  case standby =>
    have hnow : s.standbyNow o = ((s.dropDomains.requestBy o).toDevState .standby, 0) := if_neg (by simp [hst, hraw])
    rw [hnow]
    subst ho
    refine ⟨congrArg Host.Outcome.next ((hcommand (sub := 4) (by decide) (by decide) (by decide)).trans ?_), (State.toDevState_leaves _ _).1⟩
    simp [State.command, hnow]
  case powerUp =>
    have hnow : s.powerUpNow o = (s.rebootNow o, 0) := if_neg (by simp [hst])
    rw [hnow]
    subst ho
    refine ⟨congrArg Host.Outcome.next ((hcommand (sub := 5) (by decide) (by decide) (by decide)).trans ?_), (State.rebootNow_leaves s _).1⟩
    simp [State.command, hnow]
  case token =>
    refine congrArg Host.Outcome.next ((State.handleWrite_token hmute hsessions hroom ho hlen
      (State.writeToken_of_verified hup hscope hgood hfew hidle hx).symm).trans ?_)
    split <;> rfl
  case busyToken =>
    exact congrArg Host.Outcome.next (State.handleWrite_token hmute hsessions hroom ho hlen (State.writeToken_of_busy hbusy).symm)

end Sys2Proof.Machine
end


section
/-! PROOF. OWNER_DEBUG_KEY_HASH is programmed once, and what the security entries read as (R443): O57. -/

namespace Sys2Proof.Machine
open Sys2Proof

/-! ## The write -/

theorem findEntry_ownerHash : findEntry 0x7010 1 = some ⟨0x7010, 1, 1, 48, .rws, 0, 0, 0, .now⟩ := by decide +kernel

/-- An answer changes only what leaves and how many requests are unanswered (R451; log 82). -/
theorem State.respond_leaves (s : State) (o : Origin) (m : UleelMsg) {t : State} (ht : t = s.respond o m) : t = { s with
    out := { s.out with responses := (o, m) :: s.out.responses }
    freeIx := t.freeIx, dict := { s.dict with unanswered := t.dict.unanswered } } := by
  subst ht
  unfold State.respond
  split
  · rfl
  · rfl

/-- Checks that pass leave the code to those that follow (R452). -/
theorem firstCode_append_of_eq_zero {a : List (Bool × Nat)} (hcodes : ∀ e ∈ a, e.2 ≠ 0) (ha : firstCode a = 0) (b : List (Bool × Nat)) :
    firstCode (a ++ b) = firstCode b := by
  induction a with
  | nil => rfl
  | cons e r ih =>
    obtain ⟨failing, code⟩ := e
    cases failing with
    | true => exact absurd ha (hcodes (true, code) List.mem_cons_self)
    | false => exact ih (fun x hx => hcodes x (List.mem_cons_of_mem _ hx)) ha

theorem writeChecks_codes (s : State) (op : Nat) (o : Origin) (m : UleelMsg) : ∀ e ∈ s.writeChecks op o m, e.2 ≠ 0 := by
  simp [State.writeChecks, State.accessChecks]

section Write

variable {s : State} {m : UleelMsg} (hasks : s.asks m = true) (hix : m.index = 0x7010) (hsub : m.sub = 1) (hlen : m.data.length = 48)
  (hchecks : firstCode (s.writeChecks 2 .management m) = 0)
include hasks hix hsub hlen hchecks

/-- In READY and QUIESCED the write programs the fuses, unless they are programmed (R443). -/
theorem State.handleWrite_ownerHash_of_ready (hst : s.asReady = true ∨ s.dev.state = .quiesced) :
    s.handleWrite .management m = (s.programOwner m.data).1.respond .management (response m (s.programOwner m.data).2 0 false false []) := by
  have hix' : m.index.toNat = 0x7010 := by simp [hix]
  have hsub' : m.sub.toNat = 1 := by simp [hsub]
  have he := findEntry_ownerHash
  have hsize : wrongLength 0x7010 1 m.data = false := by simp [wrongLength, he, hlen]
  have hvalue : s.badValue 0x7010 1 m.data = false := by simp [State.badValue, he]
  have hstate : s.wrongState 0x7010 1 = false := by rcases hst with h | h <;> simp [State.wrongState, he, h]
  have haccept : ((s.programOwner m.data).1, (s.programOwner m.data).2, []) = s.acceptValue .management 0x7010 1 (cleanValue 0x7010 1 m.data) := by
    simp [State.acceptValue, cleanValue]
  have hwrite := State.handleWrite_of_passed (r := ((s.programOwner m.data).1, (s.programOwner m.data).2, [])) hasks hchecks (by rw [hix', hsub']; exact hsize) (by rw [hix', hsub']; exact hvalue)
    (by rw [hix', hsub']; exact hstate) (by rw [hix', hsub']; exact haccept)
  rw [hwrite, hix', hsub', State.entryPending_of_now he (by decide), Bool.and_false]

/-- In any other state the write is refused (R443, R452). -/
theorem State.handleWrite_ownerHash_of_other (hst : s.asReady = false ∧ s.dev.state ≠ .quiesced) :
    s.handleWrite .management m = s.respond .management (response m abState 0 false false []) := by
  have hix' : m.index.toNat = 0x7010 := by simp [hix]
  have hsub' : m.sub.toNat = 1 := by simp [hsub]
  have he := findEntry_ownerHash
  have hsize : wrongLength 0x7010 1 m.data = false := by simp [wrongLength, he, hlen]
  have hvalue : s.badValue 0x7010 1 m.data = false := by simp [State.badValue, he]
  have hstate : s.wrongState 0x7010 1 = true := by simp [State.wrongState, he, hst]
  have hcode : firstCode (s.writeChecks 2 .management m ++ [(false, abLength)] ++ [(false, abValue), (true, abState)]) = abState := by
    rw [List.append_assoc, firstCode_append_of_eq_zero (writeChecks_codes s 2 .management m) hchecks]
    rfl
  unfold State.handleWrite State.takeValue
  simp only [hasks, Bool.not_true, Bool.false_eq_true, if_false, hix', hsub', hsize, hvalue, hstate, hcode]
  rfl

end Write

/-! ## The entries -/

theorem findEntry_security (k : Fin 8) : findEntry 0x7001 (k + 1) = some (entRo 0x7001 1 8 1 0) ∧
    findEntry 0x7001 (0x11 + k) = some (entRo 0x7001 0x11 0x18 1 0) := by
  revert k
  decide +kernel

theorem State.liveUnit_security (s : State) {ix : Nat} (hix : 0x7000 ≤ ix ∧ ix < 0x8000) (sub : Nat) : s.liveUnit ix sub = none := by
  unfold State.liveUnit
  dsimp only
  rw [if_neg (by omega), if_neg (by omega), if_neg (by omega), if_neg (by omega), if_neg (by omega), if_neg (by omega), if_neg (by omega), if_neg (by omega),
    if_neg (by omega), if_neg (by omega), if_neg (by omega), if_neg (by omega), if_neg (by omega), if_neg (by omega), if_neg (by omega), if_neg (by omega),
    if_neg (by omega), if_neg (by omega)]

theorem State.awake_sec (s : State) : s.awake.sec = s.sec := by
  unfold State.awake
  split <;> rfl

/-- An entry of security reads as its state, and one without state as it was written; a write-only one as zeros (R443, R446). -/
theorem State.entryValue_security (s : State) {ix sub : Nat} (hix : 0x7000 ≤ ix ∧ ix < 0x8000) (hsub : 0 < sub) {e : Entry} (he : findEntry ix sub = some e) :
    s.entryValue ix sub = match s.awake.liveRest ix sub with
      | some d => d
      | none => if e.acc == .wo then List.replicate e.size 0 else s.accBytes ix sub := by
  unfold State.entryValue
  rw [if_neg (by omega), if_neg (by omega), State.liveUnit_security _ hix, he]
  cases s.awake.liveRest ix sub <;> rfl

section Entries

variable (s : State) {ix sub : Nat} (hix : 0x7000 ≤ ix ∧ ix < 0x8000) (hsub : 0 < sub) {e : Entry} (he : findEntry ix sub = some e)
include hix hsub he

/-- What a security entry that shows state reads as, with its access and length. -/
theorem State.securityEntry_of_live {d : List Byte} (hd : s.awake.liveRest ix sub = some d) :
    s.entryValue ix sub = d ∧ ∃ r, findEntry ix sub = some r ∧ r.acc = e.acc ∧ r.size = e.size := by
  rw [s.entryValue_security hix hsub he, hd]
  exact ⟨rfl, e, he, rfl, rfl⟩

/-- A write-only security entry reads as zeros. -/
theorem State.securityEntry_of_wo (hwo : e.acc = .wo) (hd : s.awake.liveRest ix sub = none) :
    s.entryValue ix sub = List.replicate e.size 0 ∧ ∃ r, findEntry ix sub = some r ∧ r.acc = e.acc ∧ r.size = e.size := by
  rw [s.entryValue_security hix hsub he, hd, hwo]
  exact ⟨rfl, e, he, hwo, rfl⟩

end Entries

/-- What the entries of R443 show. -/
theorem State.liveRest_security (s : State) (k : Fin 8) :
    s.awake.liveRest 0x7000 1 = some (leBytes s.bootStatus 4) ∧ s.awake.liveRest 0x7001 (k + 1) = some (leBytes (s.svnOf k) 1) ∧
      s.awake.liveRest 0x7001 (0x11 + k) = some (leBytes (match s.image k with | some x => x.svn | none => 0) 1) ∧
      s.awake.liveRest 0x7002 1 = some (leBytes s.keyRevoked.toNat 4) ∧ s.awake.liveRest 0x7003 1 = some certChain ∧
      s.awake.liveRest 0x7010 1 = some (leBytes s.sec.ownerHash.toNat 48) ∧
      s.awake.liveRest 0x7030 1 = some (leBytes (Config.nonceValue s.sec.nonceIx).toNat 32) ∧ s.awake.liveRest 0x7030 2 = none ∧
      s.awake.liveRest 0x7030 3 = some (leBytes s.sec.scopes.toNat 4) ∧ s.awake.liveRest 0x7030 4 = some (leBytes s.sec.tokensRefused 1) := by
  have hk : k.val + 1 ≤ 8 := k.isLt
  have hk' : ¬0x11 + k.val ≤ 8 := by omega
  refine ⟨?_, ?_, ?_, ?_, ?_, ?_, ?_, ?_, ?_, ?_⟩
  · simp [State.liveRest, State.bootStatus, State.awake_sec]
  · simp [State.liveRest, State.svnOf, State.awake_sec]
  · simp [State.liveRest, State.image, State.awake_sec, hk'] <;> rfl
  · simp [State.liveRest, State.keyRevoked, State.awake_sec]
  · simp [State.liveRest]
  · simp [State.liveRest, State.awake_sec]
  · simp [State.liveRest, State.awake_sec]
  · simp [State.liveRest]
  · simp [State.liveRest, State.awake_sec]
  · simp [State.liveRest, State.awake_sec]

theorem findEntry_securitySingle : findEntry 0x7000 1 = some (entRo 0x7000 1 1 4 0) ∧ findEntry 0x7002 1 = some (entRo 0x7002 1 1 4 0) ∧
    findEntry 0x7003 1 = some (entRo 0x7003 1 1 0 0) ∧ findEntry 0x7030 1 = some (entRo 0x7030 1 1 32 0) ∧
    findEntry 0x7030 3 = some (entRo 0x7030 3 3 4 0) ∧ findEntry 0x7030 4 = some (entRo 0x7030 4 4 1 0) := by decide +kernel

/-- Settles O57: a write of the owner's key hash in each state, and the entries of R443. -/
theorem ownerKeyHashIsWrittenOnce : Obligations.OwnerKeyHashIsWrittenOnce := by
  unfold Obligations.OwnerKeyHashIsWrittenOnce
  refine ⟨?write, ?entries, ?reset⟩
  case write =>
    intro s d m i hasks hix hsub hd hlen hchecks hi
    subst hd
    have hexec : exec i s = .next (s.handleWrite .management m) := by
      rcases hi with rfl | ⟨rfl, hm⟩
      · rfl
      · exact congrArg (fun x => Host.Outcome.next (s.handleWrite .management x)) hm.symm
    have hready := State.handleWrite_ownerHash_of_ready hasks hix hsub hlen hchecks
    refine ⟨fun hunset hst => ⟨_, hexec, ?_⟩, fun hrefused => ⟨_, hexec, ?_⟩⟩
    · refine State.respond_leaves { s with sec := { s.sec with ownerHash := BitVec.ofNat 384 (leNat m.data), ownerSet := true } } _ _ ?_
      rw [hready hst, State.programOwner, hunset, if_neg Bool.false_ne_true]
    · refine State.respond_leaves s _ _ ?_
      by_cases hst : s.asReady = true ∨ s.dev.state = .quiesced
      · have hset : s.sec.ownerSet = true := hrefused.resolve_right fun h => hst.elim (by simp [h.1]) h.2
        rw [hready hst, State.programOwner, hset, if_pos rfl]
      · exact State.handleWrite_ownerHash_of_other hasks hix hsub hlen hchecks (by simpa [not_or] using hst)
  case entries =>
    intro s k
    obtain ⟨hboot, hsvn, himage, hrevoked, hchain, howner, hnonce, htoken, hscopes, hrefused⟩ := s.liveRest_security k
    obtain ⟨hfSvn, hfImage⟩ := findEntry_security k
    obtain ⟨hfBoot, hfRevoked, hfChain, hfNonce, hfScopes, hfRefused⟩ := findEntry_securitySingle
    simp only [List.forall_mem_cons, List.not_mem_nil, false_imp_iff, implies_true, and_true]
    refine ⟨s.securityEntry_of_live (by decide) (by decide) hfBoot hboot, s.securityEntry_of_live (by decide) (by omega) hfSvn hsvn,
      s.securityEntry_of_live (by decide) (by omega) hfImage himage, s.securityEntry_of_live (by decide) (by decide) hfRevoked hrevoked, ?_,
      s.securityEntry_of_live (by decide) (by decide) findEntry_ownerHash howner, s.securityEntry_of_live (by decide) (by decide) hfNonce hnonce,
      s.securityEntry_of_wo (by decide) (by decide) findEntry_debugToken rfl htoken,
      s.securityEntry_of_live (by decide) (by decide) hfScopes hscopes, s.securityEntry_of_live (by decide) (by decide) hfRefused hrefused⟩
    have hlinks : certChain = Config.rootCertificate ++ (Config.productCertificate ++ Config.deviceCertificate) := by
      simp [certChain, certLinks]
    exact s.securityEntry_of_live (by decide) (by decide) hfChain (hlinks ▸ hchain)
  case reset => decide +kernel

end Sys2Proof.Machine
end


section
/-! PROOF. What the events of the supply, the clocks and the lifecycle do (R357, R453, R464, R505 to R508, R516 to R521): O56. -/

namespace Sys2Proof.Machine
open Sys2Proof

/-- A change of the device's state changes of the device only the state and its time. -/
theorem State.toDevState_dev (s : State) (d : DevState) : ∃ since, (s.toDevState d).dev = { s.dev with state := d, since := since } := by
  unfold State.toDevState
  split
  · next hd => exact ⟨s.dev.since, by rw [← eq_of_beq hd]⟩
  · exact ⟨s.now, by simp⟩

/-! ## Quiescing -/

/-- A partition that has not drained at the deadline loses its running context, and drains (R506). -/
theorem execQuiesceDeadline_of_running {s : State} {p : Fin 8} {c : Nat} (hst : s.dev.state = .draining) (hbusy : s.quietPart p = false)
    (hrunning : (s.part p).running = some c) {s1 s2 : State} (hs1 : s1 = s.advance (s.dev.quiesceAt + 1000000 * s.effNat 0x8063 1))
    (hs2 : s2 = s1.killCtx c) (hphase : (s2.part p).phase ≠ .layoutWait) : execQuiesceDeadline p s =
      .next (({ s2 with dev := { s2.dev with quiesceKilled := min 65535 (s2.dev.quiesceKilled + 1) } } : State).updPart p fun q =>
        { q with phase := .draining, drain := .quiesce }) := by
  have hlate : ¬(s.dev.state ≠ .draining ∨ s.quietPart p = true) := by simp [hst, hbusy]
  have hrunning' : (s1.part p).running = some c := by rw [hs1]; exact hrunning
  unfold execQuiesceDeadline
  rw [if_neg hlate]
  dsimp only
  rw [← hs1, hrunning']
  dsimp only
  rw [← hs2]
  exact congrArg (fun q => Host.Outcome.next (State.setPart _ p q)) (if_neg hphase)

/-- Every partition has drained: the caches are cleaned, the report is written, and the device is QUIESCED (R506). -/
theorem execEnterQuiesced_of_drained {s : State} (hst : s.dev.state = .draining) (hquiet : ∀ k < 8, s.quietPart k = true) {r : State × Nat}
    (hr : r = s.cleanCaches fun a => decide (a < 1024)) :
    execEnterQuiesced s = .next (({ r.1 with dev := { r.1.dev with quiesceReport := BitVec.ofNat 256 (quiesceReport s.dev.quiesceAt s.now
      s.dev.quiesceKilled r.2 (r.1.coh.dir.countP fun e => e.2.st == .l)) } } : State).toDevState .quiesced) := by
  have hall : (List.range 8).all (fun k => s.quietPart k) = true := List.all_eq_true.mpr fun k hk => hquiet k (List.mem_range.mp hk)
  subst hr
  unfold execEnterQuiesced
  rw [if_pos ⟨hst, hall⟩]

/-! ## The supply and the always-on domain -/

/-- VIN brings the device to BOOTING with its straps sampled (R516, R521). -/
theorem execVinPresent_of_absent {s : State} (hvin : s.dev.vin = false) (straps : Fin 4) {s1 : State}
    (hs1 : s1 = { s with dev := { s.dev with vin := true, aoUp := s.dev.clocks.getD 4 false, straps := straps, resetAt := s.now } }) :
    execVinPresent straps s = .next (if (s1.toDevState .booting).dev.aoUp then (s1.toDevState .booting).sendFetch else s1.toDevState .booting) := by
  subst hs1
  unfold execVinPresent
  rw [if_neg (by simp [hvin])]

theorem execAoRef25mPresent_of_reset {s : State} (hvin : s.dev.vin = true) (hao : s.dev.aoUp = false) {s1 : State}
    (hs1 : s1 = { s with dev := { s.dev with clocks := s.dev.clocks.set 4 true } }) :
    execAoRef25mPresent s = .next ({ s1 with dev := { s1.dev with aoUp := true, resetAt := s.now } } : State).sendFetch := by
  subst hs1
  simp [execAoRef25mPresent, hvin, hao]

theorem execAoRef25mPresent_of_other {s : State} (h : s.dev.vin = false ∨ s.dev.aoUp = true) {s1 : State}
    (hs1 : s1 = { s with dev := { s.dev with clocks := s.dev.clocks.set 4 true } }) : execAoRef25mPresent s = .next s1 := by
  subst hs1
  rcases h with h | h <;> simp [execAoRef25mPresent, h]

/-! ## Links and addresses -/

section Pe1

variable {s : State} {port : Fin 2} {x : Pe1Port} (hx : x = s.pe1Port port) (hexists : s.pe1Exists port = true) (hmode : s.pe1Mode port ≠ 0)
  (hup : s.hubUp = true)
include hx hexists hmode hup

/-- PE1 leaves PERST 100 ms after its mode is in effect (R519). -/
theorem execPe1PerstRelease_of_held (hclock : s.dev.clocks.getD 3 false = true) (hheld : x.perstReleased = false) :
    execPe1PerstRelease port s = .next ((s.advance (x.modeSince + 100000000)).setPe1 port { x with perstReleased := true }) := by
  subst hx
  have hready : (s.pe1Exists port && s.pe1Mode port != 0 && s.dev.clocks.getD 3 false && s.hubUp && !(s.pe1Port port).perstReleased) = true := by
    simp only [hexists, bne_iff_ne.mpr hmode, hclock, hup, hheld, Bool.not_false, Bool.and_self]
  unfold execPe1PerstRelease
  rw [if_pos hready]

/-- A trained link of PE1 is up, in CXL mode at generation 6 at most (R389, R519). -/
theorem execPcieLinkUp_pe1 {l : PcieLink} (hgeneration : l.generation ≤ s.effNat 0x4020 (port + 2)) (hcxl : s.pe1Mode port = 2 ∨ l.generation ≤ 6)
    (hreleased : x.perstReleased = true) {q : Fin 3} (hq : q.val = port + 1) :
    execPcieLinkUp q l s = .next (s.setPe1 port { x with
      linkUp := true, capacityGiB := if s.pe1Mode port = 1 then l.capacityBytes / 2 ^ 30 else 0 }) := by
  subst hx
  have hset : ¬(!s.hubUp || decide (s.effNat 0x4020 (q + 1) < l.generation)) = true := by
    simp [hup, hq, Nat.not_lt.mpr hgeneration]
  have hix : q.val - 1 = port.val := by omega
  have hready : (s.pe1Exists port && (s.pe1Port port).perstReleased && s.pe1Mode port != 0 &&
      (s.pe1Mode port == 2 || decide (l.generation ≤ 6))) = true := by
    simpa [hexists, hreleased, hmode] using hcxl
  unfold execPcieLinkUp
  rw [if_neg hset, if_neg (by omega)]
  simp only [hix, if_pos hready]

end Pe1

theorem execPcieLinkUp_pe0 {s : State} {l : PcieLink} (hup : s.hubUp = true) (hgeneration : l.generation ≤ s.effNat 0x4020 1)
    (hclock : s.dev.clocks.getD 2 false = true) (hperst : s.host.perst = false) (hwidth : l.width ∈ [16, 8, 4, 1]) :
    execPcieLinkUp 0 l s = .next { s with host := { s.host with linkUp := true, width := l.width, generation := l.generation } } := by
  have hset : ¬(!s.hubUp || decide (s.effNat 0x4020 ((0 : Fin 3).val + 1) < l.generation)) = true := by
    simp [hup, Nat.not_lt.mpr hgeneration]
  have hready : (s.dev.clocks.getD 2 false && !s.host.perst && ([16, 8, 4, 1] : List Nat).contains l.width) = true := by
    simp only [hclock, hperst, List.contains_iff_mem.mpr hwidth, Bool.not_false, Bool.and_self]
  unfold execPcieLinkUp
  rw [if_neg hset, if_pos (show (0 : Fin 3).val = 0 from rfl), if_pos hready]

theorem execRefclockQualified_of_up {s : State} {k : RefClock} (hk : k ≠ .ao25) (hao : s.dev.aoUp = true) {s1 : State}
    (hs1 : s1 = { s with dev := { s.dev with clocks := s.dev.clocks.set (clockIx k) true } }) :
    execRefclockQualified k s = .next (if s1.hubUp then s1.trainPorts (fun p => p / 8 == clockIx k) else s1) := by
  subst hs1
  unfold execRefclockQualified
  rw [if_neg (by simp [hk, hao])]

/-- Settles O56: each event of the supply, the clocks and the lifecycle on its occasion. -/
theorem lifecycleEventsAct : Obligations.LifecycleEventsAct := by
  unfold Obligations.LifecycleEventsAct
  intro s low p straps port l k d addr
  refine ⟨fun s1 hs1 => ?quiesceN, fun c hst hbusy hrunning s1 s2 => execQuiesceDeadline_of_running hst hbusy hrunning,
    fun hst hquiet r hr => ⟨_, execEnterQuiesced_of_drained hst hquiet hr, ?quiesced⟩, fun hvin => ⟨_, execVinPresent_of_absent hvin straps rfl, ?vin⟩,
    fun hvin => ⟨?vinStays, ?vinLost, rfl, rfl⟩, fun s1 hs1 => ⟨fun hvin hao => execAoRef25mPresent_of_reset hvin hao hs1,
    fun h => execAoRef25mPresent_of_other h hs1⟩, fun s1 hs1 => ?perst, rfl, fun x hx hexists hmode => ⟨fun hclock hup =>
    execPe1PerstRelease_of_held hx hexists hmode hup hclock, fun hup hgeneration hcxl hreleased q =>
    execPcieLinkUp_pe1 hx hexists hmode hup hgeneration hcxl hreleased⟩, execPcieLinkUp_pe0, fun hk hao s1 => execRefclockQualified_of_up hk hao,
    fun hao => ⟨fun hfree hlen => ?lease4, fun hfree hlen => ?lease6, ?entdaa⟩⟩
  case quiesceN =>
    subst hs1
    change execQuiesceN low s = _
    unfold execQuiesceN
    split <;> rfl
  case quiesced =>
    obtain ⟨since, hdev⟩ := State.toDevState_dev ({ r.1 with dev := { r.1.dev with quiesceReport := BitVec.ofNat 256 (quiesceReport s.dev.quiesceAt s.now
      s.dev.quiesceKilled r.2 (r.1.coh.dir.countP fun e => e.2.st == .l)) } } : State) .quiesced
    rw [State.toDevState_mem, hdev]
    exact ⟨rfl, rfl, rfl⟩
  case vin =>
    obtain ⟨since, hdev⟩ := State.toDevState_dev ({ s with dev := { s.dev with
      vin := true, aoUp := s.dev.clocks.getD 4 false, straps := straps, resetAt := s.now } } : State) .booting
    split
    · refine ⟨?_, ?_, ?_, ?_, State.toDevState_mem _ _⟩ <;> exact hdev ▸ rfl
    · refine ⟨?_, ?_, ?_, ?_, State.toDevState_mem _ _⟩ <;> exact hdev ▸ rfl
  case vinStays =>
    change execVinPresent straps s = _
    rw [execVinPresent, if_pos hvin]
  case vinLost =>
    change execVinAbsent s = _
    rw [execVinAbsent, if_pos hvin]
  case perst =>
    subst hs1
    rfl
  case lease4 =>
    change execMgmtAddressLease false d s = _
    simp [execMgmtAddressLease, hao, hfree, hlen]
  case lease6 =>
    change execMgmtAddressLease true d s = _
    simp [execMgmtAddressLease, hao, hfree, hlen]
  case entdaa =>
    change execEntdaa addr s = _
    rw [execEntdaa, if_pos hao]

end Sys2Proof.Machine
end


section
/-! PROOF. What accesses to the register space do (R465, R466, R475 to R477, R480, R481): O48. -/

namespace Sys2Proof.Machine
open Sys2Proof

/-! ## Registers -/

/-- While the domains are gated or stopped no access does anything (R409). -/
theorem execRegisterWrite_of_not_powered {s : State} (hpow : s.powered = false) (r : RegAccess) : execRegisterWrite r s = .next s := by
  simp [execRegisterWrite, hpow]

section Access

variable {s : State} {r : RegAccess} (hpow : s.powered = true)
include hpow

/-- An access that is not a core's is refused as unbacked (R466). -/
theorem execRegisterWrite_of_other {agent : Fin 2048} (hother : r.other = some agent) : execRegisterWrite r s =
    .next (s.refuse agent ((0xF00000000000 + r.offset) / 128) (if r.isRead then accRead else accWrite) 4 .demand) := by
  simp only [execRegisterWrite, hpow, hother, Bool.not_true, Bool.false_eq_true, if_false]

variable (hcore : r.other = none)
include hcore

theorem execRegisterWrite_of_window (hlow : 0x10000000 ≤ r.offset) (hhigh : r.offset < 0x30000000) :
    execRegisterWrite r s = .next (s.windowAccess r) := by
  simp only [execRegisterWrite, hpow, hcore, Bool.not_true, Bool.false_eq_true, if_false, hlow, hhigh, and_self, if_true]

variable (hregister : ¬(0x10000000 ≤ r.offset ∧ r.offset < 0x30000000))
include hregister

/-- An access of another size or alignment is discarded, a read answering zeros, and counted (R466). -/
theorem execRegisterWrite_of_bad (hbad : r.size ≠ 8 ∨ r.offset % 8 ≠ 0) : execRegisterWrite r s = .next (s.badAccess r) := by
  simp only [execRegisterWrite, hpow, hcore, Bool.not_true, Bool.false_eq_true, if_false, if_neg hregister, if_pos hbad]

variable (hsize : r.size = 8) (haligned : r.offset % 8 = 0)
include hsize haligned

/-- An aligned access of 8 bytes has the behaviour of its register (R465, R466). -/
theorem execRegisterWrite_write (hwrite : r.isRead = false) : execRegisterWrite r s = .next (s.regWrite r.offset r.value) := by
  have hgood : ¬(r.size ≠ 8 ∨ r.offset % 8 ≠ 0) := by omega
  simp only [execRegisterWrite, hpow, hcore, Bool.not_true, Bool.false_eq_true, if_false, if_neg hregister, if_neg hgood, hwrite]

theorem execRegisterWrite_read (hread : r.isRead = true) (hclaim : claimOf r.offset = none) :
    execRegisterWrite r s = .next ((s.regRead r.offset).1.answer r.offset (leBytes (s.regRead r.offset).2 8)) := by
  have hgood : ¬(r.size ≠ 8 ∨ r.offset % 8 ≠ 0) := by omega
  simp only [execRegisterWrite, hpow, hcore, Bool.not_true, Bool.false_eq_true, if_false, if_neg hregister, if_neg hgood, hread, if_true, hclaim]

theorem execRegisterWrite_claim (hread : r.isRead = true) {k : Nat} {lv : IrqLevel} (hclaim : claimOf r.offset = some (k, lv)) :
    execRegisterWrite r s = .next (s.claimRead k lv) := by
  have hgood : ¬(r.size ≠ 8 ∨ r.offset % 8 ≠ 0) := by omega
  simp only [execRegisterWrite, hpow, hcore, Bool.not_true, Bool.false_eq_true, if_false, if_neg hregister, if_neg hgood, hread, if_true, hclaim]

end Access

section Global

variable (s : State)

/-- The fault queue's consumer count moves up to what is used, and the waiting records are tried again (R296, R475). -/
theorem State.regWrite_fqConsumed {w : W64} {b : W32} (hb : b = w.setWidth 32) (hused : w32Diff b s.fq.ring.consumer ≤ s.fq.ring.used) :
    s.regWrite 0x2000018 w = ({ s with fq := { s.fq with ring := { s.fq.ring with consumer := b } } } : State).tryFq := by
  subst hb
  simp [State.regWrite, State.writeGlobal, State.ringWrite, ringConsume, hused]

theorem State.regRead_resumesIgnored : s.regRead 0x2000028 = (s, satTo 32 s.fq.resumesIgnored) := by
  simp [State.regRead, State.readGlobal]

theorem State.regRead_accessErrors : s.regRead 0x2000030 = (s, satTo 32 s.fq.accessErrors) := by
  simp [State.regRead, State.readGlobal]

/-- The status of a partition (R476). -/
theorem State.regRead_partStatus (k : Fin 8) (hk : s.partExists k = true) :
    s.regRead (0x2010000 + 64 * k) = (s, phaseCode (s.part k).phase + (s.part k).running.getD 0 * 2 ^ 16) := by
  have hix : (0x2010000 + 64 * k.val - 0x2010000) / 64 = k.val := by omega
  have hplace : (0x2010000 + 64 * k.val - 0x2010000) % 64 = 0 := by omega
  have hexists : ¬(8 ≤ k.val ∨ (!s.partExists k) = true) := by simp [hk]
  unfold State.regRead
  rw [if_neg (by omega), if_neg (by omega), if_neg (by omega), if_neg (by omega), if_neg (by omega), if_pos (by omega), State.readPart, hix, hplace]
  rw [if_neg hexists, if_pos rfl]

end Global

/-! ## Node mailboxes -/

section Mailbox

variable {s : State} {mb v : Nat}

theorem State.submitMail_of_busy (hbusy : (s.mail mb).busy = true) :
    s.submitMail mb v = s.setMail mb { s.mail mb with ignored := min (2 ^ 16 - 1) ((s.mail mb).ignored + 1) } := by
  unfold State.submitMail
  rw [if_pos hbusy]
  rfl

variable (hidle : (s.mail mb).busy = false)
include hidle

theorem State.submitMail_without_go (hgo : bitAt v 0 = false) :
    s.submitMail mb v = s.setMail mb { s.mail mb with goWord := BitVec.ofNat 64 (keepBits v [(16, 13), (31, 1)]) } := by
  unfold State.submitMail
  rw [if_neg (by simp [hidle]), if_pos (by simp [hgo])]

/-- A GO write takes a mailbox's request and has it handled (R480). -/
theorem State.submitMail_of_request (hgo : bitAt v 0 = true) (hlow : 1 ≤ (s.mail mb).asked.op.toNat) (hhigh : (s.mail mb).asked.op.toNat ≤ 4)
    (hrequest : (s.mail mb).asked.flags.getLsbD 0 = false) :
    s.submitMail mb v = (s.setMail mb { s.mail mb with
      goWord := BitVec.ofNat 64 (keepBits v [(16, 13), (31, 1)]), done := false, busy := true }).runMail mb (s.mail mb).asked := by
  have hlisted : ¬((s.mail mb).asked.op = 0 ∨ 4 < (s.mail mb).asked.op.toNat ∨ (s.mail mb).asked.flags.getLsbD 0 = true) := by
    rintro (h | h | h)
    · rw [h] at hlow
      exact absurd hlow (by decide)
    · omega
    · rw [hrequest] at h
      exact Bool.false_ne_true h
  have hasked (w : W64) : Mailbox.asked { s.mail mb with goWord := w, done := false, busy := true } = (s.mail mb).asked := by
    simp only [Mailbox.asked]
  unfold State.submitMail
  dsimp only
  rw [if_neg (by simp [hidle]), if_neg (by simp [hgo]), hasked, if_neg hlisted]

end Mailbox

/-! ## The state of a queue pair -/

section QueuePairs

variable {s : State} {b v : Nat} (hmode : s.portMode (s.qpKey b / 1024) = 2) {x : QueuePair} (hx : x = s.qp (s.qpKey b))
include hmode hx

theorem State.writeQpState_of_refused (h : qpStep x.state (bitsOf v 0 3) = false ∨ x.fieldsKept v = false) : s.writeQpState b v = s.regError := by
  subst hx
  unfold State.writeQpState
  dsimp only
  rw [if_neg (by simp [hmode]), if_pos (by simpa using h)]

/-- A pair moves by the steps of R477, its other fields as they are. -/
theorem State.writeQpState_of_step (hstep : qpStep x.state (bitsOf v 0 3) = true) (hfields : x.fieldsKept v = true) (hstate : bitsOf v 0 3 ≠ 4) :
    s.writeQpState b v = s.setQp (s.qpKey b) (x.withState v) := by
  subst hx
  unfold State.writeQpState
  dsimp only
  rw [if_neg (by simp [hmode]), if_neg (by simp [hstep, hfields]), if_neg hstate]

/-- A pair that enters ERROR is flushed (R478). -/
theorem State.writeQpState_error (hrunning : x.state ≠ 4) (hfields : x.fieldsKept v = true) (hstate : bitsOf v 0 3 = 4) :
    s.writeQpState b v = (s.setQp (s.qpKey b) { x with word0 := BitVec.ofNat 64 (setBits x.word0.toNat 0 3 4) }).flushQp (s.qpKey b) := by
  subst hx
  have hstep : qpStep (s.qp (s.qpKey b)).state (bitsOf v 0 3) = true := by simp [qpStep, hstate]
  unfold State.writeQpState
  dsimp only
  rw [if_neg (by simp [hmode]), if_neg (by simp [hstep, hfields]), if_pos hstate, State.errorQp, if_neg hrunning]
  rfl

end QueuePairs

/-! ## Configuration accesses -/

section Config

variable {s : State} {port : Nat} {a : ConfigAcc} (hwf : a.wf = true)
include hwf

/-- An access of a port that is off reads all ones, and a write is discarded (R481). -/
theorem State.configAccess_of_off (hoff : s.pe1On port = false) :
    s.configAccess port a = if a.isWrite then s else s.answer (configBase port + a.offset) (List.replicate a.size 0xFF) := by
  unfold State.configAccess
  dsimp only
  rw [if_neg (by simp [hwf]), if_pos (by simp [hoff])]

variable (hon : s.pe1On port = true)
include hon

/-- The first 4,096 bytes are the root port itself (R481). -/
theorem State.configAccess_of_root (hlow : a.offset < 4096) : s.configAccess port a =
    if a.isWrite then { s with pe1 := s.pe1.set port { s.pe1Port port with
      config := tabPutList 0 (s.pe1Port port).config a.offset (leBytes a.value.toNat a.size) } }
    else s.answer (configBase port + a.offset) ((s.pe1Port port).configBytes a.offset a.size) := by
  unfold State.configAccess
  dsimp only
  rw [if_neg (by simp [hwf]), if_neg (by simp [hon]), if_pos hlow]

/-- Above them an access reaches over the link (R481). -/
theorem State.configAccess_of_link (hhigh : 4096 ≤ a.offset) {t : State} (ht : t = s.ungate (.pcie 1)) : s.configAccess port a =
    if a.isWrite then
      if (s.pe1Port port).linkUp then { t with out := { t.out with io := (configBase port + a.offset, leBytes a.value.toNat a.size) :: t.out.io } } else t
    else t.answer (configBase port + a.offset) (match a.response with
      | some y => if (s.pe1Port port).linkUp then leBytes y.toNat a.size else List.replicate a.size 0xFF
      | none => List.replicate a.size 0xFF) := by
  subst ht
  unfold State.configAccess
  dsimp only
  rw [if_neg (by simp [hwf]), if_neg (by simp [hon]), if_neg (Nat.not_lt.mpr hhigh)] <;> rfl

end Config

/-- A register access in the window of a port that is off reads all ones, and a write there is discarded (R481). -/
theorem State.windowAccess_of_off {s : State} {r : RegAccess} (hlow : 0x10000000 ≤ r.offset) (hmode : s.pe1Mode (r.offset / 0x10000000 - 1) = 0)
    (hsize : r.size = 1 ∨ r.size = 2 ∨ r.size = 4) (haligned : r.offset % r.size = 0) :
    s.windowAccess r = if r.isRead then ({ s with freeIx := s.freeIx + 1 } : State).answer r.offset (List.replicate r.size 0xFF) else s := by
  have hplace : configBase (r.offset / 0x10000000 - 1) + r.offset % 0x10000000 = r.offset := by
    unfold configBase
    omega
  have hdivides : r.offset % 0x10000000 % r.size = 0 := by
    rcases hsize with h | h | h <;> rw [h] at haligned ⊢ <;> omega
  have hwf (w : Bool) (v : BitVec 32) (z : Option (BitVec 32)) : ConfigAcc.wf ⟨r.offset % 0x10000000, r.size, w, v, z⟩ = true := by
    simp only [ConfigAcc.wf, hdivides, beq_self_eq_true, Bool.and_true]
    rcases hsize with h | h | h <;> simp [h]
  have hoff (t : State) (ht : t.pe1Mode (r.offset / 0x10000000 - 1) = 0) : t.pe1On (r.offset / 0x10000000 - 1) = false := by
    simp [State.pe1On, ht]
  unfold State.windowAccess
  dsimp only
  cases hread : r.isRead with
  | true =>
    rw [if_pos rfl, if_pos rfl, State.configAccess_of_off (hwf ..) (hoff s.free.2 hmode)]
    dsimp only
    rw [hplace]
    rfl
  | false =>
    rw [if_neg Bool.false_ne_true, if_neg Bool.false_ne_true, State.configAccess_of_off (hwf ..) (hoff s hmode)]
    rfl

/-- Settles O48: the access rules of R466, and the registers, mailboxes, queue pairs and configuration windows behind them. -/
theorem registerAccessesAct : Obligations.RegisterAccessesAct := by
  unfold Obligations.RegisterAccessesAct
  refine ⟨fun s r mb lb v port a hpow => ⟨execRegisterWrite_of_not_powered hpow r, State.whenPowered_of_not_powered (fun t => t.submitMail mb v.toNat) hpow,
    State.whenPowered_of_not_powered (fun t => t.writeQpState lb v.toNat) hpow, State.whenPowered_of_not_powered (fun t => t.configAccess port a) hpow⟩, ?_⟩
  intro s r mb lb v port a hpow
  have hmail : exec (.mailboxGo mb v) s = .next (s.submitMail mb v.toNat) := State.whenPowered_of_powered (fun t => t.submitMail mb v.toNat) hpow
  have hqp : exec (.qpStateWrite lb v) s = .next (s.writeQpState lb v.toNat) := State.whenPowered_of_powered (fun t => t.writeQpState lb v.toNat) hpow
  have hconfig : exec (.configAccess port a) s = .next (s.configAccess port a) := State.whenPowered_of_powered (fun t => t.configAccess port a) hpow
  rw [hmail, hqp, hconfig]
  refine ⟨fun hcore hregister => ⟨fun hsize haligned => ⟨fun hwrite => ?write, fun hread hclaim => ?read, fun k lv hread hclaim =>
    execRegisterWrite_claim hpow hcore hregister hsize haligned hread hclaim⟩, fun hbad t ht => ?bad⟩, fun agent => execRegisterWrite_of_other hpow,
    fun hbusy => congrArg _ (State.submitMail_of_busy hbusy), fun hgo hidle hlow hhigh hrequest => congrArg _ (State.submitMail_of_request hidle hgo hlow
    hhigh hrequest), fun hgo hidle => congrArg _ (State.submitMail_without_go hidle hgo), fun hmode x hx => ⟨fun h => congrArg _
    (State.writeQpState_of_refused hmode hx h), fun hstep hfields hstate => congrArg _ (State.writeQpState_of_step hmode hx hstep hfields hstate),
    fun hrunning hfields hstate => congrArg _ (State.writeQpState_error hmode hx hrunning hfields hstate)⟩, fun hwf off hoff => ?config,
    fun hcore hlow hhigh hmode hsize haligned => ?window⟩
  case write =>
    have hexec := execRegisterWrite_write hpow hcore hregister hsize haligned hwrite
    refine ⟨hexec, fun b hoffset hb hused => hexec.trans (congrArg _ ?_)⟩
    rw [hoffset]
    exact s.regWrite_fqConsumed hb hused
  case read =>
    have hexec := execRegisterWrite_read hpow hcore hregister hsize haligned hread hclaim
    refine ⟨hexec, fun hoffset => ?_, fun hoffset => ?_, fun k hoffset hk => ?_⟩
    · exact hexec.trans (by rw [hoffset, State.regRead_resumesIgnored])
    · exact hexec.trans (by rw [hoffset, State.regRead_accessErrors])
    · exact hexec.trans (by rw [hoffset, s.regRead_partStatus k hk])
  case bad =>
    subst ht
    exact execRegisterWrite_of_bad hpow hcore hregister hbad
  case config =>
    subst hoff
    refine ⟨fun hon hlow => ?root, fun hon hhigh t ht => ?link, fun hoff => congrArg _ (State.configAccess_of_off hwf hoff)⟩
    case root =>
      rw [State.configAccess_of_root hwf hon hlow]
      exact ⟨fun hwrite => by rw [if_pos hwrite], fun hread => by rw [hread, if_neg Bool.false_ne_true]; rfl⟩
    case link =>
      rw [State.configAccess_of_link hwf hon hhigh ht]
      refine ⟨fun hwrite hup => ?_, fun hwrite hdown => ?_, fun y hread hy hup => ?_, fun hread hnone => ?_⟩
      · rw [if_pos hwrite, if_pos hup]
        rfl
      · rw [if_pos hwrite, hdown, if_neg Bool.false_ne_true]
      · rw [hread, if_neg Bool.false_ne_true, hy]
        dsimp only
        rw [if_pos hup]
        rfl
      · rw [hread, if_neg Bool.false_ne_true]
        rcases hnone with hnone | hdown
        · rw [hnone]
          rfl
        · cases a.response with
          | none => rfl
          | some y =>
            dsimp only
            rw [hdown, if_neg Bool.false_ne_true]
            rfl
  case window =>
    exact (execRegisterWrite_of_window hpow hcore hlow hhigh).trans (congrArg _ (State.windowAccess_of_off hlow hmode hsize haligned))

end Sys2Proof.Machine
end
